-- ==== Sys2Proof/Word.lean ====
section
/-! DEFINITION. The byte and word types of the VRX-1620 model, and the plainest arithmetic on them. -/

namespace Sys2Proof

/-- One byte of a frame, a descriptor, an image or a key. -/
abbrev Byte := BitVec 8

/-- A run of bytes; the first of the list is the byte at the lowest offset. -/
abbrev Bytes := List Byte

/-- A counter that is `width` bits wide and saturates (00, 18 R522). -/
def satAdd (width n k : Nat) : Nat := min (n + k) (2 ^ width - 1)

/-- Quotient rounded up. -/
def ceilDiv (n d : Nat) : Nat := if d = 0 then 0 else (n + d - 1) / d

end Sys2Proof
end

