-- ==== Sys2Proof/Machine/Bits.lean ====
section
/-! DEFINITION. Byte order, bit fields, checksums, and the sparse tables and fixed-length lists that State is built
of. -/

namespace Sys2Proof.Machine

/-- The number that a run of bytes holds, least significant byte first (00 R5). -/
def leNat : Bytes → Nat
  | [] => 0
  | b :: bs => b.toNat + 256 * leNat bs

/-- The `k` bytes of `n`, least significant byte first; higher bits are dropped. -/
def leBytes : Nat → Nat → Bytes
  | _, 0 => []
  | n, k + 1 => BitVec.ofNat 8 n :: leBytes (n / 256) k

/-- The number that a run of bytes holds, most significant byte first (network order, 00 R5). -/
def beNat (bs : Bytes) : Nat := bs.foldl (fun a b => a * 256 + b.toNat) 0

/-- The `k` bytes of `n` in network order. -/
def beBytes (n k : Nat) : Bytes := (leBytes n k).reverse

/-- `len` bytes from `off`; bytes past the end read as zero. -/
def bytesAt (bs : Bytes) (off len : Nat) : Bytes :=
  let t := (bs.drop off).take len
  t ++ List.replicate (len - t.length) 0

/-- The little-endian field of `len` bytes at `off`. -/
def leAt (bs : Bytes) (off len : Nat) : Nat := leNat (bytesAt bs off len)

/-- The network-order field of `len` bytes at `off`. -/
def beAt (bs : Bytes) (off len : Nat) : Nat := beNat (bytesAt bs off len)

/-- `bs` with the bytes from `off` replaced by `v`. -/
def putBytes (bs : Bytes) (off : Nat) (v : Bytes) : Bytes :=
  bs.take off ++ v ++ bs.drop (off + v.length)

/-- `bs` cut or filled with zeros to `n` bytes. -/
def padTo (n : Nat) (bs : Bytes) : Bytes := bytesAt bs 0 n

/-- `n` zero bytes. -/
def zeros (n : Nat) : Bytes := List.replicate n 0

/-- Whether every byte is zero. -/
def allZero (bs : Bytes) : Bool := bs.all (· == 0)

/-- Bits `hi` down to `lo` of `n`. -/
def bitsOf (n hi lo : Nat) : Nat := n / 2 ^ lo % 2 ^ (hi + 1 - lo)

/-- Bit `i` of `n`. -/
def bitOf (n i : Nat) : Bool := n.testBit i

/-- 1 for true, 0 for false. -/
def b2n (b : Bool) : Nat := if b then 1 else 0

/-- The number `n` of `w` bits read as two's complement. -/
def toSigned (w n : Nat) : Int := if n < 2 ^ (w - 1) then n else (n : Int) - 2 ^ w

/-- The two's complement of `z` in `w` bits. -/
def ofSigned (w : Nat) (z : Int) : Nat := (z % (2 ^ w : Int)).toNat

/-- `a` with every bit of its bytes inverted. -/
def invBytes (a : Bytes) : Bytes := a.map (~~~ ·)

/-- Bytewise exclusive or, as long as the shorter. -/
def xorBytes (a b : Bytes) : Bytes := List.zipWith (· ^^^ ·) a b

/-- The number of set bits in the low `w` bits of `n`. -/
def popCount (w n : Nat) : Nat := ((List.range w).filter (bitOf n)).length

/-- One bit of a reflected CRC with polynomial `poly`. -/
def crcBit {w : Nat} (poly c : BitVec w) : BitVec w := if c.getLsbD 0 then (c >>> 1) ^^^ poly else c >>> 1

/-- Eight bits of a reflected CRC over one byte. -/
def crcByte {w : Nat} (poly c : BitVec w) (b : Byte) : BitVec w :=
  let f := crcBit poly
  f (f (f (f (f (f (f (f (c ^^^ b.setWidth w))))))))

/-- CRC-32C: polynomial 0x1EDC6F41, reflected, register started and inverted at ones (06 R169). -/
def crc32c (bs : Bytes) : BitVec 32 := ~~~ (bs.foldl (crcByte 0x82F63B78#32) (BitVec.allOnes 32))

/-- The Ethernet frame check sequence CRC-32 of IEEE 802.3. -/
def crc32 (bs : Bytes) : BitVec 32 := ~~~ (bs.foldl (crcByte 0xEDB88320#32) (BitVec.allOnes 32))

/-- A sparse table: entries in strictly rising key order; what is not listed reads as the default the reader names. -/
abbrev Tbl (α : Type) := List (Nat × α)

/-- The entry at `k`, or `d`. -/
def Tbl.get {α : Type} (d : α) (k : Nat) : Tbl α → α
  | [] => d
  | (k', v) :: t => if k' = k then v else Tbl.get d k t

/-- The entry at `k`, if there is one. -/
def Tbl.find {α : Type} (k : Nat) : Tbl α → Option α
  | [] => none
  | (k', v) :: t => if k' = k then some v else Tbl.find k t

/-- The table without an entry at `k`. -/
def Tbl.drop {α : Type} (k : Nat) : Tbl α → Tbl α
  | [] => []
  | (k', v) :: t => if k' = k then Tbl.drop k t else (k', v) :: Tbl.drop k t

/-- The table with `v` at `k`. -/
def Tbl.put {α : Type} (k : Nat) (v : α) : Tbl α → Tbl α
  | [] => [(k, v)]
  | (k', v') :: t =>
    if k < k' then (k, v) :: (k', v') :: t
    else if k = k' then (k, v) :: t
    else (k', v') :: Tbl.put k v t

/-- `v` written at `k`; writing the default removes the entry. -/
def Tbl.set {α : Type} [DecidableEq α] (d : α) (k : Nat) (v : α) (t : Tbl α) : Tbl α :=
  if v = d then Tbl.drop k t else Tbl.put k v t

/-- The keys rise strictly. -/
def Tbl.rising {α : Type} : Tbl α → Bool
  | [] => true
  | [_] => true
  | (k, _) :: (k', v') :: t => decide (k < k') && Tbl.rising ((k', v') :: t)

/-- The canonical form: rising keys and no entry equal to the default. -/
def Tbl.wf {α : Type} [DecidableEq α] (d : α) (t : Tbl α) : Bool :=
  Tbl.rising t && t.all (fun e => decide (e.2 ≠ d))

/-- Element `i` of a fixed-length list replaced by `f` of it. -/
def modAt {α : Type} (l : List α) (i : Nat) (f : α → α) : List α := l.modify i f

/-- A list without the elements that `p` picks. -/
def without {α : Type} (p : α → Bool) (l : List α) : List α := l.filter (fun x => !p x)

/-- The first element that `p` picks replaced by `f` of it. -/
def modFirst {α : Type} (p : α → Bool) (f : α → α) : List α → List α
  | [] => []
  | x :: xs => if p x then f x :: xs else x :: modFirst p f xs

/-- Every element that `p` picks replaced by `f` of it. -/
def modAll {α : Type} (p : α → Bool) (f : α → α) (l : List α) : List α := l.map (fun x => if p x then f x else x)

/-- `l` cut into runs of `k` elements; the last may be short. -/
def chunks {α : Type} (k : Nat) (l : List α) : List (List α) :=
  (List.range ((l.length + k - 1) / k)).map (fun i => (l.drop (i * k)).take k)

/-- `f` applied `n` times. -/
def iter {α : Type} (f : α → α) : Nat → α → α
  | 0, a => a
  | n + 1, a => iter f n (f a)

end Sys2Proof.Machine
end

