-- ==== Sys2Proof/Syntax.lean ====
section
/-! DEFINITION. The commands of the block: one constructor of `Instr` for each row of spec/opcode_table.json, with
the row's operands. The table gives no row any bits, so the operands are those that the spec's own tables give the
command (14), or what an event of the device carries. -/

namespace Sys2Proof

/-- The header of a host command as the command processor takes it: the issuing domain (0 to 31, 32 for DM), the
ring record that carried it (0 CMDQ, 3 to 6 LKQ0 to LKQ3), the tag, the CRC-32C of the 64 descriptor bytes, and
whether a reserved byte or an operand encoding is invalid (14 R429, R434, R436). -/
structure Hdr where
  dom : Nat
  ring : Nat
  tag : BitVec 32
  crc : BitVec 32
  bad : Bool
deriving DecidableEq, Repr

/-- The operands of every STAGE_* command (14 R442): `image` is the image, INLINE or read at IMAGE_IOVA. -/
structure StageOps where
  index : Nat
  action : Nat
  isInline : Bool
  force : Bool
  length : Nat
  imageIova : Nat
  image : Bytes
deriving DecidableEq, Repr

/-- What TBL_SEARCH names (14, table opcodes). -/
inductive SearchOp where
  | mac (service fid mac : Nat)
  | lpm (service family addr : Nat)
  | channel (index : Nat)
deriving DecidableEq, Repr

/-- The operands common to KEY_GENERATE, KEY_IMPORT, KEY_DERIVE and KEY_WRITE_CLEAR (14, key operands). -/
structure KeyOps where
  handle : Nat
  attr : BitVec 8
  parent : Nat
  slot : Nat
  ownerTag : Bytes
  blobIova : Nat
deriving DecidableEq, Repr

/-- The operands of TBL_NEXT (14, table opcodes). -/
structure NextOps where
  cursor : Nat
  allServices : Bool
  allPorts : Bool
  select : Nat
  service : Nat
  port : Nat
  iova : Nat
deriving DecidableEq, Repr

/-- The operands of TB_STEP (14, time operands). -/
structure StepOps where
  tb : Nat
  subtract : Bool
  force : Bool
  newInc : Bool
  seconds : Nat
  nanos : Nat
  fraction : Nat
  incWhole : Nat
  incFrac : Nat
  iova : Nat
deriving DecidableEq, Repr

/-- A lookaside job descriptor (10 R318), with what host memory holds at its SRC, AUX and STATE buffers. -/
structure LkJob where
  dir : Bool
  cont : Bool
  more : Bool
  fence : Bool
  handle : Nat
  paramA : Nat
  length : Nat
  src : Nat
  dst : Nat
  aux : Nat
  auxLen : Nat
  stateIova : Nat
  paramB : Nat
  iv : Bytes
  srcData : Bytes
  auxData : Bytes
  stateData : Bytes
deriving DecidableEq, Repr

/-- A doorbell record as read: HOST_INDEX and EPOCH (13 R399). -/
structure DbRec where
  hostIndex : BitVec 32
  epoch : BitVec 32
deriving DecidableEq, Repr

/-- What a returning DMA read or table walk serves (13 R386, R414): a command, a key miss, the fetch of a ring's next
descriptor, or a walk or the record read of the ring structures. -/
inductive DmaTarget where
  | work (ring : Nat) (tag : BitVec 32)
  | keyMiss (slice record : Nat)
  | descriptor (ring : Nat)
  | ringStructure
deriving DecidableEq, Repr

/-- The straps sampled at START_UP (13 R383, 03 R63), and what the start finds on the board and in the part. -/
structure StartOps where
  portmap0 : Nat
  portmap1 : Nat
  pcieBif : Nat
  bist : List Bool
  bootFwOk : List Bool
deriving DecidableEq, Repr

/-- What a PCIe configuration write changes (13 R385, R386, R387). -/
inductive PcieCfg where
  | busMaster (on : Bool)
  | powerState (d3hot : Bool)
  | completionTimeout (ns : Nat)
  | maxPayload (bytes : Nat)
  | maxReadRequest (bytes : Nat)
  | tags10 (on : Bool)
  | ecrc (generate check : Bool)
  | aerMasks (uncorrectable correctable : BitVec 32)
deriving DecidableEq, Repr

/-- A write that a string presents to the soundpost (15 R450). -/
structure StringWrite where
  target : Nat
  addr : Nat
  data : Nat
  enables : Nat
deriving DecidableEq, Repr

/-- A word that a functional read, or the read of a scrub burst, finds in error: the memory class (row of the table of 15 R464),
the object the word belongs to, the stored bits that have turned (15 R463), and the frame that read it. -/
structure MemError where
  cls : Nat
  obj : Nat
  flips : BitVec 79
  reader : Option Nat := none
deriving DecidableEq, Repr

/-- The shadowed policy registers (15 R467); and the state registers of the key manager, the vault controller and the life-cycle
controller, 0 to 2, with the code that one is found to hold (15 R468). -/
inductive ShadowReg where
  | secMode (port : Nat)
  | rxForward (port : Nat)
  | tcamAction (slice entry : Nat)
  | defaultAction (port : Nat)
  | recircAction (slice : Nat)
  | smvPayload (slice : Nat)
  | keyMode (slice : Nat)
  | grants (dom : Nat)
  | quota (dom : Nat)
  | dtuMode (dom : Nat)
  | stateCode (machine : Nat) (code : BitVec 8)
deriving DecidableEq, Repr

/-- What the receiver of a lane has counted since it last said: codewords corrected and uncorrectable, symbols corrected
(03 R65), BIP-8 mismatches and lane markers not matched (03 R69). -/
structure LaneErrs where
  lane : Nat
  corrected : Nat
  uncorrectable : Nat
  symbols : Nat
  bip : Nat
  markers : Nat
deriving DecidableEq, Repr

/-- PCS blocks that a CBR host port has received, 9 bytes each as an element carries them (04 R105). -/
structure CbrBlocks where
  port : Nat
  blocks : Bytes
deriving DecidableEq, Repr

/-- A group's next frame, and what its CBR host ports have received since the frame before (04 R105). -/
structure SmvTx where
  slice : Nat
  cbr : List CbrBlocks := []
deriving DecidableEq, Repr

/-- What the sense ball of an enclosure loop reads after each of a sample's three drives: 1, 0 and the next bit of the loop's
sequence (16 R476). -/
structure LoopReads where
  afterOne : Bool
  afterZero : Bool
  afterBit : Bool
deriving DecidableEq, Repr

/-- An edge of a time pin: thirty-seconds of a TCLK period since the last TCLK edge, and how long the pin then keeps its level, in
ps (11 R343). -/
structure PinPulse where
  phase : Nat
  width : Nat
deriving DecidableEq, Repr

/-- Where a frame's stamp is taken: thirty-seconds of a TCLK period since the last TCLK edge, and which of the port's lanes, from
its first on, carries the block that holds the SFD (11 R346). -/
structure RxStamp where
  phase : Nat
  lane : Nat := 0
deriving DecidableEq, Repr

/-- One sample of the backup domain (16 R472, R475, R476, R485): the two loops, the sensors, the SMCLK cycles counted in its 32
ticks, and the code in the state register of the vault controller. -/
structure BackupSample where
  loop0 : LoopReads
  loop1 : LoopReads
  coarseTemp : Int
  vbatMv : Nat
  smclkCycles : Nat
  vaultCode : BitVec 8
deriving DecidableEq, Repr

/-- The commands of the block, one for each row of the table. -/
inductive Instr where
  -- staging (14 R442 to R444)
  | stageDiscard (h : Hdr) (op : StageOps)
  | stageFret (h : Hdr) (op : StageOps)
  | stageDomainMap (h : Hdr) (op : StageOps)
  | stageQuota (h : Hdr) (op : StageOps)
  | stagePortLayout (h : Hdr) (op : StageOps)
  | stageLane (h : Hdr) (op : StageOps)
  | stageFaultMirror (h : Hdr) (op : StageOps)
  | stageMgmtPort (h : Hdr) (op : StageOps)
  | stageSmvGroup (h : Hdr) (op : StageOps)
  | stageParseNode (h : Hdr) (op : StageOps)
  | stageParseTrans (h : Hdr) (op : StageOps)
  | stageParsePattern (h : Hdr) (op : StageOps)
  | stageParsePort (h : Hdr) (op : StageOps)
  | stageRecirc (h : Hdr) (op : StageOps)
  | stagePunt (h : Hdr) (op : StageOps)
  | stageKeyProfile (h : Hdr) (op : StageOps)
  | stageTcam (h : Hdr) (op : StageOps)
  | stageClsPort (h : Hdr) (op : StageOps)
  | stageService (h : Hdr) (op : StageOps)
  | stageLpm (h : Hdr) (op : StageOps)
  | stageChannel (h : Hdr) (op : StageOps)
  | stageMacsecPort (h : Hdr) (op : StageOps)
  | stageSecy (h : Hdr) (op : StageOps)
  | stageTxSc (h : Hdr) (op : StageOps)
  | stageRxSc (h : Hdr) (op : StageOps)
  | stageSa (h : Hdr) (op : StageOps)
  | stageLlPair (h : Hdr) (op : StageOps)
  | stageBlobTable (h : Hdr) (op : StageOps)
  | stagePark (h : Hdr) (op : StageOps)
  | stageStampPort (h : Hdr) (op : StageOps)
  | stageTimePin (h : Hdr) (op : StageOps)
  | stageTimeGlobal (h : Hdr) (op : StageOps)
  | stageEgressPort (h : Hdr) (op : StageOps)
  | stageQueue (h : Hdr) (op : StageOps)
  | stageGateList (h : Hdr) (op : StageOps)
  | stageMeter (h : Hdr) (op : StageOps)
  | stageTrustMap (h : Hdr) (op : StageOps)
  -- commit
  | check (h : Hdr)
  | armCommit (h : Hdr) (target : Nat) (asap : Bool)
  | armCopyDone (dom : Nat)
  | cancelCommit (h : Hdr)
  | cancelRewriteDone (dom : Nat)
  | standingSave (h : Hdr)
  | standingClear (h : Hdr)
  -- tables
  | tblInsert (h : Hdr) (service fid mac peer port : Nat) (isStatic : Bool)
  | tblDelete (h : Hdr) (service fid mac : Nat)
  | tblSearch (h : Hdr) (op : SearchOp)
  | tblNext (h : Hdr) (op : NextOps)
  | tblFlushPort (h : Hdr) (port : Nat) (statics : Bool)
  -- keys
  | keyGenerate (h : Hdr) (k : KeyOps)
  | keyImport (h : Hdr) (k : KeyOps) (kek form iova length : Nat) (data : Bytes)
  | keyDerive (h : Hdr) (k : KeyOps) (source iova labelLen contextLen : Nat) (data : Bytes)
  | keyWriteClear (h : Hdr) (k : KeyOps) (sealed : Bool) (iova : Nat) (data : Bytes)
  | keyPin (h : Hdr) (handle slot blobIova : Nat) (blob : Bytes)
  | keyUnpin (h : Hdr) (slot : Nat)
  | keyEvict (h : Hdr) (handle : Nat)
  | keyExport (h : Hdr) (handle kek form iova : Nat)
  | keyParentBind (h : Hdr) (entry slot : Nat)
  | keyRevoke (h : Hdr) (entry : Nat)
  | keyDomainRoll (h : Hdr) (target : Nat)
  | keyStatus (h : Hdr) (kind ident : Nat)
  | keyMgmtSet (h : Hdr) (keyId form kek iova length : Nat) (data : Bytes)
  -- security associations and Smivia epochs
  | saInit (h : Hdr) (sa pn threshold : Nat)
  | saEnable (h : Hdr) (sa : Nat)
  | saDisable (h : Hdr) (sa : Nat)
  | saSetLowestPn (h : Hdr) (sa pn : Nat)
  | saRead (h : Hdr) (sa iova : Nat)
  | saSmvArm (h : Hdr) (slice epoch txHandle rxHandle target : Nat)
  | saSmvCancel (h : Hdr) (slice : Nat)
  | saSmvRead (h : Hdr) (slice iova : Nat)
  | saSmvStop (h : Hdr) (slice : Nat)
  -- time
  | tbInc (h : Hdr) (tb whole fraction : Nat)
  | tbStep (h : Hdr) (op : StepOps)
  | tbRead (h : Hdr) (tb iova : Nat)
  | tbApply (tb : Nat)
  -- counters and dumps
  | cntRead (h : Hdr) (first count : Nat) (clear : Bool) (iova : Nat)
  | cntLaneRead (h : Hdr) (lane : Nat) (clear : Bool)
  | cntSelect (h : Hdr) (counter event qualifier : Nat)
  | dumpConfig (h : Hdr) (period mask : Nat)
  -- firmware
  | fwBegin (h : Hdr) (slot length : Nat)
  | fwBlock (h : Hdr) (slot offset iova length : Nat) (data : Bytes)
  | fwVerify (h : Hdr) (slot : Nat)
  | fwSchedule (h : Hdr) (slot target : Nat)
  | fwCancel (h : Hdr) (slot : Nat)
  | fwStatus (h : Hdr) (iova : Nat)
  | fwRevert (h : Hdr)
  -- life cycle and tamper
  | lcStatus (h : Hdr) (iova : Nat)
  | lcTransition (h : Hdr) (target iova length : Nat) (data : Bytes)
  | lcSetSupervisor (h : Hdr) (target : Nat)
  | lcDebugScrub (h : Hdr) (iova length : Nat) (data : Bytes)
  | tamperConfig (h : Hdr) (alarm cls : Nat) (low high : Int)
  | tamperClear (h : Hdr) (mask : Nat)
  | tamperLogRead (h : Hdr) (first count iova : Nat)
  -- resumption
  | resume (h : Hdr) (kind unit : Nat) (what : BitVec 32)
  | abort (h : Hdr) (kind unit : Nat) (what : BitVec 32)
  -- lookaside
  | lkCbc (h : Hdr) (j : LkJob)
  | lkCtr (h : Hdr) (j : LkJob)
  | lkCfb (h : Hdr) (j : LkJob)
  | lkGcm (h : Hdr) (j : LkJob)
  | lkCmac (h : Hdr) (j : LkJob)
  | lkWrap (h : Hdr) (j : LkJob)
  | lkUnwrap (h : Hdr) (j : LkJob)
  | lkKdf (h : Hdr) (j : LkJob)
  | lkHash (h : Hdr) (j : LkJob)
  | lkVerify (h : Hdr) (j : LkJob)
  | lkSegmentEnd (core : Nat)
  | pkOpDone
  -- registers and rings
  | registerWrite (ep slot offset width : Nat) (value : BitVec 64)
  | domainReset (ep slot : Nat)
  | domainResetDone (dom : Nat)
  | ringEnable (ep slot ring : Nat)
  | ringDisable (ep slot ring : Nat)
  | dtuModeWrite (ep slot mode : Nat)
  | dtuInval (ep slot : Nat) (all : Bool) (page : Nat)
  | dtuInvalDone (dom : Nat)
  | dtuErrClear (ep slot : Nat)
  | msixVectorUnmask (ep vector : Nat)
  | msixHoldoffExpiry (dom source : Nat)
  | doorbellPoll (dom : Nat)
  | doorbellRecordRead (dom : Nat) (recs : List DbRec)
  | descriptorFetchDone (dom ring : Nat) (ok : Bool) (desc data aux stateRec : Bytes)
  | dmaReadCompletion (dom : Nat) (target : DmaTarget) (walk : List (BitVec 64)) (ok : Bool)
  | dmaCompletionTimeout (dom : Nat) (target : DmaTarget)
  | commandSuspendTimeout (dom ring : Nat) (tag : BitVec 32)
  | pcieFlr (ep : Nat)
  | pcieLinkDown (ep : Nat)
  | perstNAssert (ep : Nat)
  -- management ports
  | hemunerCommandFrame (port : Nat) (frame : Bytes)
  | hemunerAckFrame (port : Nat) (frame : Bytes)
  | hemunerOtherFrame (port : Nat) (frame : Bytes)
  | announceTimer
  | dmEventResend (index : BitVec 32)
  | mgSyncLoss (port : Nat) (receiving : Bool)
  | mgSyncAcquired (port : Nat)
  -- frets, banks, gates, ageing
  | fretBoundary
  | ctlLossHoldReached
  | bankRelease
  | gateSwitch (port : Nat)
  | gateEntryChange (port : Nat)
  | ageScanEnd
  -- frames
  | frameIngress (id : Nat)
  | portRxFrame (port : Nat) (frame : Bytes) (fcsOk : Bool) (stamp : RxStamp) (errs : List LaneErrs)
  | parseComplete (id : Nat)
  | puntEntryWrite (slice : Nat)
  | classifyComplete (id : Nat)
  | cipherStageEntry (id : Nat)
  | cipherStageExit (id : Nat)
  | frameEndArrival (id : Nat)
  | rxConfirmation (id : Nat)
  | recircTimeout (id : Nat)
  | transmissionSelection (port : Nat)
  | frameTxDone (port : Nat)
  | egressUnderrun (port : Nat)
  | llRelease (id : Nat)
  | onestepLaunch (id : Nat)
  -- key misses and slots
  | blobReadCompletion (slice record : Nat) (walk : List (BitVec 64)) (ok : Bool) (blob : Bytes)
  | keyInstall (slice record : Nat)
  | missRecordRelease (slice record : Nat)
  | parkTimeout (id : Nat)
  | suspendedFetchAbort (slice record : Nat)
  | zeroingDone (slot : Nat)
  -- bridge and learning
  | bridgeMessageRx (slice : Nat) (uncorrectable : Bool)
  | learnProposalProcess (slice : Nat)
  | orderCacheRetire (slice : Nat)
  -- Smivia
  | smvFrameTx (tx : SmvTx)
  | smvFrameRx (slice : Nat) (frame : Bytes) (badBlocks : Nat) (fasUncorrectable : Bool) (position : Nat) (errs : List LaneErrs)
  | smvFrameConfirm (slice : Nat)
  | smvDefectDeclare (slice defect : Nat)
  | smvDefectHoldoffExpiry (slice defect : Nat)
  | smvDefectClear (slice defect : Nat)
  | pairMessageAssembled (slice : Nat)
  | pairTimeout (slice : Nat)
  | pairBackoffExpiry (slice : Nat)
  | rekeyIntervalExpiry (slice : Nat)
  -- lanes
  | laneAcquired (lane : Nat)
  | laneAdaptDone (lane gearboxPs : Nat)
  | laneAligned (lane : Nat) (inverted : Bool) (position groupTag laneCount skewNs : Nat)
  | laneAlignTimeout (lane : Nat)
  | laneRetryTimer (lane : Nat)
  | laneLockLoss (lane cause : Nat)
  | laneRelocked (lane : Nat)
  | laneRelockTimeout (lane : Nat)
  | faultMirrorTimer (port : Nat)
  | prbsCheckerLock (lane : Nat) (gained inverted : Bool) (errors : Nat)
  -- time pins and servo
  | timePinEdge (pin : Nat) (rising : Bool) (pulse : PinPulse)
  | timePinOutput (pin : Nat)
  | servoEvent (tb phase : Nat)
  | servoHoldover (tb : Nat)
  -- triple course
  | stringWritePresented (string : Nat) (write : StringWrite)
  | voteWindowExpiry
  | stringFaultReport (string : Nat)
  | stringWatchdogExpiry (string : Nat)
  | stringBistDone (string : Nat) (pass : Bool)
  | resyncComplete (copiesEqual : Bool)
  | courseRestartTimer
  | courseRestartDone (pass : List Bool)
  -- firmware activation, memories
  | fwStepDone
  | fwTrialEnd
  | scrubBurst (found : List MemError)
  | shadowMismatch (reg : ShadowReg)
  -- monitors
  | tempSample (celsius : Int)
  | railHigh (rail mv : Nat)
  | railLow (rail mv : Nat)
  | railRecovered (rail mv : Nat)
  | railLowTimeout (rail : Nat)
  | railWarningTimer (rail mv : Nat)
  | clockCheckWindow (clock cycles : Nat)
  | loopSample (loop : Nat) (reads : LoopReads)
  | vbatSample (mv : Nat)
  | backupSample (b : BackupSample)
  | tamperLogCopy
  -- power governor, life cycle, resets
  | leaveGrant
  | governorSample (ma : Nat)
  | lcJournalStep
  | lcResetTimer
  | powerOnReset
  | pwrdnNFall
  | startUp (op : StartOps)
  | pcieLinkUp (ep : Nat)
  | pcieConfigWrite (ep : Nat) (w : PcieCfg)
  | bkclkStopped
deriving DecidableEq, Repr

end Sys2Proof
end

