-- ==== Sys2Proof/Decode.lean ====
section
/-! DEFINITION. Decoding. The opcode table numbers no bits, so no word of it spells a command; a host command is spelled
by its 64-byte descriptor (14 R429, 10 R318), which is decoded and encoded here from one table of operand fields. -/

namespace Sys2Proof

open Sys2Proof.Machine (leNat leBytes beBytes leAt beAt putBytes zeros b2n toSigned ofSigned crc32c)

/-- The command that a word of the opcode table spells: none, because the table numbers no bits. -/
def decodeTableWord (_nbits _w : Nat) : Option Instr := none

/-- An operand field: first byte, number of bytes, and whether it stands in network order. -/
abbrev Field := Nat × Nat × Bool

def readField (b : Bytes) (f : Field) : Nat := if f.2.2 then beAt b f.1 f.2.1 else leAt b f.1 f.2.1

def writeField (b : Bytes) (x : Field × Nat) : Bytes :=
  putBytes b x.1.1 (if x.1.2.2 then beBytes x.2 x.1.2.1 else leBytes x.2 x.1.2.1)

/-- What a descriptor is made into a command from: its header, FLAGS, operand values, and what host memory holds at its
input, auxiliary and state buffers. -/
structure DescIn where
  h : Hdr
  flags : Nat
  vals : List Nat
  data : Bytes
  aux : Bytes
  state : Bytes

def DescIn.v (x : DescIn) (i : Nat) : Nat := x.vals.getD i 0

/-- One row of the descriptor table: opcode, kind where the layout depends on byte 8, operand fields, command. -/
structure DescRow where
  op : Nat
  kind : Option Nat := none
  fields : List Field
  make : DescIn → Instr

/-- OPCODE, FLAGS and TAG (14 R429). -/
def headFields : List Field := [(0, 2, false), (2, 2, false), (4, 4, false)]

/-- The operands of a `STAGE_*` descriptor (14 R442). -/
def stageFields : List Field :=
  [(8, 4, false), (12, 1, false), (13, 1, false), (14, 2, false), (16, 6, false), (24, 40, false)]

def stageOps (x : DescIn) : StageOps :=
  let isInline := (x.v 2).testBit 0
  { index := x.v 0, action := x.v 1, isInline := isInline, force := (x.v 2).testBit 1, length := x.v 3,
    imageIova := x.v 4, image := if isInline then (leBytes (x.v 5) 40).take (x.v 3) else x.data.take (x.v 3) }

def stageVals (o : StageOps) : List Nat :=
  [o.index, o.action, b2n o.isInline + 2 * b2n o.force, o.length, o.imageIova, if o.isInline then leNat o.image else 0]

/-- The operands common to the commands that make a key. -/
def keyOps (x : DescIn) : KeyOps :=
  { handle := x.v 0, attr := BitVec.ofNat 8 (x.v 1), parent := x.v 2, slot := x.v 3, ownerTag := leBytes (x.v 4) 12,
    blobIova := x.v 5 }

def keyFields : List Field :=
  [(8, 3, false), (11, 1, false), (12, 2, false), (14, 2, false), (16, 12, false), (32, 6, false)]

def keyVals (k : KeyOps) : List Nat := [k.handle, k.attr.toNat, k.parent, k.slot, leNat k.ownerTag, k.blobIova]

def nextVals (o : NextOps) : List Nat :=
  [o.cursor, b2n o.allServices + 2 * b2n o.allPorts + 4 * o.select, o.service, o.port, o.iova]

def stepFields : List Field :=
  [(8, 1, false), (9, 1, false), (16, 6, false), (24, 4, false), (28, 4, false), (32, 1, false), (36, 4, false),
   (40, 6, false)]

def stepVals (o : StepOps) : List Nat :=
  [o.tb, b2n o.subtract + 2 * b2n o.force + 4 * b2n o.newInc, o.seconds, o.nanos, o.fraction, o.incWhole, o.incFrac,
   o.iova]

def nextOps (x : DescIn) : NextOps :=
  { cursor := x.v 0, allServices := (x.v 1).testBit 0, allPorts := (x.v 1).testBit 1, select := x.v 1 / 4 % 4,
    service := x.v 2, port := x.v 3, iova := x.v 4 }

def stepOps (x : DescIn) : StepOps :=
  { tb := x.v 0, subtract := (x.v 1).testBit 0, force := (x.v 1).testBit 1, newInc := (x.v 1).testBit 2,
    seconds := x.v 2, nanos := x.v 3, fraction := x.v 4, incWhole := x.v 5, incFrac := x.v 6, iova := x.v 7 }

/-- The operands of a lookaside job (10 R318). -/
def lkFields : List Field :=
  [(8, 3, false), (11, 1, false), (12, 4, false), (16, 6, false), (22, 6, false), (28, 6, false), (36, 4, false),
   (40, 6, false), (46, 2, false), (48, 16, false)]

def lkJob (x : DescIn) : LkJob :=
  { dir := x.flags.testBit 0, cont := x.flags.testBit 1, more := x.flags.testBit 2, fence := x.flags.testBit 3,
    handle := x.v 0, paramA := x.v 1, length := x.v 2, src := x.v 3, dst := x.v 4, aux := x.v 5, auxLen := x.v 6,
    stateIova := x.v 7, paramB := x.v 8, iv := leBytes (x.v 9) 16, srcData := x.data, auxData := x.aux,
    stateData := x.state }

def lkFlags (j : LkJob) : Nat := b2n j.dir + 2 * b2n j.cont + 4 * b2n j.more + 8 * b2n j.fence

def lkVals (j : LkJob) : List Nat :=
  [j.handle, j.paramA, j.length, j.src, j.dst, j.aux, j.auxLen, j.stateIova, j.paramB, leNat j.iv]

def stageRow (op : Nat) (f : Hdr → StageOps → Instr) : DescRow :=
  { op := op, fields := stageFields, make := fun x => f x.h (stageOps x) }

def lkRow (op : Nat) (f : Hdr → LkJob → Instr) : DescRow :=
  { op := op, fields := lkFields, make := fun x => f x.h (lkJob x) }

/-- The staging opcodes (14 R444). -/
def stageTable : List DescRow :=
  [stageRow 0x0101 .stageDiscard,
   stageRow 0x0102 .stageFret,
   stageRow 0x0103 .stageDomainMap,
   stageRow 0x0104 .stageQuota,
   stageRow 0x0105 .stagePortLayout,
   stageRow 0x0106 .stageLane,
   stageRow 0x0107 .stageFaultMirror,
   stageRow 0x0108 .stageMgmtPort,
   stageRow 0x0109 .stageSmvGroup,
   stageRow 0x010A .stageParseNode] ++
  [stageRow 0x010B .stageParseTrans,
   stageRow 0x010C .stageParsePattern,
   stageRow 0x010D .stageParsePort,
   stageRow 0x010E .stageRecirc,
   stageRow 0x010F .stagePunt,
   stageRow 0x0110 .stageKeyProfile,
   stageRow 0x0111 .stageTcam,
   stageRow 0x0112 .stageClsPort,
   stageRow 0x0113 .stageService,
   stageRow 0x0114 .stageLpm] ++
  [stageRow 0x0115 .stageChannel,
   stageRow 0x0116 .stageMacsecPort,
   stageRow 0x0117 .stageSecy,
   stageRow 0x0118 .stageTxSc,
   stageRow 0x0119 .stageRxSc,
   stageRow 0x011A .stageSa,
   stageRow 0x011B .stageLlPair,
   stageRow 0x011C .stageBlobTable,
   stageRow 0x011D .stagePark,
   stageRow 0x011E .stageStampPort] ++
  [stageRow 0x011F .stageTimePin,
   stageRow 0x0120 .stageTimeGlobal,
   stageRow 0x0121 .stageEgressPort,
   stageRow 0x0122 .stageQueue,
   stageRow 0x0123 .stageGateList,
   stageRow 0x0124 .stageMeter,
   stageRow 0x0125 .stageTrustMap]

/-- Commit (14). -/
def commitTable : List DescRow :=
  [{ op := 0x0201, fields := [], make := fun x => .check x.h },
   { op := 0x0202
     fields := [(8, 8, false), (16, 1, false)]
     make := fun x => .armCommit x.h (x.v 0) ((x.v 1).testBit 0) },
   { op := 0x0203, fields := [], make := fun x => .cancelCommit x.h },
   { op := 0x0204, fields := [], make := fun x => .standingSave x.h },
   { op := 0x0205, fields := [], make := fun x => .standingClear x.h }]

/-- Tables (14); the layout of `TBL_SEARCH` depends on its kind. -/
def tblTable : List DescRow :=
  [{ op := 0x0301
     fields := [(8, 2, false), (10, 2, false), (12, 6, true), (18, 2, false), (20, 1, false), (21, 1, false)]
     make := fun x => .tblInsert x.h (x.v 0) (x.v 1) (x.v 2) (x.v 3) (x.v 4) ((x.v 5).testBit 0) },
   { op := 0x0302
     fields := [(8, 2, false), (10, 2, false), (12, 6, true)]
     make := fun x => .tblDelete x.h (x.v 0) (x.v 1) (x.v 2) },
   { op := 0x0303, kind := some 0, fields := [(8, 1, false), (10, 2, false), (12, 2, false), (14, 6, true)]
     make := fun x => .tblSearch x.h (.mac (x.v 1) (x.v 2) (x.v 3)) },
   { op := 0x0303, kind := some 1, fields := [(8, 1, false), (10, 2, false), (12, 1, false), (16, 16, true)]
     make := fun x => .tblSearch x.h (.lpm (x.v 1) (x.v 2) (x.v 3)) },
   { op := 0x0303, kind := some 2, fields := [(8, 1, false), (10, 2, false)]
     make := fun x => .tblSearch x.h (.channel (x.v 1)) },
   { op := 0x0304
     fields := [(8, 4, false), (12, 1, false), (14, 2, false), (16, 1, false), (24, 6, false)]
     make := fun x => .tblNext x.h (nextOps x) },
   { op := 0x0305
     fields := [(8, 1, false), (9, 1, false)]
     make := fun x => .tblFlushPort x.h (x.v 0) ((x.v 1).testBit 0) }]

/-- Keys (14). -/
def keyTable : List DescRow :=
  [{ op := 0x0401, fields := keyFields, make := fun x => .keyGenerate x.h (keyOps x) },
   { op := 0x0402
     fields := keyFields ++ [(40, 3, false), (43, 1, false), (44, 6, false), (50, 2, false)]
     make := fun x => .keyImport x.h (keyOps x) (x.v 6) (x.v 7) (x.v 8) (x.v 9) x.data },
   { op := 0x0403
     fields := keyFields ++ [(40, 3, false), (44, 6, false), (50, 1, false), (51, 1, false)]
     make := fun x => .keyDerive x.h (keyOps x) (x.v 6) (x.v 7) (x.v 8) (x.v 9) x.data },
   { op := 0x0404
     fields := keyFields ++ [(28, 1, false), (44, 6, false)]
     make := fun x => .keyWriteClear x.h (keyOps x) ((x.v 6).testBit 0) (x.v 7) x.data },
   { op := 0x0405
     fields := [(8, 3, false), (14, 2, false), (32, 6, false)]
     make := fun x => .keyPin x.h (x.v 0) (x.v 1) (x.v 2) x.data },
   { op := 0x0406, fields := [(14, 2, false)], make := fun x => .keyUnpin x.h (x.v 0) },
   { op := 0x0407, fields := [(8, 3, false)], make := fun x => .keyEvict x.h (x.v 0) },
   { op := 0x0408
     fields := [(8, 3, false), (40, 3, false), (43, 1, false), (44, 6, false)]
     make := fun x => .keyExport x.h (x.v 0) (x.v 1) (x.v 2) (x.v 3) },
   { op := 0x0409, fields := [(8, 2, false), (14, 2, false)], make := fun x => .keyParentBind x.h (x.v 0) (x.v 1) },
   { op := 0x040A, fields := [(8, 2, false)], make := fun x => .keyRevoke x.h (x.v 0) }] ++
  [{ op := 0x040B, fields := [(8, 1, false)], make := fun x => .keyDomainRoll x.h (x.v 0) },
   { op := 0x040C, fields := [(8, 1, false), (9, 3, false)], make := fun x => .keyStatus x.h (x.v 0) (x.v 1) },
   { op := 0x040D
     fields := [(8, 8, false), (16, 1, false), (40, 3, false), (44, 6, false), (50, 2, false)]
     make := fun x => .keyMgmtSet x.h (x.v 0) (x.v 1) (x.v 2) (x.v 3) (x.v 4) x.data }]

/-- Security associations and Smivia epochs (14). -/
def saTable : List DescRow :=
  [{ op := 0x0501
     fields := [(8, 4, false), (16, 8, false), (24, 8, false)]
     make := fun x => .saInit x.h (x.v 0) (x.v 1) (x.v 2) },
   { op := 0x0502, fields := [(8, 4, false)], make := fun x => .saEnable x.h (x.v 0) },
   { op := 0x0503, fields := [(8, 4, false)], make := fun x => .saDisable x.h (x.v 0) },
   { op := 0x0504, fields := [(8, 4, false), (16, 8, false)], make := fun x => .saSetLowestPn x.h (x.v 0) (x.v 1) },
   { op := 0x0505, fields := [(8, 4, false), (16, 6, false)], make := fun x => .saRead x.h (x.v 0) (x.v 1) },
   { op := 0x0510
     fields := [(8, 1, false), (10, 2, false), (12, 3, false), (16, 3, false), (24, 8, false)]
     make := fun x => .saSmvArm x.h (x.v 0) (x.v 1) (x.v 2) (x.v 3) (x.v 4) },
   { op := 0x0511, fields := [(8, 1, false)], make := fun x => .saSmvCancel x.h (x.v 0) },
   { op := 0x0512, fields := [(8, 1, false), (16, 6, false)], make := fun x => .saSmvRead x.h (x.v 0) (x.v 1) },
   { op := 0x0513, fields := [(8, 1, false)], make := fun x => .saSmvStop x.h (x.v 0) }]

/-- Time (14). -/
def timeTable : List DescRow :=
  [{ op := 0x0601
     fields := [(8, 1, false), (12, 1, false), (16, 4, false)]
     make := fun x => .tbInc x.h (x.v 0) (x.v 1) (x.v 2) },
   { op := 0x0602, fields := stepFields, make := fun x => .tbStep x.h (stepOps x) },
   { op := 0x0603, fields := [(8, 1, false), (16, 6, false)], make := fun x => .tbRead x.h (x.v 0) (x.v 1) }]

/-- Counters and dumps (14). -/
def cntTable : List DescRow :=
  [{ op := 0x0701
     fields := [(8, 4, false), (12, 2, false), (14, 1, false), (16, 6, false)]
     make := fun x => .cntRead x.h (x.v 0) (x.v 1) ((x.v 2).testBit 0) (x.v 3) },
   { op := 0x0702
     fields := [(8, 1, false), (9, 1, false)]
     make := fun x => .cntLaneRead x.h (x.v 0) ((x.v 1).testBit 0) },
   { op := 0x0703
     fields := [(8, 1, false), (10, 2, false), (12, 4, false)]
     make := fun x => .cntSelect x.h (x.v 0) (x.v 1) (x.v 2) },
   { op := 0x0704, fields := [(8, 4, false), (12, 4, false)], make := fun x => .dumpConfig x.h (x.v 0) (x.v 1) }]

/-- Firmware (14). -/
def fwTable : List DescRow :=
  [{ op := 0x0801, fields := [(8, 1, false), (12, 4, false)], make := fun x => .fwBegin x.h (x.v 0) (x.v 1) },
   { op := 0x0802
     fields := [(8, 1, false), (12, 4, false), (16, 6, false), (22, 2, false)]
     make := fun x => .fwBlock x.h (x.v 0) (x.v 1) (x.v 2) (x.v 3) x.data },
   { op := 0x0803, fields := [(8, 1, false)], make := fun x => .fwVerify x.h (x.v 0) },
   { op := 0x0804, fields := [(8, 1, false), (16, 8, false)], make := fun x => .fwSchedule x.h (x.v 0) (x.v 1) },
   { op := 0x0805, fields := [(8, 1, false)], make := fun x => .fwCancel x.h (x.v 0) },
   { op := 0x0806, fields := [(16, 6, false)], make := fun x => .fwStatus x.h (x.v 0) },
   { op := 0x0807, fields := [], make := fun x => .fwRevert x.h }]

/-- Life cycle, tamper and resumption (14). -/
def lcTable : List DescRow :=
  [{ op := 0x0901, fields := [(16, 6, false)], make := fun x => .lcStatus x.h (x.v 0) },
   { op := 0x0902
     fields := [(8, 1, false), (16, 6, false), (22, 2, false)]
     make := fun x => .lcTransition x.h (x.v 0) (x.v 1) (x.v 2) x.data },
   { op := 0x0903, fields := [(8, 1, false)], make := fun x => .lcSetSupervisor x.h (x.v 0) },
   { op := 0x0904
     fields := [(16, 6, false), (22, 2, false)]
     make := fun x => .lcDebugScrub x.h (x.v 0) (x.v 1) x.data },
   { op := 0x0910
     fields := [(8, 1, false), (9, 1, false), (10, 2, false), (12, 2, false)]
     make := fun x => .tamperConfig x.h (x.v 0) (x.v 1) (toSigned 16 (x.v 2)) (toSigned 16 (x.v 3)) },
   { op := 0x0911, fields := [(8, 2, false)], make := fun x => .tamperClear x.h (x.v 0) },
   { op := 0x0912
     fields := [(8, 4, false), (12, 2, false), (16, 6, false)]
     make := fun x => .tamperLogRead x.h (x.v 0) (x.v 1) (x.v 2) },
   { op := 0x0A01
     fields := [(8, 1, false), (9, 1, false), (12, 4, false)]
     make := fun x => .resume x.h (x.v 0) (x.v 1) (BitVec.ofNat 32 (x.v 2)) },
   { op := 0x0A02
     fields := [(8, 1, false), (9, 1, false), (12, 4, false)]
     make := fun x => .abort x.h (x.v 0) (x.v 1) (BitVec.ofNat 32 (x.v 2)) }]

/-- Lookaside jobs (10 R319). -/
def lkTable : List DescRow :=
  [lkRow 0x0B01 .lkCbc,
   lkRow 0x0B02 .lkCtr,
   lkRow 0x0B03 .lkCfb,
   lkRow 0x0B04 .lkGcm,
   lkRow 0x0B05 .lkCmac,
   lkRow 0x0B06 .lkWrap,
   lkRow 0x0B07 .lkUnwrap,
   lkRow 0x0B08 .lkKdf,
   lkRow 0x0B09 .lkHash,
   lkRow 0x0B0A .lkVerify]

/-- Every command of a host. -/
def descTable : List DescRow :=
  stageTable ++ commitTable ++ tblTable ++ keyTable ++ saTable ++ timeTable ++ cntTable ++ fwTable ++ lcTable ++ lkTable

/-- The row of an opcode, and of a kind where the opcode has several. -/
def descRow (op kind : Nat) : Option DescRow :=
  descTable.find? (fun r => decide (r.op = op) && (r.kind.isNone || decide (r.kind = some kind)))

/-- How a command is spelled: header, opcode, FLAGS and operand values; none for what no host sends. -/
def Instr.spell : Instr → Option (Hdr × Nat × Nat × List Nat)
  | .stageDiscard h o => some (h, 0x0101, 0, stageVals o)
  | .stageFret h o => some (h, 0x0102, 0, stageVals o)
  | .stageDomainMap h o => some (h, 0x0103, 0, stageVals o)
  | .stageQuota h o => some (h, 0x0104, 0, stageVals o)
  | .stagePortLayout h o => some (h, 0x0105, 0, stageVals o)
  | .stageLane h o => some (h, 0x0106, 0, stageVals o)
  | .stageFaultMirror h o => some (h, 0x0107, 0, stageVals o)
  | .stageMgmtPort h o => some (h, 0x0108, 0, stageVals o)
  | .stageSmvGroup h o => some (h, 0x0109, 0, stageVals o)
  | .stageParseNode h o => some (h, 0x010A, 0, stageVals o)
  | .stageParseTrans h o => some (h, 0x010B, 0, stageVals o)
  | .stageParsePattern h o => some (h, 0x010C, 0, stageVals o)
  | .stageParsePort h o => some (h, 0x010D, 0, stageVals o)
  | .stageRecirc h o => some (h, 0x010E, 0, stageVals o)
  | .stagePunt h o => some (h, 0x010F, 0, stageVals o)
  | .stageKeyProfile h o => some (h, 0x0110, 0, stageVals o)
  | .stageTcam h o => some (h, 0x0111, 0, stageVals o)
  | .stageClsPort h o => some (h, 0x0112, 0, stageVals o)
  | .stageService h o => some (h, 0x0113, 0, stageVals o)
  | .stageLpm h o => some (h, 0x0114, 0, stageVals o)
  | .stageChannel h o => some (h, 0x0115, 0, stageVals o)
  | .stageMacsecPort h o => some (h, 0x0116, 0, stageVals o)
  | .stageSecy h o => some (h, 0x0117, 0, stageVals o)
  | .stageTxSc h o => some (h, 0x0118, 0, stageVals o)
  | .stageRxSc h o => some (h, 0x0119, 0, stageVals o)
  | .stageSa h o => some (h, 0x011A, 0, stageVals o)
  | .stageLlPair h o => some (h, 0x011B, 0, stageVals o)
  | .stageBlobTable h o => some (h, 0x011C, 0, stageVals o)
  | .stagePark h o => some (h, 0x011D, 0, stageVals o)
  | .stageStampPort h o => some (h, 0x011E, 0, stageVals o)
  | .stageTimePin h o => some (h, 0x011F, 0, stageVals o)
  | .stageTimeGlobal h o => some (h, 0x0120, 0, stageVals o)
  | .stageEgressPort h o => some (h, 0x0121, 0, stageVals o)
  | .stageQueue h o => some (h, 0x0122, 0, stageVals o)
  | .stageGateList h o => some (h, 0x0123, 0, stageVals o)
  | .stageMeter h o => some (h, 0x0124, 0, stageVals o)
  | .stageTrustMap h o => some (h, 0x0125, 0, stageVals o)
  | .check h => some (h, 0x0201, 0, [])
  | .armCommit h t a => some (h, 0x0202, 0, [t, b2n a])
  | .cancelCommit h => some (h, 0x0203, 0, [])
  | .standingSave h => some (h, 0x0204, 0, [])
  | .standingClear h => some (h, 0x0205, 0, [])
  | .tblInsert h s f m p q z => some (h, 0x0301, 0, [s, f, m, p, q, b2n z])
  | .tblDelete h s f m => some (h, 0x0302, 0, [s, f, m])
  | .tblSearch h (.mac s f m) => some (h, 0x0303, 0, [0, s, f, m])
  | .tblSearch h (.lpm s f a) => some (h, 0x0303, 0, [1, s, f, a])
  | .tblSearch h (.channel n) => some (h, 0x0303, 0, [2, n])
  | .tblNext h o => some (h, 0x0304, 0, nextVals o)
  | .tblFlushPort h p z => some (h, 0x0305, 0, [p, b2n z])
  | .keyGenerate h k => some (h, 0x0401, 0, keyVals k)
  | .keyImport h k q f a l _ => some (h, 0x0402, 0, keyVals k ++ [q, f, a, l])
  | .keyDerive h k q a l m _ => some (h, 0x0403, 0, keyVals k ++ [q, a, l, m])
  | .keyWriteClear h k z a _ => some (h, 0x0404, 0, keyVals k ++ [b2n z, a])
  | .keyPin h q n a _ => some (h, 0x0405, 0, [q, n, a])
  | .keyUnpin h n => some (h, 0x0406, 0, [n])
  | .keyEvict h n => some (h, 0x0407, 0, [n])
  | .keyExport h n q f a => some (h, 0x0408, 0, [n, q, f, a])
  | .keyParentBind h e n => some (h, 0x0409, 0, [e, n])
  | .keyRevoke h n => some (h, 0x040A, 0, [n])
  | .keyDomainRoll h n => some (h, 0x040B, 0, [n])
  | .keyStatus h q n => some (h, 0x040C, 0, [q, n])
  | .keyMgmtSet h n f q a l _ => some (h, 0x040D, 0, [n, f, q, a, l])
  | .saInit h n p t => some (h, 0x0501, 0, [n, p, t])
  | .saEnable h n => some (h, 0x0502, 0, [n])
  | .saDisable h n => some (h, 0x0503, 0, [n])
  | .saSetLowestPn h n p => some (h, 0x0504, 0, [n, p])
  | .saRead h n a => some (h, 0x0505, 0, [n, a])
  | .saSmvArm h s e p q t => some (h, 0x0510, 0, [s, e, p, q, t])
  | .saSmvCancel h n => some (h, 0x0511, 0, [n])
  | .saSmvRead h n a => some (h, 0x0512, 0, [n, a])
  | .saSmvStop h n => some (h, 0x0513, 0, [n])
  | .tbInc h t w f => some (h, 0x0601, 0, [t, w, f])
  | .tbStep h o => some (h, 0x0602, 0, stepVals o)
  | .tbRead h t a => some (h, 0x0603, 0, [t, a])
  | .cntRead h n q z a => some (h, 0x0701, 0, [n, q, b2n z, a])
  | .cntLaneRead h n z => some (h, 0x0702, 0, [n, b2n z])
  | .cntSelect h n e q => some (h, 0x0703, 0, [n, e, q])
  | .dumpConfig h p m => some (h, 0x0704, 0, [p, m])
  | .fwBegin h s l => some (h, 0x0801, 0, [s, l])
  | .fwBlock h s o a l _ => some (h, 0x0802, 0, [s, o, a, l])
  | .fwVerify h n => some (h, 0x0803, 0, [n])
  | .fwSchedule h s t => some (h, 0x0804, 0, [s, t])
  | .fwCancel h n => some (h, 0x0805, 0, [n])
  | .fwStatus h a => some (h, 0x0806, 0, [a])
  | .fwRevert h => some (h, 0x0807, 0, [])
  | .lcStatus h a => some (h, 0x0901, 0, [a])
  | .lcTransition h t a l _ => some (h, 0x0902, 0, [t, a, l])
  | .lcSetSupervisor h n => some (h, 0x0903, 0, [n])
  | .lcDebugScrub h a l _ => some (h, 0x0904, 0, [a, l])
  | .tamperConfig h n q lo hi => some (h, 0x0910, 0, [n, q, ofSigned 16 lo, ofSigned 16 hi])
  | .tamperClear h n => some (h, 0x0911, 0, [n])
  | .tamperLogRead h n q a => some (h, 0x0912, 0, [n, q, a])
  | .resume h q u w => some (h, 0x0A01, 0, [q, u, w.toNat])
  | .abort h q u w => some (h, 0x0A02, 0, [q, u, w.toNat])
  | .lkCbc h j => some (h, 0x0B01, lkFlags j, lkVals j)
  | .lkCtr h j => some (h, 0x0B02, lkFlags j, lkVals j)
  | .lkCfb h j => some (h, 0x0B03, lkFlags j, lkVals j)
  | .lkGcm h j => some (h, 0x0B04, lkFlags j, lkVals j)
  | .lkCmac h j => some (h, 0x0B05, lkFlags j, lkVals j)
  | .lkWrap h j => some (h, 0x0B06, lkFlags j, lkVals j)
  | .lkUnwrap h j => some (h, 0x0B07, lkFlags j, lkVals j)
  | .lkKdf h j => some (h, 0x0B08, lkFlags j, lkVals j)
  | .lkHash h j => some (h, 0x0B09, lkFlags j, lkVals j)
  | .lkVerify h j => some (h, 0x0B0A, lkFlags j, lkVals j)
  | _ => none

/-- The header of a host command. -/
def Instr.hdr (i : Instr) : Option Hdr := i.spell.map Prod.fst

/-- The opcode of a host command. -/
def Instr.opcode (i : Instr) : Nat := (i.spell.map (fun s => s.2.1)).getD 0

/-- Values are written into their fields of a descriptor; every other byte is zero (01 R11). -/
def writeDesc (fs : List Field) (vs : List Nat) : Bytes := (fs.zip vs).foldl writeField (zeros 64)

/-- The 64 bytes of a host command. -/
def encodeDesc (i : Instr) : Option Bytes :=
  match i.spell with
  | none => none
  | some (h, op, flags, vs) =>
    (descRow op (vs.headD 0)).map (fun r => writeDesc (headFields ++ r.fields) (op :: flags :: h.tag.toNat :: vs))

/-- The command of a descriptor that ring `ring` of domain `dom` carries; none where no opcode is spelled or a reserved
byte or bit is not zero. DESIGN CHOICE (log 100): under INLINE the bytes of 24 to 63 past LENGTH count as reserved; 14 R442 says of
them only that they hold the image. -/
def decodeDesc (dom ring : Nat) (desc data aux state : Bytes) : Option Instr :=
  match descRow (leAt desc 0 2) (leAt desc 8 1) with
  | none => none
  | some r =>
    let h : Hdr := { dom := dom, ring := ring, tag := BitVec.ofNat 32 (leAt desc 4 4), crc := crc32c desc, bad := false }
    let i := r.make { h := h, flags := leAt desc 2 2, vals := r.fields.map (readField desc), data := data, aux := aux,
                      state := state }
    if encodeDesc i = some desc then some i else none

/-- Where a `STAGE_*` command reads its image. -/
def stageInput (o : StageOps) : Option (Nat × Nat) :=
  if o.isInline ∨ o.length = 0 then none else some (o.imageIova, o.length)

/-- Where a host command reads its input: IOVA and length. The blob that `KEY_PIN` takes from the domain's table is not
among them. -/
def Instr.input : Instr → Option (Nat × Nat)
  | .stageFret _ o => stageInput o
  | .stageDomainMap _ o => stageInput o
  | .stageQuota _ o => stageInput o
  | .stagePortLayout _ o => stageInput o
  | .stageLane _ o => stageInput o
  | .stageFaultMirror _ o => stageInput o
  | .stageMgmtPort _ o => stageInput o
  | .stageSmvGroup _ o => stageInput o
  | .stageParseNode _ o => stageInput o
  | .stageParseTrans _ o => stageInput o
  | .stageParsePattern _ o => stageInput o
  | .stageParsePort _ o => stageInput o
  | .stageRecirc _ o => stageInput o
  | .stagePunt _ o => stageInput o
  | .stageKeyProfile _ o => stageInput o
  | .stageTcam _ o => stageInput o
  | .stageClsPort _ o => stageInput o
  | .stageService _ o => stageInput o
  | .stageLpm _ o => stageInput o
  | .stageChannel _ o => stageInput o
  | .stageMacsecPort _ o => stageInput o
  | .stageSecy _ o => stageInput o
  | .stageTxSc _ o => stageInput o
  | .stageRxSc _ o => stageInput o
  | .stageSa _ o => stageInput o
  | .stageLlPair _ o => stageInput o
  | .stageBlobTable _ o => stageInput o
  | .stagePark _ o => stageInput o
  | .stageStampPort _ o => stageInput o
  | .stageTimePin _ o => stageInput o
  | .stageTimeGlobal _ o => stageInput o
  | .stageEgressPort _ o => stageInput o
  | .stageQueue _ o => stageInput o
  | .stageGateList _ o => stageInput o
  | .stageMeter _ o => stageInput o
  | .stageTrustMap _ o => stageInput o
  | .keyImport _ _ _ _ a l _ => some (a, l)
  | .keyDerive _ _ _ a l m _ => some (a, l + m)
  | .keyWriteClear _ _ _ a _ => some (a, 64)
  | .keyPin _ _ _ a _ => some (a, 96)
  | .keyMgmtSet _ _ _ _ a l _ => some (a, l)
  | .fwBlock _ _ _ a l _ => some (a, l)
  | .lcTransition _ _ a l _ => some (a, l)
  | .lcDebugScrub _ a l _ => some (a, l)
  | _ => none

end Sys2Proof
end

