-- ==== Sys2Proof/Machine/Crypto.lean ====
section
/-! DEFINITION. The algorithms that the spec names by their standards and does not print (PRESUMED, from FIPS 197,
SP 800-38A/B/D/F, SP 800-108, FIPS 180-4, FIPS 202, FIPS 198-1, FIPS 186-5, RFC 3394, RFC 5649). -/

namespace Sys2Proof.Machine

/-! ### AES (FIPS 197) -/

/-- Multiplication by x in the field of AES. -/
def xtime (b : Byte) : Byte := if b.getLsbD 7 then (b <<< 1) ^^^ 0x1B else b <<< 1

/-- Multiplication in the field of AES, over the bits of the second factor from the top. -/
def gmul (a b : Byte) : Byte :=
  (List.range 8).foldl (fun r i => (if b.getLsbD (7 - i) then xtime r ^^^ a else xtime r)) 0

/-- The inverse, b to the power 254; zero gives zero. -/
def ginv (b : Byte) : Byte :=
  let b2 := gmul b b
  let b3 := gmul b2 b
  let b6 := gmul b3 b3
  let b12 := gmul b6 b6
  let b15 := gmul b12 b3
  let b30 := gmul b15 b15
  let b60 := gmul b30 b30
  let b120 := gmul b60 b60
  let b240 := gmul b120 b120
  let b252 := gmul b240 b12
  gmul b252 b2

/-- The S-box entry of a byte. -/
def sboxOf (b : Byte) : Byte :=
  let i := ginv b
  i ^^^ i.rotateLeft 1 ^^^ i.rotateLeft 2 ^^^ i.rotateLeft 3 ^^^ i.rotateLeft 4 ^^^ 0x63

/-- The S-box. -/
def sbox : Array Byte := ((List.range 256).map (fun i => sboxOf (BitVec.ofNat 8 i))).toArray

/-- The inverse S-box. -/
def invSbox : Array Byte :=
  (List.range 256).foldl (fun a i => a.setIfInBounds (sbox.getD i 0).toNat (BitVec.ofNat 8 i)) (Array.replicate 256 0)

def subByte (b : Byte) : Byte := sbox.getD b.toNat 0

/-- Key expansion: the words of the schedule, newest first, from the `nk` words of the key. -/
def expandKey (key : Bytes) : List Bytes :=
  let nk := key.length / 4
  let words0 := (chunks 4 key).reverse
  let step (st : List Bytes × Byte × Nat) : List Bytes × Byte × Nat :=
    let ws := st.1
    let i := st.2.2
    let prev := ws.headD []
    let old := ws.getD (nk - 1) []
    let r := st.2.1
    if i % nk = 0 then
      let t := ((prev.drop 1 ++ prev.take 1).map subByte)
      let t' := xorBytes t [r, 0, 0, 0]
      (xorBytes old t' :: ws, xtime r, i + 1)
    else if nk = 8 ∧ i % nk = 4 then (xorBytes old (prev.map subByte) :: ws, r, i + 1)
    else (xorBytes old prev :: ws, r, i + 1)
  (iter step (4 * (nk + 7) - nk) (words0, 1, nk)).1.reverse

/-- The round keys, 16 bytes each. -/
def roundKeys (key : Bytes) : List Bytes := (chunks 4 (expandKey key)).map List.flatten

def shiftRows (s : Bytes) : Bytes := (List.range 16).map (fun i => s.getD ((i + 4 * (i % 4)) % 16) 0)

def invShiftRows (s : Bytes) : Bytes := (List.range 16).map (fun i => s.getD ((i + 16 - 4 * (i % 4)) % 16) 0)

def mixColumn (m : List Byte) (c : Bytes) : Bytes :=
  (List.range 4).map (fun r => (List.range 4).foldl
    (fun a j => a ^^^ gmul (c.getD j 0) (m.getD ((j + 4 - r) % 4) 0)) 0)

def mixColumns (m : List Byte) (s : Bytes) : Bytes := ((chunks 4 s).map (mixColumn m)).flatten

/-- One AES block under a key schedule. -/
def aesEnc (rks : List Bytes) (b : Bytes) : Bytes :=
  let n := rks.length - 1
  let s0 := xorBytes b (rks.headD [])
  let body := ((rks.drop 1).take (n - 1)).foldl
    (fun s rk => xorBytes (mixColumns [2, 3, 1, 1] (shiftRows (s.map subByte))) rk) s0
  xorBytes (shiftRows (body.map subByte)) (rks.getD n [])

/-- One AES block decrypted. -/
def aesDec (rks : List Bytes) (b : Bytes) : Bytes :=
  let n := rks.length - 1
  let inv (x : Byte) : Byte := invSbox.getD x.toNat 0
  let s0 := (invShiftRows (xorBytes b (rks.getD n []))).map inv
  let body := (((rks.drop 1).take (n - 1)).reverse).foldl
    (fun s rk => (invShiftRows (mixColumns [14, 11, 13, 9] (xorBytes s rk))).map inv) s0
  xorBytes body (rks.headD [])

/-! ### Modes (SP 800-38) -/

/-- A block with its last `k` bytes counted up by one, modulo 256^k. -/
def incBlock (k : Nat) (b : Bytes) : Bytes :=
  b.take (16 - k) ++ beBytes (beNat (b.drop (16 - k)) + 1) k

/-- The key stream of `n` blocks from a counter block whose low `k` bytes count. -/
def ctrStream (rks : List Bytes) (k : Nat) (c : Bytes) : Nat → Bytes
  | 0 => []
  | n + 1 => aesEnc rks c ++ ctrStream rks k (incBlock k c) n

/-- CTR mode. -/
def ctrMode (rks : List Bytes) (k : Nat) (c data : Bytes) : Bytes :=
  xorBytes data (ctrStream rks k c (ceilDiv data.length 16))

/-- CBC encryption and decryption; the last ciphertext block is the chaining value. -/
def cbcEnc (rks : List Bytes) : Bytes → List Bytes → Bytes
  | _, [] => []
  | iv, b :: bs => let c := aesEnc rks (xorBytes iv b); c ++ cbcEnc rks c bs

def cbcDec (rks : List Bytes) : Bytes → List Bytes → Bytes
  | _, [] => []
  | iv, b :: bs => xorBytes iv (aesDec rks b) ++ cbcDec rks b bs

/-- CFB-128 encryption and decryption. -/
def cfbEnc (rks : List Bytes) : Bytes → List Bytes → Bytes
  | _, [] => []
  | iv, b :: bs => let c := xorBytes b (aesEnc rks iv); c ++ cfbEnc rks c bs

def cfbDec (rks : List Bytes) : Bytes → List Bytes → Bytes
  | _, [] => []
  | iv, b :: bs => xorBytes b (aesEnc rks iv) ++ cfbDec rks b bs

/-- Multiplication in GF(2^128) of GCM; blocks as numbers, bit 127 the first bit. -/
def gcmMul (x y : Nat) : Nat :=
  ((List.range 128).foldl (fun (st : Nat × Nat) i =>
    let z := if x.testBit (127 - i) then Nat.xor st.1 st.2 else st.1
    let v := if st.2.testBit 0 then Nat.xor (st.2 / 2) (0xE1 * 2 ^ 120) else st.2 / 2
    (z, v)) (0, y)).1

/-- GHASH continued from `y` over whole blocks; the last block is filled with zeros. -/
def ghash (h y : Nat) (data : Bytes) : Nat :=
  (chunks 16 data).foldl (fun a b => gcmMul (Nat.xor a (beNat (padTo 16 b))) h) y

/-- The GCM tag of AAD and ciphertext, with the pre-counter block `j0`. -/
def gcmTag (rks : List Bytes) (j0 aad ct : Bytes) : Bytes :=
  let h := beNat (aesEnc rks (zeros 16))
  let s := ghash h (ghash h 0 aad) ct
  let s := gcmMul (Nat.xor s (beNat (beBytes (8 * aad.length) 8 ++ beBytes (8 * ct.length) 8))) h
  xorBytes (aesEnc rks j0) (beBytes s 16)

/-- The pre-counter block of a 96-bit IV. -/
def gcmJ0 (iv : Bytes) : Bytes := iv ++ [0, 0, 0, 1]

/-- GCM encryption: ciphertext and tag. -/
def gcmSeal (key iv aad pt : Bytes) : Bytes × Bytes :=
  let rks := roundKeys key
  let j0 := gcmJ0 iv
  let ct := ctrMode rks 4 (incBlock 4 j0) pt
  (ct, gcmTag rks j0 aad ct)

/-- GCM decryption: the plaintext, and whether the tag verifies. -/
def gcmOpen (key iv aad ct tag : Bytes) : Bytes × Bool :=
  let rks := roundKeys key
  let j0 := gcmJ0 iv
  (ctrMode rks 4 (incBlock 4 j0) ct, decide (gcmTag rks j0 aad ct = tag))

/-- Doubling in the field of CMAC. -/
def cmacDbl (n : Nat) : Nat :=
  if n.testBit 127 then Nat.xor (n * 2 % 2 ^ 128) 0x87 else n * 2

/-- CMAC continued: the chaining value after whole blocks. -/
def cmacChain (rks : List Bytes) (st : Bytes) (blocks : List Bytes) : Bytes :=
  blocks.foldl (fun a b => aesEnc rks (xorBytes a b)) st

/-- CMAC from a chaining value over the rest of the message. -/
def cmacFinish (rks : List Bytes) (st msg : Bytes) : Bytes :=
  let l := beNat (aesEnc rks (zeros 16))
  let k1 := cmacDbl l
  let k2 := cmacDbl k1
  let n := if msg.length = 0 then 0 else (msg.length - 1) / 16
  let st := cmacChain rks st (chunks 16 (msg.take (16 * n)))
  let last := msg.drop (16 * n)
  let m := if last.length = 16 then xorBytes last (beBytes k1 16)
           else xorBytes (padTo 16 (last ++ [0x80])) (beBytes k2 16)
  aesEnc rks (xorBytes st m)

/-- AES-CMAC (SP 800-38B). -/
def cmac (key msg : Bytes) : Bytes := cmacFinish (roundKeys key) (zeros 16) msg

/-- The KDF in counter mode of SP 800-108 with AES-256-CMAC: [i] of 4 bytes, label, zero, context, length in bits of
4 bytes (09 R275). -/
def kdfCmac (key label context : Bytes) (outLen : Nat) : Bytes :=
  (((List.range (ceilDiv outLen 16)).map (fun i =>
    cmac key (beBytes (i + 1) 4 ++ label ++ [0] ++ context ++ beBytes (8 * outLen) 4))).flatten).take outLen

/-- One pass of the wrapping of RFC 3394: the register A and the blocks R. -/
def kwWrap (key : Bytes) (a : Bytes) (rs : List Bytes) : Bytes :=
  let rks := roundKeys key
  let n := rs.length
  let step (st : Bytes × List Bytes) (t : Nat) : Bytes × List Bytes :=
    let i := t % n
    let b := aesEnc rks (st.1 ++ st.2.getD i [])
    (xorBytes (b.take 8) (beBytes (t + 1) 8), st.2.set i (b.drop 8))
  let r := (List.range (6 * n)).foldl step (a, rs)
  r.1 ++ r.2.flatten

/-- The unwrapping of RFC 3394: the register A and the data. -/
def kwUnwrap (key : Bytes) (ct : Bytes) : Bytes × Bytes :=
  let rks := roundKeys key
  let a := ct.take 8
  let rs := chunks 8 (ct.drop 8)
  let n := rs.length
  let step (st : Bytes × List Bytes) (t : Nat) : Bytes × List Bytes :=
    let i := t % n
    let b := aesDec rks (xorBytes st.1 (beBytes (t + 1) 8) ++ st.2.getD i [])
    (b.take 8, st.2.set i (b.drop 8))
  let r := (List.range (6 * n)).reverse.foldl step (a, rs)
  (r.1, r.2.flatten)

/-- AES key wrap (RFC 3394). -/
def kwSeal (key pt : Bytes) : Bytes := kwWrap key (List.replicate 8 0xA6) (chunks 8 pt)

def kwOpen (key ct : Bytes) : Option Bytes :=
  let r := kwUnwrap key ct
  if r.1 = List.replicate 8 0xA6 then some r.2 else none

/-- AES key wrap with padding (RFC 5649). -/
def kwpSeal (key pt : Bytes) : Bytes :=
  let a := [0xA6, 0x59, 0x59, 0xA6] ++ beBytes pt.length 4
  let p := padTo (8 * ceilDiv pt.length 8) pt
  if p.length = 8 then aesEnc (roundKeys key) (a ++ p) else kwWrap key a (chunks 8 p)

def kwpOpen (key ct : Bytes) : Option Bytes :=
  let r := if ct.length = 16 then
      let b := aesDec (roundKeys key) ct
      (b.take 8, b.drop 8)
    else kwUnwrap key ct
  let len := beNat (r.1.drop 4)
  if r.1.take 4 = [0xA6, 0x59, 0x59, 0xA6] ∧ len ≤ r.2.length ∧ r.2.length < len + 8 ∧ allZero (r.2.drop len) then
    some (r.2.take len)
  else none

/-! ### SHA-2 (FIPS 180-4) and HMAC -/

/-- The first 80 primes. -/
def primes80 : List Nat := ((List.range 410).filter (fun n => decide (1 < n) &&
  (List.range 21).all (fun k => k < 2 || n % k != 0 || n == k))).take 80

/-- The largest r with r^3 at most n, by bits from `k` down. -/
def cbrtFrom (n : Nat) : Nat → Nat → Nat
  | 0, r => r
  | k + 1, r => let r' := r + 2 ^ k; if r' ^ 3 ≤ n then cbrtFrom n k r' else cbrtFrom n k r

/-- 64 bits of the fraction of the cube root of p. -/
def cbrtFrac (p : Nat) : Nat := cbrtFrom (p * 2 ^ 192) 68 0 % 2 ^ 64

/-- 64 bits of the fraction of the square root of p. -/
def sqrtFrac (p : Nat) : Nat := Nat.sqrt (p * 2 ^ 128) % 2 ^ 64

/-- What differs between the 32-bit and the 64-bit functions: word width, rounds, rotations. -/
structure Sha2 where
  w : Nat
  rounds : Nat
  big0 : Nat × Nat × Nat
  big1 : Nat × Nat × Nat
  small0 : Nat × Nat × Nat
  small1 : Nat × Nat × Nat

def sha32 : Sha2 := ⟨32, 64, (2, 13, 22), (6, 11, 25), (7, 18, 3), (17, 19, 10)⟩
def sha64 : Sha2 := ⟨64, 80, (28, 34, 39), (14, 18, 41), (1, 8, 7), (19, 61, 6)⟩

def rotr (w x r : Nat) : Nat := (x / 2 ^ r + x % 2 ^ r * 2 ^ (w - r)) % 2 ^ w

def xor3 (a b c : Nat) : Nat := Nat.xor (Nat.xor a b) c

def bigSigma (w : Nat) (r : Nat × Nat × Nat) (x : Nat) : Nat := xor3 (rotr w x r.1) (rotr w x r.2.1) (rotr w x r.2.2)

def smallSigma (w : Nat) (r : Nat × Nat × Nat) (x : Nat) : Nat := xor3 (rotr w x r.1) (rotr w x r.2.1) (x / 2 ^ r.2.2)

/-- The round constants. -/
def shaK (p : Sha2) : List Nat := (primes80.take p.rounds).map (fun q => cbrtFrac q / 2 ^ (64 - p.w))

/-- The message schedule, newest word first. -/
def shaSchedule (p : Sha2) (block : Bytes) : List Nat :=
  let ws := ((chunks (p.w / 8) block).map beNat).reverse
  (iter (fun (ws : List Nat) =>
    ((smallSigma p.w p.small1 (ws.getD 1 0) + ws.getD 6 0 + smallSigma p.w p.small0 (ws.getD 14 0) + ws.getD 15 0)
      % 2 ^ p.w) :: ws) (p.rounds - 16) ws).reverse

/-- One block. -/
def shaBlock (p : Sha2) (h : List Nat) (block : Bytes) : List Nat :=
  let m := 2 ^ p.w
  let step (s : List Nat) (kw : Nat × Nat) : List Nat :=
    match s with
    | [a, b, c, d, e, f, g, hh] =>
      let ch := Nat.xor (Nat.land e f) (Nat.land (m - 1 - e) g)
      let t1 := hh + bigSigma p.w p.big1 e + ch + kw.1 + kw.2
      let maj := xor3 (Nat.land a b) (Nat.land a c) (Nat.land b c)
      let t2 := bigSigma p.w p.big0 a + maj
      [(t1 + t2) % m, a, b, c, (d + t1) % m, e, f, g]
    | _ => s
  let r := (List.zip (shaK p) (shaSchedule p block)).foldl step h
  List.zipWith (fun x y => (x + y) % m) h r

/-- The padding that ends a message of `len` bytes. -/
def shaPad (p : Sha2) (len : Nat) : Bytes :=
  let bs := p.w * 2
  let l := p.w / 4
  let z := (2 * bs - (len % bs) - 1 - l) % bs
  0x80 :: (zeros z ++ beBytes (8 * len) l)

/-- Hash from a chaining value, with `done` bytes taken before. -/
def shaFrom (p : Sha2) (h : List Nat) (done : Nat) (msg : Bytes) : Bytes :=
  ((chunks (p.w * 2) (msg ++ shaPad p (done + msg.length))).foldl (shaBlock p) h).flatMap (fun x => beBytes x (p.w / 8))

def sha256Init : List Nat := (primes80.take 8).map (fun q => sqrtFrac q / 2 ^ 32)
def sha512Init : List Nat := (primes80.take 8).map sqrtFrac
def sha384Init : List Nat := ((primes80.drop 8).take 8).map sqrtFrac

def sha256 (m : Bytes) : Bytes := shaFrom sha32 sha256Init 0 m
def sha512 (m : Bytes) : Bytes := shaFrom sha64 sha512Init 0 m
def sha384 (m : Bytes) : Bytes := (shaFrom sha64 sha384Init 0 m).take 48

/-- HMAC with SHA-384 (FIPS 198-1). -/
def hmac384 (key msg : Bytes) : Bytes :=
  let k := padTo 128 (if key.length > 128 then sha384 key else key)
  sha384 (k.map (· ^^^ 0x5C) ++ sha384 (k.map (· ^^^ 0x36) ++ msg))

/-! ### SHA-3 (FIPS 202) -/

/-- The bits of the round-constant register, one per call. -/
def keccakRcBits : List Bool :=
  (iter (fun (st : List Bool × Nat) =>
    let b := st.2.testBit 0
    let r := st.2 * 2
    ((b :: st.1), if r.testBit 8 then Nat.xor (r % 256) 0x71 else r)) 255 ([], 1)).1.reverse

/-- Round constant `i`. -/
def keccakRc (i : Nat) : Nat :=
  ((List.range 7).map (fun j => if keccakRcBits.getD (j + 7 * i) false then 2 ^ (2 ^ j - 1) else 0)).sum

/-- Rotation offsets of rho in the order of the pi walk. -/
def keccakWalk : List (Nat × Nat × Nat) :=
  (iter (fun (st : List (Nat × Nat × Nat) × Nat × Nat × Nat) =>
    let x := st.2.1
    let y := st.2.2.1
    let t := st.2.2.2
    ((x, y, (t + 1) * (t + 2) / 2 % 64) :: st.1, y, (2 * x + 3 * y) % 5, t + 1)) 24 ([], 1, 0, 0)).1.reverse

def rotl64 (x r : Nat) : Nat := (x * 2 ^ r + x / 2 ^ (64 - r)) % 2 ^ 64

/-- The permutation over 25 lanes, lane x + 5 y. -/
def keccakF (s : List Nat) : List Nat :=
  (List.range 24).foldl (fun s rnd =>
    let at_ (x y : Nat) := s.getD (x % 5 + 5 * (y % 5)) 0
    let c := (List.range 5).map (fun x => (List.range 5).foldl (fun a y => Nat.xor a (at_ x y)) 0)
    let dd := (List.range 5).map (fun x => Nat.xor (c.getD ((x + 4) % 5) 0) (rotl64 (c.getD ((x + 1) % 5) 0) 1))
    let s1 := (List.range 25).map (fun i => Nat.xor (s.getD i 0) (dd.getD (i % 5) 0))
    let b0 := (List.replicate 25 0).set 0 (s1.getD 0 0)
    let b := keccakWalk.foldl (fun b (w : Nat × Nat × Nat) =>
      b.set (w.2.1 + 5 * ((2 * w.1 + 3 * w.2.1) % 5)) (rotl64 (s1.getD (w.1 + 5 * w.2.1) 0) w.2.2)) b0
    let chi := (List.range 25).map (fun i =>
      let x := i % 5
      let y := i / 5
      let g (k : Nat) := b.getD ((x + k) % 5 + 5 * y) 0
      Nat.xor (g 0) (Nat.land (2 ^ 64 - 1 - g 1) (g 2)))
    chi.set 0 (Nat.xor (chi.headD 0) (keccakRc rnd))) s

/-- SHA-3 with a rate in bytes and an output length. -/
def sha3 (rate out : Nat) (msg : Bytes) : Bytes :=
  let padLen := rate - msg.length % rate
  let pad : Bytes := if padLen = 1 then [0x86] else 0x06 :: (zeros (padLen - 2) ++ [0x80])
  let s := (chunks rate (msg ++ pad)).foldl (fun s b =>
    keccakF ((List.range 25).map (fun i => Nat.xor (s.getD i 0) (leAt b (8 * i) 8)))) (List.replicate 25 0)
  (s.flatMap (fun x => leBytes x 8)).take out

/-! ### P-384 (FIPS 186-5) -/

def p384p : Nat := 2 ^ 384 - 2 ^ 128 - 2 ^ 96 + 2 ^ 32 - 1
def p384b : Nat :=
  0xb3312fa7e23ee7e4988e056be3f82d19181d9c6efe8141120314088f5013875ac656398d8a2ed19d2a85c8edd3ec2aef
def p384n : Nat :=
  0xffffffffffffffffffffffffffffffffffffffffffffffffc7634d81f4372ddf581a0db248b0a77aecec196accc52973
def p384g : Nat × Nat :=
  (0xaa87ca22be8b05378eb1c71ef320ad746e1d3b628ba79b9859f741e082542a385502f25dbf55296c3a545e3872760ab7,
   0x3617de4a96262c6f5d9e98bf9292dc29f8f41dbd289a147ce9da3113b5f0b8c00a60b1ce1d7e819d7a431d7c90ea0e5f)

/-- b to the power e modulo m, over `k` bits of e. -/
def powMod (b e m : Nat) : Nat → Nat
  | 0 => 1 % m
  | k + 1 =>
    let r := powMod (b * b % m) (e / 2) m k
    if e % 2 = 1 then r * b % m else r

/-- The inverse modulo a prime of at most 384 bits. -/
def invMod (a m : Nat) : Nat := powMod (a % m) (m - 2) m 384

/-- Point addition on P-384; none is the point at infinity. -/
def ecAdd : Option (Nat × Nat) → Option (Nat × Nat) → Option (Nat × Nat)
  | none, q => q
  | p, none => p
  | some (x1, y1), some (x2, y2) =>
    let m := p384p
    if x1 = x2 ∧ (y1 + y2) % m = 0 then none
    else
      let l := if x1 = x2 then (3 * x1 * x1 + (m - 3)) * invMod (2 * y1) m % m
               else (y2 + m - y1) * invMod (x2 + m - x1) m % m
      let x3 := (l * l + 2 * m - x1 - x2) % m
      some (x3, (l * (x1 + m - x3) + m - y1) % m)

/-- Scalar multiplication over `k` bits. -/
def ecMul (p : Option (Nat × Nat)) (e : Nat) : Nat → Option (Nat × Nat)
  | 0 => none
  | k + 1 =>
    let r := ecMul (ecAdd p p) (e / 2) k
    if e % 2 = 1 then ecAdd p r else r

/-- Whether a point is on the curve. -/
def ecOnCurve (p : Nat × Nat) : Bool :=
  decide (p.1 < p384p) && decide (p.2 < p384p) &&
  decide (p.2 * p.2 % p384p = (p.1 ^ 3 + (p384p - 3) * p.1 + p384b) % p384p)

/-- The point of an uncompressed encoding of 97 bytes. -/
def ecPoint (bs : Bytes) : Option (Nat × Nat) :=
  let p := (beAt bs 1 48, beAt bs 49 48)
  if bs.length = 97 ∧ bs.head? = some 4 ∧ ecOnCurve p then some p else none

/-- The uncompressed encoding. -/
def ecBytes (p : Option (Nat × Nat)) : Bytes :=
  match p with
  | some (x, y) => 4 :: (beBytes x 48 ++ beBytes y 48)
  | none => [0]

/-- ECDSA verification over a digest, signature r and s of 48 bytes each. -/
def ecdsaVerify (pub digest sig : Bytes) : Bool :=
  let r := beAt sig 0 48
  let s := beAt sig 48 48
  match ecPoint pub with
  | none => false
  | some q =>
    if sig.length ≠ 96 ∨ r = 0 ∨ s = 0 ∨ p384n ≤ r ∨ p384n ≤ s then false
    else
      let e := beNat (digest.take 48)
      let w := invMod s p384n
      match ecAdd (ecMul (some p384g) (e * w % p384n) 384) (ecMul (some q) (r * w % p384n) 384) with
      | none => false
      | some (x, _) => decide (x % p384n = r)

/-- ECDSA signature of a digest with scalar `d` and nonce `k`. -/
def ecdsaSign (d k : Nat) (digest : Bytes) : Bytes :=
  let r := match ecMul (some p384g) k 384 with
    | some (x, _) => x % p384n
    | none => 0
  let s := invMod k p384n * (beNat (digest.take 48) + r * d) % p384n
  beBytes r 48 ++ beBytes s 48

/-- The shared x coordinate of ECDH. -/
def ecdhX (d : Nat) (q : Nat × Nat) : Bytes :=
  match ecMul (some q) d 384 with
  | some (x, _) => beBytes x 48
  | none => zeros 48

end Sys2Proof.Machine
end

