-- ==== Sys2Proof/Machine/Pqc.lean ====
section
/-! DEFINITION. The lattice algorithms that the spec names by their standards and does not print (PRESUMED, from FIPS 202,
FIPS 203 and FIPS 204): SHAKE, ML-DSA-87 verification, ML-KEM-1024. A sampling loop of the standards runs here over a stream of
fixed length, several times what it needs. -/

namespace Sys2Proof.Machine

/-- SHAKE of a rate in bytes: the first `n` bytes of its output. -/
def shake (rate n : Nat) (msg : Bytes) : Bytes :=
  let padLen := rate - msg.length % rate
  let pad : Bytes := if padLen = 1 then [0x9F] else 0x1F :: (zeros (padLen - 2) ++ [0x80])
  let s := (chunks rate (msg ++ pad)).foldl (fun s b =>
    keccakF ((List.range 25).map (fun i => Nat.xor (s.getD i 0) (leAt b (8 * i) 8)))) (List.replicate 25 0)
  let out (s : List Nat) : Bytes := (s.flatMap (fun x => leBytes x 8)).take rate
  (iter (fun (st : List Nat × Bytes) => (keccakF st.1, st.2 ++ out (keccakF st.1))) (n / rate) (s, out s)).2.take n

def shake128 (n : Nat) (msg : Bytes) : Bytes := shake 168 n msg
def shake256 (n : Nat) (msg : Bytes) : Bytes := shake 136 n msg

/-! ### Polynomials of 256 coefficients, as lists -/

/-- The lowest `k` bits of a number in reverse order. -/
def revBits : Nat → Nat → Nat
  | 0, _ => 0
  | k + 1, n => n % 2 * 2 ^ k + revBits k (n / 2)

def polyAdd (q : Nat) (a b : List Nat) : List Nat := List.zipWith (fun x y => (x + y) % q) a b
def polySub (q : Nat) (a b : List Nat) : List Nat := List.zipWith (fun x y => (x + (q - y % q)) % q) a b
def polyScale (q z : Nat) (a : List Nat) : List Nat := a.map (fun x => x * z % q)

/-- The number-theoretic transform of a list of 2 to the power `l + stop` coefficients, down to pieces of 2 to the power
`stop`; `zeta` gives the root of a node, whose children are 2 m and 2 m + 1. -/
def ntt (q stop : Nat) (zeta : Nat → Nat) : Nat → Nat → List Nat → List Nat
  | 0, _, p => p
  | l + 1, m, p =>
    let h := 2 ^ (l + stop)
    let a := p.take h
    let t := polyScale q (zeta m) (p.drop h)
    ntt q stop zeta l (2 * m) (polyAdd q a t) ++ ntt q stop zeta l (2 * m + 1) (polySub q a t)

/-- Its inverse but for the last factor; `zeta` gives the inverse of the root of a node. -/
def nttBack (q stop : Nat) (zeta : Nat → Nat) : Nat → Nat → List Nat → List Nat
  | 0, _, p => p
  | l + 1, m, p =>
    let h := 2 ^ (l + stop)
    let a := nttBack q stop zeta l (2 * m) (p.take h)
    let b := nttBack q stop zeta l (2 * m + 1) (p.drop h)
    polyAdd q a b ++ polyScale q (zeta m) (polySub q a b)

/-- Numbers of `w` bits packed in bytes, the lowest bits first. -/
def unpackBits (w : Nat) (bs : Bytes) : List Nat :=
  (chunks w bs).flatMap (fun c =>
    let n := leNat c
    (List.range (8 * c.length / w)).map (fun i => n / 2 ^ (w * i) % 2 ^ w))

def packBits (w : Nat) (xs : List Nat) : Bytes :=
  (chunks 8 xs).flatMap (fun g => leBytes ((g.zipIdx.map (fun x => x.1 * 2 ^ (w * x.2))).sum) (w * g.length / 8))

/-- The first `n` accepted values of a sampling. -/
def accept (n q : Nat) (xs : List Nat) : List Nat := (xs.filter (fun x => decide (x < q))).take n

/-! ### ML-DSA-87 (FIPS 204) -/

def dsaQ : Nat := 8380417

def dsaNtt (p : List Nat) : List Nat := ntt dsaQ 0 (fun m => powMod 1753 (revBits 8 m) dsaQ 9) 8 1 p
def dsaBack (p : List Nat) : List Nat :=
  polyScale dsaQ 8347681 (nttBack dsaQ 0 (fun m => powMod 1753 (512 - revBits 8 m) dsaQ 10) 8 1 p)

/-- A polynomial of the public matrix. -/
def dsaRej (seed : Bytes) : List Nat :=
  accept 256 dsaQ ((chunks 3 (shake128 1680 seed)).map (fun c => leNat c % 2 ^ 23))

/-- The challenge: 60 coefficients 1 or -1. -/
def dsaBall (seed : Bytes) : List Nat :=
  let s := shake256 680 seed
  let signs := leNat (s.take 8)
  ((List.range 60).foldl (fun (st : List Nat × Bytes) k =>
    let i := 196 + k
    let rest := st.2.dropWhile (fun b => decide (i < b.toNat))
    let j := (rest.headD 0).toNat
    ((st.1.set i (st.1.getD j 0)).set j (if signs.testBit k then dsaQ - 1 else 1), rest.drop 1))
    (List.replicate 256 0, s.drop 8)).1

/-- The hint of a signature, 8 lists of positions, where it is well formed. -/
def dsaHint (y : Bytes) : Option (List (List Nat)) :=
  let ends := (y.drop 75).map (fun b => b.toNat)
  let pos := (y.take 75).map (fun b => b.toNat)
  let part (i : Nat) : List Nat := (pos.take (ends.getD i 0)).drop (if i = 0 then 0 else ends.getD (i - 1) 0)
  let rising (l : List Nat) : Bool := (l.zip (l.drop 1)).all (fun x => decide (x.1 < x.2))
  if (List.range 8).all (fun i => decide ((if i = 0 then 0 else ends.getD (i - 1) 0) ≤ ends.getD i 0 ∧ ends.getD i 0 ≤ 75)
      && rising (part i)) && (pos.drop (ends.getD 7 0)).all (fun x => x = 0)
  then some ((List.range 8).map part) else none

/-- The high bits of a coefficient, moved by its hint. -/
def dsaUseHint (h : Bool) (r : Nat) : Nat :=
  let g2 := 261888
  let x := r % (2 * g2)
  let base := if x ≤ g2 then r - x else r + 2 * g2 - x
  let r1 := if base = dsaQ - 1 then 0 else base / (2 * g2)
  if !h then r1 else if 0 < x ∧ x ≤ g2 then (r1 + 1) % 16 else (r1 + 15) % 16

/-- Products of the transforms, summed. -/
def dsaDot (a b : List (List Nat)) : List Nat :=
  (List.zipWith (List.zipWith (fun x y => x * y % dsaQ)) a b).foldl (polyAdd dsaQ) (List.replicate 256 0)

/-- Whether a signature of 4,627 bytes verifies over a message with an empty context string. -/
def mldsaVerify (pub msg sig : Bytes) : Bool :=
  let rho := pub.take 32
  let t1 := (chunks 320 (pub.drop 32)).map (unpackBits 10)
  let ct := sig.take 64
  let zs := (chunks 640 ((sig.drop 64).take 4480)).map (fun b => (unpackBits 20 b).map (fun v => (dsaQ + 524288 - v) % dsaQ))
  let short := zs.all (fun z => z.all (fun x => decide (x < 524288 - 120 ∨ dsaQ - (524288 - 120) < x)))
  match dsaHint ((sig.drop 4544).take 83) with
  | none => false
  | some hint =>
    let mu := shake256 64 (shake256 64 pub ++ [0, 0] ++ msg)
    let c := dsaNtt (dsaBall ct)
    let zh := zs.map dsaNtt
    let w1 := (List.range 8).map (fun r =>
      let az := dsaDot ((List.range 7).map (fun s => dsaRej (rho ++ leBytes s 1 ++ leBytes r 1))) zh
      let ctt := dsaDot [c] [dsaNtt ((t1.getD r []).map (fun x => x * 8192))]
      let w := dsaBack (polySub dsaQ az ctt)
      w.zipIdx.map (fun x => dsaUseHint ((hint.getD r []).contains x.2) x.1))
    decide (pub.length = 2592 ∧ sig.length = 4627) && short &&
      decide (shake256 64 (mu ++ w1.flatMap (packBits 4)) = ct)

/-! ### ML-KEM-1024 (FIPS 203) -/

def kemQ : Nat := 3329

def kemNtt (p : List Nat) : List Nat := ntt kemQ 1 (fun m => powMod 17 (revBits 7 m) kemQ 8) 7 1 p
def kemBack (p : List Nat) : List Nat :=
  polyScale kemQ 3303 (nttBack kemQ 1 (fun m => powMod 17 (256 - revBits 7 m) kemQ 9) 7 1 p)

/-- A product of two transforms. -/
def kemMul (a b : List Nat) : List Nat :=
  (List.zip (chunks 2 a) (chunks 2 b)).zipIdx.flatMap (fun x =>
    let a0 := x.1.1.getD 0 0
    let a1 := x.1.1.getD 1 0
    let b0 := x.1.2.getD 0 0
    let b1 := x.1.2.getD 1 0
    [(a0 * b0 + a1 * b1 % kemQ * powMod 17 (2 * revBits 7 x.2 + 1) kemQ 9) % kemQ, (a0 * b1 + a1 * b0) % kemQ])

def kemDot (a b : List (List Nat)) : List Nat :=
  (List.zipWith kemMul a b).foldl (polyAdd kemQ) (List.replicate 256 0)

/-- A polynomial of the public matrix, row `i`, column `j`. -/
def kemRej (rho : Bytes) (i j : Nat) : List Nat :=
  accept 256 kemQ ((chunks 3 (shake128 1680 (rho ++ leBytes j 1 ++ leBytes i 1))).flatMap (fun c =>
    let n := leNat c
    [n % 4096, n / 4096]))

/-- A small polynomial, of the centred binomial distribution with parameter 2. -/
def kemSmall (seed : Bytes) (n : Nat) : List Nat :=
  (shake256 128 (seed ++ leBytes n 1)).flatMap (fun b =>
    let v := b.toNat
    let half (x : Nat) : Nat := ((x % 2 + x / 2 % 2) + (kemQ - (x / 4 % 2 + x / 8 % 2))) % kemQ
    [half v, half (v / 16)])

/-- A coefficient rounded to `w` bits, and back. -/
def kemCompress (w x : Nat) : Nat := (x * 2 ^ w * 2 + kemQ) / (2 * kemQ) % 2 ^ w
def kemExpand (w y : Nat) : Nat := (y * kemQ * 2 + 2 ^ w) / 2 ^ (w + 1)

/-- The secret vector, transformed, and the encapsulation key of a seed. -/
def kemKeys (seed : Bytes) : List (List Nat) × Bytes :=
  let g := sha3 72 64 (seed ++ [4])
  let rho := g.take 32
  let small (n : Nat) : List Nat := kemNtt (kemSmall (g.drop 32) n)
  let s := (List.range 4).map small
  let t := (List.range 4).map (fun i => polyAdd kemQ (kemDot ((List.range 4).map (kemRej rho i)) s) (small (4 + i)))
  (s, t.flatMap (packBits 12) ++ rho)

/-- The ciphertext of a 32-byte message under an encapsulation key with a seed. -/
def kemEncrypt (ek m r : Bytes) : Bytes :=
  let t := (chunks 384 (ek.take 1536)).map (fun b => (unpackBits 12 b).map (· % kemQ))
  let rho := ek.drop 1536
  let y := (List.range 4).map (fun n => kemNtt (kemSmall r n))
  let u := (List.range 4).map (fun j =>
    polyAdd kemQ (kemBack (kemDot ((List.range 4).map (fun i => kemRej rho i j)) y)) (kemSmall r (4 + j)))
  let v := polyAdd kemQ (polyAdd kemQ (kemBack (kemDot t y)) (kemSmall r 8)) ((unpackBits 1 m).map (kemExpand 1))
  u.flatMap (fun p => packBits 11 (p.map (kemCompress 11))) ++ packBits 5 (v.map (kemCompress 5))

/-- The encapsulation key of a draw of 64 bytes. -/
def mlkemKey (draw : Bytes) : Bytes := (kemKeys (draw.take 32)).2

/-- The ciphertext and the secret that an encapsulation under `ek` gives with a draw of 32 bytes. -/
def mlkemEncaps (ek draw : Bytes) : Bytes × Bytes :=
  let g := sha3 72 64 (draw ++ sha3 136 32 ek)
  (kemEncrypt ek draw (g.drop 32), g.take 32)

/-- The secret that a decapsulation gives with the keys of a draw. -/
def mlkemDecaps (draw ct : Bytes) : Bytes :=
  let keys := kemKeys (draw.take 32)
  let u := (chunks 352 (ct.take 1408)).map (fun b => kemNtt ((unpackBits 11 b).map (kemExpand 11)))
  let v := (unpackBits 5 (ct.drop 1408)).map (kemExpand 5)
  let w := polySub kemQ v (kemBack (kemDot keys.1 u))
  let m := packBits 1 (w.map (kemCompress 1))
  let g := sha3 72 64 (m ++ sha3 136 32 keys.2)
  if kemEncrypt keys.2 m (g.drop 32) = ct then g.take 32 else shake256 32 (draw.drop 32 ++ ct)

end Sys2Proof.Machine
end

