-- ==== Sys2Proof/Config.lean ====
section
/-! DEFINITION. What one part fixes at the factory, and the free values: constants with no body, so that nothing
can be proved of the value the spec leaves open. -/

namespace Sys2Proof.Config

/-- A draw from the TRNG or the DRBG: byte `i` of draw number `n` (09 R280, R286, R305; 13 R422; 06 R171). -/
opaque drawByte (n i : Nat) : Byte

/-- A value the spec does not state, of `w` bits, drawn with the free counter at `n`. -/
opaque freeBits (w n : Nat) : BitVec w

/-- The stepping shown in GLB_ID (13 R395, reset column 'Silicon'). -/
opaque stepping : BitVec 8

/-- The AVS set point, in mV above 700, that the trim values hold (19 R536). -/
opaque avsTrim : BitVec 8

/-- The AVS set point, in mV above 700, after a change with die temperature; its law is not stated (19 R536). -/
opaque avsAt (temp : Int) : BitVec 8

/-- The ECDSA P-384 public keys, 97 bytes: 0 the firmware key, 1 the life-cycle key, 2 the Lemrex device CA
(17 R505, 16 R493, 08 R267). -/
opaque lemrexEcdsaByte (key i : Nat) : Byte

/-- The ML-DSA-87 public keys, 2,592 bytes: 0 the firmware key, 1 the life-cycle key (17 R505, 16 R493). -/
opaque lemrexMldsaByte (key i : Nat) : Byte

/-- ML-DSA-87 signature with the factory key of the device (08 R270). -/
opaque mldsaSignByte (msg : Bytes) (n i : Nat) : Byte

/-- ECDSA P-384 private scalar of the device's factory key (08 R267). -/
opaque deviceEcdsaScalar : Nat

/-- The factory certificates: 0 the ECDSA one, 1 the ML-DSA one (08 R267). -/
opaque certByte (cert i : Nat) : Byte
opaque certLength (cert : Nat) : Nat

/-- Whether an X.509 certificate verifies under the Lemrex device CA (08 R271; RFC 5280). -/
opaque certVerifies (cert : Bytes) : Bool

/-- The 16-byte device ID: the serial number of both factory certificates (08 R267). -/
opaque deviceIdByte (i : Nat) : Byte

/-- The serial number that another device's certificate carries (08 R267). -/
opaque peerSerialByte (cert : Bytes) (i : Nat) : Byte

/-- The serial number of a certificate: of either factory certificate, the device ID (08 R267). -/
def certSerialByte (cert : Bytes) (i : Nat) : Byte :=
  if [0, 1].any (fun c => decide (cert = (List.range (certLength c)).map (certByte c))) then deviceIdByte i
  else peerSerialByte cert i

/-- The public key a certificate carries (08 R267). -/
opaque certKeyByte (cert : Bytes) (i : Nat) : Byte

/-- The next state of the 15-bit LFSR of an enclosure loop, and the bit that a state drives; the sequences are not stated (16
R476). -/
opaque loopNext (loop : Nat) (state : BitVec 15) : BitVec 15
opaque loopBit (loop : Nat) (state : BitVec 15) : Bool

/-- How far an adaptive equaliser's tap of a lane would have moved by a tick, in LSB (03 R79). -/
opaque eqDrift (lane tap tick : Nat) : Int

/-- 64-bit words of SRAM and of MRAM that the scrubber reads; their numbers are not stated (15 R465). -/
opaque sramWords : Nat
opaque mramWords : Nat

/-- The status of a command whose data read ended in an unsuccessful completion, which the spec does not state
(13 R386, R414). -/
opaque readFailStatus (n : Nat) : Nat

end Sys2Proof.Config
end

