-- ==== Sys2Proof/Machine/Images.lean ====
section
/-! DEFINITION. The staged objects: one schema per `STAGE_*` class, that is the fields of the object's table with
their widths, ranges and reset values, the object image of 14 R443, and the reset object of each index. -/

namespace Sys2Proof.Machine

/-- A staged object: its fixed fields in table order, and its lists (14 R443). -/
structure Obj where
  f : List Int
  l : List (List (List Int)) := []
deriving DecidableEq, Repr

/-- Field `i` of an object, as a natural number. -/
def Obj.n (o : Obj) (i : Nat) : Nat := (o.f.getD i 0).toNat

/-- Field `i` of an object, signed. -/
def Obj.z (o : Obj) (i : Nat) : Int := o.f.getD i 0

/-- Field `i` of an object, as a flag. -/
def Obj.b (o : Obj) (i : Nat) : Bool := o.f.getD i 0 ≠ 0

/-- List `i` of an object. -/
def Obj.lst (o : Obj) (i : Nat) : List (List Int) := o.l.getD i []

/-- One field of a table: bytes in the image, range, reset value, and whether the image holds it in network order
(only the address of a `STAGE_LPM` image, 06 R185). -/
structure Fld where
  bytes : Nat
  lo : Int
  hi : Int
  rst : Int := 0
  net : Bool := false

/-- The schema of a class: fixed fields, then lists of items. -/
structure Schema where
  fixed : List Fld
  lists : List (List Fld) := []

/-- An unsigned field of `k` bytes with a range. -/
def fu (k : Nat) (lo hi : Int) (rst : Int := 0) : Fld := { bytes := k, lo := lo, hi := hi, rst := rst }

/-- An unsigned field that takes every value of its `w` bits. -/
def fb (w : Nat) (rst : Int := 0) : Fld := { bytes := (w + 7) / 8, lo := 0, hi := 2 ^ w - 1, rst := rst }

/-- The classes, numbered as their opcode less 0x0100 (14 R444). -/
def cFret := 2
def cDomainMap := 3
def cQuota := 4
def cPortLayout := 5
def cLane := 6
def cFaultMirror := 7
def cMgmtPort := 8
def cSmvGroup := 9
def cParseNode := 10
def cParseTrans := 11
def cParsePattern := 12
def cParsePort := 13
def cRecirc := 14
def cPunt := 15
def cKeyProfile := 16
def cTcam := 17
def cClsPort := 18
def cService := 19
def cLpm := 20
def cChannel := 21
def cMacsecPort := 22
def cSecy := 23
def cTxSc := 24
def cRxSc := 25
def cSa := 26
def cLlPair := 27
def cBlobTable := 28
def cPark := 29
def cStampPort := 30
def cTimePin := 31
def cTimeGlobal := 32
def cEgressPort := 33
def cQueue := 34
def cGateList := 35
def cMeter := 36
def cTrustMap := 37

/-- The fields ACTION to EGRESS of a TCAM entry, which a default result has too (06 R163, R165): ACTION LOOKUP MISS
SECY SC SERVICE FAMILY ADDR_C CHAN_C CHAN_SHIFT METER_EN METER TC STREAM EGRESS. -/
def resultFields : List Fld :=
  [fu 1 0 2 1, fu 1 0 3, fb 1, fb 10, fb 14, fb 10, fb 1, fu 1 4 38 4, fu 1 4 39 4, fu 1 0 4, fb 1, fb 13, fb 3,
   fb 4, fb 5]

/-- An index range: first and last entry. -/
def rangeFields (k : Nat) : List Fld := [fb (8 * k), fb (8 * k)]

/-- An index range of one slice. -/
def sliceRange (k : Nat) : List Fld := [fb 1, fb (8 * k), fb (8 * k)]

/-- The schema of each class. -/
def schema (cls : Nat) : Schema :=
  match cls with
  -- time base, rate, REJOIN_RULE, CTL_LOSS_HOLD, FALLBACK (02 R35, 15 R458)
  | 2 => { fixed := [fb 3, fu 2 1000 32000 4000, fb 1, fu 3 0 4000000 4000, fb 1] }
  | 3 => { fixed := [fu 1 0 3, fb 3] }
  -- ports; pinned first, last; cache cap; parents first, last; MAC count; LPM count; minimum cells; share W; time
  -- bases owned; read grants; pins; grants CLEAR_KEY PASSTHROUGH FW LC. Lists: SecYs, transmit SCs, receive SCs,
  -- SAs, TCAM, nodes, transitions, patterns, services, channel entries, meters (13 R390)
  | 4 => { fixed := [fb 32, fu 2 0 4087 1, fu 2 0 4087 0, fu 2 0 12288, fu 2 0 1023 1, fu 2 0 1023 0, fu 3 0 262144,
                     fu 3 0 65536, fu 3 0 196608, fb 8 1, fb 8, fb 8 1, fb 4, fb 4],
           lists := [rangeFields 2, rangeFields 2, rangeFields 2, rangeFields 2, sliceRange 2, sliceRange 1,
                     sliceRange 2, sliceRange 1, rangeFields 2, rangeFields 2, sliceRange 2] }
  -- per lane: the type of the port that starts there (8: none), 25GbE FEC choice (0 RS(528,514), 1 none, as 03 R64 lists
  -- them); then the Smivia lanes (03 R62)
  | 5 => { fixed := List.replicate 8 (fu 1 0 8 8) ++ List.replicate 8 (fb 1) ++ [fb 8] }
  -- FIR pre, main, post; adaptation mode; CTLE, 12 FFE taps, 10 DFE taps; inversion; test modes (03 R74 to R81). DESIGN
  -- CHOICE: 22 tap fields for both modulations, each one signed byte; of the two test modes the transmit one comes first,
  -- and 0 is no test, 1 to 8 the patterns as 03 R81 lists them (log 85)
  | 6 => { fixed := [fu 1 (-16) 0 (-4), fu 1 24 64 56, fu 1 (-24) 0 (-4), fu 1 0 2, fu 1 0 20] ++
                    List.replicate 22 (fu 1 (-128) 127) ++ [fb 1, fu 1 0 8, fu 1 0 8] }
  | 7 => { fixed := [fb 5] }
  -- mode (0 1000BASE-X, 1 SGMII), auto-negotiation, two inversions, MAC address (03 R83, R84, 13 R418). DESIGN CHOICE:
  -- auto-negotiation is 1 where enabled, as after reset (log 85)
  | 8 => { fixed := [fb 1, fb 1 1, fb 1, fb 1, fb 48] }
  -- tag, channel, payload type, hold-offs LOS LOF LOM AIS RDI LOA PLM, LOA_SET, LOA_CLEAR, delay measurement
  -- (0 enabled), delay time base, traceable (0 set), threshold, force AIS (0 set), KEY_MODE, REKEY_INTERVAL
  | 9 => { fixed := [fb 16, fb 32, fu 1 0x10 0xFE 0x10, fu 2 0 10000 120, fu 2 0 10000 120, fu 2 0 10000, fu 2 0 10000,
                     fu 2 0 10000, fu 2 0 10000, fu 2 0 10000, fu 1 1 255 8, fu 1 1 255 4, fb 1, fb 3, fb 1 1, fb 16,
                     fb 1 1, fb 1, fu 3 0 4294967 86400],
           lists := [[fb 4, fb 5, fb 3], [fb 128]] }
  | 10 => { fixed := [fb 256] }
  | 11 => { fixed := [fb 64] }
  | 12 => { fixed := [fb 1, fu 1 0 2, fu 1 1 255 1, fb 1, fu 2 0 511, fu 2 0 511, fu 1 1 32 1, fb 256, fb 256] }
  | 13 => { fixed := [fb 8, fu 1 0 2, fu 1 0 1 1, fu 1 0 50] }
  | 14 => { fixed := [fb 8, fb 4] ++ resultFields }
  | 15 => { fixed := [fu 3 1 100000 1, fu 2 1 1024 1] }
  | 16 => { fixed := (List.range 40).map (fun (i : Nat) => fu 1 0 40 i) }
  | 17 => { fixed := [fb 1, fb 4, fb 640, fb 640] ++ resultFields }
  | 18 => { fixed := [fb 4] ++ resultFields }
  | 19 => { fixed := [fb 1 1, fb 1 1, fu 3 1 65536 20000, fu 1 0 255 60, fu 1 1 255 8, fu 2 1 3600 10, fb 1 1] }
  | 20 => { fixed := [fu 2 0 1023, fb 1, fu 1 0 128, { bytes := 16, lo := 0, hi := 2 ^ 128 - 1, net := true },
                      fu 2 0 16383] }
  | 21 => { fixed := [fb 1, fb 14, fb 1, fb 4, fb 1, fb 1, fb 13, fb 1, fb 3, fb 1, fb 5, fb 1] }
  | 22 => { fixed := [fu 1 0 2, fb 1] }
  | 23 => { fixed := [fb 1, fb 4, fb 2, fb 1, fb 1, fb 1, fb 1, fb 64, fb 1, fu 4 0 (2 ^ 30), fu 1 0 2] }
  | 24 => { fixed := [fb 1, fb 10, fb 64, fu 1 0 50] }
  | 25 => { fixed := [fb 1, fb 10, fb 64, fu 1 0 50, fu 2 0 65535 65535] }
  | 26 => { fixed := [fb 1, fb 1, fb 15, fb 2, fb 20, fb 32, fb 96] }
  | 27 => { fixed := [fu 1 16 31, fu 2 400 2000 400] }
  | 28 => { fixed := [fb 48, fu 1 10 20 10] }
  | 29 => { fixed := [fu 2 10 10000 200] }
  -- time base, record mask (receive 3 to 0, transmit 7 to 4), one-step, lead, board delays receive, transmit
  | 30 => { fixed := [fb 3, fb 8, fb 1, fu 2 1000 20000 2000, fu 3 (-100000) 100000, fu 3 (-100000) 100000] }
  | 31 => { fixed := [fu 1 0 3, fb 3, fb 1, fb 48, fu 4 0 999999999, fu 4 1000 1000000000 1000000000,
                      fu 4 10 1000000000 100000000, fu 3 (-50000) 50000] }
  -- backup time base (8: none); per time base: servo source (0 none, 1 to 4 TIO0 to TIO3, 5 to 12 TB0 to TB7),
  -- offset in ns, step limit in ns (11 R339, R340)
  | 32 => { fixed := fu 1 0 8 8 :: (List.replicate 8 [fu 1 0 12, fu 8 (-(2 ^ 63)) (2 ^ 63 - 1),
                                    fu 4 100 1000000000 1000]).flatten }
  | 33 => { fixed := [fu 1 (-16) 64 20, fu 3 0 800000, fu 3 0 1048576 65536, fu 3 64 196608 196608] }
  | 34 => { fixed := [fb 1 1, fu 1 1 255 1, fu 2 60 16032 16032, fu 3 0 800000, fu 3 0 1048576 65536, fb 1 1,
                      fu 3 0 1000000, fu 3 0 65536, fu 1 (-4) 4 0, fu 1 (-4) 4 (-1), fu 1 (-4) 4 4] }
  | 35 => { fixed := [fb 1, fb 3, fb 48, fu 4 0 999999999, fu 4 1000 1000000000 1000000], lists := [[fb 64]] }
  | 36 => { fixed := [fb 1, fb 1, fb 1, fb 4, fu 4 0 800000000, fb 24, fu 4 0 800000000, fb 24, fb 1, fu 1 (-32) 32,
                      fb 1, fb 1] }
  | 37 => { fixed := List.replicate 16 (fu 1 0 3) }
  | _ => { fixed := [] }

/-- The value a field of an image holds. -/
def Fld.read (x : Fld) (bs : Bytes) : Int :=
  let n := if x.net then beNat bs else leNat bs
  if x.lo < 0 then toSigned (8 * x.bytes) n else n

/-- The bytes of a field value. -/
def Fld.write (x : Fld) (v : Int) : Bytes :=
  let n := ofSigned (8 * x.bytes) v
  if x.net then beBytes n x.bytes else leBytes n x.bytes

/-- Whether a value is in the field's range. -/
def Fld.ok (x : Fld) (v : Int) : Bool := decide (x.lo ≤ v) && decide (v ≤ x.hi)

/-- The fields of a run of bytes, and the bytes left. -/
def readFields : List Fld → Bytes → List Int × Bytes
  | [], bs => ([], bs)
  | x :: xs, bs =>
    let r := readFields xs (bs.drop x.bytes)
    (x.read (bs.take x.bytes) :: r.1, r.2)

/-- The bytes of a run of fields. -/
def writeFields : List Fld → List Int → Bytes
  | [], _ => []
  | x :: xs, vs => x.write (vs.headD 0) ++ writeFields xs vs.tail

/-- The bytes of a run of fields, in number. -/
def fieldsLen (xs : List Fld) : Nat := (xs.map Fld.bytes).sum

/-- `n` items of a list, and the bytes left. -/
def readItems (xs : List Fld) : Nat → Bytes → List (List Int) × Bytes
  | 0, bs => ([], bs)
  | n + 1, bs =>
    let a := readFields xs bs
    let r := readItems xs n a.2
    (a.1 :: r.1, r.2)

/-- The lists of an image; none where the image ends inside one. -/
def readLists : List (List Fld) → Bytes → Option (List (List (List Int)) × Bytes)
  | [], bs => some ([], bs)
  | xs :: xss, bs =>
    if bs.length < 2 then none
    else
      let n := leNat (bs.take 2)
      if bs.length < 2 + n * fieldsLen xs then none
      else
        let a := readItems xs n (bs.drop 2)
        (readLists xss a.2).map (fun r => (a.1 :: r.1, r.2))

/-- The object of an image, or none where its length is not the one of R443 (`E_LEN`). -/
def readImage (cls : Nat) (bs : Bytes) : Option Obj :=
  let sc := schema cls
  if bs.length < fieldsLen sc.fixed then none
  else
    let a := readFields sc.fixed bs
    match readLists sc.lists a.2 with
    | some (ls, []) => some { f := a.1, l := ls }
    | _ => none

/-- The image of an object (14 R443). -/
def writeImage (cls : Nat) (o : Obj) : Bytes :=
  let sc := schema cls
  writeFields sc.fixed o.f ++
    (List.zipWith (fun xs items => leBytes items.length 2 ++ (items.map (writeFields xs)).flatten) sc.lists o.l).flatten

/-- Bytes in the image of an object. -/
def imageLen (cls : Nat) (o : Obj) : Nat :=
  let sc := schema cls
  fieldsLen sc.fixed + (List.zipWith (fun xs items => 2 + items.length * fieldsLen xs) sc.lists o.l).sum

/-- 512-bit words that an object takes (02 R52). -/
def objWords (cls : Nat) (o : Obj) : Nat := ceilDiv (imageLen cls o) 64

/-- The 512-bit words of an object. An object without an image, which no staged image can give, is one word that no image
has. -/
def imageWords (cls : Nat) (o : Obj) : List Bytes :=
  if o.f = [] then [[]]
  else
    let b := writeImage cls o
    (List.range (ceilDiv b.length 64)).map (fun i => bytesAt b (64 * i) 64)

/-- The words to write, by number, to turn stored words into others: those that differ (02 R52). -/
def diffWords (new old : List Bytes) : List Nat := (List.range new.length).filter (fun i => decide (new[i]? ≠ old[i]?))

/-- Whether every field and list item is in its range (rule 1 of 02 R50). -/
def fieldsOk (cls : Nat) (o : Obj) : Bool :=
  let sc := schema cls
  (List.zipWith Fld.ok sc.fixed o.f).all id &&
  (List.zipWith (fun xs items => items.all (fun it => (List.zipWith Fld.ok xs it).all id)) sc.lists o.l).all id

/-- The object that a schema gives at reset. -/
def schemaReset (cls : Nat) : Obj :=
  let sc := schema cls
  { f := sc.fixed.map Fld.rst, l := sc.lists.map (fun _ => []) }

/-- How many entries a class has: the range of its INDEX, per slice where INDEX carries the slice (14 R444). -/
def classSize (cls : Nat) : Nat :=
  match cls with
  | 2 | 15 | 20 | 28 | 32 => 1
  | 3 | 4 => 33
  | 5 => 4
  | 6 | 7 | 13 | 18 | 30 | 33 | 35 => 32
  | 8 => 2
  | 9 | 14 | 29 => 2
  | 10 | 12 => 256
  | 11 => 2048
  | 16 | 37 => 16
  | 17 => 4096
  | 19 | 23 => 1024
  | 21 => 4096
  | 22 | 27 => 16
  | 24 => 16384
  | 25 => 32768
  | 26 => 65536
  | 31 => 4
  | 34 => 256
  | 36 => 8192
  | _ => 0

/-- Whether bit 31 of the INDEX is the slice and the rest the entry (14 R442, R444). -/
def perSlice (cls : Nat) : Bool := [10, 11, 12, 16, 17, 36, 37].contains cls

/-- Whether an index names an entry of the class. -/
def indexOk (cls idx : Nat) : Bool :=
  if perSlice cls then decide (idx % 2 ^ 31 < classSize cls) else decide (idx < classSize cls)

/-- The key of an object in its table: the prefix for `STAGE_LPM`, the domain for the objects kept per domain, else
the INDEX. -/
def lpmKey (service family len addr : Nat) : Nat := ((service * 256 + family) * 256 + len) * 2 ^ 128 + addr

/-- The prefix of a key, as an object of PEER zero. -/
def lpmObjOf (key : Nat) : Obj :=
  { f := [(key / 2 ^ 144 : Nat), (key / 2 ^ 136 % 256 : Nat), (key / 2 ^ 128 % 256 : Nat), (key % 2 ^ 128 : Nat), 0] }

def objKey (cls dom idx : Nat) (o : Obj) : Nat :=
  if cls = cLpm then lpmKey (o.n 0) (o.n 1) (o.n 2) (o.n 3)
  else if cls = cPunt ∨ cls = cBlobTable then dom
  else idx

/-- The base image of the parser (05 R157). A node's fields by name; the rest of the node is zero. -/
structure NodeSpec where
  cls : Nat
  selOff : Nat := 0
  selWidth : Nat := 0
  trBase : Nat := 0
  trCount : Nat := 0
  dflt : Nat := 0
  mode : Nat := 0
  adv : Nat := 0
  len : Nat × Nat × Nat × Nat × Nat := (0, 0, 0, 0, 0)
  advMin : Nat := 0
  lc : Option (Nat × Nat) := none
  sectag : Nat := 0
  ex : List (Nat × Nat × Nat × Nat) := []

/-- One extraction field of 19 bits: EX_OFF EX_UNITS EX_DEST EX_INHDR. -/
def exField (e : Nat × Nat × Nat × Nat) : Nat := ((e.1 * 16 + e.2.1) * 64 + e.2.2.1) * 2 + e.2.2.2

/-- The 256-bit node entry (05 R135). -/
def nodeEntry (s : NodeSpec) : Nat :=
  let l := s.len
  let lc := s.lc.getD (0, 0)
  let ex (i : Nat) := (s.ex.getD i (0, 0, 0, 0))
  s.cls * 2 ^ 248 + s.selOff * 2 ^ 240 + s.selWidth * 2 ^ 238 + s.trBase * 2 ^ 227 + s.trCount * 2 ^ 222 +
  s.dflt * 2 ^ 213 + s.mode * 2 ^ 212 + s.adv * 2 ^ 203 + l.1 * 2 ^ 195 + l.2.1 * 2 ^ 191 + l.2.2.1 * 2 ^ 187 +
  l.2.2.2.1 * 2 ^ 185 + l.2.2.2.2 * 2 ^ 177 + s.advMin * 2 ^ 168 +
  (if s.lc.isSome then 2 ^ 167 + lc.1 * 2 ^ 159 + 15 * 2 ^ 151 + lc.2 * 2 ^ 141 else 0) + s.sectag * 2 ^ 140 +
  exField (ex 0) * 2 ^ 121 + exField (ex 1) * 2 ^ 102 + exField (ex 2) * 2 ^ 83 + exField (ex 3) * 2 ^ 64

/-- Next-node code ACCEPT (05 R136). -/
def nextAccept := 256

/-- Next-node code REJECT (05 R136). -/
def nextReject := 257

/-- One transition entry: VALUE, MASK, NEXT. -/
def transEntry (v m n : Nat) : Nat := v * 2 ^ 48 + m * 2 ^ 32 + n * 2 ^ 23

/-- The transition lists of the base image, in node order; nodes 2 and 12 share the list of node 1, node 13 the list
of node 6 stands on its own (05 R157). -/
def baseTransList : List Nat :=
  let w := 0xFFFF
  let b := 0x00FF
  [transEntry 0x8100 w 1, transEntry 0x88A8 w 2, transEntry 0x88E5 w 3, transEntry 0x0800 w 4, transEntry 0x86DD w 6,
   transEntry 0x88F7 w 9, transEntry 0x88B8 w 10, transEntry 0x88BA w 11,
   transEntry 0x8100 w 1, transEntry 0x88E5 w 3, transEntry 0x0800 w 4, transEntry 0x86DD w 6, transEntry 0x88F7 w 9,
   transEntry 0x88B8 w 10, transEntry 0x88BA w 11,
   transEntry 0 0x1FFF 5,
   transEntry 17 b 7, transEntry 6 b 8,
   transEntry 17 b 7, transEntry 6 b 8, transEntry 0 b 13, transEntry 43 b 13, transEntry 60 b 13,
   transEntry 319 w 9, transEntry 320 w 9,
   transEntry 17 b 7, transEntry 6 b 8, transEntry 0 b 13, transEntry 43 b 13, transEntry 60 b 13]

/-- The nodes of the base image. -/
def baseNode (i : Nat) : Option NodeSpec :=
  match i with
  | 0 => some { cls := 1, selOff := 12, selWidth := 2, trBase := 0, trCount := 8, dflt := 256, adv := 14,
                ex := [(0, 3, 4, 0), (6, 3, 7, 0), (12, 1, 10, 0)] }
  | 1 => some { cls := 2, selOff := 2, selWidth := 2, trBase := 8, trCount := 7, dflt := 256, adv := 4,
                ex := [(0, 1, 12, 0), (2, 1, 10, 0)] }
  | 2 => some { cls := 3, selOff := 2, selWidth := 2, trBase := 8, trCount := 7, dflt := 256, adv := 4,
                ex := [(0, 1, 11, 0), (2, 1, 10, 0)] }
  | 3 => some { cls := 4, selOff := 0, selWidth := 1, dflt := 12, mode := 1, len := (0, 13, 0, 3, 6), advMin := 6,
                sectag := 1, ex := [(0, 1, 13, 0), (2, 2, 14, 0), (6, 4, 16, 1)] }
  | 4 => some { cls := 5, selOff := 6, selWidth := 2, trBase := 15, trCount := 1, dflt := 256,
                ex := [(12, 2, 20, 0), (16, 2, 22, 0)] }
  | 5 => some { cls := 6, selOff := 9, selWidth := 1, trBase := 16, trCount := 2, dflt := 256, mode := 1,
                len := (0, 8, 3, 2, 0), advMin := 20, lc := some (2, 0), ex := [(8, 1, 34, 0)] }
  | 6 => some { cls := 7, selOff := 6, selWidth := 1, trBase := 18, trCount := 5, dflt := 256, adv := 40,
                lc := some (4, 40), ex := [(24, 8, 24, 0), (6, 1, 34, 0)] }
  | 7 => some { cls := 8, selOff := 2, selWidth := 2, trBase := 23, trCount := 2, dflt := 256, adv := 8,
                lc := some (4, 0), ex := [(0, 1, 32, 0), (2, 1, 33, 0)] }
  | 8 => some { cls := 9, dflt := 256, mode := 1, len := (12, 12, 3, 2, 0), advMin := 20,
                ex := [(0, 1, 32, 0), (2, 1, 33, 0)] }
  | 9 => some { cls := 10, dflt := 256, adv := 34, lc := some (2, 0), ex := [(0, 1, 36, 0), (4, 1, 37, 0)] }
  | 10 => some { cls := 11, dflt := 256, adv := 8, lc := some (2, 0), ex := [(0, 1, 35, 0)] }
  | 11 => some { cls := 12, dflt := 256, adv := 8, lc := some (2, 0), ex := [(0, 1, 35, 0)] }
  | 12 => some { cls := 13, selOff := 0, selWidth := 2, trBase := 8, trCount := 7, dflt := 256, adv := 2,
                 ex := [(0, 1, 10, 0)] }
  | 13 => some { cls := 14, selOff := 0, selWidth := 1, trBase := 25, trCount := 5, dflt := 256, mode := 1,
                 len := (0, 0, 7, 3, 8), advMin := 8 }
  | 14 => some { cls := 15, dflt := 256 }
  | 15 => some { cls := 16, dflt := 256 }
  | _ => none

/-- The straps sampled at START_UP: PORTMAP0, PORTMAP1, PCIE_BIF. -/
structure Straps where
  portmap0 : Nat
  portmap1 : Nat
  pcieBif : Nat
deriving DecidableEq, Repr

/-- PORTMAP of a slice. -/
def Straps.portmap (s : Straps) (slice : Nat) : Nat := if slice = 0 then s.portmap0 else s.portmap1

/-- Lanes of a port type (03 R62): 0 800GbE, 1 400GbE, 2 200GbE, 3 100GbE, 4 50GbE, 5 25GbE, 6 10GbE. -/
def typeLanes (t : Nat) : Nat := match t with | 0 => 8 | 1 => 4 | 2 => 2 | _ => 1

/-- The layout image of one strap value and side (03 R63). DESIGN CHOICE: the 25GbE ports of 0b101 run RS(528,514), the first
choice of 03 R64 (log 75). -/
def strapLayout (pm side : Nat) : Obj :=
  let ty := if pm = 7 then (if side = 0 then 8 else 0) else pm
  let types := (List.range 8).map (fun i => if ty < 7 ∧ i % typeLanes ty = 0 then (ty : Int) else 8)
  { f := types ++ List.replicate 8 0 ++ [if pm = 7 ∧ side = 0 then 255 else 0] }

/-- The default result of a port at reset (06 R165). -/
def defaultResult (fwd : Bool) (egress : Nat) : List Int :=
  if fwd then [0, 0, 0, 0, 0, 0, 0, 4, 4, 0, 0, 0, 0, 0, egress] else [1, 0, 0, 0, 0, 0, 0, 4, 4, 0, 0, 0, 0, 0, 0]

/-- The quota of the supervisor at reset: every object (13 R390); time bases and read grants by 11 R337. -/
def fullQuota (dom : Nat) : Obj :=
  { f := [2 ^ 32 - 1, 0, 4087, 12288, 0, 1023, 262144, 65536, 196608, 1, if dom = 0 then 255 else 0, 1, 15, 15],
    l := [[[0, 1023]], [[0, 16383]], [[0, 32767]], [[0, 65535]], [[0, 0, 4095], [1, 0, 4095]],
          [[0, 0, 255], [1, 0, 255]], [[0, 0, 2047], [1, 0, 2047]], [[0, 0, 255], [1, 0, 255]], [[0, 1023]],
          [[0, 4095]], [[0, 0, 8191], [1, 0, 8191]]] }

/-- The object that an index holds at reset, under the straps and the supervisor. -/
def resetObj (st : Straps) (sup : Nat) (cls idx : Nat) : Obj :=
  let base := schemaReset cls
  match cls with
  | 3 => { f := [(idx / 8 : Nat), (idx % 8 : Nat)] }
  | 4 =>
    if idx = sup then fullQuota idx
    else { base with f := base.f.set 10 (if idx = 0 then 255 else 0) }
  | 5 => strapLayout (st.portmap (idx / 2)) (idx % 2)
  | 6 =>
    let pm := st.portmap (idx % 16 / 8)
    if pm = 5 ∨ pm = 6 then base else { base with f := [-6, 52, -6] ++ base.f.drop 3 }
  | 7 =>
    let pm := st.portmap (idx % 16 / 8)
    if pm = 7 ∧ (idx % 8 = 0) then { f := [((idx + 16) % 32 : Nat)] } else { f := [] }
  | 9 =>
    let pm := st.portmap idx
    { f := base.f.set 17 (if pm = 7 then 1 else 0), l := [[[0, (16 + 8 * idx : Nat), 0]], []] }
  | 10 => { f := [(nodeEntry ((baseNode (idx % 2 ^ 31)).getD { cls := 0, dflt := nextAccept }) : Nat)] }
  | 11 => { f := [((baseTransList.getD (idx % 2 ^ 31) (transEntry 0 0 nextAccept) : Nat) : Int)] }
  | 14 => { base with f := [0, 0] ++ defaultResult false 0 }
  | 18 =>
    let pm := st.portmap (idx % 16 / 8)
    { base with f := 0 :: defaultResult (pm = 7 ∧ (idx = 16 ∨ idx = 24)) (idx - 16) }
  | 27 => { f := [] }
  | 33 =>
    let pm := st.portmap (idx % 16 / 8)
    if pm = 7 ∧ idx < 16 then { base with f := base.f.set 0 0 } else base
  | 35 => { base with l := [[[255 * 2 ^ 56 + 1000000]]] }
  | _ => base

end Sys2Proof.Machine
end

