-- ==== Sys2Proof/Machine/State.lean ====
section
/-! DEFINITION. The state of the device: plain data, one structure per part of the spec, and the machine right after
power-on reset. A field's default is its reset value. -/

namespace Sys2Proof.Machine

/-! ### What leaves the device -/

/-- A completion (14 R431). -/
structure Completion where
  opcode : Nat
  ring : Nat
  flags : Nat
  tag : BitVec 32
  status : Nat
  detail : Nat
  value : Nat
  result : Bytes
deriving DecidableEq, Repr

/-- An event as raised, before its domain's INDEX and GAP are given (14 R432): `head` is bytes 8 to 15. -/
structure Event where
  code : Nat
  cleared : Bool
  head : Nat
  payload : Bytes
deriving DecidableEq, Repr

/-- What the device writes into an entry of a device-produced ring (13 R398). -/
inductive RingEntry where
  | completion (c : Completion)
  | event (flags domain index : Nat) (e : Event)
  | punt (entry : Bytes)
  | dump (entries : List Bytes)
deriving DecidableEq, Repr

/-- A test pattern that a lane sends (03 R81): order and taps of its polynomial, and whether bits go Gray-coded, two per
symbol. -/
structure Pattern where
  order : Nat
  taps : List Nat
  gray : Bool
deriving DecidableEq, Repr

/-- Everything the outside can observe, in the order it happens. -/
inductive Out where
  /-- A read of host memory is issued: domain, bus address, length. -/
  | read (dom bus len : Nat)
  /-- Host memory is written: domain, bus address, bytes. -/
  | write (dom bus : Nat) (data : Bytes)
  /-- An entry is written to a device-produced ring (13 R403). -/
  | entry (dom ring bus : Nat) (e : RingEntry)
  /-- Bytes 8 to 15 of a doorbell record, DEV_INDEX and DEV_EPOCH, are written (13 R399). -/
  | devIndex (dom ring bus : Nat) (record : Bytes)
  /-- An MSI-X message: the address and the data of its vector's table entry (13 R384, R406). -/
  | msix (ep vector : Nat) (addr : BitVec 64) (data : BitVec 32)
  /-- A Hemuner frame leaves a management port (13 R419). -/
  | hemuner (port : Nat) (frame : Bytes)
  /-- A frame leaves an egress MAC: its bytes, and whether its FCS was inverted (07 R229). -/
  | frame (port : Nat) (frame : Bytes) (stomped : Bool)
  /-- A Smivia frame leaves a group (04 R92). -/
  | smivia (slice : Nat) (frame : Bytes)
  /-- The blocks of a CBR run go to the PCS of a host port (04 R105). -/
  | cbr (port : Nat) (blocks : Bytes)
  /-- A transmitter starts or stops sending Local Fault (03 R80). -/
  | localFault (port : Nat) (on : Bool)
  /-- A lane sends only a test pattern from now on, or none any more (03 R81). -/
  | pattern (lane : Nat) (p : Option Pattern)
  /-- The soundpost passes a write of the triple course (15 R450). -/
  | course (w : StringWrite)
  /-- A time pin changes level, some thirty-seconds of a TCLK period after the present edge (11 R344). -/
  | pin (pin : Nat) (level : Bool) (phase : Int)
deriving DecidableEq, Repr

/-! ### Host interface (13, 14) -/

/-- A command the device has taken, by which it is completed: issuing domain, management port for DM, ring, tag, CRC
and opcode (14 R431, R437). -/
structure Cmd where
  dom : Nat
  port : Nat := 0
  ring : Nat
  tag : BitVec 32
  crc : BitVec 32
  op : Nat
deriving DecidableEq, Repr

/-- A command in progress, with the management ports of the duplicates held for it, 0 for those of a ring (14 R437, 13 R424). -/
structure InProg where
  cmd : Cmd
  dups : List Nat := []
deriving DecidableEq, Repr

/-- One entry of a tag history (14 R436). -/
structure Hist where
  tag : BitVec 32
  crc : BitVec 32
  comp : Completion
  data : Bytes
deriving DecidableEq, Repr

/-- The states of a key slot, numbered as 09 R291 lists them. -/
inductive SlotState where
  | free
  | loading
  | valid
  | orphaned
  | retiring
  | zeroing
deriving DecidableEq, Repr

/-- One key slot (09 R291), with the complements of STATE, ATTR, KEY_LEN and KEY. `waits` is set while its zeroing waits for
leave (09 R302), `handed` in a cached copy whose key has been pinned, with which the frames that hold it finish (09 R298). -/
structure Slot where
  mark : Bool := false
  state : SlotState := .free
  dom : Nat := 0
  handle : Nat := 0
  attr : Nat := 0
  keyLen : Nat := 0
  exportable : Bool := false
  parent : Nat := 0
  parentGen : Nat := 0
  binds : Nat := 0
  lru : Nat := 0
  lastFret : Nat := 0
  key : Bytes := []
  keyN : Bytes := []
  stateN : BitVec 3 := 7
  attrN : BitVec 3 := 7
  lenN : Bool := true
  waits : Bool := false
  handed : Bool := false
deriving DecidableEq, Repr

/-- What a command answers: its status and fields, the output it writes by DMA (14 R431), and the pinned slot that it
fills once its output is written (09 R305), with the DOM_GEN under which its key was sealed (09 R304). -/
structure Reply where
  status : Nat := 0
  detail : Nat := 0
  value : Nat := 0
  flags : Nat := 0
  result : Bytes := []
  outs : List (Nat × Bytes) := []
  install : Option (Nat × Slot) := none
  sealGen : Nat := 0
deriving DecidableEq, Repr

/-- What work in a DMA access is doing. -/
inductive WorkState where
  | walking
  | suspended (cause since : Nat)
deriving DecidableEq, Repr

/-- A command whose data transfer waits for a table walk or is suspended on a fault (13 R414, R415): the accesses
still to translate (IOVA, length, write), the progress mark, the reply when its output is being written, the
RESUME that retries it, and when its latest read was issued. -/
structure Work where
  instr : Option Instr
  cmd : Cmd
  todo : List (Nat × Nat × Bool)
  progress : Nat := 0
  reply : Option Reply := none
  state : WorkState := .walking
  resumer : Option Cmd := none
  since : Nat := 0
deriving DecidableEq, Repr

/-- The fetch of a descriptor (13 R402): none, its read out since a tick, or its walk since a tick for the access at an IOVA. -/
inductive DescFetch where
  | none
  | reading (since : Nat)
  | walking (since iova : Nat)
deriving DecidableEq, Repr

/-- One ring of a domain (13 R396 to R405). `waiting` are the commands fetched and not taken, none for a descriptor that
spells no command; `reserved` counts the completion entries promised, that of the descriptor being fetched among them. -/
structure Ring where
  base : Nat := 0
  gen : Nat := 0
  log2 : Nat := 0
  devIndex : BitVec 32 := 0
  hostIndex : BitVec 32 := 0
  stopped : Bool := false
  fetched : Nat := 0
  reserved : Nat := 0
  fetch : DescFetch := .none
  waiting : List (Cmd × Option Instr) := []
  history : List Hist := []
deriving DecidableEq, Repr

/-- One interrupt source of a domain: tick of its last message, whether new entries wait for HOLDOFF, and the masked vector
whose pending bit holds its message (13 R406). -/
structure Source where
  last : Option Nat := none
  due : Bool := false
  pend : Option Nat := none
deriving DecidableEq, Repr

/-- The domain page's own fields (13 R396). -/
structure Page where
  enable : Bool := false
  ringEn : BitVec 9 := 0
  ringErr : BitVec 9 := 0
  dtuErr : Bool := false
  evtOverflow : Bool := false
  resetBusy : Bool := false
  fretOnly : Bool := false
  interval : Nat := 2000
  dbrec : Nat := 0
  dtuMode : Nat := 0
  invalBusy : Bool := false
  msixMap : BitVec 32 := 0
  dtuRoot : Nat := 0
  faultAddr : Nat := 0
  faultInfo : BitVec 32 := 0
  holdoff : Nat := 0
  half : Option (Nat × BitVec 32) := none
deriving DecidableEq, Repr

/-- A write to a device-produced ring that waits: for a walk, or for `DTU_ERR` to be cleared (13 R417). `tag` is the frame of a
punt entry, or the snapshots that a dump reports as lost. -/
structure HeldWrite where
  ring : Nat
  entry : RingEntry
  tag : Nat := 0
deriving DecidableEq, Repr

/-- One domain: its page, rings, commands in progress, suspended work and event numbering. `pollOut` is set from the issue of a
poll to its end, `pollWalk` holds the IOVA for which it waits for a walk, `pollSince` the tick at which its read or its
walk was issued; `heldSince` is that of the walk of the first held write. -/
structure Dom where
  page : Page := {}
  rings : List Ring := List.replicate 9 {}
  sources : List Source := List.replicate 5 {}
  inProg : List InProg := []
  works : List Work := []
  held : List HeldWrite := []
  evtIndex : Nat := 0
  evtGap : Bool := false
  lastPoll : Nat := 0
  pollOut : Bool := false
  pollWalk : Option Nat := none
  pollSince : Nat := 0
  heldSince : Nat := 0
  dumpFaultFret : Option Nat := none
  puntFaultFret : Option Nat := none
deriving DecidableEq, Repr

/-- One entry of an MSI-X table without its mask bit (13 R384). -/
structure MsixEntry where
  addr : BitVec 64 := 0
  data : BitVec 32 := 0
deriving DecidableEq, Repr

/-- One PCIe endpoint (13 R383 to R387, R406): its link, what the host has configured, and its MSI-X table with the mask and
the pending bits. -/
structure Endpoint where
  linkUp : Bool := false
  busMaster : Bool := false
  d3hot : Bool := false
  timeoutNs : Nat := 10000000
  maxPayload : Nat := 128
  maxRead : Nat := 512
  tags10 : Bool := false
  ecrcGen : Bool := false
  ecrcCheck : Bool := false
  aerUnc : BitVec 32 := 0x00400000
  aerCor : BitVec 32 := 0x0000E000
  msix : List MsixEntry := List.replicate 64 {}
  masked : BitVec 64 := BitVec.allOnes 64
  pending : BitVec 64 := 0
deriving DecidableEq, Repr

/-- One IOTLB entry (13 R409): level of the leaf, page number at that level, page base, permissions. -/
structure TlbEntry where
  dom : Nat
  lvl : Nat
  vpn : Nat
  base : Nat
  rd : Bool
  wr : Bool
deriving DecidableEq, Repr

/-- A completion that waits for its management port: port, image and data area (13 R424). -/
structure DmReply where
  port : Nat
  image : Bytes
  data : Bytes
  frame : Option Bytes := none
deriving DecidableEq, Repr

/-- An event that DM has not acknowledged (13 R424). -/
structure DmEvent where
  index : Nat
  image : Bytes
  sent : Nat
deriving DecidableEq, Repr

/-- The Hemuner channel (13 R418 to R426). `announced` is the tick of the latest periodic ANNOUNCE, `buffer` the frame buffer
of each port (01 R32). -/
structure Hemuner where
  session : BitVec 64 := 0
  high : Nat := 0
  window : BitVec 64 := 0
  seq : Nat := 0
  announce : List (Option Nat) := [none, none]
  announced : Nat := 0
  curPort : Nat := 0
  curData : Bytes := []
  comps : List DmReply := []
  events : List DmEvent := []
  buffer : List (Option Bytes) := [none, none]
deriving DecidableEq, Repr

/-- Host interface state. `evq` holds per slice the events of the data plane that wait for the course, with their domains,
and `evLost` the domains of those that found it full (01 R32). -/
structure HostSt where
  doms : List Dom := List.replicate 33 {}
  eps : List Endpoint := List.replicate 4 {}
  iotlb : List (List TlbEntry) := List.replicate 512 []
  hem : Hemuner := {}
  evq : List (List (Nat × Event)) := [[], []]
  evLost : List Nat := []
deriving DecidableEq, Repr

/-! ### Configuration (02) -/

/-- The two banks of one class, and the bank each epoch value reads (02 R58); `hold` is the tick until which the old
bank is held (02 R60). `raw` holds what a copy that was cut short has written into the inactive bank (02 R561): the 512-bit
words of the objects it reached, by twice the key plus the slice whose queue wrote them. -/
structure Banks where
  b0 : Tbl Obj := []
  b1 : Tbl Obj := []
  e0 : Bool := false
  e1 : Bool := false
  hold : Nat := 0
  raw : Tbl (List Bytes) := []
deriving DecidableEq, Repr

/-- A staged object: SET when `obj` holds an image, REMOVE when it does not (14 R442). -/
structure Staged where
  cls : Nat
  key : Nat
  idx : Nat
  obj : Option Obj
  force : Bool := false
deriving DecidableEq, Repr

/-- A stretch of a slice's write queue (02 R52): slice, start and end in units of 1/27 TCLK tick, of which a word takes 80. -/
abbrev QueueSpan := Nat × Nat × Nat

/-- A copy of 02 R52 in progress: target (of no meaning under ASAP), words per slice, end in TCLK ticks, the tables in the
order in which they are written, the stretches of the write queues that it takes, the command to complete, and the
cancels held under 02 R561. -/
structure Copying where
  target : Nat
  asap : Bool
  words0 : Nat
  words1 : Nat
  ends : Nat
  tables : List Nat := []
  spans : List QueueSpan := []
  cmd : Cmd
  cancels : List Cmd := []
deriving DecidableEq, Repr

/-- The rewrite of a shared bank (02 R55), with the stretches of the write queues that it takes and the cancel that waits
for it; none after a quota change or a reset. -/
structure Rewrite where
  ends : Nat
  spans : List QueueSpan := []
  cmd : Option Cmd
deriving DecidableEq, Repr

/-- The configuration work of one domain: staging set, commit copying, commit armed for a fret, pending rewrite. -/
structure DomCfg where
  staging : List Staged := []
  copying : Option Copying := none
  armed : Option Nat := none
  rewrite : Option Rewrite := none
deriving DecidableEq, Repr

/-- What a standing set holds (19 R550): objects as class, key and image, and static MAC entries as service, FID, MAC,
peer and port. -/
structure SaveSet where
  objs : List (Nat × Nat × Obj) := []
  statics : List (Nat × Nat × Nat × Nat × Nat) := []
deriving DecidableEq, Repr

/-- Configuration state. Table `cls` of `banks` is that of a class, or of slice 0 of a per-slice class; table `cls + 38`
is that of slice 1. `polN` holds the complements of the SA policy words of the two banks (15 R466). `saves` are the
`STANDING_SAVE` (with what it saves) and `STANDING_CLEAR` commands that wait for leave, and `saveMark` counts the bursts
already written of the first (19 R551). -/
structure CfgSt where
  banks : List Banks := List.replicate 76 {}
  polN : List (Tbl (List Int)) := [[], []]
  epoch : Bool := false
  doms : List DomCfg := List.replicate 33 {}
  saves : List (Cmd × Option SaveSet) := []
  saveMark : Nat := 0
deriving DecidableEq, Repr

/-! ### Frets (02) and time bases (11) -/

/-- A queued table write, rank 1 of 02 R43. -/
inductive QueuedWrite where
  | macInsert (cmd : Option Cmd) (service fid mac peer port : Nat) (isStatic : Bool)
  | macDelete (cmd : Cmd) (service fid mac : Nat)
  | saInit (cmd : Cmd) (sa pn threshold : Nat)
  | saEnable (cmd : Cmd) (sa : Nat)
  | saDisable (cmd : Cmd) (sa : Nat)
  | saSetLowest (cmd : Cmd) (sa pn : Nat)
  | rewrite (cls key : Nat)
deriving DecidableEq, Repr

/-- Frets (02): index in force, the derived index that the next boundary must exceed (it differs from the index in
force only after a change of source), whether the generator runs, a source change applied whose first boundary is still to
come (old index, tick of the change boundary), deferrals per rank, the rank-1 queue, the start of 19 R552, and the last tick
that a resynchronisation spans (02 R46). -/
structure FretSt where
  index : Nat := 0
  seen : Nat := 0
  running : Bool := false
  change : Option (Nat × Nat) := none
  deferrals : List Nat := List.replicate 5 0
  queue : List QueuedWrite := []
  stdEvents : Bool := false
  spanEnd : Nat := 0
deriving DecidableEq, Repr

/-- A TB_INC or TB_STEP that waits for its application edge (11 R338): that edge, sign and offset in units of
2^-32 ns, new increment in the same unit, and where the reading before the edge goes. -/
structure TbPending where
  cmd : Option Cmd
  edge : Nat
  step : Bool
  offset : Int
  inc : Option Nat
  force : Bool
  iova : Nat
deriving DecidableEq, Repr

/-- The firmware servo of one time base (11 R339): 0 FREE, 1 ACQUIRE, 2 LOCKED, 3 HOLDOVER; `nominal` is the increment when it
took ownership, `captured` the reading of the time base at the last pulse of the pin that is its source, until the servo takes
it. -/
structure Servo where
  state : Nat := 0
  integ : Int := 0
  nominal : Nat := 2 * 2 ^ 32
  good : Nat := 0
  missed : Nat := 0
  theta : Int := 0
  captured : Option Nat := none
deriving DecidableEq, Repr

/-- One time base: its reading and its increment per TCLK edge in units of 2^-32 ns (11 R335, R336). -/
structure TimeBase where
  frac : Nat := 0
  inc : Nat := 2 * 2 ^ 32
  fromBackup : Bool := false
  pending : List TbPending := []
  servo : Servo := {}
deriving DecidableEq, Repr

/-- One time pin (11 R342 to R344): level driven, moment of the last capture in 1/16 ns, moment of the last leading edge
driven in thirty-seconds of a TCLK period. -/
structure TimePin where
  level : Bool := false
  lastCapture : Option Nat := none
  next : Nat := 0
deriving DecidableEq, Repr

/-- Time. `tclk` is the free-running count of TCLK edges, 2 ns each. -/
structure TimeSt where
  tclk : Nat := 0
  tbs : List TimeBase := List.replicate 8 {}
  pins : List TimePin := List.replicate 4 {}
  bkTicks : Nat := 0
  bkAt : Nat := 0
  onestep : List Nat := []
deriving DecidableEq, Repr

/-! ### Counters and dumps (18) -/

/-- A captured snapshot (18 R528): the span of instances of every code selected, the counters that are not zero. -/
structure Snapshot where
  fret : Nat
  period : Nat
  mask : Nat
  rate : Nat
  seq : Nat
  spans : List (Nat × Nat × Nat)
  values : Tbl Nat
  delays : List Bytes
deriving DecidableEq, Repr

/-- The dump of one domain (18 R527 to R529). -/
structure Dump where
  period : Nat := 0
  mask : Nat := 0
  seq : Nat := 0
  skipped : Nat := 0
  waiting : Option Snapshot := none
deriving DecidableEq, Repr

/-- Counters: the sparse table by counter identifier (18 R519), the selections of the programmable counters, the dumps,
and the domains whose snapshot waits, in the order in which they are written out (02 R43, R45). -/
structure CntSt where
  vals : Tbl Nat := []
  sel : Tbl (Nat × Nat) := []
  dumps : List Dump := List.replicate 33 {}
  dumpQueue : List Nat := []
deriving DecidableEq, Repr

/-! ### Triple course (15) -/

inductive CourseMode where
  | restart
  | triple
  | duplex
  | halted
deriving DecidableEq, Repr

/-- A string: in the course, fenced and waiting for leave, in BIST, ready to resynchronise, or retired. -/
inductive StringState where
  | inCourse
  | fenced
  | bist
  | ready
  | retired
deriving DecidableEq, Repr

/-- One string, and the ticks at which it was fenced (15 R455). -/
structure StringSt where
  st : StringState := .bist
  fences : List Nat := []
deriving DecidableEq, Repr

/-- The background scrubber (15 R465): of SRAM and of MRAM the next word, and the tick at which the period began; `ready` where
leave for a burst has been granted. -/
structure Scrub where
  pos : Nat := 0
  start : Nat := 0
  nvPos : Nat := 0
  nvStart : Nat := 0
  ready : Bool := false
deriving DecidableEq, Repr

/-- The triple course. A vote window lists what each string presented. -/
structure CourseSt where
  mode : CourseMode := .restart
  afterHalt : Bool := false
  strings : List StringSt := List.replicate 3 {}
  lead : Nat := 0
  succession : List Nat := [0, 1, 2]
  windows : List (List (Nat × StringWrite)) := []
  haltBoundaries : Nat := 0
  applied : Bool := false
  failClosed : Bool := false
  withdraw : Bool := false
  restarts : List Nat := []
  restartAt : Option Nat := none
  resync : Option Nat := none
  heldEvents : List (Nat × Event) := []
  heldFin : List (Cmd × Reply) := []
  failSafe : List ShadowReg := []
  scrub : Scrub := {}
deriving DecidableEq, Repr

/-! ### Tamper, life cycle (16) and what MRAM and the vault keep -/

/-- One tamper-log entry (16 R488). -/
structure LogEntry where
  secs : Nat
  ticks : Nat
  alarms : Nat
  cls : Nat
  phase : Nat
  value : Int
  seq : Nat
deriving DecidableEq, Repr

/-- The root record (09 R280). -/
structure RootRecord where
  masked : Bytes := zeros 32
  maskedN : Bytes := zeros 32
  kcv : Bytes := zeros 8
  state : BitVec 64 := 0x0FF0F00FAA5555AA
deriving DecidableEq, Repr

/-- The life-cycle block (16 R490); the words and their complements. -/
structure LcBlock where
  lc : BitVec 64 := 0x9669699633CCCC33
  lcN : BitVec 64 := ~~~0x9669699633CCCC33
  debug : BitVec 64 := 0x66999966C33C3CC3
  debugN : BitVec 64 := ~~~0x66999966C33C3CC3
  tamper : BitVec 64 := 0x55AAAA55F00F0FF0
  tamperN : BitVec 64 := ~~~0x55AAAA55F00F0FF0
  counter : BitVec 32 := 2
  counterN : BitVec 32 := ~~~2
  jnl : BitVec 64 := 0x3CC3C33C99666699
  op : Nat := 0
  target : Nat := 0
  step : Nat := 0
  mark : Nat := 0
  jnlCounter : BitVec 32 := 0
deriving DecidableEq, Repr

/-- One copy of the standing set (19 R551): configuration and static MAC entries, sequence number, and the valid mark WD_96,
written last. -/
structure Standing where
  mark : BitVec 64 := 0
  seq : Nat := 0
  set : SaveSet := {}
deriving DecidableEq, Repr

/-- What a firmware image holds of one part (17 R504). -/
structure FwPart where
  ver : Nat := 0
  svn : Nat := 0
  format : Nat := 0
  digest : Bytes := []
  bounds : List (Nat × Nat) := []
deriving DecidableEq, Repr

/-- One firmware slot (17 R503 to R508). States are coded as in 17 R518; `bytes` holds the KiB received, by number, and
`parts` what the image in it holds of types 1 to 4. -/
structure FwSlot where
  state : Nat := 0
  len : Nat := 0
  bytes : Tbl Bytes := []
  version : Nat := 0
  parts : List FwPart := []
  pg : Bytes := []
deriving DecidableEq, Repr

/-- A firmware activation scheduled or running (17 R510 to R515): slot, target fret, parts still to take their step,
parts done, whether a step is in progress, whether it is a revert. -/
structure Activation where
  slot : Nat
  target : Nat
  order : List Nat
  done : List Nat := []
  running : Bool := false
  inStep : Bool := false
  revert : Bool := false
  dom : Nat := 0
deriving DecidableEq, Repr

/-- What the slot directory holds (17 R503, R514, R516): states and lengths of the slots, running slots, floors, the
activation scheduled or running, and the end of a trial. -/
structure FwDir where
  states : List Nat
  lens : List Nat
  run : List Nat
  floors : List Nat
  act : Option Activation
  trialEnd : Option Nat
deriving DecidableEq, Repr

/-- One copy of the slot directory (17 R517): content, sequence number, and the valid mark WD_96, written last. -/
structure FwCopy where
  dir : FwDir := { states := [6, 0], lens := [0, 0], run := [0, 0, 0, 0], floors := [0, 0, 0, 0], act := none, trialEnd := none }
  seq : Nat := 0
  mark : BitVec 64 := 0x9669699633CCCC33
deriving DecidableEq, Repr

/-- Firmware state (17). `run` is the running slot of parts TC, SD, LK, PG; `copies` are the two copies of the slot
directory. -/
structure FwSt where
  slots : List FwSlot := [{ state := 6, parts := [{}, {}, {}, {}] }, {}]
  run : List Nat := [0, 0, 0, 0]
  floors : List Nat := [0, 0, 0, 0]
  act : Option Activation := none
  trialEnd : Option Nat := none
  lastCause : Nat := 0
  verifying : Option (Cmd × Nat) := none
  pgRevert : Option Nat := none
  blocks : List (Cmd × Nat × Nat × Bytes) := []
  pgArmed : Bool := false
  copies : List FwCopy := [{}, {}]
deriving DecidableEq, Repr

/-- What the slot directory has to hold. -/
def FwSt.dir (w : FwSt) : FwDir :=
  { states := w.slots.map FwSlot.state, lens := w.slots.map FwSlot.len, run := w.run, floors := w.floors, act := w.act,
    trialEnd := w.trialEnd }

/-- MRAM. -/
structure Mram where
  root : RootRecord := {}
  block : LcBlock := {}
  supervisor : Nat := 0
  domGen : List Nat := List.replicate 33 0
  parentGen : Tbl Nat := []
  sealEnd : List Nat := List.replicate 33 0
  classes : List Nat := [1, 2, 2, 3, 3, 0, 0, 2, 2, 0, 0]
  tempWarn : Int × Int := (-40, 110)
  voltWarn : Int × Int := (-30, 30)
  log : List LogEntry := []
  logHead : Nat := 0
  logLost : Nat := 0
  standA : Standing := {}
  standB : Standing := {}
  certs : Bool := true
  trim : Bool := true
deriving DecidableEq, Repr

/-- The vault (09 R282) with the backup-domain record (16 R487). -/
structure Vault where
  check : BitVec 64 := 0
  mask : Bytes := zeros 32
  maskN : Bytes := zeros 32
  mgmtKey : Bytes := zeros 32
  mgmtKeyN : Bytes := zeros 32
  mgmtId : BitVec 64 := 0
  bkValid : Bool := false
  bkClasses : List Nat := List.replicate 11 0
  head : Nat := 0
  lost : Nat := 0
  pendClass : Nat := 0
  pendMask : Nat := 0
  entries : List LogEntry := []
  copied : Nat := 0
deriving DecidableEq, Repr

/-- The tamper monitors and responses (16). Index n - 2 stands for alarm n. `warnRun` counts the samples well inside the
low and the high warning level; `lcCmd` is the command of the journal, `lcPlan` the operation and target that it waits
to write down, `lcOld` the state it leaves; `loopLfsr` are the sequences of the enclosure loops (R476), `codes` the state
registers of the key manager, the vault controller and the life-cycle controller (15 R468);
`supCmd` is an `LC_SET_SUPERVISOR` that waits for leave. -/
structure TamperSt where
  bits : List Bool := List.replicate 11 false
  carried : List Nat := List.replicate 11 0
  cond : List Bool := List.replicate 11 false
  zeroized : Bool := false
  temp : Int := 25
  tempRun : Nat := 0
  warnLow : Bool := false
  warnHigh : Bool := false
  warnRun : Nat × Nat := (0, 0)
  railMv : List Nat := [750, 800, 850, 1200, 1800, 1800]
  railWarn : List Bool := List.replicate 6 false
  freeze : List Bool := List.replicate 6 false
  vaultHeld : List LogEntry := []
  loopRun : List Nat := [0, 0]
  vbatRun : Nat := 0
  bkLoopRun : List Nat := [0, 0]
  loopLfsr : List (BitVec 15) := [1, 1]
  codes : List (BitVec 8) := [0x0F, 0x0F, 0x0F]
  bkTempRun : Nat := 0
  locked : Bool := false
  clocksBad : List Nat := []
  scrubPending : Bool := false
  resetAt : Option Nat := none
  lcCmd : Option Cmd := none
  lcPlan : Option (Nat × Nat) := none
  lcOld : Nat := 0
  supCmd : Option (Cmd × Nat) := none
  jnlReady : Bool := false
deriving DecidableEq, Repr

/-! ### Power (19) -/

/-- Who asks the power governor for leave (19 R554); the number tells which of its kind. -/
inductive Leave where
  | zeroSlots
  | rollScan (dom : Nat)
  | stringBist (s : Nat)
  | courseRestart (s : Nat)
  | tcLoad (s : Nat)
  | mram (what dom : Nat)
  | lane (l : Nat)
  | core (c : Nat)
  | flushScan
  | scrub
deriving DecidableEq, Repr

/-- The power governor (19 R554 to R557): queue in order of arrival, the SMCLK cycle in which each request arrived, grants
as (tick, ampere), current samples in mA, newest first, and the tick until which a priority-0 action holds other grants. -/
structure GovSt where
  queue : List Leave := []
  cycles : List (Leave × Nat) := []
  grants : List (Nat × Nat) := []
  samples : List Nat := []
  holdUntil : Nat := 0
deriving DecidableEq, Repr

/-- Reset and start-up (19 R544 to R549). `up` from START_UP on, with the main monitors; `ready` is `DP_STATUS.READY`;
`noFw` when no firmware slot passed; `halfUp` while steps 8 to 10 wait for the course; `down` while PWRDN_N is low;
`rails` while the main rails are up; `standing` since a start with a standing set; `keepStraps` where the next start keeps the straps (16 R499); `sup` is the
supervisor since the last start (13 R389); `avsTick` is the tick of the last change of the AVS set point. -/
structure PowerSt where
  up : Bool := false
  down : Bool := false
  ready : Bool := false
  noFw : Bool := false
  halfUp : Bool := false
  straps : Straps := { portmap0 := 3, portmap1 := 3, pcieBif := 0 }
  avs : Nat := 50
  avsTick : Nat := 0
  rails : Bool := true
  keepStraps : Bool := false
  standing : Bool := false
  mgMacs : List Nat := [0, 0]
  sup : Nat := 0
  gov : GovSt := {}
deriving DecidableEq, Repr

/-! ### Keys (09) -/

/-- The volatile part of a parent entry: bound slot and depth (09 R300). -/
structure ParentBind where
  slot : Nat
  depth : Nat
deriving DecidableEq, Repr

/-- A revocation whose teardown boundary has not come: owner, first entry revoked (0xFFFF for a roll or a quota
change), entries, slots, command to complete (09 R302, R303). -/
structure Teardown where
  dom : Nat
  first : Nat
  entries : Nat
  slots : List Nat
  cmd : Option Cmd
deriving DecidableEq, Repr

/-- The key manager. `root`: 0 ROOT_TEST, 1 ROOT_OK, 2 ROOT_LOST; `lostBy`: the check that the root record failed where the
scrub of this start has overwritten it since (16 R488). -/
structure KeySt where
  root : Nat := 2
  lostBy : Option Nat := none
  rs : Bytes := []
  dwk : List Bytes := List.replicate 33 []
  dwkN : List Bytes := List.replicate 33 []
  sealCtr : List Nat := List.replicate 33 0
  slots : Tbl Slot := []
  parents : Tbl ParentBind := []
  teardowns : List Teardown := []
  rolls : List (Cmd × Nat) := []
  frozen : List (Cmd × Instr) := []
deriving DecidableEq, Repr

/-! ### Frames in flight (01 R34), MACsec (07), egress and meters (12) -/

/-- Live state of one SA with its complements (07 R200). State: 0 EMPTY, 1 READY, 2 ACTIVE, 3 EXHAUSTED, 4 RETIRED. -/
structure SaLive where
  state : Nat := 0
  next : BitVec 64 := 0
  nextN : BitVec 64 := BitVec.allOnes 64
  lowest : BitVec 64 := 0
  lowestN : BitVec 64 := BitVec.allOnes 64
  thr : BitVec 64 := 0
  thrN : BitVec 64 := BitVec.allOnes 64
  raised : Bool := false
  firstRx : Bool := false
deriving DecidableEq, Repr

/-- Where a key-miss fetch stands (07 R234 to R238): its read is out, its translation walks, it is suspended on a
fault, its blob has come while the key manager moves no key, its blob is opened and waits for a slot, its key is in a slot, or that slot has lost its valid mark since. -/
inductive Fetch where
  | reading
  | walking
  | suspended (cause since : Nat)
  | arrived (blob : Bytes)
  | opened (key : Slot)
  | installed (slot : Nat)
  | lost
deriving DecidableEq, Repr

/-- A miss record (07 R232): the key it fetches, what the SA needs of it, the parked frames in order, and the slot evicted
elsewhere to keep the domain below its cache cap (09 R297, fourth rule). -/
structure MissRec where
  dom : Nat
  handle : Nat
  attr : Nat
  keyLen : Nat
  frames : List Nat := []
  fetch : Fetch := .reading
  attempts : Nat := 1
  emptySince : Nat := 0
  resumer : Option Cmd := none
  room : Option Nat := none
  since : Nat := 0
deriving DecidableEq, Repr

/-- An entry of a failed-handle list (07 R237): the boundaries until it leaves the list (the rest of its fret and the next
fret are two), and when it was listed. -/
structure FailedKey where
  dom : Nat
  handle : Nat
  left : Nat
  listed : Nat
deriving DecidableEq, Repr

/-- Inline MACsec: live SA state, encoding ANs, miss records and failed handles per slice, drops of each pair in the
fret (collisions, late). -/
structure MsecSt where
  sas : Tbl SaLive := []
  encAn : Tbl Nat := []
  recs : List (Tbl MissRec) := [[], []]
  failed : List (List FailedKey) := [[], []]
  llDrops : Tbl (Nat × Nat) := []
  llEnd : Tbl Nat := []
deriving DecidableEq, Repr

/-- The classification result of a pass (06 R166). -/
structure Result where
  action : Nat := 1
  secy : Nat := 0
  sc : Nat := 0
  service : Nat := 0
  meterEn : Bool := false
  meter : Nat := 0
  tc : Nat := 0
  stream : Nat := 0
  egress : Nat := 0
deriving DecidableEq, Repr

/-- A header of the parse: class, offset, end, SECTAG (05 R134). -/
structure Header where
  cls : Nat
  off : Nat
  fin : Nat
  sectag : Bool
deriving DecidableEq, Repr

/-- A parse result (05 R132 to R134): disposition 0 normal, 1 deep, 2 malformed. -/
structure Parse where
  cs : List Nat := List.replicate 40 0
  stack : List Header := []
  matches_ : List Nat := []
  disp : Nat := 0
  reason : Nat := 0
  failOff : Nat := 0
  node : Nat := 0
  steps : Nat := 0
  lateEnd : Option Nat := none
  cipher : Bool := false
deriving DecidableEq, Repr

/-- Where a frame stands: the row that takes it on. -/
inductive Stage where
  | mac
  | parsing
  | punted
  | classifying
  | parked
  | toCipher
  | inCipher
  | confirming
  | waitEnd
  | queued
  | sending
  | delayLine
  | onestep
  | recirc
deriving DecidableEq, Repr

/-- A debit of a meter, to be returned if the frame fails (07 R225): slice, meter, bytes from the committed, and from
the peak or excess bucket. -/
structure Debit where
  slice : Nat
  meter : Nat
  c : Nat
  p : Nat
deriving DecidableEq, Repr

/-- Cells that a frame holds in the buffer (12 R373): port, queue, cells, from the queue's minimum or the pool. -/
structure Charge where
  port : Nat
  queue : Nat
  cells : Nat
  fromMin : Bool
deriving DecidableEq, Repr

/-- What a frame has read from the epoch-selected tables when its context was built (02 R59): SecY, channel, SA, service, meter,
SEC_MODE and RX_FORWARD of its line port, and its pre-colour. Later stages read this and not the tables. -/
structure Ctx where
  secy : Obj := { f := [] }
  sc : Obj := { f := [] }
  sa : Obj := { f := [] }
  svc : Obj := { f := [] }
  meter : Obj := { f := [] }
  mode : Nat := 0
  forward : Bool := false
  pre : Nat := 0
deriving DecidableEq, Repr

/-- One frame in flight. `lane` is the lane at whose MDI it was stamped (11 R346). `gone` is a receive frame that its egress has dropped before its verdict (07 R223). `bytes` runs from the destination address to the byte before the FCS. -/
structure Frame where
  id : Nat
  bytes : Bytes
  port : Nat
  slice : Nat
  rx : Bool
  recirc : Bool := false
  epoch : Bool := false
  stage : Stage := .mac
  fcsOk : Bool := true
  tick : Nat := 0
  phase : Nat := 0
  lane : Nat := 0
  tb : Nat := 0
  stamp : Nat := 0
  fretStamp : Nat := 0
  parse : Parse := {}
  res : Result := {}
  ctx : Ctx := {}
  source : Nat := 0
  sa : Option Nat := none
  pn : Nat := 0
  sci : Nat := 0
  bad : Bool := false
  slot : Option Nat := none
  record : Option Nat := none
  colour : Nat := 0
  debit : Option Debit := none
  mtrDrop : Bool := false
  protect : Bool := false
  open_ : Bool := true
  tagOk : Bool := true
  keyBad : Bool := false
  pnBad : Bool := false
  underrun : Bool := false
  out : Bytes := []
  ended : Bool := false
  verdict : Option Bool := none
  charge : Option Charge := none
  since : Nat := 0
  stomp : Bool := false
  cut : Option Nat := none
  owner : Nat := 0
  ll : Bool := false
  launch : Nat := 0
  launchTb : Nat := 0
  depart : Nat := 0
  issue : Option (Nat × Nat) := none
  overran : Bool := false
  gone : Bool := false
deriving DecidableEq, Repr

/-- The frames in flight, held punts and recirculation queues per slice, and parking cells per slice. -/
structure FrameSt where
  frames : Tbl Frame := []
  next : Nat := 0
  punts : List (List Nat) := [[], []]
  recirc : List (List Nat) := [[], []]
  recircCells : List Nat := [0, 0]
  parkCells : List Nat := [0, 0]
deriving DecidableEq, Repr

/-- A token bucket: level in units of 2^-16 byte (12 R378), the part of a unit that the rate has accrued, in 1/84,375, and
the tick it was brought up to. -/
structure Bucket where
  level : Int := 0
  rem : Nat := 0
  at_ : Nat := 0
deriving DecidableEq, Repr

/-- One egress queue (12 R360 to R362, R373). -/
structure Queue where
  frames : List Nat := []
  tag : Nat := 0
  active : Bool := false
  shaper : Bucket := {}
  minUsed : Nat := 0
  shared : Nat := 0
deriving DecidableEq, Repr

/-- The gate engine of a port (12 R365, R368): switch instant of the operational list, the list pending with its S
and the list it replaces, and the entry in force. -/
structure GateSt where
  since : Nat := 0
  pending : Option Nat := none
  old : Option Obj := none
  entry : Nat := 0
deriving DecidableEq, Repr

/-- One egress port (12). -/
structure Egress where
  queues : List Queue := List.replicate 8 {}
  vtime : Nat := 0
  shaper : Bucket := {}
  cells : Nat := 0
  sending : Option Nat := none
  gate : GateSt := {}
deriving DecidableEq, Repr

/-- A meter's live buckets (12 R378): committed, and peak or excess; full until first used. -/
structure MeterLive where
  c : Bucket
  p : Bucket
deriving DecidableEq, Repr

/-- Egress and meter state. `lacks` holds the cells that reservations lacked at the last swap that changed them (12 R374): the
parking buffers of slices 0 and 1, then the minima of queues 0 to 255; empty where none did. -/
structure EgressSt where
  ports : List Egress := List.replicate 32 {}
  meters : Tbl MeterLive := []
  punt : Tbl Bucket := []
  lacks : List Nat := []
deriving DecidableEq, Repr

/-! ### The lookaside cluster (10) -/

/-- Where a lookaside job stands: waiting for a core, assigned to a core whose leave is pending, on a core, waiting
for a table walk, suspended on a fault, or in the public-key unit's queue. -/
inductive LkAt where
  | ready
  | assigned
  | running
  | walking
  | suspended (cause since : Nat)
  | pk
deriving DecidableEq, Repr

/-- What a chain carries from job to job (10 R325): hash words, CMAC chaining value or GHASH value, the block held
back, the bytes so far, the AAD length and the IV. -/
structure Chain where
  st : List Nat := []
  pend : Bytes := []
  count : Nat := 0
  aad : Nat := 0
  iv : Bytes := []
deriving DecidableEq, Repr

/-- A job taken and not completed (10 R312 to R316, R329): `slot` is the one its key lies in, which it holds once started, and
`lost` says that a job not started has outlived that slot's key; `done` counts the input bytes of whole segments; `chain` is
what its first segment started from, from which with the key and the bytes done every saved accumulator follows. Of the
present segment, `reads` counts the reads issued, `out` holds the writes still to be made once it is processed, and `left` the
bytes of its streamed output among them. `since` is the tick of the latest read; `kill` ends the job without a completion at
its next boundary. -/
structure LkRun where
  id : Nat
  cmd : Cmd
  job : LkJob
  started : Bool := false
  slot : Option Nat := none
  lost : Bool := false
  reads : Nat := 0
  out : Option (List (Nat × Bytes)) := none
  left : Nat := 0
  since : Nat := 0
  chain : Chain := {}
  done : Nat := 0
  at_ : LkAt := .ready
  kill : Bool := false
  resumer : Option Cmd := none
deriving DecidableEq, Repr

/-- Internal work of the cluster (10 R313): the cipher work of a key command, whose answer goes out when it ends, the hashing
of a firmware image, the hashing of a pairing step. -/
inductive IntWork where
  | key (cmd : Cmd) (reply : Reply)
  | fw
  | pair (slice : Nat)
deriving DecidableEq, Repr

/-- Internal work that waits for a core, or for a core's leave, or is on one. -/
structure IntRun where
  id : Nat
  work : IntWork
  at_ : LkAt := .ready
deriving DecidableEq, Repr

/-- One core: the job or internal work it holds, since when it has been idle, and whether its leave is pending (10 R317). -/
structure LkCore where
  job : Option Nat := none
  since : Nat := 0
  waits : Bool := false
deriving DecidableEq, Repr

/-- A state record that the device has sealed and that still opens (10 R325). -/
structure StateRec where
  bytes : Bytes
  dom : Nat
  op : Nat
  handle : Nat
  parentGen : Nat
  chain : Chain
deriving DecidableEq, Repr

/-- An operation of the public-key unit (10 R331): of a firmware verification, of a pairing, or of a job. -/
inductive PkOp where
  | fw (slot left : Nat)
  | pair (slice left : Nat)
  | job (id : Nat)
deriving DecidableEq, Repr

/-- The lookaside cluster. Jobs and internal work share one numbering; `active` lists the domains that had a runnable job when
the scheduler last looked (10 R314). -/
structure LkSt where
  runs : List LkRun := []
  internal : List IntRun := []
  active : List Nat := []
  next : Nat := 0
  cores : List LkCore := List.replicate 8 {}
  tags : List Nat := List.replicate 33 0
  lastDom : Nat := 0
  pk : Option PkOp := none
  pkQueue : List PkOp := []
  records : List StateRec := []
deriving DecidableEq, Repr

/-! ### Smivia (04, 08) -/

/-- An RX register (08 R247, R255): epoch (0 unkeyed), slot, counter last confirmed, whether it is synced, and the
base that a counter unit gave. -/
structure RxReg where
  epoch : Nat := 0
  slot : Option Nat := none
  last : Option Nat := none
  synced : Bool := false
  base : Option Nat := none
deriving DecidableEq, Repr

/-- The checker of the PRBS test payload (04 R110, 03 R82): the last 31 bits, the run of correct bits in the true and in
the inverted form, whether it is locked and to which form, errored bits and position in the present 1,024 bits. -/
structure PrbsRx where
  reg : Nat := 0
  run : Nat × Nat := (0, 0)
  locked : Bool := false
  inverted : Bool := false
  errs : Nat := 0
  pos : Nat := 0
deriving DecidableEq, Repr

/-- The states of frame alignment (04 R114). -/
inductive Align where
  | noStream
  | search
  | confirm
  | inFrame
deriving DecidableEq, Repr

/-- A candidate of the search (04 R114): the number of the stream block at which its next FAS is expected, the MFAS expected
there, and the frames matched. -/
structure Cand where
  at_ : Nat
  mfas : Nat
  count : Nat := 1
deriving DecidableEq, Repr

/-- A defect (04 R116 to R118): tick since which its anomaly has lasted, or been absent while declared; declared;
hold-off expired; tick of the declaration. -/
structure Defect where
  since : Option Nat := none
  gone : Option Nat := none
  declared : Bool := false
  active : Bool := false
  at_ : Nat := 0
deriving DecidableEq, Repr

/-- A delay request received and accepted, to be echoed (04 R124): DM_SEQ, T_DEP as sent, arrival. -/
structure Echo where
  seq : Nat
  dep : Nat
  arr : Nat
deriving DecidableEq, Repr

/-- A delay result (04 R126): DM_SEQ, fret, flags (bit 0 traceable figures, bit 1 unauthenticated), round trip,
forward, reverse. -/
structure Delay where
  seq : Nat
  fret : Nat
  flags : Nat
  roundTrip : Int
  fwd : Int
  rev : Int
deriving DecidableEq, Repr

/-- A received frame that waits for its confirmation (08 R256): its bytes descrambled, whether OH_CRC was valid, the
arrival stamp, the tick of its last byte. -/
structure SmvRx where
  bytes : Bytes
  crcOk : Bool
  arr : Nat
  tick : Nat
deriving DecidableEq, Repr

/-- The pairing states (08 R272). -/
inductive PairSt where
  | off
  | idle
  | hello
  | kem
  | auth
  | finish
  | keyed
  | backoff
deriving DecidableEq, Repr

/-- What follows when the public-key unit has done a pairing's operations. -/
inductive PairStep where
  | helloOut (rekey : Bool)
  | helloIn
  | kemIn
  | authIn
  | finIn (m : Bytes)
deriving DecidableEq, Repr

/-- A pairing exchange (08 R268 to R273): state, tick entered, consecutive failures, own draws, own and peer messages
as content bytes, derived values, the message being sent with its next segment, an ABORT with the frames left to send
it, the assembly of the peer's message, and the last switch. -/
structure Pairing where
  st : PairSt := .off
  since : Nat := 0
  fails : Nat := 0
  step : Option PairStep := none
  noted : Bool := false
  ecdh : Nat := 0
  kemDraw : Nat := 0
  myHello : Bytes := []
  peerHello : Bytes := []
  myKem : Bytes := []
  peerKem : Bytes := []
  myAuth : Bytes := []
  peerAuth : Bytes := []
  ssMine : Bytes := []
  th : Bytes := []
  prk : Bytes := []
  epoch : Nat := 0
  initiator : Bool := false
  cur : Option (Nat × Bytes) := none
  seg : Nat := 0
  aborting : Nat := 0
  inCode : Nat := 0
  inSegs : Tbl Bytes := []
  inLen : Option Nat := none
  finUntil : Option Nat := none
  lastSwitch : Nat := 0
deriving DecidableEq, Repr

/-- One Smivia group (04, 08). `txBlk` is the number of the next block of the stream sent, in the least period in which lanes and
marker positions recur; `cbr` holds per stream the PCS blocks that wait for a CBR run; `txElem` is what is left of the element
being sent, `txFrame` the queue and the end, in ticks, of the client frame last begun; `expAt` is the number of the stream block at which the next frame is expected; `walk` is the element being
received, or none where extraction starts again at the next FEP. Defects in the order LOS LOF LOM AIS RDI LOA PLM. -/
structure Group where
  sending : Bool := false
  mfas : Nat := 0
  txBlk : Nat := 0
  cbr : Tbl Bytes := []
  txElem : Bytes := []
  txFrame : Option (Nat × Nat) := none
  txEpoch : Nat := 0
  txSlot : Option Nat := none
  nextEpoch : Nat := 0
  nextSlot : Option Nat := none
  fc : Nat := 0
  exhausted : Bool := false
  rx : List RxReg := [{}, {}]
  armed : Option (Nat × Nat × Nat × Nat) := none
  switchDue : Bool := false
  stopDue : Bool := false
  release : List Nat := []
  releaseRx : Option Nat := none
  ais : Bool := false
  unitTx : Bytes := []
  dmSeq : Nat := 0
  dmDue : Bool := false
  echo : Option Echo := none
  prbsTx : Nat := 0x7FFFFFFF
  align : Align := .noStream
  alignSince : Nat := 0
  cands : List Cand := []
  expAt : Nat := 0
  fasErrs : Nat := 0
  mfIn : Bool := false
  mfErrs : Nat := 0
  mfGood : Nat := 0
  expMfas : Nat := 0
  prevMfas : Nat := 0
  label : Option Nat := none
  labelRun : Nat × Nat := (0, 0)
  chan : Option Nat := none
  chanRun : Nat × Nat := (0, 0)
  chanPart : List (Nat × Nat) := []
  hsSlot : List Bytes := []
  confirming : List SmvRx := []
  walk : Option Bytes := none
  aisRun : Nat := 0
  noAisRun : Nat := 0
  rdiRun : Nat := 0
  noRdiRun : Nat := 0
  badRun : Nat := 0
  goodRun : Nat := 0
  defects : List Defect := List.replicate 7 {}
  delay : Option Delay := none
  asymRun : Nat := 0
  asymOk : Nat := 0
  asymRaised : Bool := false
  prbsRx : PrbsRx := {}
  pair : Pairing := {}
deriving DecidableEq, Repr


/-! ### The MAC table and learning (06) -/

/-- The key of a MAC-table entry (06 R169). -/
structure MacKey where
  service : Nat
  fid : Nat
  mac : Nat
deriving DecidableEq, Repr

/-- One MAC-table entry (06 R170); HIT is kept per replica. -/
structure MacEntry where
  key : MacKey
  static_ : Bool := false
  frozen : Bool := false
  peer : Nat
  port : Nat
  age : Nat := 0
  moves : Nat := 0
  sec12 : Nat := 0
deriving DecidableEq, Repr

/-- The replica of one slice (06 R168): entries by position, and the positions whose HIT is set. -/
structure Replica where
  entries : Tbl MacEntry := []
  hits : List Nat := []
deriving DecidableEq, Repr

/-- A learn proposal (06 R176). -/
structure Proposal where
  key : MacKey
  peer : Nat
  port : Nat
  slice : Nat
  stamp : Nat
deriving DecidableEq, Repr

/-- An order-cache entry (06 R179): `host` for a host write; `at_` is the tick it was written. -/
structure Tracked where
  key : MacKey
  stamp : Nat
  slice : Nat
  port : Nat
  host : Bool
  at_ : Nat
deriving DecidableEq, Repr

/-- A bridge message (01 R19): a proposal; an insertion, which claims its position, with the entry it evicted and whether
learning asked for it (06 R168); the new content of an entry; a removal; what the scan read of the 128 positions from `lo`
on, as those whose HIT was set (06 R183); or an insertion that its slice has withdrawn. `beaten` is set in an insertion of slice
0 that an insertion of slice 1 crossed on the bridge; it tells whether learning asked for the latter. -/
inductive BridgeMsg where
  | proposal (p : Proposal)
  | insert (pos : Nat) (e : MacEntry) (evicted : Option MacEntry) (learned : Bool) (beaten : Option Bool)
  | update (pos : Nat) (e : MacEntry)
  | remove (pos : Nat) (key : MacKey)
  | ages (lo : Nat) (hits : List Nat)
  | withdrawn
deriving DecidableEq, Repr

/-- A flush waiting for leave or for a scan, or carried by one, with the entries it has removed (06 R193). -/
structure Flush where
  cmd : Cmd
  port : Nat
  statics : Bool
  granted : Bool := false
  count : Nat := 0
deriving DecidableEq, Repr

/-- An ageing scan in progress (06 R183, R193): start, step counts before and after it, the flushes it carries, the next
position it reads; per home slice the positions, keys and HIT read in its own replica whose results from the other slice have
not come, and per slice the positions of the other's entries whose HIT it read as set and has not sent. -/
structure Scan where
  start : Nat
  old : Nat
  new : Nat
  flushes : List Flush
  pos : Nat := 0
  mine : List (Tbl (MacKey × Bool)) := [[], []]
  theirs : List (List Nat) := [[], []]
deriving DecidableEq, Repr

/-- The MAC table, its learning machinery and the bridge. `inbox` holds what is on the way to a slice; `evicts` the keys each
domain has lost to evictions in the present fret, newest first (06 R172). -/
structure MacSt where
  reps : List Replica := [{}, {}]
  queues : List (List Proposal) := [[], []]
  caches : List (List Tracked) := [[], []]
  inbox : List (List BridgeMsg) := [[], []]
  evicts : Tbl (List MacKey) := []
  steps : Nat := 0
  scan : Option Scan := none
  flushes : List Flush := []
deriving DecidableEq, Repr

/-! ### Lanes, ports and management ports (03) -/

/-- The lane receive states of 03 R70. -/
inductive LanePhase where
  | off
  | acquire
  | waitLeave
  | adapt
  | align
  | up
  | relock
  | test
deriving DecidableEq, Repr

/-- The PRBS checker of a lane (03 R82): locked, form, error counter (none until it has locked once), lock losses. -/
structure Prbs where
  locked : Bool := false
  inverted : Bool := false
  errors : Option Nat := none
  losses : Nat := 0
deriving DecidableEq, Repr

/-- One data lane (03 R70 to R81): `use` is the applied use of the lane, that is the port and its type, or none; `held`
is the tick until which it waits after three align failures; `eq` holds the equaliser coefficients, CTLE peaking, FFE and DFE
taps as the staged fields stand, and `eqSince` the tick since when they track under AUTO; `sends` is the code of the test pattern
that the transmitter sends instead of data, plus 16 on a PAM4 lane, 0 for none. -/
structure Lane where
  phase : LanePhase := .off
  use : Option (Nat × Nat) := none
  since : Nat := 0
  fails : Nat := 0
  held : Option Nat := none
  gearbox : Nat := 0
  inverted : Bool := false
  position : Nat := 0
  skew : Nat := 0
  prbs : Prbs := {}
  eq : List Int := List.replicate 23 0
  eqSince : Option Nat := none
  sends : Nat := 0
deriving DecidableEq, Repr

/-- The link of a port: up, the tick since when, the tick at which its last mirror-down condition changed and that
condition (03 R72, R80), whether its transmitter sends Local Fault, and the partner that its own fault mirror makes send it. -/
structure Link where
  up : Bool := false
  bad : Bool := true
  since : Nat := 0
  localFault : Bool := false
  mirror : Option Nat := none
deriving DecidableEq, Repr

/-- Lanes, links and the synchronisation of the two management ports. -/
structure LaneSt where
  lanes : List Lane := List.replicate 32 {}
  links : List Link := List.replicate 32 {}
  mgSync : List Bool := [false, false]
deriving DecidableEq, Repr


/-! ### The whole device -/

/-- Everything the spec gives the device, and the model's own free counter and log of outputs (newest first). -/
structure Dev where
  host : HostSt := {}
  cfg : CfgSt := {}
  fret : FretSt := {}
  time : TimeSt := {}
  cnt : CntSt := {}
  course : CourseSt := {}
  tamper : TamperSt := {}
  mram : Mram := {}
  vault : Vault := {}
  keys : KeySt := {}
  fw : FwSt := {}
  power : PowerSt := {}
  msec : MsecSt := {}
  fr : FrameSt := {}
  eg : EgressSt := {}
  lk : LkSt := {}
  smv : List Group := List.replicate 2 {}
  mac : MacSt := {}
  lanes : LaneSt := {}
  freeCtr : Nat := 0
  wire : List Out := []
deriving DecidableEq, Repr

/-- The device and the queue of commands waiting, first in, first out. -/
structure State where
  dev : Dev := {}
  pending : List Instr := []
deriving DecidableEq, Repr

/-- Why a step stops. No meaning of this model raises one; the constructor stands for a command whose operands no
sender can present. -/
inductive Fault where
  /-- Raised by no meaning. Safe: the machine stops. -/
  | none
deriving DecidableEq, Repr

/-- Why a command has no meaning. -/
inductive Refusal where
  /-- Raised by the dispatch for a command that has no meaning yet. Safe: the machine stops. -/
  | notModelled (mnemonic : String)
deriving DecidableEq, Repr

/-- The machine right after reset: power-on reset holds, MRAM and the vault are as shipped, nothing is queued. -/
def State.reset : State := {}

end Sys2Proof.Machine
end

