-- ==== Sys2Proof/Machine/Ops.lean ====
section
/-! DEFINITION. The named operations that every family uses: groups of the state, time, configuration lookups, quotas
and grants, counters, DMA translation, ring writes, events, completions and Hemuner frames. -/

namespace Sys2Proof.Machine

/-! ### Groups of the state -/

def Dev.onHost (d : Dev) (f : HostSt → HostSt) : Dev := { d with host := f d.host }
def Dev.onCfg (d : Dev) (f : CfgSt → CfgSt) : Dev := { d with cfg := f d.cfg }
def Dev.onFret (d : Dev) (f : FretSt → FretSt) : Dev := { d with fret := f d.fret }
def Dev.onTime (d : Dev) (f : TimeSt → TimeSt) : Dev := { d with time := f d.time }
def Dev.onCnt (d : Dev) (f : CntSt → CntSt) : Dev := { d with cnt := f d.cnt }
def Dev.onCourse (d : Dev) (f : CourseSt → CourseSt) : Dev := { d with course := f d.course }
def Dev.onTamper (d : Dev) (f : TamperSt → TamperSt) : Dev := { d with tamper := f d.tamper }
def Dev.onMram (d : Dev) (f : Mram → Mram) : Dev := { d with mram := f d.mram }
def Dev.onVault (d : Dev) (f : Vault → Vault) : Dev := { d with vault := f d.vault }

/-- WD_96, the valid mark of a copy of the slot directory (17 R517). -/
def fwMark : BitVec 64 := 0x9669699633CCCC33

/-- The copy of the slot directory that a start uses: of the valid copies the one with the higher sequence number. -/
def FwSt.current (w : FwSt) : FwCopy :=
  let a := w.copies.getD 0 {}
  let b := w.copies.getD 1 {}
  if a.mark = fwMark ∧ (b.mark ≠ fwMark ∨ b.seq ≤ a.seq) then a else b

/-- A change of the directory is written to both copies, one after the other, under the next sequence number. A step makes
both writes (17 R517; log 83). -/
def FwSt.written (w : FwSt) : FwSt :=
  if w.current.dir = w.dir then w
  else
    let c : FwCopy := { dir := w.dir, seq := w.current.seq + 1, mark := fwMark }
    { w with copies := [c, c] }

def Dev.onFw (d : Dev) (f : FwSt → FwSt) : Dev := { d with fw := (f d.fw).written }
def Dev.onPower (d : Dev) (f : PowerSt → PowerSt) : Dev := { d with power := f d.power }
def Dev.onGov (d : Dev) (f : GovSt → GovSt) : Dev := { d with power := { d.power with gov := f d.power.gov } }
def Dev.onDom (d : Dev) (i : Nat) (f : Dom → Dom) : Dev :=
  { d with host := { d.host with doms := modAt d.host.doms i f } }
def Dev.onPage (d : Dev) (i : Nat) (f : Page → Page) : Dev := d.onDom i (fun D => { D with page := f D.page })
def Dev.onRing (d : Dev) (i r : Nat) (f : Ring → Ring) : Dev := d.onDom i (fun D => { D with rings := modAt D.rings r f })
def Dev.onEp (d : Dev) (e : Nat) (f : Endpoint → Endpoint) : Dev :=
  { d with host := { d.host with eps := modAt d.host.eps e f } }
def Dev.onHem (d : Dev) (f : Hemuner → Hemuner) : Dev := { d with host := { d.host with hem := f d.host.hem } }
def Dev.onDomCfg (d : Dev) (i : Nat) (f : DomCfg → DomCfg) : Dev :=
  { d with cfg := { d.cfg with doms := modAt d.cfg.doms i f } }

/-- The state with its device changed; the queue is untouched. -/
def State.onDev (s : State) (f : Dev → Dev) : State := { s with dev := f s.dev }

def Dev.dom (d : Dev) (i : Nat) : Dom := d.host.doms.getD i {}
def Dev.page (d : Dev) (i : Nat) : Page := (d.dom i).page
def Dev.ring (d : Dev) (i r : Nat) : Ring := (d.dom i).rings.getD r {}
def Dev.ep (d : Dev) (e : Nat) : Endpoint := d.host.eps.getD e {}
def Dev.domCfg (d : Dev) (i : Nat) : DomCfg := d.cfg.doms.getD i {}

/-- An output is logged. -/
def emit (o : Out) (d : Dev) : Dev := { d with wire := o :: d.wire }

/-- A free value is used: the counter moves on. -/
def Dev.nextFree (d : Dev) : Dev := { d with freeCtr := d.freeCtr + 1 }

/-- `n` random bytes, and the device after the draw. -/
def draw (n : Nat) (d : Dev) : Bytes × Dev := ((List.range n).map (Config.drawByte d.freeCtr), d.nextFree)

/-- Apply `f` for every element of a list, in order. -/
def forEach {α : Type} (l : List α) (f : α → Dev → Dev) (d : Dev) : Dev := l.foldl (fun d a => f a d) d

/-- Code DM (09 R284). -/
def dmCode : Nat := 32

/-! ### Time (11) -/

/-- The present moment, in TCLK edges. -/
def Dev.now (d : Dev) : Nat := d.time.tclk

/-- The reading of a time base in ns. -/
def Dev.tbNs (d : Dev) (tb : Nat) : Nat := (d.time.tbs.getD tb {}).frac / 2 ^ 32

/-! ### Counting (18 R519, R522, R523) -/

/-- A counter identifier. -/
def cntId (code inst : Nat) : Nat := code * 2 ^ 20 + inst

/-- Counter `code` of `inst` counts `n` more, saturating at 2^48 - 1. -/
def bumpBy (code inst n : Nat) (d : Dev) : Dev :=
  let id := cntId code inst
  d.onCnt (fun c => { c with vals := Tbl.set 0 id (satAdd 48 (Tbl.get 0 id c.vals) n) c.vals })

/-- DCLK and CCLK cycles that have passed by a tick: 1,350 and 800 MHz. -/
def dclkAt (t : Nat) : Nat := t * 27 / 10
def cclkAt (t : Nat) : Nat := t * 8 / 5

/-- Packet-buffer cells in use: queued, parked and punted frames. -/
def Dev.cellsInUse (d : Dev) : Nat :=
  (d.eg.ports.map Egress.cells).sum + d.fr.parkCells.sum +
    ((d.fr.frames.filter (fun e => decide (e.2.stage = .punted))).map (fun e => (e.2.bytes.length + 259) / 256)).sum

/-- What one programmable counter of `slice` adds while `n` edges pass: clock cycles, unused slots and occupancies. -/
def Dev.levelOf (d : Dev) (n slice ev : Nat) : Nat :=
  let c := dclkAt (d.now + n) - dclkAt d.now
  match ev with
  | 0x001 => c
  | 0x002 => n
  | 0x003 => cclkAt (d.now + n) - cclkAt d.now
  | 0x012 => 4 * c
  | 0x032 => c * d.fr.parkCells.getD slice 0
  | 0x033 => c * (d.msec.recs.getD slice []).length
  | 0x060 => c * d.cellsInUse
  | 0x130 => if d.power.gov.queue = [] then 0 else c
  | _ => 0

/-- The programmable counters take what passes with time. -/
def countTime (n : Nat) (d : Dev) : Dev :=
  forEach d.cnt.sel (fun e d => bumpBy 0 e.1 (d.levelOf n (e.1 / 32) e.2.1) d) d

/-- `n` TCLK edges pass: every time base takes its increment at each (11 R335). -/
def advance (n : Nat) (d : Dev) : Dev :=
  (countTime n d).onTime (fun t => { t with
    tclk := t.tclk + n
    tbs := t.tbs.map (fun b => { b with frac := (b.frac + n * b.inc) % (2 ^ 80 * 10 ^ 9) }) })

/-- The clock moves on to tick `t`, if it has not passed it. -/
def advanceTo (t : Nat) (d : Dev) : Dev := advance (t - d.now) d

/-- Ticks of a duration in ns, rounded up. -/
def nsTicks (ns : Nat) : Nat := ceilDiv ns 2

/-- Backup clock: ticks of 1/32,768 s (11 R340). While the device is not up the samples of the backup domain count it. -/
def Dev.bkClock (d : Dev) : Nat :=
  if d.power.up then d.time.bkTicks + (d.now - d.time.bkAt) * 2 * 32768 / 10 ^ 9 else d.time.bkTicks

/-! ### Configuration lookups (02 R58) -/

/-- The bank that an epoch value reads. -/
def Banks.at (b : Banks) (ep : Bool) : Tbl Obj := if (if ep then b.e1 else b.e0) then b.b1 else b.b0

/-- The bank that no epoch value in force reads as active: the inactive bank. -/
def Banks.inactive (b : Banks) (ep : Bool) : Tbl Obj := if (if ep then b.e1 else b.e0) then b.b0 else b.b1

def Dev.banks (d : Dev) (cls : Nat) : Banks := d.cfg.banks.getD cls {}

/-- The complement that is stored with the words of an object (15 R466). -/
def Obj.complement (o : Obj) : List Int := o.f.map (fun z => -1 - z)

def complements (t : Tbl Obj) : Tbl (List Int) := t.map (fun e => (e.1, e.2.complement))

/-- The complements of the SA policy words are written with their banks. -/
def CfgSt.withPolicies (c : CfgSt) : CfgSt :=
  let b := c.banks.getD cSa {}
  { c with polN := [complements b.b0, complements b.b1] }

/-- The policy words of an SA under an epoch are the inverse of their complements (15 R466). -/
def Dev.policyOk (d : Dev) (ep : Bool) (i : Nat) (o : Obj) : Bool :=
  let b := d.banks cSa
  decide ((d.cfg.polN.getD (b2n (if ep then b.e1 else b.e0)) []).find i = some o.complement)

/-- The table of a class under an epoch; that of slice 1 of a per-slice class follows that of slice 0. -/
def Dev.tableAt (d : Dev) (ep : Bool) (cls : Nat) : Tbl Obj :=
  (d.banks cls).at ep ++ (if perSlice cls then (d.banks (cls + 38)).at ep else [])

/-- The active table of a class. -/
def Dev.table (d : Dev) (cls : Nat) : Tbl Obj := d.tableAt d.cfg.epoch cls

/-- The reset object of this part; KEY_MODE is PAIRED by the straps only with no standing set (08 R249). -/
def Dev.rst (d : Dev) (cls key : Nat) : Obj :=
  let o := resetObj d.power.straps d.power.sup cls key
  if cls = cSmvGroup && d.power.standing then { o with f := o.f.set 17 0 } else o

/-- An object under an epoch; absent entries hold the reset object. -/
def Dev.objAt (d : Dev) (ep : Bool) (cls key : Nat) : Obj := ((d.tableAt ep cls).find key).getD (d.rst cls key)

/-- An object of the active configuration. -/
def Dev.obj (d : Dev) (cls key : Nat) : Obj := d.objAt d.cfg.epoch cls key

/-- INDEX of an entry of a per-slice table (14 R442). -/
def sliceIdx (slice entry : Nat) : Nat := slice * 2 ^ 31 + entry

def Dev.fretTb (d : Dev) : Nat := (d.obj cFret 0).n 0
def Dev.fretRate (d : Dev) : Nat := (d.obj cFret 0).n 1

/-- The fret index that the fret time base gives (02 R36). -/
def Dev.derivedIndex (d : Dev) : Nat := d.tbNs d.fretTb * d.fretRate / 10 ^ 9

/-! ### Endpoints, domains, the supervisor (13) -/

/-- Endpoints that the strap creates (13 R383). -/
def Dev.epCount (d : Dev) : Nat :=
  match d.power.straps.pcieBif with
  | 0 => 4
  | 1 => 1
  | 2 => 2
  | _ => 3

/-- Endpoint and slot of a domain, where it has one. -/
def Dev.place (d : Dev) (dom : Nat) : Option (Nat × Nat) :=
  if 32 ≤ dom then none
  else
    let o := d.obj cDomainMap dom
    if o.f ≠ [] ∧ o.n 0 < d.epCount then some (o.n 0, o.n 1) else none

/-- Whether a domain exists (13 R388). -/
def Dev.domExists (d : Dev) (dom : Nat) : Bool := dom = 32 || (d.place dom).isSome

/-- The domain of a slot. -/
def Dev.domAt (d : Dev) (ep slot : Nat) : Option Nat :=
  (List.range 32).find? (fun k => d.place k = some (ep, slot))

/-- The domains that exist, DM last. -/
def Dev.doms (d : Dev) : List Nat := (List.range 33).filter d.domExists

/-- The supervisor: as the provisioning record named it at the last start (13 R389). -/
def Dev.sup (d : Dev) : Nat := d.power.sup

/-- Whether DMA of a domain can leave the device (13 R387). -/
def Dev.dmaAlive (d : Dev) (dom : Nat) : Bool :=
  match d.place dom with
  | none => false
  | some (e, _) => let p := d.ep e; p.linkUp && p.busMaster && !p.d3hot

/-! ### Life cycle and responses (16) -/

/-- The life-cycle state: 1 BLANK, 2 TEST, 3 PRODUCTION, 4 END_OF_LIFE, 7 undecodable (16 R490, R491). -/
def Dev.lc (d : Dev) : Nat :=
  let b := d.mram.block
  if b.lcN ≠ ~~~b.lc then 7
  else if b.lc = 0x3CC3C33C99666699 then 1
  else if b.lc = 0x69969669CC3333CC then 2
  else if b.lc = 0x9669699633CCCC33 then 3
  else if b.lc = 0x996666993CC3C33C then 4
  else 7

/-- TAMPERED (16 R482); an invalid word counts as TAMPERED (R491). -/
def Dev.tampered (d : Dev) : Bool :=
  !(decide (d.mram.block.tamper = 0x55AAAA55F00F0FF0) && decide (d.mram.block.tamperN = ~~~d.mram.block.tamper))

/-- The strongest class carried by a set bit. -/
def Dev.strongest (d : Dev) : Nat :=
  (List.zipWith (fun b c => if b then c else 0) d.tamper.bits d.tamper.carried).foldl max 0

/-- The response in force (`GLB_TAMPER.RESPONSE`, 13 R395, 16 R482). -/
def Dev.response (d : Dev) : Nat :=
  let m := d.strongest
  if d.tampered then max m 2 else m

/-- LOCKDOWN effects in force. -/
def Dev.lockdown (d : Dev) : Bool := decide (2 ≤ d.response)

/-- A provisional freeze is in force (16 R474). -/
def Dev.frozen (d : Dev) : Bool := d.tamper.freeze.any id

/-- Every data port drops its frames under a tamper response (16 R478, R474). -/
def Dev.held (d : Dev) : Bool := decide (1 ≤ d.response) || d.frozen

/-- The course is HALTED, or restarting after a halt (15 R452). -/
def Dev.halted (d : Dev) : Bool :=
  decide (d.course.mode = .halted) || (decide (d.course.mode = .restart) && d.course.afterHalt)

/-- The course executes: it is neither halted, restarting nor resynchronising (15 R456). -/
def Dev.courseRuns (d : Dev) : Bool :=
  (decide (d.course.mode = .triple) || decide (d.course.mode = .duplex)) && d.course.resync.isNone

/-- The part whose activation step is in progress (17 R512). -/
def Dev.fwStep (d : Dev) : Option Nat :=
  match d.fw.act with
  | some a => if a.inStep then a.order.head? else none
  | none => none

/-- A TC, or an LK, activation step is in progress (17 R512). -/
def Dev.tcStep (d : Dev) : Bool := decide (d.fwStep = some 1)
def Dev.lkStep (d : Dev) : Bool := decide (d.fwStep = some 3)

/-! ### Firmware slots (17 R503, R518) -/

def Dev.fwSlot (d : Dev) (s : Nat) : FwSlot := d.fw.slots.getD s {}
def onFwSlot (s : Nat) (f : FwSlot → FwSlot) (d : Dev) : Dev := d.onFw (fun w => { w with slots := modAt w.slots s f })

/-- The states of a slot (17 R518). -/
def fwRECEIVING := 1
def fwRECEIVED := 2
def fwVERIFIED := 3
def fwREJECTED := 4
def fwSCHEDULED := 5
def fwACTIVE := 6
def fwPREVIOUS := 7
def fwFAILED := 8

def setFwState (s st : Nat) (d : Dev) : Dev := onFwSlot s (fun x => { x with state := st }) d

/-! ### Quotas and grants (13 R390 to R392) -/

/-- A shadowed register holds its fail-safe value (15 R467). -/
def Dev.failSafe (d : Dev) (r : ShadowReg) : Bool := d.course.failSafe.contains r

/-- What is left of a range, `[first, last]` or `[slice, first, last]`, without another. -/
def rangeLess (r x : List Int) : List (List Int) :=
  let n := r.length
  let a := r.getD (n - 2) 0
  let b := r.getD (n - 1) 0
  let c := x.getD (n - 2) 0
  let e := x.getD (n - 1) 0
  if (n = 3 ∧ r.getD 0 0 ≠ x.getD 0 0) ∨ e < a ∨ b < c ∨ e < c then [r]
  else (if a < c then [r.take (n - 2) ++ [a, c - 1]] else []) ++ (if e < b then [r.take (n - 2) ++ [e + 1, b]] else [])

/-- What is left of a quota object once another names its objects: ports, ranges, time bases and pins; of pinned slots and
parent entries the excepted ranges stand behind the lists of the image. -/
def quotaLess (q o : Obj) : Obj :=
  let less (i : Nat) : Int := ((q.n i - (q.n i &&& o.n i) : Nat) : Int)
  { f := ((q.f.set 0 (less 0)).set 10 (less 10)).set 12 (less 12),
    l := (List.range 11).map (fun i => (o.lst i).foldl (fun rs x => rs.flatMap (fun r => rangeLess r x)) (q.lst i)) ++
      [q.lst 11 ++ [[o.z 1, o.z 2]], q.lst 12 ++ [[o.z 4, o.z 5]]] }

/-- The quota of a domain under a table of quota objects: a domain whose quota is not staged holds its reset quota without
what the quotas that are staged name (13 R390, R393; log 76). -/
def quotaIn (t : Tbl Obj) (rst : Obj) (dom : Nat) : Obj :=
  match t.find dom with
  | some q => q
  | none => t.foldl (fun q e => quotaLess q e.2) rst

/-- The quota object of a domain. -/
def Dev.quota (d : Dev) (dom : Nat) : Obj :=
  if d.failSafe (.quota dom) then schemaReset cQuota else quotaIn (d.table cQuota) (d.rst cQuota dom) dom

def inRange1 (rs : List (List Int)) (i : Nat) : Bool :=
  rs.any (fun r => decide (r.getD 0 0 ≤ i) && decide ((i : Int) ≤ r.getD 1 0))

def inRange2 (rs : List (List Int)) (slice i : Nat) : Bool :=
  rs.any (fun r => decide (r.getD 0 0 = slice) && decide (r.getD 1 0 ≤ i) && decide ((i : Int) ≤ r.getD 2 0))

/-- Ownership under a quota object: ports, and the indexed classes. -/
def quotaPort (q : Obj) (port : Nat) : Bool := (q.n 0).testBit port
def quotaSecy (q : Obj) (i : Nat) : Bool := inRange1 (q.lst 0) i
def quotaTxSc (q : Obj) (i : Nat) : Bool := inRange1 (q.lst 1) i
def quotaRxSc (q : Obj) (i : Nat) : Bool := inRange1 (q.lst 2) i
def quotaSa (q : Obj) (i : Nat) : Bool := inRange1 (q.lst 3) i
def quotaService (q : Obj) (i : Nat) : Bool := inRange1 (q.lst 8) i
def quotaChannel (q : Obj) (i : Nat) : Bool := inRange1 (q.lst 9) i
def quotaPinned (q : Obj) (i : Nat) : Bool := decide (q.n 1 ≤ i) && decide (i ≤ q.n 2) && !inRange1 (q.lst 11) i
def quotaParent (q : Obj) (i : Nat) : Bool := decide (q.n 4 ≤ i) && decide (i ≤ q.n 5) && !inRange1 (q.lst 12) i
def quotaTb (q : Obj) (tb : Nat) : Bool := (q.n 10).testBit tb
def quotaTbRead (q : Obj) (tb : Nat) : Bool := (q.n 10).testBit tb || (q.n 11).testBit tb
def quotaPin (q : Obj) (pin : Nat) : Bool := (q.n 12).testBit pin

/-- Whether a quota object covers the object that a STAGE command names; classes with no per-object owner answer
true. -/
def quotaCovers (q : Obj) (cls idx : Nat) (o : Obj) : Bool :=
  let slice := idx / 2 ^ 31
  let e := idx % 2 ^ 31
  match cls with
  | 6 => quotaPort q (if idx < 16 then idx else idx)
  | 7 | 13 | 18 | 30 | 33 | 35 => quotaPort q idx
  | 9 => true
  | 10 => inRange2 (q.lst 5) slice e
  | 11 => inRange2 (q.lst 6) slice e
  | 12 => inRange2 (q.lst 7) slice e
  | 17 => inRange2 (q.lst 4) slice e
  | 19 => quotaService q idx
  | 20 => quotaService q (o.n 0)
  | 21 => quotaChannel q idx
  | 22 | 27 => quotaPort q idx
  | 23 => quotaSecy q idx
  | 24 => quotaTxSc q idx
  | 25 => quotaRxSc q idx
  | 26 => quotaSa q idx
  | 31 => quotaPin q idx
  | 34 => quotaPort q (idx / 8)
  | 36 => inRange2 (q.lst 10) slice e
  | _ => true

/-- The domain whose quota satisfies `p`, if any. -/
def Dev.ownerBy (d : Dev) (p : Obj → Bool) : Option Nat := (List.range 33).find? (fun k => p (d.quota k))

def Dev.portOwner (d : Dev) (port : Nat) : Option Nat := d.ownerBy (fun q => quotaPort q port)
def Dev.serviceOwner (d : Dev) (s : Nat) : Option Nat := d.ownerBy (fun q => quotaService q s)
def Dev.saOwner (d : Dev) (sa : Nat) : Option Nat := d.ownerBy (fun q => quotaSa q sa)
def Dev.secyOwner (d : Dev) (i : Nat) : Option Nat := d.ownerBy (fun q => quotaSecy q i)
def Dev.channelOwner (d : Dev) (i : Nat) : Option Nat := d.ownerBy (fun q => quotaChannel q i)

/-- Grants: 0 CLEAR_KEY, 1 PASSTHROUGH, 2 FW, 3 LC (13 R391). D0 holds every grant of a LOCKED device (16 R492). -/
def Dev.grant (d : Dev) (dom g : Nat) : Bool :=
  if d.tamper.locked then dom = 0
  else if d.failSafe (.grants dom) then false
  else ((d.obj cQuota dom).n 13).testBit g

/-! ### Port layout (03 R62) -/

/-- The layout image of the slice and side of a port coded as in C0. -/
def Dev.layoutOf (d : Dev) (port : Nat) : Obj := d.obj cPortLayout ((port % 16 / 8) * 2 + port / 16)

/-- The type of the port that starts at a lane: 0 800GbE to 6 10GbE, 8 none. -/
def Dev.portType (d : Dev) (port : Nat) : Nat := (d.layoutOf port).n (port % 8)

/-- Lanes of the Smivia group of a slice, as a bit mask of the slice's line lanes; 0 for no group. -/
def Dev.groupLanes (d : Dev) (slice : Nat) : Nat := (d.obj cPortLayout (slice * 2)).n 16

/-- Lowest lane of a mask. -/
def lowBit (m : Nat) : Nat := ((List.range 8).find? (fun i => m.testBit i)).getD 0

/-- The line port that names the Smivia group of a slice, coded as in C0. -/
def Dev.groupPort (d : Dev) (slice : Nat) : Option Nat :=
  let m := d.groupLanes slice
  if m = 0 then none else some (slice * 8 + lowBit m)

/-- Whether a code names a Smivia group. -/
def Dev.isGroup (d : Dev) (port : Nat) : Bool := decide (port < 16) && decide (d.groupPort (port / 8) = some port)

/-- Whether a code names an Ethernet port of the layout. -/
def Dev.isEth (d : Dev) (port : Nat) : Bool := decide (d.portType port < 7)

/-- The lanes of a port, coded as ports. -/
def Dev.portLanes (d : Dev) (port : Nat) : List Nat :=
  if d.isGroup port then
    ((List.range 8).filter (fun i => (d.groupLanes (port / 8)).testBit i)).map (fun i => port / 8 * 8 + i)
  else if d.isEth port then (List.range (typeLanes (d.portType port))).map (fun i => port + i)
  else []

/-- The port that a lane belongs to, if any. -/
def Dev.lanePort (d : Dev) (lane : Nat) : Option Nat :=
  (List.range 32).find? (fun p => (d.portLanes p).contains lane)

/-- The owner of the Smivia group of a slice. -/
def Dev.groupOwner (d : Dev) (slice : Nat) : Option Nat := (d.groupPort slice).bind d.portOwner

/-! ### Counters (18 R519, R522) -/

def bump (code inst : Nat) (d : Dev) : Dev := bumpBy code inst 1 d

/-- Event `ev` of 18 R523 happens `n` times, for member `bit` of its mask, in `slice` (2 for a global event): every
programmable counter that selects it counts. -/
def progEvent (ev slice bit n : Nat) (d : Dev) : Dev :=
  forEach d.cnt.sel (fun e d =>
    if e.2.1 = ev ∧ e.1 / 32 = slice ∧ (e.2.2 = 0 ∨ e.2.2.testBit bit) then bumpBy 0 e.1 n d else d) d

/-! ### DMA translation (13 R407 to R410) -/

/-- What a translation answers. -/
inductive Xl where
  | ok (bus : Nat)
  | walk
  | fault (cause : Nat)
  | dead
deriving DecidableEq, Repr

/-- Page size, in bits, of a leaf at a level. -/
def leafBits (lvl : Nat) : Nat := 12 + 9 * (lvl - 1)

/-- The DTU mode in force: PASSTHROUGH only as long as its grant is held (13 R407). -/
def Dev.dtuMode (d : Dev) (dom : Nat) : Nat :=
  let m := (d.page dom).dtuMode
  if d.failSafe (.dtuMode dom) ∨ (m = 2 ∧ !d.grant dom 1) then 0 else m

/-- The IOTLB entry that covers a page, at any level. -/
def Dev.tlbFind (d : Dev) (dom iova : Nat) : Option TlbEntry :=
  [1, 2, 3].findSome? (fun lvl =>
    let vpn := iova / 2 ^ leafBits lvl
    (d.host.iotlb.getD (vpn % 512) []).find? (fun e => e.dom = dom && e.lvl = lvl && e.vpn = vpn))

/-- The translation of one access inside a 4 KiB page. -/
def xlat (d : Dev) (dom iova : Nat) (write : Bool) : Xl :=
  if !d.dmaAlive dom then .dead
  else if d.dtuMode dom = 0 then .fault 1
  else if 2 ^ 48 ≤ iova then .fault 5
  else if d.dtuMode dom = 2 then .ok iova
  else
    match d.tlbFind dom iova with
    | none => .walk
    | some e =>
      if (if write then e.wr else e.rd) then .ok (e.base + iova % 2 ^ leafBits e.lvl) else .fault 3

/-- The use of an entry makes it the most recent of its set (13 R409). -/
def tlbTouch (dom iova : Nat) (d : Dev) : Dev :=
  match d.tlbFind dom iova with
  | none => d
  | some e => d.onHost (fun h => { h with iotlb := modAt h.iotlb (e.vpn % 512) (fun l => e :: l.erase e) })

/-- One level of a walk: `lvl` 4 to 1, the entry read, the permissions gathered; the leaf, or the cause. -/
def walkFrom (iova : Nat) (write : Bool) : Nat → Bool → Bool → List (BitVec 64) → Except Nat (Nat × Nat × Bool × Bool)
  | 0, _, _, _ => .error 4
  | _ + 1, _, _, [] => .error 6
  | lvl + 1, r, w, e :: es =>
    let n := e.toNat
    let r := r && n.testBit 1
    let w := w && n.testBit 2
    let leaf := lvl = 0 ∨ (n.testBit 7 ∧ (lvl = 1 ∨ lvl = 2))
    let addr := bitsOf n 51 12 * 2 ^ 12
    if !n.testBit 0 then .error 2
    else if bitsOf n 63 52 ≠ 0 ∨ bitsOf n 11 8 ≠ 0 ∨ bitsOf n 6 3 ≠ 0 ∨ (lvl = 3 ∧ n.testBit 7) then .error 4
    else if leaf then
      if addr % 2 ^ leafBits (lvl + 1) ≠ 0 then .error 4
      else if (if write then w else r) then .ok (lvl + 1, addr, r, w) else .error 3
    else walkFrom iova write lvl r w es

/-- A walk for one access, from the table entries read. -/
def walk (iova : Nat) (write : Bool) (es : List (BitVec 64)) : Except Nat (Nat × Nat × Bool × Bool) :=
  walkFrom iova write 4 true true es

/-- The table that an entry of level `lvl + 1` names, where the walk goes on after it (13 R408). -/
def nextTable (lvl : Nat) (e : BitVec 64) : Option Nat :=
  let n := e.toNat
  let leaf := lvl = 0 ∨ (n.testBit 7 ∧ (lvl = 1 ∨ lvl = 2))
  if !n.testBit 0 ∨ leaf ∨ bitsOf n 63 52 ≠ 0 ∨ bitsOf n 11 8 ≠ 0 ∨ bitsOf n 6 3 ≠ 0 ∨ (lvl = 3 ∧ n.testBit 7) then none
  else some (bitsOf n 51 12 * 2 ^ 12)

/-- The addresses of the table entries that a walk reads, from the level-4 table on (13 R408): at each level the entry that 9
bits of the IOVA name. -/
def walkAddrs (iova : Nat) : Nat → Nat → List (BitVec 64) → List Nat
  | 0, _, _ => []
  | lvl + 1, table, es =>
    let here := table + 8 * (iova / 2 ^ leafBits (lvl + 1) % 512)
    match es with
    | [] => [here]
    | e :: es =>
      match nextTable lvl e with
      | some t => here :: walkAddrs iova lvl t es
      | none => [here]

/-- A leaf enters the IOTLB; the least recently used of a full set leaves (13 R409). -/
def tlbInsert (dom iova : Nat) (leaf : Nat × Nat × Bool × Bool) (d : Dev) : Dev :=
  let vpn := iova / 2 ^ leafBits leaf.1
  let e : TlbEntry := { dom := dom, lvl := leaf.1, vpn := vpn, base := leaf.2.1, rd := leaf.2.2.1, wr := leaf.2.2.2 }
  d.onHost (fun h => { h with iotlb := modAt h.iotlb (vpn % 512) (fun l =>
    (e :: without (fun x => x.dom = dom && x.lvl = e.lvl && x.vpn = vpn) l).take 8) })

/-- A range of IOVA cut at 4 KiB boundaries (13 R412). -/
def pagesOf (iova len : Nat) : List (Nat × Nat) :=
  let n := if len = 0 then 0 else (iova % 4096 + len + 4095) / 4096
  (List.range n).map (fun i =>
    let a := if i = 0 then iova else (iova / 4096 + i) * 4096
    let e := min (iova + len) ((iova / 4096 + i + 1) * 4096)
    (a, e - a))

/-- DMA requests counted by the programmable counters (18 R523): endpoint and class 0 to 3. -/
def countDma (dom cls bytes : Nat) (d : Dev) : Dev :=
  match d.place dom with
  | none => d
  | some (e, _) =>
    forEach d.cnt.sel (fun s d =>
      let hit := s.1 / 32 = 2 ∧ (s.2.2 % 16 = 0 ∨ (s.2.2 % 16).testBit e) ∧
        (s.2.2 / 16 % 16 = 0 ∨ (s.2.2 / 16 % 16).testBit cls)
      if hit ∧ s.2.1 = 0x100 then bumpBy 0 s.1 1 d
      else if hit ∧ s.2.1 = 0x101 then bumpBy 0 s.1 bytes d
      else d) d

/-- The reads of the table entries of a walk, in the class of the access that needs it (13 R408). -/
def tableReads (dom cls iova : Nat) (es : List (BitVec 64)) (d : Dev) : Dev :=
  forEach (walkAddrs iova 4 (d.page dom).dtuRoot es) (fun a d => countDma dom cls 8 (emit (.read dom a 8) d)) d

/-- A read of host memory within one page is issued, where it translates. -/
def dmaRead (dom cls iova len : Nat) (d : Dev) : Dev :=
  match xlat d dom iova false with
  | .ok bus => countDma dom cls len (emit (.read dom bus len) (tlbTouch dom iova d))
  | _ => d

/-- Bytes written to host memory at translated pages; `pages` pairs each piece with its bus address. -/
def dmaWrite (dom cls iova : Nat) (data : Bytes) (d : Dev) : Dev :=
  ((pagesOf iova data.length).foldl (fun (st : Dev × Bytes) p =>
    let d := st.1
    let here := st.2.take p.2
    (match xlat d dom p.1 true with
     | .ok bus => countDma dom cls p.2 (emit (.write dom bus here) (tlbTouch dom p.1 d))
     | _ => d, st.2.drop p.2)) (d, data)).1

/-- An unsuccessful read of a domain is counted at its endpoint (13 R386). -/
def badRead (dom : Nat) (d : Dev) : Dev :=
  match d.place dom with
  | some (e, _) => bump 0x120 e d
  | none => d

/-! ### Interrupts (13 R406) -/

/-- The message of a vector leaves its endpoint, as a write of 4 bytes in the commands class. -/
def msixWrite (dom ep v : Nat) (d : Dev) : Dev :=
  let x := (d.ep ep).msix.getD v {}
  countDma dom 2 4 (emit (.msix ep v x.addr x.data) d)

/-- A message of a source leaves, or sets its pending bit where the vector is masked; HOLDOFF counts from a message that has
left. -/
def sendMsi (dom src : Nat) (d : Dev) : Dev :=
  match d.place dom with
  | none => d
  | some (e, slot) =>
    let v := 8 * slot + bitsOf (d.page dom).msixMap.toNat (4 * src + 2) (4 * src)
    let on (f : Source → Source) (d : Dev) : Dev := d.onDom dom (fun D => { D with sources := modAt D.sources src f })
    if !d.dmaAlive dom then on (fun x => { x with due := false }) d
    else if (d.ep e).masked.getLsbD v then
      on (fun x => { x with due := false, pend := some v }) (d.onEp e (fun p => { p with pending := p.pending ||| (1 <<< v) }))
    else msixWrite dom e v (on (fun _ => { last := some d.now }) d)

/-- A source has new entries: the message goes at once, or when HOLDOFF has passed, or when the source is enabled; that of
an error goes only where the source is enabled. Sources: 0 completion, 1 event, 2 punt, 3 dump, 4 error. -/
def notify (dom src : Nat) (d : Dev) : Dev :=
  let p := d.page dom
  let wait (d : Dev) : Dev := d.onDom dom (fun D => { D with sources := modAt D.sources src (fun x => { x with due := true }) })
  if !p.msixMap.getLsbD (4 * src + 3) then (if src = 4 then d else wait d)
  else
    match ((d.dom dom).sources.getD src {}).last with
    | none => sendMsi dom src d
    | some t => if d.now < t + p.holdoff * 50 then wait d else sendMsi dom src d

/-! ### Device-produced rings (13 R397 to R405, R417) -/

/-- Entry size of a ring (13 R398). -/
def entrySize (ring : Nat) : Nat :=
  match ring with
  | 0 | 3 | 4 | 5 | 6 => 64
  | 7 => 1024
  | 8 => 4096
  | _ => 32

/-- Range of LOG2 of a ring (13 R398). -/
def log2Ok (ring l : Nat) : Bool :=
  match ring with
  | 7 => decide (6 ≤ l ∧ l ≤ 12)
  | 8 => decide (4 ≤ l ∧ l ≤ 12)
  | _ => decide (6 ≤ l ∧ l ≤ 16)

/-- The interrupt source of a device-produced ring. -/
def ringSource (ring : Nat) : Nat :=
  match ring with
  | 1 => 0
  | 2 => 1
  | 7 => 2
  | _ => 3

/-- Whether a ring is enabled and runs. -/
def Dev.ringUp (d : Dev) (dom ring : Nat) : Bool :=
  let p := d.page dom
  p.enable && p.ringEn.getLsbD ring && !p.resetBusy && !(d.ring dom ring).stopped && d.domExists dom && dom < 32

/-- Entries that one write takes. -/
def entryCount : RingEntry → Nat
  | .dump es => es.length
  | _ => 1

/-- Entries of a ring in use or promised to held writes. -/
def Dev.ringUsed (d : Dev) (dom ring : Nat) : Nat :=
  let r := d.ring dom ring
  (r.devIndex - r.hostIndex).toNat +
    (((d.dom dom).held.filter (fun h => h.ring = ring)).map (fun h => entryCount h.entry)).sum

/-- Free entries of a device-produced ring, judged against the HOST_INDEX read last (13 R404). -/
def Dev.ringFree (d : Dev) (dom ring : Nat) : Nat := 2 ^ (d.ring dom ring).log2 - d.ringUsed dom ring

/-- A ring goes into error: it stops, and the ERR source sends its message (13 R401). -/
def ringError (dom ring : Nat) (d : Dev) : Dev :=
  let d := d.onPage dom (fun p => { p with ringErr := p.ringErr ||| (1 <<< ring) })
  notify dom 4 (d.onRing dom ring (fun r => { r with stopped := true }))

/-- A ring-structure fault (13 R417): access 1 record read, 2 record write, 3 descriptor fetch, 4 entry write, 5
page-table read. -/
def structFault (dom ring access cause iova : Nat) (d : Dev) : Dev :=
  let info := BitVec.ofNat 32 (2 ^ 31 + ring * 2 ^ 24 + cause * 2 ^ 20 + (if cause = 6 then 5 else access) * 2 ^ 16)
  notify dom 4 (d.onPage dom (fun p => { p with dtuErr := true, faultAddr := iova, faultInfo := info }))

/-- The addresses that one ring write touches: its entries, then the record. -/
def Dev.ringTouches (d : Dev) (dom ring n : Nat) : List (Nat × Nat) :=
  let r := d.ring dom ring
  (List.range n).map (fun i =>
    (4, r.base + ((r.devIndex.toNat + i) % 2 ^ r.log2) * entrySize ring)) ++ [(2, (d.page dom).dbrec + 64 * ring + 8)]

/-- The first touched address that does not translate. -/
def Dev.ringBlock (d : Dev) (dom ring n : Nat) : Option (Nat × Nat × Xl) :=
  (d.ringTouches dom ring n).findSome? (fun t =>
    match xlat d dom t.2 true with
    | .ok _ => none
    | x => some (t.1, t.2, x))

/-- Bytes 8 to 15 of a doorbell record: DEV_INDEX, then DEV_EPOCH, that is GEN over the complement of the index's low half
(13 R399). -/
def Ring.record (r : Ring) : Bytes :=
  leBytes r.devIndex.toNat 4 ++ leBytes (65535 - r.devIndex.toNat % 2 ^ 16) 2 ++ leBytes r.gen 2

/-- DEV_INDEX and DEV_EPOCH go to the ring's record (13 R399). -/
def emitIndex (dom ring : Nat) (d : Dev) : Dev :=
  let at_ := (d.page dom).dbrec + 64 * ring + 8
  match xlat d dom at_ true with
  | .ok bus => countDma dom 2 8 (emit (.devIndex dom ring bus (d.ring dom ring).record) (tlbTouch dom at_ d))
  | _ => d

/-- The entries that one write puts into its ring, one by one. -/
def RingEntry.pieces : RingEntry → List RingEntry
  | .dump es => es.map (fun x => .dump [x])
  | e => [e]

/-- Where a ring's next entry lies (13 R397). -/
def Ring.nextAddr (r : Ring) (ring : Nat) : Nat := r.base + (r.devIndex.toNat % 2 ^ r.log2) * entrySize ring

/-- One entry goes to its place in a device-produced ring, and the index moves past it. -/
def putRingEntry (dom ring : Nat) (e : RingEntry) (d : Dev) : Dev :=
  let at_ := (d.ring dom ring).nextAddr ring
  let d := match xlat d dom at_ true with
    | .ok bus => countDma dom (if ring = 8 then 1 else 2) (entrySize ring) (emit (.entry dom ring bus e) (tlbTouch dom at_ d))
    | _ => d
  d.onRing dom ring (fun r => { r with devIndex := r.devIndex + 1 })

/-- The write of the entries of one ring write, once everything translates: entries, DEV_INDEX, message (13 R403). A write of
no entry brings the record alone up to date. -/
def ringWriteNow (dom ring : Nat) (e : RingEntry) (d : Dev) : Dev :=
  if entryCount e = 0 then emitIndex dom ring d
  else notify dom (ringSource ring) (emitIndex dom ring (forEach e.pieces (putRingEntry dom ring) d))

/-- A write to a device-produced ring: done, held behind earlier ones, held for a walk, or the ring-structure fault
of 13 R417. A write whose endpoint is dead ends at once (13 R387). -/
def ringPut (dom ring : Nat) (e : RingEntry) (d : Dev) (tag : Nat := 0) : Dev :=
  let hold (d : Dev) := d.onDom dom (fun D => { D with
    held := D.held ++ [{ ring := ring, entry := e, tag := tag }]
    heldSince := if D.held = [] then d.now else D.heldSince })
  let D := d.dom dom
  if D.page.dtuErr || !D.held.isEmpty then hold d
  else
    match d.ringBlock dom ring (entryCount e) with
    | none => ringWriteNow dom ring e d
    | some (_, _, .dead) => ringWriteNow dom ring e d
    | some (acc, iova, .fault c) => hold (structFault dom ring acc c iova d)
    | some _ => hold d

/-- Faults that end a write of a punt or dump entry, and not the rings: those of the entry itself (05 R150, 18 R529). -/
def entryFault (ring access : Nat) : Bool := decide (7 ≤ ring ∧ access = 4)

/-- The held writes go out in order until one does not translate. -/
def flushHeld (dom : Nat) : Nat → Dev → Dev
  | 0, d => d
  | n + 1, d =>
    match (d.dom dom).held with
    | [] => d
    | h :: hs =>
      if (d.page dom).dtuErr then d
      else
        match d.ringBlock dom h.ring (entryCount h.entry) with
        | some (acc, iova, .fault c) => if entryFault h.ring acc then d else structFault dom h.ring acc c iova d
        | some (_, _, .walk) => d.onDom dom (fun D => { D with heldSince := d.now })
        | _ => flushHeld dom n (ringWriteNow dom h.ring h.entry (d.onDom dom (fun D => { D with held := hs })))

/-! ### Events (14 R432, R447, R448) -/

/-- Payload bytes 16 to 31 of an event from its fields: (byte offset in the event, bytes, value). -/
def payload (fs : List (Nat × Nat × Nat)) : Bytes :=
  fs.foldl (fun p f => putBytes p (f.1 - 16) (leBytes f.2.2 f.2.1)) (zeros 16)

/-- An event of the present fret. -/
def Dev.event (d : Dev) (code : Nat) (fs : List (Nat × Nat × Nat)) (cleared : Bool := false) : Event :=
  { code := code, cleared := cleared, head := d.fret.index, payload := payload fs }

/-- The image of an event (14 R432). -/
def eventImage (flags dom index : Nat) (e : Event) : Bytes :=
  leBytes e.code 2 ++ leBytes flags 1 ++ leBytes dom 1 ++ leBytes index 4 ++ leBytes e.head 8 ++ e.payload

/-- The image of a completion (14 R431). -/
def completionImage (c : Completion) : Bytes :=
  leBytes c.opcode 2 ++ leBytes c.ring 1 ++ leBytes c.flags 1 ++ leBytes c.tag.toNat 4 ++ leBytes c.status 1 ++ [0] ++
    leBytes c.detail 2 ++ leBytes c.value 4 ++ padTo 16 c.result

/-- The MAC address of a management port: that of the standing set a start has loaded, else the default (13 R418). -/
def Dev.mgMac (d : Dev) (port : Nat) : Bytes :=
  let m := d.power.mgMacs.getD port 0
  if m ≠ 0 then beBytes m 6
  else [0x02, Config.deviceIdByte 12, Config.deviceIdByte 13, Config.deviceIdByte 14, Config.deviceIdByte 15,
        BitVec.ofNat 8 port]

/-- A Hemuner frame from the device (13 R419): type, count, data area, descriptors. -/
def Dev.hemFrame (d : Dev) (port : Nat) (da : Nat) (ty count : Nat) (body data : Bytes) : Bytes :=
  let v := d.vault
  let h := beBytes da 6 ++ d.mgMac port ++ [0x88, 0xB5, 0x01] ++ leBytes ty 1 ++ beBytes v.mgmtId.toNat 8 ++
    beBytes d.host.hem.session.toNat 8 ++ beBytes (d.host.hem.seq + 1) 8 ++ leBytes count 1 ++ [0] ++ zeros 4 ++
    beBytes data.length 2 ++ body ++ data
  h ++ cmac v.mgmtKey h

/-- Broadcast address. -/
def broadcast : Nat := 2 ^ 48 - 1

/-- The management key equals the inverse of its complement (15 R466). -/
def Dev.mgmtOk (d : Dev) : Bool := decide (d.vault.mgmtKeyN = invBytes d.vault.mgmtKey)

/-- A management port can send frames of the channel: it is synchronised, and a management key is provisioned whole. -/
def Dev.hemUp (d : Dev) (port : Nat) : Bool := decide (d.vault.mgmtId ≠ 0) && d.mgmtOk && d.lanes.mgSync.getD port false

/-- A frame of the device leaves a management port and takes the next SEQ (13 R422). -/
def hemSend (port ty count : Nat) (body data : Bytes) (d : Dev) : Dev :=
  if !d.hemUp port then d
  else
    let da := (d.host.hem.announce.getD port none).getD broadcast
    let f := d.hemFrame port da ty count body data
    emit (.hemuner port f) (d.onHem (fun h => { h with seq := h.seq + 1 }))

/-- An event for DM: into its ring of 1,024, sent on both ports, or lost (13 R424). -/
def raiseDm (e : Event) (d : Dev) : Dev :=
  let D := d.dom dmCode
  let idx := D.evtIndex
  let d := d.onDom dmCode (fun D => { D with evtIndex := (D.evtIndex + 1) % 2 ^ 32 })
  if 1024 ≤ d.host.hem.events.length then
    bump 0x122 dmCode (d.onDom dmCode (fun D => { D with evtGap := true }))
  else
    let img := eventImage (b2n e.cleared + 2 * b2n D.evtGap) dmCode idx e
    let d := d.onDom dmCode (fun D => { D with evtGap := false })
    let d := d.onHem (fun h => { h with events := h.events ++ [{ index := idx, image := img, sent := d.now }] })
    hemSend 1 4 1 img [] (hemSend 0 4 1 img [] d)

/-- The event ring of a domain is enabled: its events are numbered (14 R432). -/
def Dev.evtqEnabled (d : Dev) (dom : Nat) : Bool := decide (dom < 32) && d.domExists dom && (d.page dom).ringEn.getLsbD 2

/-- An event of a domain that was raised and lost takes its index, and the next one written tells of the gap (14 R432). -/
def skipEvent (dom : Nat) (d : Dev) : Dev :=
  if dom ≠ dmCode ∧ !d.evtqEnabled dom then d
  else d.onDom dom (fun D => { D with evtIndex := (D.evtIndex + 1) % 2 ^ 32, evtGap := true })

/-- An event for one domain (14 R432, 13 R404): one that an enabled ring does not take now is lost. -/
def raiseNow (dom : Nat) (e : Event) (d : Dev) : Dev :=
  if dom = dmCode then raiseDm e d
  else if !d.ringUp dom 2 then skipEvent dom d
  else
    let D := d.dom dom
    let idx := D.evtIndex
    let d := d.onDom dom (fun D => { D with evtIndex := (D.evtIndex + 1) % 2 ^ 32 })
    if d.ringFree dom 2 = 0 then
      bump 0x122 dom (d.onDom dom (fun D => { D with evtGap := true, page := { D.page with evtOverflow := true } }))
    else
      let d := d.onDom dom (fun D => { D with evtGap := false })
      ringPut dom 2 (.event (b2n e.cleared + 2 * b2n D.evtGap) dom idx e) d

/-- An event of the course: no write leaves it while it resynchronises, and the event follows then (15 R456). -/
def raise (dom : Nat) (e : Event) (d : Dev) : Dev :=
  if d.course.resync.isSome then d.onCourse (fun k => { k with heldEvents := k.heldEvents ++ [(dom, e)] }) else raiseNow dom e d

/-- An event for the owner of an object; for the supervisor where nobody owns it (13 R392). -/
def raiseTo (owner : Option Nat) (e : Event) (d : Dev) : Dev := raise (owner.getD d.sup) e d

/-- The slice of a port, and of its lanes, coded as in C0. -/
def portSlice (p : Nat) : Nat := p / 8 % 2

/-- The course takes no event of the data plane: it is halted or resynchronises (15 R456, R459). -/
def Dev.eventsWait (d : Dev) : Bool := d.halted || d.course.resync.isSome

/-- The event queue from the data plane of a slice is full (01 R32). -/
def Dev.evqFull (d : Dev) (slice : Nat) : Bool := decide (1024 ≤ (d.host.evq.getD slice []).length)

/-- An event of the data plane of a slice. It waits while the course takes none, and is lost where the queue is full (01 R32;
log 87). -/
def raiseFrom (slice : Nat) (owner : Option Nat) (e : Event) (d : Dev) : Dev :=
  let dom := owner.getD d.sup
  if !d.eventsWait then raise dom e d
  else if d.evqFull slice then bump 0x122 dom (d.onHost (fun h => { h with evLost := h.evLost ++ [dom] }))
  else d.onHost (fun h => { h with evq := modAt h.evq slice (· ++ [(dom, e)]) })

/-- The course takes the events that have waited for it; those lost to a full queue came after them. -/
def takeEvents (d : Dev) : Dev :=
  let h := d.host
  let d := forEach d.course.heldEvents (fun e d => raise e.1 e.2 d) (d.onCourse (fun k => { k with heldEvents := [] }))
  forEach h.evLost skipEvent (forEach h.evq.flatten (fun e d => raise e.1 e.2 d)
    (d.onHost (fun h => { h with evq := [[], []], evLost := [] })))

/-- An event for every existing domain. -/
def raiseAll (e : Event) (d : Dev) : Dev := forEach d.doms (fun k d => raise k e d) d

/-! ### Completions (14 R431, R436, R437) -/

/-- Removal of the first entry that `p` picks. -/
def dropFirst {α : Type} (p : α → Bool) : List α → List α
  | [] => []
  | x :: xs => if p x then xs else x :: dropFirst p xs

/-- The completions of DM leave in order on the ports that carried their commands; those of a port that can send nothing
wait (13 R424). -/
def hemFlush (d : Dev) : Dev :=
  let go := d.host.hem.comps.filter (fun x => d.hemUp x.port)
  let stay := d.host.hem.comps.filter (fun x => !d.hemUp x.port)
  forEach go (fun x d => match x.frame with
    | some f => emit (.hemuner x.port f) d
    | none => hemSend x.port 3 1 x.image x.data d) (d.onHem (fun h => { h with comps := stay }))

/-- The completions that wait become frames of the key and session of now (13 R426). -/
def hemSeal (d : Dev) : Dev :=
  let cs := d.host.hem.comps
  forEach cs (fun x d =>
    let built : DmReply × Dev := match x.frame with
      | some _ => (x, d)
      | none =>
        let da := (d.host.hem.announce.getD x.port none).getD broadcast
        ({ x with frame := some (d.hemFrame x.port da 3 1 x.image x.data) }, d.onHem (fun h => { h with seq := h.seq + 1 }))
    built.2.onHem (fun h => { h with comps := h.comps ++ [built.1] })) (d.onHem (fun h => { h with comps := [] }))

/-- A completion leaves: on the completion ring, or in a COMPLETION frame with its data area. -/
def post (c : Cmd) (comp : Completion) (data : Bytes) (d : Dev) : Dev :=
  if c.dom = dmCode then
    hemFlush (d.onHem (fun h => { h with comps := h.comps ++ [{ port := c.port, image := completionImage comp, data := data }] }))
  else
    let d := d.onRing c.dom c.ring (fun r => { r with reserved := r.reserved - 1 })
    if d.ringUp c.dom 1 then ringPut c.dom 1 (.completion comp) d else d

/-- The tag history takes a completed command; it holds the last 256 (14 R436). -/
def recordTag (c : Cmd) (comp : Completion) (data : Bytes) (d : Dev) : Dev :=
  if c.tag = 0 then d
  else d.onRing c.dom c.ring (fun r =>
    { r with history := ({ tag := c.tag, crc := c.crc, comp := comp, data := if data.length ≤ 128 then data else [] } ::
                          r.history).take 256 })

/-- A command ends: its completion is posted, its tag recorded, and the duplicates held for it are answered with
REPLAY (14 R437). A command that a domain reset has taken over ends without a completion (13 R394). While the course
is HALTED nothing is posted, and the restart answers the command (15 R459, R462); while it resynchronises, the
completion waits (15 R456). -/
def finish (c : Cmd) (r : Reply) (d : Dev) : Dev :=
  if d.halted then d
  else if d.course.resync.isSome then d.onCourse (fun k => { k with heldFin := k.heldFin ++ [(c, r)] })
  else
  match (d.dom c.dom).inProg.find? (fun p => p.cmd = c) with
  | none => d
  | some ip =>
    let d := d.onDom c.dom (fun D => { D with inProg := dropFirst (fun p => p.cmd = c) D.inProg })
    let data := if c.dom = dmCode then (r.outs.map Prod.snd).flatten else []
    let comp : Completion :=
      { opcode := c.op, ring := if c.dom = dmCode then 0 else c.ring, flags := r.flags, tag := c.tag,
        status := r.status, detail := r.detail, value := r.value, result := r.result }
    let d := recordTag c comp data (post c comp data d)
    forEach ip.dups (fun p d => post { c with port := p } { comp with flags := comp.flags ||| 1 } data d) d

/-- A failing reply. -/
def fail (status : Nat) (detail : Nat := 0) : Reply := { status := status, detail := detail }

/-- The status codes (14 R433). -/
def ePerm := 1
def eRange := 2
def eBusy := 3
def eLate := 4
def eConflict := 5
def eQuota := 6
def eFault := 7
def eLen := 8
def eWrap := 9
def eKeyrev := 10
def eProbes := 11
def eIntegrity := 12
def eState := 13

/-- The accesses of an output, one per page. -/
def outTodo (outs : List (Nat × Bytes)) : List (Nat × Nat × Bool) :=
  outs.flatMap (fun o => (pagesOf o.1 o.2.length).map (fun p => (p.1, p.2, true)))

/-- EV_DMA_FAULT (14 R447): class, direction, cause, ring record or slice, tag or miss record, IOVA, progress. -/
def dmaFaultEvent (d : Dev) (cls : Nat) (write : Bool) (cause unit what iova mark : Nat) : Event :=
  d.event 0x0A01 [(16, 1, cls * 64 + (if write then 32 else 0) + cause), (17, 1, unit), (18, 4, what), (22, 6, iova),
    (28, 4, mark)]

/-- The DMA class of a ring's transfers. -/
def ringClass (ring : Nat) : Nat := if 3 ≤ ring then 3 else 2

/-- Work enters, or stays in, the list of its domain. -/
def putWork (w : Work) (d : Dev) : Dev :=
  d.onDom w.cmd.dom (fun D => { D with works := without (fun x => x.cmd = w.cmd) D.works ++ [w] })

def dropWork (c : Cmd) (d : Dev) : Dev :=
  d.onDom c.dom (fun D => { D with works := without (fun x => x.cmd = c) D.works })

/-- Work is suspended on the fault of its next access (13 R415); the suspended transfer of a domain in reset is discarded (13
R394). -/
def suspendWork (w : Work) (cause : Nat) (d : Dev) : Dev :=
  if (d.page w.cmd.dom).resetBusy then dropWork w.cmd d
  else
  let a := w.todo.headD (0, 0, false)
  let c := w.cmd
  let d := raise c.dom (dmaFaultEvent d (ringClass c.ring) a.2.2 cause c.ring c.tag.toNat a.1 w.progress) d
  putWork { w with state := .suspended cause d.now, resumer := none } d

/-- Work goes on through its accesses as far as they translate: reads are issued, and the pieces of the output `out` are
written; with what stops it, if anything does. -/
def workRun (out : Bytes) : Nat → Work → Dev → Work × Option Xl × Dev
  | 0, w, d => (w, none, d)
  | n + 1, w, d =>
    match w.todo with
    | [] => (w, none, d)
    | (iova, len, write) :: rest =>
      match xlat d w.cmd.dom iova write with
      | .ok bus =>
        let o : Out := if write then .write w.cmd.dom bus (bytesAt out w.progress len) else .read w.cmd.dom bus len
        let d := countDma w.cmd.dom (ringClass w.cmd.ring) len (emit o (tlbTouch w.cmd.dom iova d))
        workRun out n { w with todo := rest, progress := w.progress + len } d
      | x => (w, some x, d)

/-- Work runs until it is done, or waits for a walk, or is suspended on a fault (13 R414, R415). A command whose output
is written completes by `fin`; one whose input is asked for waits for it. -/
def workGo (fin : Cmd → Reply → Dev → Dev) (w : Work) (d : Dev) : Dev :=
  let out := (w.reply.map (fun r => (r.outs.map Prod.snd).flatten)).getD []
  match workRun out w.todo.length { w with state := .walking, resumer := none, since := d.now } d with
  | (w, none, d) =>
    match w.reply with
    | some r => fin w.cmd r (dropWork w.cmd d)
    | none => putWork w d
  | (w, some .dead, d) =>
    let d := dropWork w.cmd d
    match w.reply with
    | some r => fin w.cmd r d
    | none => finish w.cmd (fail (Config.readFailStatus d.freeCtr)) (badRead w.cmd.dom d.nextFree)
  | (w, some (.fault cause), d) => suspendWork w cause d
  | (w, some _, d) => putWork w d

/-- The output of a finished command is written, and the command completes by `fin`; where an access needs a walk or
faults, the command waits for it. DM's output goes with its completion (13 R423). -/
def deliver (fin : Cmd → Reply → Dev → Dev) (c : Cmd) (r : Reply) (d : Dev) : Dev :=
  if c.dom = dmCode ∨ r.outs = [] then fin c r d
  else workGo fin { instr := none, cmd := c, todo := outTodo r.outs, reply := some r } d

end Sys2Proof.Machine
end

