-- ==== Sys2Proof/Machine/Slots.lean ====
section
/-! DEFINITION. Key slots, domain wrapping keys and blobs: the shared operations of the key manager (09). -/

namespace Sys2Proof.Machine

def Dev.onKeys (d : Dev) (f : KeySt → KeySt) : Dev := { d with keys := f d.keys }

def Dev.slot (d : Dev) (n : Nat) : Slot := d.keys.slots.get {} n

/-- A slot is written; a slot equal to a FREE one holds nothing. -/
def setSlot (n : Nat) (s : Slot) (d : Dev) : Dev := d.onKeys (fun k => { k with slots := Tbl.set {} n s k.slots })

def onSlot (n : Nat) (f : Slot → Slot) (d : Dev) : Dev := setSlot n (f (d.slot n)) d

/-- First slot of the cache region (09 R290). -/
def cacheBase : Nat := 4096

/-- Whether a number names a slot. -/
def slotExists (n : Nat) : Bool := decide (n < 16384)

/-- The number of a slot state (09 R291). -/
def slotStNum : SlotState → Nat
  | .free => 0
  | .loading => 1
  | .valid => 2
  | .orphaned => 3
  | .retiring => 4
  | .zeroing => 5

/-- STATE is written with its complement (09 R291). -/
def Slot.goTo (st : SlotState) (s : Slot) : Slot := { s with state := st, stateN := ~~~(BitVec.ofNat 3 (slotStNum st)) }

/-- A slot that takes a key, each pair stored whole (09 R291). -/
def keyedSlot (dom handle attr keyLen : Nat) (exportable : Bool) (parent gen : Nat) (key : Bytes) : Slot :=
  Slot.goTo .valid { mark := true, dom := dom, handle := handle, attr := attr, keyLen := keyLen, exportable := exportable,
                     parent := parent, parentGen := gen, key := key, keyN := invBytes key,
                     attrN := ~~~(BitVec.ofNat 3 attr), lenN := decide (keyLen = 0) }

/-- Whether a slot holds a key that is not on its way out. -/
def Slot.live (s : Slot) : Bool := decide (s.state = .loading ∨ s.state = .valid ∨ s.state = .orphaned)

/-- log2 of the entries of a domain's blob table (09 R288). -/
def Dev.blobBits (d : Dev) (dom : Nat) : Nat := (d.obj cBlobTable dom).n 1

/-- A handle is below the domain's blob table size; DM has no table (09 R288). -/
def Dev.handleOk (d : Dev) (dom h : Nat) : Bool :=
  decide (h < 2 ^ 20) && (dom = dmCode || decide (h < 2 ^ d.blobBits dom))

/-- The slot that holds a domain and handle in a region (09 R295). -/
def Dev.findPinned (d : Dev) (dom handle : Nat) : Option (Nat × Slot) :=
  d.keys.slots.find? (fun e => e.1 < cacheBase && decide (e.2.state ≠ .free) && e.2.dom = dom && e.2.handle = handle)

/-- The cached copy of a handle: the one in use before an older one that is RETIRING or ZEROING (09 R295, R298). -/
def Dev.findCached (d : Dev) (dom handle : Nat) : Option (Nat × Slot) :=
  let mine (e : Nat × Slot) : Bool := cacheBase ≤ e.1 && e.2.dom = dom && e.2.handle = handle
  (d.keys.slots.find? (fun e => mine e && e.2.live)).or (d.keys.slots.find? (fun e => mine e && decide (e.2.state ≠ .free)))

/-- The slot that a frame's lookup finds: a valid mark, domain and handle. -/
def Dev.lookupSlot (d : Dev) (dom handle : Nat) : Option (Nat × Slot) :=
  d.keys.slots.find? (fun e => e.2.mark && e.2.dom = dom && e.2.handle = handle)

/-- A RETIRING slot whose BINDS is 0 moves to ZEROING (09 R294, R302). -/
def settleSlot (n : Nat) (d : Dev) : Dev :=
  let s := d.slot n
  if s.state = .retiring ∧ s.binds = 0 then setSlot n (s.goTo .zeroing) d else d

/-- The miss records that hold slots `p` picks lose them: their valid marks are cleared (07 R235). -/
def loseRecords (p : Nat → Bool) (d : Dev) : Dev :=
  { d with msec := { d.msec with recs := d.msec.recs.map (fun t => t.map (fun e =>
      match e.2.fetch with
      | .installed n => if p n then (e.1, { e.2 with fetch := .lost }) else e
      | _ => e)) } }

/-- A slot enters RETIRING: its valid mark is cleared at once. Its zeroing may have to wait for leave (09 R302). -/
def retireSlot (waits : Bool) (n : Nat) (d : Dev) : Dev :=
  let s := d.slot n
  if s.state = .zeroing ∨ s.state = .free then d
  else
    let waits := waits || (decide (s.state = .retiring) && s.waits)
    settleSlot n (onSlot n (fun s => { s.goTo .retiring with mark := false, waits := waits, handed := false })
      (loseRecords (· = n) d))

/-- A cached copy retires because its key has been pinned: the frames that hold it finish with it (09 R298). -/
def handOver (n : Nat) (d : Dev) : Dev :=
  if (d.slot n).live then
    settleSlot n (onSlot n (fun s => { s.goTo .retiring with mark := false, handed := true }) (loseRecords (· = n) d))
  else d

/-- A hold on a slot is taken, or given up (09 R291 BINDS). -/
def bindSlot (n : Nat) (d : Dev) : Dev := onSlot n (fun s => { s with binds := s.binds + 1 }) d

def unbindSlot (n : Nat) (d : Dev) : Dev :=
  settleSlot n (onSlot n (fun s => { s with binds := s.binds - 1 }) d)

/-- Whether the key, STATE, ATTR and KEY_LEN of a slot equal the inverses of their complements (09 R291, R293). -/
def Slot.pairOk (s : Slot) : Bool :=
  decide (s.keyN = invBytes s.key) && decide (s.stateN = ~~~(BitVec.ofNat 3 (slotStNum s.state))) &&
    decide (s.attrN = ~~~(BitVec.ofNat 3 s.attr)) && decide (s.lenN = decide (s.keyLen = 0))

/-- The cache set of a domain and handle (09 R296). -/
def cacheSet (dom handle : Nat) : Nat :=
  (crc32c (leBytes dom 1 ++ beBytes handle 3)).toNat % 65536 % 1536

/-- The 8 slots of a set. -/
def setSlots (set : Nat) : List Nat := (List.range 8).map (fun i => cacheBase + set * 8 + i)

/-- The lowest recency rank that no occupied way of a slot's set holds (09 R291): the place of a key that enters a FREE way. -/
def Dev.openRank (d : Dev) (n : Nat) : Nat :=
  let held := ((setSlots ((n - cacheBase) / 8)).filter (fun m => decide ((d.slot m).state ≠ .free))).map (fun m => (d.slot m).lru)
  ((List.range 8).find? (fun r => !held.contains r)).getD 7

/-- A slot of the cache region becomes the most recent of its set. -/
def touchSlot (n : Nat) (d : Dev) : Dev :=
  if n < cacheBase then d
  else
    let r := (d.slot n).lru
    let base := (n - cacheBase) / 8
    let d := forEach (setSlots base) (fun m d =>
      let s := d.slot m
      if m ≠ n ∧ s.state ≠ .free ∧ s.lru < r then setSlot m { s with lru := s.lru + 1 } d else d) d
    onSlot n (fun s => { s with lru := 0, lastFret := d.fret.index % 65536 }) d

/-- Whether a miss record holds a slot against eviction (09 R297, 07 R235). -/
def Dev.recordHolds (d : Dev) (n : Nat) : Bool :=
  d.msec.recs.any (fun t => t.any (fun e => decide (e.2.fetch = .installed n)))

/-- A VALID slot that an eviction may take. -/
def Dev.evictable (d : Dev) (n : Nat) : Bool :=
  let s := d.slot n
  decide (s.state = .valid) && s.binds = 0 && !d.recordHolds n

/-- Cache-region slots that a domain occupies. -/
def Dev.cacheCount (d : Dev) (dom : Nat) : Nat :=
  (d.keys.slots.filter (fun e => cacheBase ≤ e.1 && decide (e.2.state ≠ .free) && e.2.dom = dom)).length

/-- The cache cap of a domain. -/
def Dev.cacheCap (d : Dev) (dom : Nat) : Nat := (d.quota dom).n 3

/-- The age of a cache slot (09 R297). -/
def Dev.slotAge (d : Dev) (s : Slot) : Nat := (d.fret.index % 65536 + 65536 - s.lastFret) % 65536

/-- The element of a list with the highest value of `f`, the earliest among equals. -/
def argMax {α : Type} (f : α → Nat) : List α → Option α
  | [] => none
  | x :: xs => match argMax f xs with
    | none => some x
    | some y => if f y ≤ f x then some x else some y

/-- The slot that an install in the cache region takes (09 R297): rules 1 and 2 below the cap, rule 3 at it. The cap is
never exceeded, so at the cap a FREE way is no way out (log 94). -/
def Dev.chooseWay (d : Dev) (dom handle : Nat) : Option Nat :=
  let ways := setSlots (cacheSet dom handle)
  let victim (p : Nat → Bool) := argMax (fun n => (d.slot n).lru) (ways.filter (fun n => d.evictable n && p n))
  if d.cacheCount dom < d.cacheCap dom then
    (ways.find? (fun n => (d.slot n).state = .free)).or (victim (fun _ => true))
  else victim (fun n => (d.slot n).dom = dom)

/-- The slot that rule 4 evicts first: the domain's unbound slot of highest age, the lowest number among equals. -/
def Dev.oldestOwn (d : Dev) (dom : Nat) : Option Nat :=
  (argMax (fun (e : Nat × Slot) => d.slotAge e.2)
    (d.keys.slots.filter (fun e => cacheBase ≤ e.1 && e.2.dom = dom && d.evictable e.1))).map Prod.fst

/-- Every slot is zeroed without leave: crypto-erase, LOCKDOWN (09 R294). -/
def zeroAllSlots (d : Dev) : Dev :=
  (loseRecords (fun _ => true) d).onKeys (fun k => { k with slots := k.slots.map (fun e =>
    (e.1, { e.2.goTo .zeroing with mark := false, key := [], keyN := [], waits := false })) })

/-- The KCV of a root (09 R280). -/
def rootKcv (rs : Bytes) : Bytes := (cmac rs (zeros 16)).take 8

/-- The DWK of a domain (09 R284). -/
def deriveDwk (rs : Bytes) (dom gen : Nat) : Bytes :=
  let id := (List.range 16).map Config.deviceIdByte
  let label : Bytes := [0x56, 0x52, 0x58, 0x2D, 0x44, 0x57, 0x4B]
  ((List.range 2).map (fun i =>
    cmac rs (beBytes (i + 1) 4 ++ label ++ [0] ++ leBytes dom 1 ++ beBytes gen 4 ++ id ++ beBytes 256 4))).flatten

def Dev.domGen (d : Dev) (dom : Nat) : Nat := d.mram.domGen.getD dom 0
def Dev.parentGen (d : Dev) (p : Nat) : Nat := d.mram.parentGen.get 1 p

/-- The DWK register of a domain takes its key and complement. -/
def loadDwk (dom : Nat) (d : Dev) : Dev :=
  let k := deriveDwk d.keys.rs dom (d.domGen dom)
  d.onKeys (fun s => { s with dwk := s.dwk.set dom k, dwkN := s.dwkN.set dom (invBytes k) })

/-- The next seal counter value of a domain; a block of 65,536 is reserved in MRAM before its first value is used
(09 R286). -/
def takeSeal (dom : Nat) (d : Dev) : Nat × Dev :=
  let c := d.keys.sealCtr.getD dom 0
  let d := if d.mram.sealEnd.getD dom 0 ≤ c then
      d.onMram (fun m => { m with sealEnd := m.sealEnd.set dom (c + 65536) }) else d
  (c, d.onKeys (fun k => { k with sealCtr := k.sealCtr.set dom (c + 1) }))

/-- The 36 authenticated bytes of an RKB (09 R287). -/
def rkbHeader (attrByte : BitVec 8) (dom handle parent parentGen domGen : Nat) (tag : Bytes) : Bytes :=
  [0x01, attrByte] ++ leBytes dom 1 ++ [0] ++ leBytes handle 4 ++ leBytes parent 2 ++ [0, 0] ++ leBytes parentGen 4 ++
    leBytes domGen 4 ++ zeros 4 ++ padTo 12 tag

/-- Whether the DWK of a domain equals the inverse of its complement (09 R293). -/
def Dev.dwkOk (d : Dev) (dom : Nat) : Bool := decide (d.keys.dwkN.getD dom [] = invBytes (d.keys.dwk.getD dom []))

/-- A key is sealed into an RKB under the domain's DWK (09 R287). -/
def sealBlob (attrByte : BitVec 8) (dom handle parent : Nat) (tag key : Bytes) (d : Dev) : Bytes × Dev :=
  let r := takeSeal dom d
  let gen := if parent = 0xFFFF then 0 else d.parentGen parent
  let h := rkbHeader attrByte dom handle parent gen (d.domGen dom) tag
  let iv := leBytes dom 1 ++ zeros 3 ++ beBytes r.1 8
  let c := gcmSeal (d.keys.dwk.getD dom []) iv h (padTo 32 key)
  (h ++ iv ++ c.1 ++ c.2, r.2)

/-- The owner of a parent entry: the domain whose quota holds it. -/
def Dev.parentOwner (d : Dev) (p : Nat) : Option Nat := d.ownerBy (fun q => quotaParent q p)

/-- Check 3 of R289: a blob's DOM_GEN and PARENT_GEN are still those of its domain and parent. -/
def Dev.gensHold (d : Dev) (dom domGen parent parentGen : Nat) : Bool :=
  decide (domGen = d.domGen dom) &&
    (parent = 0xFFFF || (decide (d.parentOwner parent = some dom) && decide (d.parentGen parent = parentGen)))

/-- A valid engine-use attribute (09 R292). -/
def attrOk (a : Nat) : Bool := decide (1 ≤ a ∧ a ≤ 5)

/-- Causes of a failed open, numbered as EV_KEY_FETCH_FAIL, and the status a command reports (09 R289). Cause 0 stands for
a DWK whose pair does not match as it moves into the wrap engine (09 R293). -/
def openStatus (cause : Nat) : Nat :=
  match cause with
  | 0 => eIntegrity
  | 2 => eIntegrity
  | 3 => ePerm
  | 4 => eKeyrev
  | _ => ePerm

/-- A blob is opened (09 R289): the slot contents it gives, or the cause of the first check that fails. `use` is the
attribute and key length that a key miss needs. -/
def openBlob (d : Dev) (dom handle : Nat) (blob : Bytes) (use : Option (Nat × Nat)) : Except Nat Slot :=
  let b := padTo 96 blob
  let attrByte := leAt b 1 1
  let attr := attrByte % 8
  let parent := leAt b 8 2
  let keyLen := attrByte / 8 % 2
  if d.keys.root = 2 then .error 2
  else if leAt b 0 1 ≠ 1 ∨ leAt b 3 1 ≠ 0 ∨ leAt b 10 2 ≠ 0 ∨ leAt b 20 4 ≠ 0 ∨ 32 ≤ attrByte ∨ !attrOk attr ∨
      (1023 < parent ∧ parent ≠ 0xFFFF) ∨ leAt b 4 4 / 2 ^ 20 ≠ 0 ∨ leAt b 37 3 ≠ 0 then .error 2
  else if leAt b 2 1 ≠ dom ∨ leAt b 4 4 ≠ handle then .error 3
  else if !d.gensHold dom (leAt b 16 4) parent (leAt b 12 4) then .error 4
  else if !d.dwkOk dom then .error 0
  else
    let o := gcmOpen (d.keys.dwk.getD dom []) (bytesAt b 36 12) (b.take 36) (bytesAt b 48 32) (bytesAt b 80 16)
    if !o.2 ∨ (keyLen = 0 ∧ !allZero (o.1.drop 16)) then .error 2
    else if use.any (fun u => u.1 ≠ attr || u.2 ≠ keyLen) then .error 5
    else .ok (keyedSlot dom handle attr keyLen (attrByte.testBit 4) parent (leAt b 12 4) o.1)

/-- The key bytes that a slot's engine takes: 16 or 32. -/
def Slot.keyBytes (s : Slot) : Bytes := s.key.take (if s.keyLen = 1 then 32 else 16)

end Sys2Proof.Machine
end

