-- ==== Sys2Proof/Machine/Frames.lean ====
section
/-! DEFINITION. Frames in flight: lookup and update, the packet buffer's cells, and the dropping of frames. -/

namespace Sys2Proof.Machine

def Dev.onFr (d : Dev) (f : FrameSt → FrameSt) : Dev := { d with fr := f d.fr }
def Dev.onEg (d : Dev) (f : EgressSt → EgressSt) : Dev := { d with eg := f d.eg }
def Dev.onMsec (d : Dev) (f : MsecSt → MsecSt) : Dev := { d with msec := f d.msec }
def Dev.onPort (d : Dev) (p : Nat) (f : Egress → Egress) : Dev :=
  { d with eg := { d.eg with ports := modAt d.eg.ports p f } }
def Dev.onQueue (d : Dev) (p q : Nat) (f : Queue → Queue) : Dev :=
  d.onPort p (fun e => { e with queues := modAt e.queues q f })

def Dev.egress (d : Dev) (p : Nat) : Egress := d.eg.ports.getD p {}
def Dev.queue (d : Dev) (p q : Nat) : Queue := (d.egress p).queues.getD q {}

/-- A frame in flight. -/
def Dev.frame (d : Dev) (id : Nat) : Option Frame := d.fr.frames.find id

def setFrame (f : Frame) (d : Dev) : Dev := d.onFr (fun s => { s with frames := s.frames.put f.id f })

def onFrame (id : Nat) (g : Frame → Frame) (d : Dev) : Dev :=
  match d.frame id with
  | some f => setFrame (g f) d
  | none => d

/-- The frames in flight that `p` picks, in order of arrival. -/
def Dev.framesWith (d : Dev) (p : Frame → Bool) : List Frame := (d.fr.frames.map Prod.snd).filter p

/-- The frames whose launch is reserved and outstanding, of those that `p` picks (11 R352). -/
def Dev.launches (d : Dev) (p : Frame → Bool) : List Frame :=
  let reserved (s : Stage) : Bool := match s with
    | .toCipher | .inCipher | .confirming | .waitEnd | .onestep => true
    | _ => false
  d.framesWith (fun f => decide (f.launch ≠ 0) && !f.rx && reserved f.stage && p f)

/-- 256-byte cells of a number of bytes (01 R18). -/
def cellsOf (n : Nat) : Nat := ceilDiv n 256

/-- Cells that a frame takes in parking and recirculation. -/
def Frame.cells (f : Frame) : Nat := cellsOf (f.bytes.length + 4)

/-- A charge is returned. -/
def returnCharge (c : Charge) (d : Dev) : Dev :=
  (d.onQueue c.port c.queue (fun q =>
    if c.fromMin then { q with minUsed := q.minUsed - c.cells } else { q with shared := q.shared - c.cells })).onPort
    c.port (fun e => { e with cells := e.cells - c.cells })

/-- A miss record without a frame; one whose slot is there closes when its queue empties (07 R235). -/
def takeFromRecord (slice rec_ id : Nat) (d : Dev) : Dev :=
  match (d.msec.recs.getD slice []).find rec_ with
  | none => d
  | some r =>
    let fs := r.frames.erase id
    let done := match r.fetch with
      | .installed _ | .lost => decide (fs = [])
      | _ => false
    let r := { r with frames := fs, emptySince := if fs = [] then d.now else r.emptySince }
    d.onMsec (fun m => { m with recs := modAt m.recs slice (fun t => if done then t.drop rec_ else t.put rec_ r) })

/-- Everything a frame holds is given back: its slot, its cells, its place in a record, a queue or a list. -/
def releaseFrame (f : Frame) (d : Dev) : Dev :=
  let d := match f.slot with
    | some n => unbindSlot n d
    | none => d
  let d := match f.charge with
    | some c => returnCharge c (d.onQueue c.port c.queue (fun q => { q with frames := q.frames.erase f.id }))
    | none => d
  let d := match f.stage with
    | .parked => d.onFr (fun s => { s with parkCells := modAt s.parkCells f.slice (· - f.cells) })
    | .recirc => d.onFr (fun s => { s with recircCells := modAt s.recircCells f.slice (· - f.cells),
                                           recirc := modAt s.recirc f.slice (·.erase f.id) })
    | .punted => d.onFr (fun s => { s with punts := modAt s.punts f.slice (·.erase f.id) })
    | .sending => d.onPort f.res.egress (fun e => if e.sending = some f.id then { e with sending := none } else e)
    | .onestep => d.onTime (fun t => { t with onestep := t.onestep.erase f.id })
    | _ => d
  match f.record with
  | some r => takeFromRecord f.slice r f.id d
  | none => d

/-! ### The slot ledger (18 R524 to R526) -/

/-- A top-down counter, which wraps modulo 2^48 (18 R522). -/
def bumpWrap (code inst n : Nat) (d : Dev) : Dev :=
  let id := cntId code inst
  d.onCnt (fun c => { c with vals := Tbl.set 0 id ((Tbl.get 0 id c.vals + n) % 2 ^ 48) c.vals })

/-- The resolutions of an issue, by their counters' codes. -/
def tdDelivered := 0x155
def tdAuth := 0x156
def tdStomp := 0x157
def tdPark := 0x158
def tdDrop := 0x159

/-- Slots that took a segment are not UNUSED: the counters of unused slots take them back (18 R525). -/
def usedSlots (slice n : Nat) (d : Dev) : Dev :=
  forEach d.cnt.sel (fun e d =>
    if e.2.1 = 0x012 ∧ e.1 / 32 = slice then
      d.onCnt (fun c => { c with vals := Tbl.set 0 e.1 (Tbl.get 0 e.1 c.vals - n) c.vals })
    else d) (bumpWrap 0x151 slice (2 ^ 48 - n) d)

/-- A frame is issued to its slice's pipeline from a source: its slots are ADMITTED. -/
def issueFrame (f : Frame) (source : Nat) (d : Dev) : Dev :=
  let n := ceilDiv (f.bytes.length + 4) 64
  let d := progEvent 0x010 f.slice source n (bumpWrap 0x154 (f.slice * 4 + source) n d)
  let d := usedSlots f.slice n d
  setFrame { f with issue := some (source, n) } d

/-- The issue of a frame, if it is not yet resolved, is resolved. -/
def resolveIssue (code id : Nat) (d : Dev) : Dev :=
  match d.frame id with
  | none => d
  | some f =>
    match f.issue with
    | none => d
    | some (source, n) =>
      let ev := if code = tdDelivered then 0x011 else code - tdAuth + 0x014
      setFrame { f with issue := none } (progEvent ev f.slice source n (bumpWrap code (f.slice * 4 + source) n d))

/-- A frame leaves the device's books; an issue still open is a DISCARD_DROP. -/
def dropFrame (id : Nat) (d : Dev) : Dev :=
  let d := resolveIssue tdDrop id d
  match d.frame id with
  | none => d
  | some f => (releaseFrame f d).onFr (fun s => { s with frames := s.frames.drop id })

/-- The cells of a charge are returned, and the frame keeps its place (12 R373). -/
def emptyCharge (id : Nat) (d : Dev) : Dev :=
  match d.frame id with
  | none => d
  | some f =>
    match f.charge with
    | some c => setFrame { f with charge := some { c with cells := 0 } } (returnCharge c d)
    | none => d

/-- A frame is dropped at its egress. A receive frame whose verdict, or outside the cipher stage whose end, is still to come
leaves nothing on the wire, and waits for it: side effects follow the verdict and nothing else (07 R223). -/
def dropAtEgress (id : Nat) (d : Dev) : Dev :=
  match d.frame id with
  | none => d
  | some f =>
    if f.rx && ((f.protect && f.verdict.isNone) || (!f.protect && !f.ended)) then
      let d := resolveIssue tdDrop id d
      let f := (d.frame id).getD f
      setFrame { f with stage := .confirming, charge := none, record := none, ll := false, gone := true } (releaseFrame f d)
    else dropFrame id d

/-- A frame being sent ends at once with an inverted FCS, and its cells are returned (07 R229, 12 R373); its FCS position, which
FRAME_TX_DONE tells, comes after the bytes sent by now. -/
def stompNow (id : Nat) (d : Dev) : Dev :=
  emptyCharge id (onFrame id (fun f => { f with stomp := true, cut := f.cut.or (some d.now) }) d)

/-- The port at which a frame dropped under HOLD or fail-closed counts (16 R478). -/
def Frame.dropPort (f : Frame) : Nat :=
  match f.stage with
  | .queued | .delayLine | .onestep => f.res.egress
  | _ => f.port

/-- Every frame that has not started is dropped and counted under `code`; one that has started ends with an inverted
FCS (16 R478, 15 R459). Punted frames stay. -/
def dropAll (code : Nat) (d : Dev) : Dev :=
  forEach (d.framesWith (fun f => decide (f.stage ≠ .punted))) (fun f d =>
    if f.stage = .sending then stompNow f.id d
    else dropFrame f.id (if f.gone then d else bump code f.dropPort d)) d

/-- The state of HOLD begins for the frames held. -/
def holdFrames (d : Dev) : Dev := dropAll 0x04C d

end Sys2Proof.Machine
end

