-- ==== Sys2Proof/Machine/Egress.lean ====
section
/-! DEFINITION. Egress: scheduling length, the packet buffer's admission, shapers, gate lists, transmission selection,
and the meters (12). -/

namespace Sys2Proof.Machine

/-! ### Ports -/

/-- The rate of an egress port in Mbit/s; of a Smivia group, the rate of its element area (04, frame timing). -/
def Dev.portRate (d : Dev) (p : Nat) : Nat :=
  if d.isGroup p then (d.portLanes p).length * 105869 * 8110 / 8192
  else
    match d.portType p with
    | 0 => 800000
    | 1 => 400000
    | 2 => 200000
    | 3 => 100000
    | 4 => 50000
    | 5 => 25000
    | _ => 10000

def Dev.egSet (d : Dev) (p : Nat) : Obj := d.obj cEgressPort p
def Dev.qSet (d : Dev) (p q : Nat) : Obj := d.obj cQueue (p * 8 + q)

/-- OVERHEAD of a port. -/
def Dev.overhead (d : Dev) (p : Nat) : Int := (d.egSet p).z 0

/-- The bytes of a frame as it leaves, destination address to the last byte before the FCS. -/
def Frame.leaving (f : Frame) : Bytes := if f.out = [] then f.bytes else f.out

/-- Length of a frame as it leaves, FCS included. -/
def Frame.sendLen (f : Frame) : Nat := max 60 f.leaving.length + 4

/-- The scheduling length (12 R358). -/
def Dev.schedLen (d : Dev) (f : Frame) : Nat := ((f.sendLen : Int) + d.overhead f.res.egress).toNat

/-! ### Admission (12 R371 to R374) -/

/-- A SecY needs parking (12 R371): valid, on a line port neither latency-locked nor DM's. -/
def Dev.parkingReserved (d : Dev) : Bool :=
  (d.table cSecy).any (fun e =>
    e.2.b 0 && !((d.obj cLlPair (e.2.n 1)).f ≠ []) && decide (d.portOwner (e.2.n 1) ≠ some dmCode))

/-- Cells of a parking buffer: the fixed 16,384 while reserved. -/
def Dev.parkSize (d : Dev) : Nat := if d.parkingReserved then 16384 else 0

/-- Sum of MIN_CELLS. -/
def Dev.minTotal (d : Dev) : Nat := ((List.range 256).map (fun i => (d.obj cQueue i).n 7)).sum

/-- Cells held by punted frames. -/
def Dev.puntCells (d : Dev) : Nat := ((d.framesWith (fun f => decide (f.stage = .punted))).map Frame.cells).sum

/-- Cells that a slice's parking takes: its reservation, and what frames hold beyond it (12 R374). -/
def Dev.parkTaken (d : Dev) (slice : Nat) : Nat := max d.parkSize (d.fr.parkCells.getD slice 0)

/-- Cells that the queue minima take: each minimum, and what its frames hold beyond a reduced one (12 R374). -/
def Dev.minTaken (d : Dev) : Nat := ((List.range 256).map (fun i => max ((d.obj cQueue i).n 7) (d.queue (i / 8) (i % 8)).minUsed)).sum

/-- Cells taken outside the free cells of the shared pool. -/
def Dev.cellsTaken (d : Dev) : Nat :=
  d.parkTaken 0 + d.parkTaken 1 + 1024 + d.minTaken + (d.eg.ports.flatMap (fun e => e.queues.map Queue.shared)).sum + d.puntCells

/-- Free cells of the shared pool. -/
def Dev.sharedFree (d : Dev) : Nat := 196608 - d.cellsTaken

/-- Cells that reservations still lack after a swap that enlarged them: they are credited as cells are freed (12 R374). -/
def Dev.cellsShort (d : Dev) : Nat := d.cellsTaken - 196608

/-- `n` cells are credited to reservations in their order. -/
def creditCells : Nat → List Nat → List Nat
  | _, [] => []
  | n, x :: xs => (x - n) :: creditCells (n - x) xs

/-- The cells that each reservation lacks now: what it lacked at the swap that enlarged it, less what has been freed since.
DESIGN CHOICE: free and freed cells go to the parking buffer of slice 0, to that of slice 1, and to the queues in rising order
(12 R374; log 95). -/
def Dev.lacks (d : Dev) : List Nat := if d.eg.lacks = [] then [] else creditCells (d.eg.lacks.sum - d.cellsShort) d.eg.lacks

/-- Free cells of a slice's parking buffer. -/
def Dev.parkFree (d : Dev) (slice : Nat) : Nat := d.parkSize - d.fr.parkCells.getD slice 0 - d.lacks.getD slice 0

/-- Cells of its minimum that a queue may still take: a part that it lacks it may not (12 R374). -/
def Dev.minFree (d : Dev) (p q : Nat) : Nat := (d.qSet p q).n 7 - (d.queue p q).minUsed - d.lacks.getD (2 + p * 8 + q) 0

/-- `n ≤ α × free` for the code of α (4 is NONE). -/
def alphaOk (code : Int) (n free : Nat) : Bool :=
  if code = 4 then false
  else if 0 ≤ code then decide (n ≤ free * 2 ^ code.toNat)
  else decide (n * 2 ^ (-code).toNat ≤ free)

/-- Admission of a frame to a queue, colour 0 green, 1 yellow, 2 red (12 R373). -/
def Dev.chargeFor (d : Dev) (f : Frame) (p q : Nat) : Option Charge :=
  let cells := if f.ended then cellsOf f.sendLen else 63
  let e := d.egress p
  let qu := d.queue p q
  let s := d.qSet p q
  let free := d.sharedFree
  if (d.egSet p).n 3 < e.cells + cells then none
  else if f.colour ≤ 1 ∧ cells ≤ d.minFree p q then
    some { port := p, queue := q, cells := cells, fromMin := true }
  else if cells ≤ free ∧ alphaOk (s.z (8 + f.colour)) (qu.shared + cells) free then
    some { port := p, queue := q, cells := cells, fromMin := false }
  else none

/-- The cells of a charge are taken. -/
def takeCharge (c : Charge) (d : Dev) : Dev :=
  (d.onQueue c.port c.queue (fun q =>
    if c.fromMin then { q with minUsed := q.minUsed + c.cells } else { q with shared := q.shared + c.cells })).onPort
    c.port (fun e => { e with cells := e.cells + c.cells })

/-- The excess of a charge of 63 cells is returned when the frame ends. -/
def trimCharge (id : Nat) (d : Dev) : Dev :=
  match d.frame id with
  | none => d
  | some f =>
    match f.charge with
    | none => d
    | some c =>
      let n := cellsOf f.sendLen
      if n < c.cells then
        setFrame { f with charge := some { c with cells := n } } (returnCharge { c with cells := c.cells - n } d)
      else d

/-! ### Shapers (12 R362) -/

/-- Units of a bucket per byte: 2^-16 byte (12 R378). -/
def bucketUnit : Nat := 65536

/-- DCLK cycles begun by a tick: 27 in 10 ticks. -/
def dclkCycles (t : Nat) : Nat := t * 27 / 10

/-- What a rate in kbit/s adds to a bucket by a tick, in 1/84,375 of a unit: 512 each DCLK cycle and kbit/s, and what it had
accrued. DESIGN CHOICE: the part of a unit is kept until it is whole (log 98). -/
def Bucket.accrued (b : Bucket) (now rate : Nat) : Nat := rate * 512 * (dclkCycles now - dclkCycles b.at_) + b.rem

/-- A bucket's level is held to a burst in bytes; a full bucket has accrued nothing. -/
def Bucket.cap (b : Bucket) (burst : Nat) : Bucket :=
  if b.level < (burst * bucketUnit : Nat) then b else { b with level := (burst * bucketUnit : Nat), rem := 0 }

/-- A bucket brought up to the present, beyond its burst: `rate` in kbit/s. -/
def Bucket.flow (b : Bucket) (now rate : Nat) : Bucket :=
  { level := b.level + (b.accrued now rate / 84375 : Nat), rem := b.accrued now rate % 84375, at_ := now }

/-- A bucket brought up to the present: `rate` in kbit/s, `burst` in bytes. -/
def Bucket.refill (b : Bucket) (now rate burst : Nat) : Bucket := (b.flow now rate).cap burst

/-- Bytes taken from a bucket. -/
def Bucket.take (b : Bucket) (n : Nat) : Bucket := { b with level := b.level - (n * bucketUnit : Nat) }

/-- The queue shaper at present; none without one. -/
def Dev.qShaper (d : Dev) (p q : Nat) : Option Bucket :=
  let s := d.qSet p q
  if s.n 3 = 0 then none else some ((d.queue p q).shaper.refill d.now (s.n 3 * 1000) (s.n 4))

def Dev.pShaper (d : Dev) (p : Nat) : Option Bucket :=
  let s := d.egSet p
  if s.n 1 = 0 then none else some ((d.egress p).shaper.refill d.now (s.n 1 * 1000) (s.n 2))

def shaperOk : Option Bucket → Bool
  | none => true
  | some b => decide (0 ≤ b.level)

/-! ### Gate lists (12 R363 to R368) -/

/-- The entries of a gate list as (gates, duration); the last holds until the cycle ends (12 R364). -/
def gateSegs (o : Obj) : List (Nat × Nat) :=
  let es := (o.lst 0).map (fun e => ((e.getD 0 0).toNat / 2 ^ 56, (e.getD 0 0).toNat % 2 ^ 30))
  let total := (es.map Prod.snd).sum
  match es.reverse with
  | [] => []
  | l :: rest => (rest.reverse) ++ [(l.1, l.2 + (o.n 4 - total))]

/-- BASE of a gate list in ns. -/
def gateBase (o : Obj) : Nat := o.n 2 * 10 ^ 9 + o.n 3

/-- The phase of a time in a list's cycle (12 R365, R370). -/
def gatePhase (o : Obj) (s t : Nat) : Nat := (((t : Int) - s) % (max 1 (o.n 4) : Nat)).toNat

/-- The entry that covers a phase: its number, and the ns left of it. -/
def gateEntryAt : List (Nat × Nat) → Nat → Nat → Nat × Nat
  | [], _, i => (i, 0)
  | (_, n) :: rest, ph, i => if ph < n then (i, n - ph) else gateEntryAt rest (ph - n) (i + 1)

/-- The gates of a list at a time. -/
def gatesAt (o : Obj) (s t : Nat) : Nat :=
  let segs := gateSegs o
  (segs.getD (gateEntryAt segs (gatePhase o s t) 0).1 (255, 0)).1

/-- The ns from `t` until the gate of `q` closes in a list: none where it does not. -/
def closingIn (o : Obj) (s t q : Nat) : Option Nat :=
  let segs := gateSegs o
  let e := gateEntryAt segs (gatePhase o s t) 0
  let rot := (segs.drop (e.1 + 1)) ++ segs.take (e.1 + 1)
  let rec go : List (Nat × Nat) → Nat → Option Nat
    | [], _ => none
    | (g, n) :: rest, acc => if g.testBit q then go rest (acc + n) else some acc
  go rot e.2

/-- The list in force: the pending one's predecessor until its S. None when all gates are open. -/
def Dev.gateList (d : Dev) (p : Nat) : Option Obj :=
  let g := (d.egress p).gate
  match g.pending with
  | some _ => g.old
  | none => let o := d.obj cGateList p; if o.b 0 then some o else none

/-- The reading of the time base of a gate list. -/
def Dev.gateNow (d : Dev) (p : Nat) : Nat :=
  match d.gateList p with
  | some o => d.tbNs (o.n 1)
  | none => d.tbNs ((d.obj cGateList p).n 1)

/-- Whether the gate of a queue is open now. -/
def Dev.gateOpen (d : Dev) (p q : Nat) : Bool :=
  match d.gateList p with
  | none => true
  | some o => (gatesAt o (d.egress p).gate.since (d.tbNs (o.n 1))).testBit q

/-- Units of 2^-32 ns from the reading of a time base to `ns` after the whole nanosecond it stands in. -/
def Dev.untilNs (d : Dev) (tb ns : Nat) : Nat := ns * 2 ^ 32 - (d.time.tbs.getD tb {}).frac % 2 ^ 32

/-- The units of 2^-32 ns until the gate of an open queue closes: under the list in force, or at a switch or after it (12 R366,
R368). -/
def Dev.closing (d : Dev) (p q : Nat) : Option Nat :=
  let g := (d.egress p).gate
  let here := (d.gateList p).bind (fun o => (closingIn o g.since (d.tbNs (o.n 1)) q).map (d.untilNs (o.n 1)))
  match g.pending with
  | none => here
  | some s =>
    let new := d.obj cGateList p
    let left := d.untilNs (new.n 1) (s - d.tbNs (new.n 1))
    let after_ := if (gatesAt new s s).testBit q then (closingIn new s s q).map (fun c => left + c * 2 ^ 32) else some left
    match here with
    | some c => if c < left then some c else after_
    | none => after_

/-- The guard band lets a frame start (12 R366). -/
def Dev.guardOk (d : Dev) (p q len : Nat) : Bool :=
  match d.closing p q with
  | none => true
  | some c =>
    let s := d.qSet p q
    if s.n 5 = 0 then decide (s.n 6 * 2 ^ 32 < c) else decide (len * 8000 * 2 ^ 32 ≤ c * d.portRate p)

/-! ### Transmission selection (12 R360, R361) -/

/-- Whether a queued frame can begin: it has wholly arrived and its verdict stands, or it is a stomp frame. -/
def Frame.canStart (f : Frame) : Bool := f.ended || decide (f.verdict = none)

/-- The head frame of a queue, where it can begin. -/
def Dev.headOf (d : Dev) (p q : Nat) : Option Frame :=
  match (d.queue p q).frames with
  | [] => none
  | id :: _ => (d.frame id).filter Frame.canStart

/-- Eligibility (12 R360). -/
def Dev.eligible (d : Dev) (p q : Nat) : Bool :=
  match d.headOf p q with
  | none => false
  | some f => d.gateOpen p q && d.guardOk p q (d.schedLen f) && shaperOk (d.qShaper p q) && shaperOk (d.pShaper p)

def Dev.isWfq (d : Dev) (p q : Nat) : Bool := (d.qSet p q).b 0

/-- Queues that have become eligible become active: S is set to max(S, V) (12 R361). -/
def refreshActive (p : Nat) (d : Dev) : Dev :=
  forEach (List.range 8) (fun q d =>
    let e := d.isWfq p q && d.eligible p q
    let v := (d.egress p).vtime
    d.onQueue p q (fun x => { x with active := e, tag := if e && !x.active then max x.tag v else x.tag })) d

/-- Frames at the heads of the queues that exceed MAX_SDU are dropped (12 R359). -/
def dropOversize (p q : Nat) : Nat → Dev → Dev
  | 0, d => d
  | n + 1, d =>
    match d.headOf p q with
    | none => d
    | some f =>
      if (d.qSet p q).n 2 < f.sendLen then dropOversize p q n (dropAtEgress f.id (bump 0x105 (p * 8 + q) d)) else d

/-- The queue selected, if any. -/
def Dev.selectQueue (d : Dev) (p : Nat) : Option Nat :=
  let el := (List.range 8).filter (fun q => d.eligible p q)
  match (el.filter (fun q => !d.isWfq p q)).reverse with
  | q :: _ => some q
  | [] =>
    let w := el.filter (fun q => d.isWfq p q)
    w.foldl (fun best q => match best with
      | none => some q
      | some b => if (d.queue p q).tag < (d.queue p b).tag then some q else some b) none

/-- A frame of a queue begins: tags, shapers, and the port that sends it. -/
def startFrame (p q : Nat) (f : Frame) (d : Dev) : Dev :=
  let l := d.schedLen f
  let s := (d.queue p q).tag
  let w := (d.qSet p q).n 1
  let d := if d.isWfq p q then
      (d.onPort p (fun e => { e with vtime := s })).onQueue p q (fun x => { x with tag := (s + l * 65536 / max 1 w) % 2 ^ 64 })
    else d
  let d := match d.qShaper p q with
    | some b => d.onQueue p q (fun x => { x with shaper := b.take l })
    | none => d
  let d := match d.pShaper p with
    | some b => d.onPort p (fun e => { e with shaper := b.take l })
    | none => d
  let d := d.onQueue p q (fun x => { x with frames := x.frames.erase f.id })
  setFrame { f with stage := .sending, launch := d.now } (d.onPort p (fun e => { e with sending := some f.id }))

/-- Selection of the next frame of a port: the frame, and the device in which it has begun. -/
def selectFrame (p : Nat) (d : Dev) : Option Frame × Dev :=
  let d := forEach (List.range 8) (fun q d => dropOversize p q (d.queue p q).frames.length d) d
  let d := refreshActive p d
  match d.selectQueue p with
  | none => (none, d)
  | some q =>
    match d.headOf p q with
    | none => (none, d)
    | some f => (some f, startFrame p q f d)

/-- A frame joins the queue of its TC, or is refused (12 R359, R373). -/
def enqueue (id : Nat) (d : Dev) : Dev :=
  match d.frame id with
  | none => d
  | some f =>
    let p := f.res.egress
    let q := f.res.tc
    if (d.qSet p q).n 2 < f.sendLen then dropAtEgress id (bump 0x105 (p * 8 + q) d)
    else
      match d.chargeFor f p q with
      | none =>
        let d := bump 0x102 (p * 8 + q) d
        let d := if f.colour = 1 then bump 0x103 (p * 8 + q) d else if f.colour = 2 then bump 0x104 (p * 8 + q) d else d
        dropAtEgress id d
      | some c =>
        let d := takeCharge c (setFrame { f with stage := .queued, charge := some c } d)
        refreshActive p (d.onQueue p q (fun x => { x with frames := x.frames ++ [id] }))

/-! ### Meters (12 R375 to R380) -/

/-- A meter's object under an epoch. -/
def Dev.meter (d : Dev) (ep : Bool) (slice m : Nat) : Obj := d.objAt ep cMeter (sliceIdx slice m)

/-- The live buckets of a meter, brought up to the present under the active bank (12 R378, R379). -/
def Dev.meterLive (d : Dev) (slice m : Nat) : MeterLive :=
  let o := d.obj cMeter (sliceIdx slice m)
  let full : MeterLive := { c := { level := o.n 5 * bucketUnit, at_ := d.now }, p := { level := o.n 7 * bucketUnit, at_ := d.now } }
  match d.eg.meters.find (sliceIdx slice m) with
  | none => full
  | some l =>
    let spill := ((l.c.flow d.now (o.n 4)).level - (o.n 5 * bucketUnit : Nat)).toNat
    let p := l.p.refill d.now (o.n 6) (o.n 7)
    let p := if o.b 1 && o.b 8 then Bucket.cap { p with level := p.level + spill } (o.n 7) else p
    { c := l.c.refill d.now (o.n 4) (o.n 5), p := p }

/-- The pre-colour of a class under a trust map: 0 none, 1 green, 2 yellow, 3 red (12 R377). -/
def Dev.preColour (d : Dev) (ep : Bool) (slice map cls : Nat) : Nat := (d.objAt ep cTrustMap (sliceIdx slice map)).n cls

/-- The colour of a frame of `b` bytes, and what it takes from the two buckets (12 R378). -/
def colourOf (rfc4115 : Bool) (pre : Nat) (tc tp : Int) (b : Nat) : Nat × Nat × Nat :=
  let n : Int := b * bucketUnit
  if rfc4115 then
    if pre ≠ 2 ∧ pre ≠ 3 ∧ n ≤ tc then (0, b, 0)
    else if pre ≠ 3 ∧ n ≤ tp then (1, 0, b)
    else (2, 0, 0)
  else if pre = 3 ∨ tp < n then (2, 0, 0)
  else if pre = 2 ∨ tc < n then (1, 0, b)
  else (0, b, b)

/-- The colour of a frame, its debit and whether it is a meter drop (12 R375 to R380). -/
def meterFrame (f : Frame) (d : Dev) : Frame × Dev :=
  let m := f.res.meter
  let o := f.ctx.meter
  if !f.res.meterEn then (f, d)
  else if !o.b 0 then ({ f with colour := 0, debit := none, mtrDrop := false }, d)
  else
    let b := max 1 (((f.bytes.length + 4 : Nat) : Int) + o.z 9).toNat
    let pre := f.ctx.pre
    let l := d.meterLive f.slice m
    let r := colourOf (o.b 1) pre l.c.level l.p.level b
    let d := d.onEg (fun e => { e with meters := e.meters.put (sliceIdx f.slice m) { c := l.c.take r.2.1, p := l.p.take r.2.2 } })
    ({ f with colour := r.1, debit := some { slice := f.slice, meter := m, c := r.2.1, p := r.2.2 },
              mtrDrop := (r.1 = 1 && o.b 10) || (r.1 = 2 && !o.b 11) }, d)

/-- The meter counters of a frame (12 R381). -/
def countMeter (f : Frame) (d : Dev) : Dev :=
  match f.debit with
  | none => d
  | some t =>
    let b := max 1 (((f.bytes.length + 4 : Nat) : Int) + f.ctx.meter.z 9).toNat
    let i := t.slice * 8192 + t.meter
    bumpBy (0x10A + f.colour) i b (bump (0x107 + f.colour) i d)

/-- A debit is returned to its meter, up to its bursts (07 R225). -/
def returnDebit (f : Frame) (d : Dev) : Dev :=
  match f.debit with
  | none => d
  | some t =>
    let o := d.obj cMeter (sliceIdx t.slice t.meter)
    let l := d.meterLive t.slice t.meter
    let up (b : Bucket) (n burst : Nat) : Bucket := Bucket.cap { b with level := b.level + (n * bucketUnit : Nat) } burst
    let live : MeterLive := { c := up l.c t.c (o.n 5), p := up l.p t.p (o.n 7) }
    setFrame { f with debit := none } (d.onEg (fun e => { e with meters := e.meters.put (sliceIdx t.slice t.meter) live }))

end Sys2Proof.Machine
end

