-- ==== Sys2Proof/Machine/Alarm.lean ====
section
/-! DEFINITION. The tamper response (16): the stops that it makes in the key manager, the lookaside cluster, the
Smivia groups and the key-miss fetches, the tamper log, and the raising of alarms. -/

namespace Sys2Proof.Machine

def Dev.onLk (d : Dev) (f : LkSt → LkSt) : Dev := { d with lk := f d.lk }
def Dev.onGroup (d : Dev) (s : Nat) (f : Group → Group) : Dev := { d with smv := modAt d.smv s f }
def Dev.group (d : Dev) (s : Nat) : Group := d.smv.getD s {}

/-- Priority of a governed operation, its step in ampere, and its requester number (19 R554, R555). -/
def Leave.prio : Leave → Nat
  | .zeroSlots | .rollScan _ => 1
  | .stringBist _ | .courseRestart _ | .tcLoad _ => 2
  | .mram _ _ => 3
  | .lane _ => 4
  | .core _ => 5
  | .flushScan => 6
  | .scrub => 7

def Leave.amps : Leave → Nat
  | .zeroSlots | .rollScan _ => 8
  | .stringBist _ | .courseRestart _ | .tcLoad _ => 10
  | .mram _ _ => 3
  | .lane _ => 2
  | .core _ => 6
  | .flushScan => 4
  | .scrub => 2

def Leave.num : Leave → Nat
  | .rollScan n | .stringBist n | .courseRestart n | .tcLoad n | .mram _ n | .lane n | .core n => n
  | .zeroSlots | .flushScan | .scrub => 0

/-- SMCLK cycles of 25 ns that have passed by a tick. -/
def smclkAt (t : Nat) : Nat := t * 2 / 25

/-- Leave is asked for (19 R554); a request already queued is not repeated. Requests of one cycle stand in the order of
their rows and numbers. -/
def askLeave (l : Leave) (d : Dev) : Dev :=
  let c := smclkAt d.now
  d.onGov (fun g =>
    if g.queue.contains l then g
    else
      let earlier (x : Leave) : Bool :=
        !g.cycles.contains (x, c) || decide (x.prio < l.prio) || (decide (x.prio = l.prio) && decide (x.num ≤ l.num))
      { g with queue := g.queue.takeWhile earlier ++ [l] ++ g.queue.dropWhile earlier
               cycles := (l, c) :: without (fun x => decide (x.1 = l)) g.cycles })

/-- Requesters that a response or a reset stops withdraw their requests (19 R557). -/
def withdraw (p : Leave → Bool) (d : Dev) : Dev := d.onGov (fun g => { g with queue := without p g.queue })

def Leave.isCore : Leave → Bool
  | .core _ => true
  | _ => false

def Leave.isKeyScan : Leave → Bool
  | .zeroSlots | .rollScan _ => true
  | _ => false

def Leave.isRoll : Leave → Bool
  | .rollScan _ => true
  | _ => false

/-- A priority-0 action is granted at once, and no other leave for 20 µs (19 R557). -/
def prioZero (d : Dev) : Dev := d.onGov (fun g => { g with holdUntil := d.now + 10000 })

/-- A command is lost: it ends without a completion, and gives back the completion entries reserved for it and its
duplicates (10 R330, 13 R394). -/
def loseCmd (c : Cmd) (d : Dev) : Dev :=
  match (d.dom c.dom).inProg.find? (fun p => p.cmd = c) with
  | none => d
  | some ip =>
    let d := d.onDom c.dom (fun D => { D with inProg := dropFirst (fun p => p.cmd = c) D.inProg })
    d.onRing c.dom c.ring (fun r => { r with reserved := r.reserved - (1 + ip.dups.length) })

/-! ### Lookaside (10 R330) -/

/-- A job leaves the cluster, and its binding ends. -/
def lkLeave (r : LkRun) (d : Dev) : Dev :=
  let d := match r.slot with
    | some n => if r.started then unbindSlot n d else d
    | none => d
  d.onLk (fun k => { k with runs := without (fun x => x.id = r.id) k.runs })

/-- A job's context is discarded, and its command lost. -/
def lkDiscard (r : LkRun) (d : Dev) : Dev := loseCmd r.cmd (lkLeave r d)

/-- Whether an operation of the public-key unit belongs to a job. -/
def PkOp.isJob : PkOp → Bool
  | .job _ => true
  | _ => false

/-- Internal work that `p` picks is given up, and its core is free. -/
def dropInternal (p : IntWork → Bool) (d : Dev) : Dev :=
  let gone := (d.lk.internal.filter (fun w => p w.work)).map IntRun.id
  d.onLk (fun k => { k with
    internal := without (fun w => p w.work) k.internal
    cores := k.cores.map (fun c => if c.job.any gone.contains then { c with job := none, waits := false, since := d.now } else c) })

def IntWork.isFw : IntWork → Bool
  | .fw => true
  | _ => false

def IntWork.isPair (slice : Nat) : IntWork → Bool
  | .pair s => s = slice
  | _ => false

/-- Every core stops; the cores and the context store are zeroed (10 R330). The hashing of an image, which no response ends,
waits to run anew; an operation of the public-key unit that runs for a job ends without effect. -/
def lkStop (d : Dev) : Dev :=
  let d := withdraw Leave.isCore (forEach d.lk.runs lkDiscard d)
  let d := dropInternal (fun w => !w.isFw) d
  d.onLk (fun k => { k with internal := k.internal.map (fun w => { w with at_ := .ready })
                            cores := k.cores.map (fun c => { c with job := none, waits := false, since := d.now })
                            pkQueue := without PkOp.isJob k.pkQueue })

/-! ### Key-miss fetches (07 R237) -/

/-- Entries of a failed-handle list (07 R237). -/
def failedSize : Nat := 16

/-- A handle is listed; in a full list it replaces the entry listed earliest. -/
def listFailed (slice dom handle : Nat) (d : Dev) : Dev :=
  let e : FailedKey := { dom := dom, handle := handle, left := 2, listed := d.now }
  d.onMsec (fun m => { m with failed := modAt m.failed slice (fun l =>
    let l := without (fun x => x.dom = dom && x.handle = handle) l
    if l.length < failedSize then l ++ [e]
    else
      let oldest := l.foldl (fun a x => min a x.listed) d.now
      modFirst (fun x => x.listed = oldest) (fun _ => e) l) })

/-- A record closes. -/
def closeRecord (slice r : Nat) (d : Dev) : Dev :=
  d.onMsec (fun m => { m with recs := modAt m.recs slice (Tbl.drop r) })

def setRec (slice r : Nat) (m : MissRec) (d : Dev) : Dev :=
  d.onMsec (fun x => { x with recs := modAt x.recs slice (fun t => t.put r m) })

/-- The key is in a slot: the record waits for its releases, or closes at once where no frame waits (07 R232, R235). -/
def installed (slice r : Nat) (m : MissRec) (n : Nat) (d : Dev) : Dev :=
  if m.frames = [] then closeRecord slice r d else setRec slice r { m with fetch := .installed n } d

/-- A handle's slot has become valid otherwise than by a fetch: its records end their fetches (07 R232, R235). -/
def validRecords (dom handle n : Nat) (d : Dev) : Dev :=
  forEach [0, 1] (fun sl d => forEach ((d.msec.recs.getD sl []).filter (fun e => e.2.dom = dom && e.2.handle = handle))
    (fun e d => installed sl e.1 e.2 n d) d) d

def Dev.missRec (d : Dev) (slice r : Nat) : Option MissRec := (d.msec.recs.getD slice []).find r

/-- A fetch ends without a key: event, drops, failed-handle list (07 R237). Causes as EV_KEY_FETCH_FAIL. -/
def failFetch (slice r cause : Nat) (d : Dev) : Dev :=
  match d.missRec slice r with
  | none => d
  | some m =>
    let d := raise m.dom (d.event 0x0401 [(16, 1, slice), (17, 1, cause), (20, 4, m.handle)]) d
    let d := forEach m.frames (fun id d => dropFrame id (bump 0x0B4 m.dom d)) d
    listFailed slice m.dom m.handle (closeRecord slice r d)

/-! ### Smivia keys (08 R249, R266) -/

/-- The reserved pinned slots of a slice's pairings (08 R266). -/
def pairSlots (slice : Nat) : List Nat := (List.range 4).map (fun i => 4088 + 4 * slice + i)

/-- A slot that a group no longer uses: one of the pairing's own slots is released. -/
def releaseKey (slice n : Nat) (d : Dev) : Dev :=
  if (pairSlots slice).contains n ∧ (d.slot n).state ≠ .free then retireSlot false n d else d

def releaseOpt (slice : Nat) (n : Option Nat) (d : Dev) : Dev :=
  match n with
  | some n => releaseKey slice n d
  | none => d

/-- Both directions of a group become unkeyed and its key registers are released. -/
def unkeyGroup (slice : Nat) (d : Dev) : Dev :=
  let g := d.group slice
  let d := forEach ([g.txSlot, g.nextSlot] ++ g.rx.map RxReg.slot) (releaseOpt slice) d
  let d := forEach g.release (releaseKey slice) d
  d.onGroup slice (fun g => { g with
    txEpoch := 0, txSlot := none, nextEpoch := 0, nextSlot := none, rx := [{}, {}], armed := none, switchDue := false,
    stopDue := false, release := [], releaseRx := none, exhausted := false })

/-- The public-key operations and the hashing of a pairing are given up: an operation that runs ends without effect (10
R331). -/
def forgetPair (slice : Nat) (d : Dev) : Dev :=
  let mine (o : PkOp) : Bool := match o with
    | .pair s _ => s = slice
    | _ => false
  (dropInternal (IntWork.isPair slice) d).onLk (fun k => { k with pkQueue := without mine k.pkQueue, pk := k.pk.map (fun o => if mine o then .pair slice 0 else o) })

/-- The device ID of a HELLO (08 R268), and the peer's, where its HELLO has come. -/
def helloId (h : Bytes) : Bytes := bytesAt h 2 16
def Pairing.peerId (p : Pairing) : Bytes := if p.peerHello = [] then zeros 16 else helloId p.peerHello

/-- EV_SMV_PAIR (14 R447). -/
def pairEvent (slice result cause epoch : Nat) (peer : Bytes) (d : Dev) : Dev :=
  raiseTo (d.groupOwner slice)
    { code := 0x0208, cleared := false, head := slice + result * 2 ^ 8 + cause * 2 ^ 16 + epoch * 2 ^ 32,
      payload := padTo 16 peer } d

/-- The pairing derivation in progress is aborted (16 R483); the event of the failure carries cause 0, since no ABORT code
stands for an alarm (08 R268, R276; log 91). -/
def abortPairing (slice : Nat) (d : Dev) : Dev :=
  let p := (d.group slice).pair
  if p.step.isNone then d
  else
    let d := pairEvent slice 1 0 p.epoch p.peerId (bump 0x0C6 slice (forgetPair slice d))
    d.onGroup slice (fun g => { g with pair :=
      { g.pair with st := .backoff, since := d.now, fails := g.pair.fails + 1, step := none, cur := none } })

/-! ### The tamper log (16 R487, R488) -/

/-- Entries that each log holds. -/
def vaultLogSize : Nat := 238
def mramLogSize : Nat := 1024

/-- An entry enters the MRAM log under its next sequence number. -/
def mramLog (e : LogEntry) (d : Dev) : Dev :=
  d.onMram (fun m => { m with log := (m.log ++ [{ e with seq := m.logHead % 2 ^ 32 }]).drop (m.log.length + 1 - mramLogSize),
                              logHead := (m.logHead + 1) % 2 ^ 32 })

/-- An entry enters the vault's ring. -/
def vaultLog (e : LogEntry) (d : Dev) : Dev :=
  d.onVault (fun v => { v with bkValid := true,
                               entries := (v.entries ++ [{ e with seq := v.head }]).drop (v.entries.length + 1 - vaultLogSize),
                               lost := if v.head - v.copied ≥ vaultLogSize then v.lost + 1 else v.lost,
                               head := v.head + 1 })

/-- An entry enters both logs; the vault's waits while the vault accepts no write (16 R474, R487). -/
def logEntry (e : LogEntry) (d : Dev) : Dev :=
  let d := mramLog e d
  if d.frozen then d.onTamper (fun t => { t with vaultHeld := t.vaultHeld ++ [e] })
  else (vaultLog e d).onVault (fun v => { v with copied := v.head })

/-- The vault accepts writes again: the entries that waited for it enter its ring. -/
def flushVault (d : Dev) : Dev :=
  if d.frozen then d
  else forEach d.tamper.vaultHeld (fun e d => (vaultLog e d).onVault (fun v => { v with copied := v.head }))
    (d.onTamper (fun t => { t with vaultHeld := [] }))

/-- The mask of a list of alarms, bit n - 2 for alarm n. -/
def alarmMask (alarms : List Nat) : Nat := (alarms.eraseDups.map (fun a => 2 ^ (a - 2))).sum

/-- The log entry of alarms raised now. -/
def Dev.entryNow (d : Dev) (alarms : List Nat) (cls phase : Nat) (value : Int) : LogEntry :=
  { secs := d.bkClock / 32768 % 2 ^ 32, ticks := d.bkClock % 32768, alarms := alarmMask alarms, cls := cls,
    phase := phase, value := value, seq := 0 }

/-- EV_TAMPER of an entry (14 R447). -/
def tamperEvent (d : Dev) (e : LogEntry) : Event :=
  d.event 0x0901 [(16, 2, e.alarms), (18, 1, e.cls), (19, 1, e.phase), (20, 4, e.secs), (24, 4, e.ticks)]

/-! ### The response (16 R478 to R483) -/

/-- Class of an alarm (16 R480); in END_OF_LIFE every alarm is LOG. -/
def Dev.alarmClass (d : Dev) (a : Nat) : Nat := if d.lc = 4 then 0 else d.mram.classes.getD (a - 2) 0

/-- Whether an opcode is a key command. -/
def isKeyOp (op : Nat) : Bool := decide (0x0401 ≤ op ∧ op ≤ 0x040D) && decide (op ≠ 0x040C)

/-- A key operation runs (16 R483). -/
def Dev.keyOpRuns (d : Dev) : Bool :=
  d.host.doms.any (fun D => D.works.any (fun w => isKeyOp w.cmd.op)) || !d.keys.rolls.isEmpty || !d.keys.frozen.isEmpty ||
    d.lk.internal.any (fun w => !w.work.isFw) ||
    d.msec.recs.any (fun t => t.any (fun e => match e.2.fetch with | .opened _ => true | _ => false)) ||
    d.smv.any (fun g => g.pair.step.isSome)

/-- The status of an aborted key command. -/
def keyAborted : Reply := fail eIntegrity 0xFFFD

/-- Key operations are aborted before the response (16 R483). -/
def abortKeyOps (d : Dev) : Dev :=
  let ws := d.host.doms.flatMap (fun D => D.works.filter (fun w => isKeyOp w.cmd.op))
  let d := forEach ws (fun w d =>
    finish w.cmd keyAborted (d.onDom w.cmd.dom (fun D => { D with works := without (fun x => x.cmd = w.cmd) D.works }))) d
  let cs := d.lk.internal.filterMap (fun w => match w.work with
    | .key c _ => some c
    | _ => none)
  let d := dropInternal (fun w => match w with
    | .key _ _ => true
    | _ => false) (forEach cs (fun c d => finish c keyAborted d) d)
  let d := forEach d.keys.rolls (fun r d => finish r.1 keyAborted d) d
  let d := withdraw Leave.isRoll (d.onKeys (fun k => { k with rolls := [] }))
  let d := forEach d.keys.frozen (fun r d => finish r.1 keyAborted d) d
  let d := d.onKeys (fun k => { k with frozen := [] })
  let opened (slice : Nat) : List Nat := ((d.msec.recs.getD slice []).filter (fun e =>
    match e.2.fetch with | .opened _ => true | _ => false)).map Prod.fst
  let d := forEach [0, 1] (fun s d => forEach (opened s) (fun r d => failFetch s r 6 d) d) d
  forEach [0, 1] abortPairing d

/-- WD_0F: TAMPERED (16 R490, 15 R469). -/
def wd0F : BitVec 64 := 0x0FF0F00FAA5555AA
def wd33 : BitVec 64 := 0x33CCCC3396696996
def wd55 : BitVec 64 := 0x55AAAA55F00F0FF0
def wd66 : BitVec 64 := 0x66999966C33C3CC3
def wd3C : BitVec 64 := 0x3CC3C33C99666699
def wd69 : BitVec 64 := 0x69969669CC3333CC
def wd96 : BitVec 64 := 0x9669699633CCCC33
def wd99 : BitVec 64 := 0x996666993CC3C33C

/-- TAMPER_WORD is written with its complement. -/
def setTamperWord (w : BitVec 64) (d : Dev) : Dev :=
  d.onMram (fun m => { m with block := { m.block with tamper := w, tamperN := ~~~w } })

/-- Crypto-erase (09 R283): the whole vault, every DWK register, every valid mark. -/
def cryptoErase (d : Dev) : Dev :=
  zeroAllSlots ((d.onVault (fun _ => {})).onKeys (fun k =>
    { k with root := 2, rs := [], dwk := List.replicate 33 [], dwkN := List.replicate 33 [] }))

/-- A deferred scrub is due where the root record is WRITTEN (16 R486). -/
def dueScrub (d : Dev) : Dev :=
  if d.mram.root.state = wd33 then
    askLeave (.mram 4 0) (d.onTamper (fun t => { t with scrubPending := true }))
  else d

/-- The effects of LOCKDOWN beyond HOLD (16 R478). -/
def doLockdown (d : Dev) : Dev :=
  let d := lkStop (zeroAllSlots (withdraw Leave.isKeyScan d))
  let d := forEach [0, 1] (fun s d => (unkeyGroup s d).onGroup s (fun g => { g with pair := { fails := g.pair.fails } })) d
  setTamperWord wd0F (d.onKeys (fun k => { k with parents := [] }))

/-- The vault's new record after a ZEROIZE: no classes, the entry, and the entries lost (16 R485, R487). -/
def newRecord (e : LogEntry) (lost pendClass pendMask : Nat) (d : Dev) : Dev :=
  d.onVault (fun v => { v with bkValid := true, head := 1, lost := lost, pendClass := pendClass, pendMask := pendMask,
                               entries := [{ e with seq := 0 }], copied := if pendClass = 0 then 1 else 0 })

/-- The effects of ZEROIZE beyond LOCKDOWN. -/
def doZeroize (e : LogEntry) (d : Dev) : Dev :=
  let lost := d.vault.head - d.vault.copied
  let d := d.onMram (fun m => { m with logLost := m.logLost + d.vault.lost })
  dueScrub ((newRecord e lost 0 0 (cryptoErase d)).onTamper (fun t => { t with zeroized := true }))

/-- The response of a class, from the strongest response before it. -/
def respond (cls : Nat) (e : LogEntry) (d : Dev) : Dev :=
  let d := if 1 ≤ cls then holdFrames d else d
  let d := if 2 ≤ cls then doLockdown (prioZero d) else d
  if 3 ≤ cls then doZeroize e d else d

/-- Alarms are raised in one SMCLK cycle while the main monitors run: bits, classes carried, one entry in both logs,
one EV_TAMPER, and the response (16 R472, R478, R479, R483). -/
def raiseAlarms (alarms : List Nat) (phase : Nat) (value : Int) (d : Dev) : Dev :=
  if alarms = [] then d
  else
    let cls := (alarms.map d.alarmClass).foldl max 0
    let phase := if phase ≠ 0 then phase else if d.keyOpRuns then 3 else if d.power.ready then 0 else 1
    let d := if 1 ≤ cls then abortKeyOps d else d
    let d := forEach alarms (fun a d =>
      let c := d.alarmClass a
      d.onTamper (fun t => { t with bits := t.bits.set (a - 2) true,
                                    carried := modAt t.carried (a - 2) (fun x => if t.bits.getD (a - 2) false then max x c else c) })) d
    let e := d.entryNow alarms cls phase value
    let d := logEntry e d
    respond cls e (raise d.sup (tamperEvent d e) d)

def raiseAlarm (alarm : Nat) (value : Int) (d : Dev) : Dev := raiseAlarms [alarm] 0 value d

/-- An open that failed on the pair of the DWK raises the key-integrity alarm (09 R293). -/
def dwkAlarm (cause : Nat) (d : Dev) : Dev := if cause = 0 then raiseAlarm 10 0 d else d

/-- A key's complement check fails: the slot enters RETIRING and the key-integrity alarm is raised (09 R293, R294). -/
def keyMismatch (n : Nat) (d : Dev) : Dev :=
  if (d.slot n).state = .zeroing ∨ (d.slot n).state = .free then raiseAlarm 10 0 d
  else raiseAlarm 10 0 (retireSlot false n d)

end Sys2Proof.Machine
end

