-- ==== Sys2Proof/Machine/MacTable.lean ====
section
/-! DEFINITION. The MAC table: keys and positions, insertion, learning, the bridge, ageing and host writes (06). -/

namespace Sys2Proof.Machine

def Dev.onMac (d : Dev) (f : MacSt → MacSt) : Dev := { d with mac := f d.mac }
def Dev.onRep (d : Dev) (s : Nat) (f : Replica → Replica) : Dev := d.onMac (fun m => { m with reps := modAt m.reps s f })
def Dev.rep (d : Dev) (s : Nat) : Replica := d.mac.reps.getD s {}

/-! ### Keys and positions (06 R168, R169) -/

/-- The 9 key bytes. -/
def macKeyBytes (k : MacKey) : Bytes :=
  beBytes (k.service * 2 ^ 14 + k.fid * 2 ^ 2) 3 ++ beBytes k.mac 6

/-- h_w of a key. -/
def macHash (w : Nat) (k : MacKey) : Nat := (crc32c (leBytes w 1 ++ macKeyBytes k)).toNat

/-- The candidate position of a key in a way. -/
def macSlot (w : Nat) (k : MacKey) : Nat := w * 65536 + macHash w k % 65536

/-- The home slice of a key. -/
def macHome (k : MacKey) : Nat := b2n ((macHash 0 k).testBit 16)

/-- The stash. -/
def stashBase : Nat := 262144
def stashSize : Nat := 64
def macCapacity : Nat := 262144

/-- Where a replica holds a key. -/
def Replica.find (r : Replica) (k : MacKey) : Option (Nat × MacEntry) := r.entries.find? (fun e => e.2.key = k)

/-- The second index (06 R181). -/
def Dev.second (d : Dev) : Nat := d.fret.index / max 1 d.fretRate

/-- The FID of a service for a VID (06 R169): FID mode VID is 0, SHARED is 1. -/
def fidOf (svc : Obj) (vid : Nat) : Nat := if svc.n 1 = 0 then vid % 4096 else 0

/-- The owner of a service. -/
def Dev.svcDom (d : Dev) (s : Nat) : Nat := (d.serviceOwner s).getD d.sup

/-- A domain's entries. -/
def Dev.macCount (d : Dev) (slice dom : Nat) : Nat :=
  ((d.rep slice).entries.filter (fun e => d.svcDom e.2.key.service = dom)).length

/-- MAC-table quota of a domain. -/
def Dev.macQuota (d : Dev) (dom : Nat) : Nat := (d.quota dom).n 6

/-! ### Decisions -/

/-- A position is written in a replica; an insertion clears HIT. -/
def putEntry (slice pos : Nat) (e : MacEntry) (clearHit : Bool) (d : Dev) : Dev :=
  d.onRep slice (fun r => { entries := r.entries.put pos e, hits := if clearHit then r.hits.erase pos else r.hits })

def dropEntry (slice pos : Nat) (d : Dev) : Dev :=
  d.onRep slice (fun r => { entries := r.entries.drop pos, hits := r.hits.erase pos })

/-- A message goes over the bridge to a slice. -/
def bridgeSend (dst : Nat) (m : BridgeMsg) (d : Dev) : Dev :=
  d.onMac (fun x => { x with inbox := modAt x.inbox dst (· ++ [m]) })

/-- The home slice decides the new content of an entry: its own replica at once, the other over the bridge (06 R180). -/
def decideUpdate (home pos : Nat) (e : MacEntry) (d : Dev) : Dev :=
  bridgeSend (1 - home) (.update pos e) (putEntry home pos e false d)

/-- The home slice decides a removal. -/
def decideRemoval (home pos : Nat) (k : MacKey) (d : Dev) : Dev :=
  bridgeSend (1 - home) (.remove pos k) (dropEntry home pos d)

/-- Where an insertion goes (06 R171): an empty candidate, a stash slot, or a victim; `error true` is a failure for the
quota, `error false` for room. -/
def placeEntry (home dom : Nat) (k : MacKey) (d : Dev) : Except Bool (Nat × Option MacEntry) × Dev :=
  let r := d.rep home
  let atQuota := decide (d.macQuota dom ≤ d.macCount home dom)
  let full := decide (macCapacity ≤ r.entries.length)
  let cands := (List.range 4).map (fun w => macSlot w k)
  let empty := if atQuota || full then none else
    match cands.find? (fun p => (r.entries.find p).isNone) with
    | some p => some p
    | none => ((List.range stashSize).map (stashBase + ·)).find? (fun p => (r.entries.find p).isNone)
  match empty with
  | some p => (.ok (p, none), d)
  | none =>
    let vs := cands.filterMap (fun p => (r.entries.find p).bind (fun e =>
      if !e.static_ && d.svcDom e.key.service = dom then some (p, e) else none))
    if vs = [] then (.error atQuota, d)
    else if (d.obj cService k.service).n 6 = 0 then
      let x := draw 4 d
      let v := vs.getD (leNat x.1 % vs.length) (0, { key := k, peer := 0, port := 0 })
      (.ok (v.1, some v.2), x.2)
    else
      match argMax (fun (v : Nat × MacEntry) => v.2.age) vs with
      | some v => (.ok (v.1, some v.2), d)
      | none => (.error atQuota, d)

/-- An eviction is counted and noted (06 R172). -/
def noteEvict (e : MacEntry) (d : Dev) : Dev :=
  let dom := d.svcDom e.key.service
  bump 0x085 dom (d.onMac (fun m => { m with evicts := m.evicts.put dom (e.key :: (m.evicts.find dom).getD []) }))

/-- What a decision that is withdrawn had counted is taken back; a counter at its end stays there. -/
def unbump (code inst : Nat) (d : Dev) : Dev :=
  let id := cntId code inst
  let v := Tbl.get 0 id d.cnt.vals
  if v = 2 ^ 48 - 1 then d else d.onCnt (fun c => { c with vals := Tbl.set 0 id (v - 1) c.vals })

/-- An eviction that is withdrawn did not happen. -/
def undoEvict (v : Option MacEntry) (d : Dev) : Dev :=
  match v with
  | none => d
  | some e =>
    let dom := d.svcDom e.key.service
    unbump 0x085 dom (d.onMac (fun m => { m with evicts := m.evicts.map (fun x =>
      if x.1 = dom then (x.1, x.2.erase e.key) else x) }))

/-- An insertion, asked for by learning or not: whether it failed, and then whether for the quota. The home slice writes its
own replica and sends the claim of the position and the decision over the bridge (06 R168, R180). -/
def insertEntry (home : Nat) (e : MacEntry) (learned : Bool) (d : Dev) : Option Bool × Dev :=
  let r := placeEntry home (d.svcDom e.key.service) e.key d
  match r.1 with
  | .error q => (some q, r.2)
  | .ok (p, v) =>
    let d := match v with
      | some old => noteEvict old r.2
      | none => r.2
    let e := { e with age := 0, moves := 0, sec12 := d.second % 4096 }
    (none, bridgeSend (1 - home) (.insert p e v learned none) (putEntry home p e true d))

/-! ### Ageing (06 R182 to R184, R193) -/

/-- EV_MAC_FLAP (14 R447). -/
def flapEvent (d : Dev) (k : MacKey) (last prev : Nat) (cleared : Bool) : Event :=
  d.event 0x0302 [(16, 2, k.service), (18, 2, k.fid), (20, 6, k.mac), (26, 2, last), (28, 2, prev)] cleared

/-- Ticks that the steps from `old` to `new` cross for a service. -/
def ageTicks (svc : Obj) (old new : Nat) : Nat := new / max 1 (svc.n 2) - old / max 1 (svc.n 2)

/-- The entries that a slice is home of, as its replica holds them. -/
def Dev.homeEntries (d : Dev) (slice : Nat) : Tbl MacEntry := (d.rep slice).entries.filter (fun e => macHome e.2.key = slice)

/-- Entries due at a step from `old` to `new`: each home slice counts its own (06 R182). -/
def Dev.ageDue (d : Dev) (old new : Nat) : Nat :=
  ((d.homeEntries 0 ++ d.homeEntries 1).filter (fun e =>
    let svc := d.obj cService e.2.key.service
    !e.2.static_ && decide (svc.n 3 ≠ 0) && decide (svc.n 3 ≤ e.2.age + ageTicks svc old new))).length

/-- The home slice acts on one entry of which both readings are known (06 R183). -/
def ageEntry (home : Nat) (sc : Scan) (hit : Bool) (pos : Nat) (e : MacEntry) (d : Dev) : Dev :=
  let svc := d.obj cService e.key.service
  let s := d.second
  let age := if hit then 0 else if e.static_ then e.age else min 255 (e.age + ageTicks svc sc.old sc.new)
  if !hit ∧ !e.static_ ∧ svc.n 3 ≠ 0 ∧ svc.n 3 ≤ age then
    bump 0x086 (d.svcDom e.key.service) (decideRemoval home pos e.key d)
  else
    let thaw := e.frozen && decide ((s + 4096 - e.sec12) % 4096 < 2048)
    let e' := { e with age := age }
    let e' := if thaw then { e' with frozen := false, moves := 0, sec12 := s % 4096 }
      else if !e.frozen ∧ e.sec12 ≠ s % 4096 then { e' with moves := 0 } else e'
    let d := if e' = e then d else decideUpdate home pos e' d
    if thaw then raiseFrom home (some (d.svcDom e.key.service)) (flapEvent d e.key e.peer e.peer true) d else d

/-- The other slice's readings of 128 positions reach the home slice, which acts on its
entries there, those that it has read and that still stand (06 R183). -/
def ageResults (home lo : Nat) (hits : List Nat) (d : Dev) : Dev :=
  match d.mac.scan with
  | none => d
  | some sc =>
    let here (x : Nat × MacKey × Bool) : Bool := decide (lo ≤ x.1 ∧ x.1 < lo + 128)
    let rs := (sc.mine.getD home []).filter here
    let d := d.onMac (fun m => { m with scan := some { sc with mine := modAt sc.mine home (without here) } })
    forEach rs (fun x d => match (d.rep home).entries.find x.1 with
      | some e =>
        if e.key = x.2.1 ∧ macHome e.key = home then ageEntry home sc (x.2.2 || hits.contains x.1) x.1 e d else d
      | none => d) d

/-- A flush picks an entry (06 R193). -/
def flushPicks (d : Dev) (e : MacEntry) (fl : Flush) : Bool :=
  e.port = fl.port && d.svcDom e.key.service = fl.cmd.dom && (fl.statics || !e.static_)

/-- The scan reads one entry in its home slice's replica: a flush that it carries removes the entry, or its HIT is kept for
the results of the other slice. -/
def scanEntry (home : Nat) (hits : List Nat) (x : Nat × MacEntry) (d : Dev) : Dev :=
  match d.mac.scan with
  | none => d
  | some sc =>
    match sc.flushes.find? (flushPicks d x.2) with
    | some fl =>
      let d := d.onMac (fun m => { m with scan := some { sc with
        flushes := modFirst (flushPicks d x.2) (fun fl => { fl with count := fl.count + 1 }) sc.flushes } })
      bump 0x087 fl.cmd.dom (decideRemoval home x.1 x.2.key d)
    | none =>
      d.onMac (fun m => { m with scan := some { sc with
        mine := modAt sc.mine home (fun t => t.put x.1 (x.2.key, hits.contains x.1)) } })

/-- Positions of a replica, 8 of which a scan reads per cycle, for 32,776 cycles (06 R183). -/
def scanEnd : Nat := 262208
def scanTicks : Nat := 12140

/-- One slice's reads of the positions from `lo` to `hi`: its own entries, the HIT of the other's, and results of 128
positions each that are complete; every HIT read is cleared. -/
def scanSlice (lo hi slice : Nat) (d : Dev) : Dev :=
  let here (p : Nat) : Bool := decide (lo ≤ p ∧ p < hi)
  let hits := (d.rep slice).hits.filter here
  let others := (d.rep slice).entries.filter (fun (e : Nat × MacEntry) => decide (e.1 < hi) && macHome e.2.key ≠ slice)
  let set_ := (others.map Prod.fst).filter hits.contains
  let d := forEach (List.filter (fun (e : Nat × MacEntry) => here e.1) (d.homeEntries slice)) (scanEntry slice hits) d
  let d := d.onRep slice (fun r => { r with hits := without here r.hits })
  match d.mac.scan with
  | none => d
  | some sc =>
    let all := sc.theirs.getD slice [] ++ set_
    let done := ((others.map Prod.fst ++ all).map (· / 128)).eraseDups.filter (fun b =>
      decide (lo ≤ b * 128 + 127 ∧ (b * 128 + 128 ≤ hi ∨ hi = scanEnd)))
    let d := d.onMac (fun m => { m with scan := some { sc with theirs := sc.theirs.set slice (without (fun p => done.contains (p / 128)) all) } })
    forEach done (fun b d => bridgeSend (1 - slice) (.ages (b * 128) (all.filter (fun p => p / 128 = b))) d) d

/-- A scan comes to the position that it has reached by the present moment. -/
def scanAdvance (d : Dev) : Dev :=
  match d.mac.scan with
  | none => d
  | some sc =>
    let hi := min scanEnd (8 * dclkAt (d.now - sc.start))
    if hi ≤ sc.pos then d
    else
      let d := scanSlice sc.pos hi 1 (scanSlice sc.pos hi 0 d)
      d.onMac (fun m => { m with scan := m.scan.map (fun sc => { sc with pos := hi }) })

/-! ### Learning (06 R176 to R181) -/

/-- A move (06 R180, R181). -/
def moveEntry (home pos : Nat) (e : MacEntry) (peer port : Nat) (d : Dev) : Dev :=
  let s := d.second % 4096
  let o := d.obj cService e.key.service
  let m := min 255 ((if e.sec12 = s then e.moves else 0) + 1)
  let e' := { e with peer := peer, port := port, age := 0, moves := m, sec12 := s }
  let dom := d.svcDom e.key.service
  if o.n 4 < m then
    raiseFrom home (some dom) (flapEvent d e.key peer e.peer false)
      (decideUpdate home pos { e' with frozen := true, sec12 := (d.second + o.n 5) % 4096 } d)
  else decideUpdate home pos e' d

/-- `a` is later than `b` (06 R177). -/
def laterStamp (a b : Nat) : Bool :=
  let x := (a + 2 ^ 32 - b % 2 ^ 32) % 2 ^ 32
  decide (1 ≤ x ∧ x ≤ 2 ^ 31 - 1)

/-- A proposal precedes what is tracked for its key (06 R179). -/
def precedes (p : Proposal) (q : Tracked) : Bool :=
  laterStamp q.stamp p.stamp || (decide (p.stamp = q.stamp) &&
    (q.host || decide (q.slice < p.slice) || (decide (p.slice = q.slice) && decide (q.port < p.port))))

/-- The order cache holds 4,096 entries, and each for 20 µs. -/
def cacheSize : Nat := 4096
def cacheNs : Nat := 20000

/-- The current time on the fret time base, as a learn stamp. -/
def Dev.stampNow (d : Dev) : Nat := d.tbNs d.fretTb % 2 ^ 32

/-- The order cache of a slice with an entry for a key. -/
def track (slice : Nat) (t : Tracked) (d : Dev) : Dev :=
  d.onMac (fun m => { m with caches := modAt m.caches slice (fun c => without (fun x => x.key = t.key) c ++ [t]) })

/-- The home slice handles a proposal (06 R179). -/
def handleProposal (home : Nat) (p : Proposal) (d : Dev) : Dev :=
  let dom := d.svcDom p.key.service
  let late := (d.stampNow + 2 ^ 32 - p.stamp) % 2 ^ 32
  let cache := d.mac.caches.getD home []
  let q := cache.find? (fun t => t.key = p.key)
  if cacheNs < late ∧ late < 2 ^ 31 then bump 0x08B dom d
  else if q.any (precedes p) then bump 0x08A dom d
  else if q.isNone ∧ cacheSize ≤ cache.length then bump 0x08C dom d
  else
    let d := track home { key := p.key, stamp := p.stamp, slice := p.slice, port := p.port, host := false, at_ := d.now } d
    match (d.rep home).find p.key with
    | none =>
      let r := insertEntry home { key := p.key, peer := p.peer, port := p.port } true d
      match r.1 with
      | none => bump 0x088 dom r.2
      | some true => bump 0x08F dom r.2
      | some false => bump 0x084 dom r.2
    | some (pos, e) =>
      if e.peer = p.peer then d
      else if e.frozen then bump 0x08E dom d
      else if e.static_ then bump 0x08D dom d
      else bump 0x089 dom (bump 0x088 dom (moveEntry home pos e p.peer p.port d))

/-- Proposals that a slice has waiting: for its own home processing, or on the bridge (06 R178). -/
def Dev.proposalsOf (d : Dev) (slice : Nat) : Nat :=
  (d.mac.queues.getD slice []).length +
    ((d.mac.inbox.getD (1 - slice) []).filter (fun m => match m with | .proposal _ => true | _ => false)).length

/-- A slice issues a proposal (06 R178). -/
def propose (p : Proposal) (d : Dev) : Dev :=
  let dom := d.svcDom p.key.service
  let d := progEvent 0x050 p.slice 0 1 d
  if 1024 ≤ d.proposalsOf p.slice then bump 0x08C dom d
  else if macHome p.key = p.slice then d.onMac (fun m => { m with queues := modAt m.queues p.slice (· ++ [p]) })
  else bridgeSend (1 - p.slice) (.proposal p) d

/-- Learning at the confirmation of a frame (06 R176), by the service of its context (02 R59). -/
def learn (f : Frame) (peer : Nat) (d : Dev) : Dev :=
  let d := scanAdvance d
  let svc := f.ctx.svc
  let cs := f.parse.cs
  let mac := cs.getD 7 0 * 2 ^ 32 + cs.getD 8 0 * 2 ^ 16 + cs.getD 9 0
  if svc.n 0 ≠ 0 ∨ mac.testBit 40 ∨ 16384 ≤ peer then d
  else
    let k : MacKey := { service := f.res.service, fid := fidOf svc (cs.getD 12 0), mac := mac }
    let dom := d.svcDom k.service
    let p : Proposal := { key := k, peer := peer, port := f.port, slice := f.slice, stamp := f.fretStamp }
    match (d.rep f.slice).find k with
    | none => propose p d
    | some (pos, e) =>
      if e.peer = peer then d.onRep f.slice (fun r => { r with hits := if r.hits.contains pos then r.hits else pos :: r.hits })
      else if e.frozen then bump 0x08E dom d
      else if e.static_ then bump 0x08D dom d
      else propose p d

/-- LEARN_PROPOSAL_PROCESS: the home slice handles the proposal that reached it first. -/
def learnProposalProcess (slice : Nat) (d : Dev) : Dev :=
  match d.mac.queues.getD slice [] with
  | [] => d
  | p :: ps => handleProposal slice p ((scanAdvance d).onMac (fun m => { m with queues := m.queues.set slice ps }))

def execLearnProposalProcess (slice : Nat) (s : State) : Host.Outcome State Fault Refusal :=
  .next (s.onDev (learnProposalProcess slice))

/-- Insertions of `pos` on the way to a slice: the entry each evicted, whether learning asked for it, and whether one of the
other slice has crossed it. -/
def Dev.claimsTo (d : Dev) (slice pos : Nat) : List (Option MacEntry × Bool × Option Bool) :=
  (d.mac.inbox.getD slice []).filterMap (fun m => match m with
    | .insert p _ v l o => if p = pos then some (v, l, o) else none
    | _ => none)

/-- The insertions of `pos` on the way to a slice, changed by `f`. -/
def onClaims (slice pos : Nat) (f : BridgeMsg → BridgeMsg) (d : Dev) : Dev :=
  d.onMac (fun x => { x with inbox := modAt x.inbox slice (fun l => l.map (fun m => match m with
    | .insert p _ _ _ _ => if p = pos then f m else m
    | _ => m)) })

/-- An insertion of slice 0 is marked as crossed by one of slice 1. -/
def crossed (learned : Bool) (m : BridgeMsg) : BridgeMsg :=
  match m with
  | .insert p e v l _ => .insert p e v l (some learned)
  | m => m

/-- Slice 1 decides an insertion again whose claim slice 0 has beaten (06 R168). -/
def decideAgain (e : MacEntry) (learned : Bool) (d : Dev) : Dev :=
  let dom := d.svcDom e.key.service
  let r := insertEntry 1 e learned d
  match r.1 with
  | none => r.2
  | some q => bump (if q then 0x08F else 0x084) dom (if learned then unbump 0x088 dom r.2 else r.2)

/-- Two insertions have counted the eviction of one entry. -/
def sameVictim (v w : Option MacEntry) : Bool := v.isSome && decide (v.map MacEntry.key = w.map MacEntry.key)

/-- An insertion of slice 1 reaches slice 0: it stands unless slice 0 has claimed the position before (06 R168). -/
def insertAtZero (pos : Nat) (e : MacEntry) (v : Option MacEntry) (learned : Bool) (d : Dev) : Dev :=
  match d.claimsTo 1 pos with
  | [] => putEntry 0 pos e true d
  | c :: cs =>
    onClaims 1 pos (crossed learned) (if c.2.2.isNone || (c :: cs).any (fun x => sameVictim v x.1) then undoEvict v d else d)

/-- An insertion of slice 0 reaches slice 1, which withdraws its own claims of the position that it crossed and decides its
insertion again (06 R168). -/
def insertAtOne (pos : Nat) (e : MacEntry) (v : Option MacEntry) (beaten : Option Bool) (d : Dev) : Dev :=
  let cs := d.claimsTo 0 pos
  let old := (d.rep 1).entries.find pos
  let d := putEntry 1 pos e true (onClaims 0 pos (fun _ => .withdrawn) d)
  let d := match cs with
    | c :: _ => if beaten.isNone || sameVictim c.1 v then undoEvict c.1 d else d
    | [] => d
  match old, (cs.getLast?.map (fun c => c.2.1)).orElse (fun _ => beaten) with
  | some o, some learned => if macHome o.key = 1 then decideAgain o learned d else d
  | _, _ => d

/-- A key stands at a position of a replica. -/
def Dev.stands (d : Dev) (slice pos : Nat) (k : MacKey) : Bool := ((d.rep slice).entries.find pos).any (fun e => e.key = k)

/-- BRIDGE_MESSAGE_RX: the message that was sent first arrives, or is discarded with the bridge alarm (01 R19). A decision on
an entry that an insertion has displaced meanwhile finds nothing to change. -/
def bridgeMessageRx (slice : Nat) (bad : Bool) (d : Dev) : Dev :=
  let d := scanAdvance d
  match d.mac.inbox.getD slice [] with
  | [] => d
  | m :: ms =>
    let d := d.onMac (fun x => { x with inbox := x.inbox.set slice ms })
    if bad then raiseAlarm 12 0 d
    else
      match m with
      | .proposal p =>
        if 1024 ≤ d.proposalsOf slice then bump 0x08C (d.svcDom p.key.service) d
        else d.onMac (fun x => { x with queues := modAt x.queues slice (· ++ [p]) })
      | .insert pos e v l o => if slice = 0 then insertAtZero pos e v l d else insertAtOne pos e v o d
      | .update pos e => if d.stands slice pos e.key then putEntry slice pos e false d else d
      | .remove pos k => if d.stands slice pos k then dropEntry slice pos d else d
      | .ages lo hits => ageResults slice lo hits d
      | .withdrawn => d

/-- What is on the bridge crosses it: before a queued write, which takes 24 CCLK cycles where a message takes 12 DCLK, and
before a scan's end (01 R19, 02 R43; log 53). -/
def bridgeAll (d : Dev) : Dev :=
  let n := fun s => d.mac.inbox.getD s []
  forEach (n 0) (fun _ d => bridgeMessageRx 0 false d) (forEach (n 1) (fun _ d => bridgeMessageRx 1 false d) d)

def execBridgeMessageRx (slice : Nat) (uncorrectable : Bool) (s : State) : Host.Outcome State Fault Refusal :=
  .next (s.onDev (bridgeMessageRx slice uncorrectable))

/-- ORDER_CACHE_RETIRE: the entry written earliest retires 20 µs after it was written. -/
def orderCacheRetire (slice : Nat) (d : Dev) : Dev :=
  match d.mac.caches.getD slice [] with
  | [] => d
  | t :: ts =>
    let d := advanceTo (t.at_ + nsTicks cacheNs) d
    d.onMac (fun m => { m with caches := m.caches.set slice ts })

def execOrderCacheRetire (slice : Nat) (s : State) : Host.Outcome State Fault Refusal :=
  .next (s.onDev (orderCacheRetire slice))

/-! ### Host writes (06 R190) -/

/-- A host write enters the order cache; where that is full it takes the place of the entry written earliest. -/
def trackHost (k : MacKey) (d : Dev) : Dev :=
  let home := macHome k
  let c := d.mac.caches.getD home []
  let d := if c.any (fun t => t.key = k) ∨ c.length < cacheSize then d
    else d.onMac (fun m => { m with caches := m.caches.set home c.tail })
  track home { key := k, stamp := d.stampNow, slice := 0, port := 0, host := true, at_ := d.now } d

/-- A host insertion is applied: the status it completes with. -/
def hostInsert (k : MacKey) (peer port : Nat) (isStatic : Bool) (d : Dev) : Nat × Dev :=
  let home := macHome k
  let d := trackHost k d
  match (d.rep home).find k with
  | some (pos, e) =>
    (0, decideUpdate home pos { e with peer := peer, port := port, static_ := isStatic, age := 0, moves := 0, frozen := false } d)
  | none =>
    let r := insertEntry home { key := k, peer := peer, port := port, static_ := isStatic } false d
    match r.1 with
    | none => (0, r.2)
    | some true => (eQuota, r.2)
    | some false => (eQuota, bump 0x084 (d.svcDom k.service) r.2)

/-- A host removal is applied: whether the key was found. -/
def hostDelete (k : MacKey) (d : Dev) : Bool × Dev :=
  let home := macHome k
  let d := trackHost k d
  match (d.rep home).find k with
  | some (pos, _) => (true, decideRemoval home pos k d)
  | none => (false, d)

/-! ### The scan's end, and the next (06 R182, R183, R193) -/

/-- AGE_SCAN_END: the last readings cross the bridge, and the flushes carried complete. -/
def ageScanEnd (d : Dev) : Dev :=
  match d.mac.scan with
  | none => d
  | some sc =>
    let d := bridgeAll (scanAdvance (advanceTo (sc.start + scanTicks) d))
    let fls := (d.mac.scan.map Scan.flushes).getD []
    forEach fls (fun fl d => finish fl.cmd { value := fl.count } d) (d.onMac (fun m => { m with scan := none }))

def execAgeScanEnd (s : State) : Host.Outcome State Fault Refusal := .next (s.onDev ageScanEnd)

/-- An ageing step starts, standing for `k` steps; it carries up to 16 granted flushes (06 R182, R193). -/
def startScan (k : Nat) (d : Dev) : Dev :=
  let d := ageScanEnd d
  let fl := (d.mac.flushes.filter Flush.granted).take 16
  d.onMac (fun m => { m with
    scan := some { start := d.now, old := m.steps, new := m.steps + k, flushes := fl },
    steps := m.steps + k, flushes := without (fun f => fl.contains f) m.flushes })

/-- EV_MAC_EVICT at the boundary that ends a fret (06 R172), by the queue of the slice that evicted last (01 R32). -/
def macEvictEvents (ended : Nat) (d : Dev) : Dev :=
  let es := d.mac.evicts
  let d := d.onMac (fun m => { m with evicts := [] })
  forEach es (fun e d =>
    match e.2 with
    | [] => d
    | k :: ks =>
      raiseFrom (macHome k) (some e.1)
        { code := 0x0301, cleared := false, head := ended,
          payload := payload [(16, 4, ks.length + 1), (20, 2, k.service), (22, 2, k.fid), (24, 6, k.mac)] } d) d

/-- An entry whose word is lost leaves both replicas, wherever its insertion stands (15 R464). -/
def dropBoth (pos : Nat) (d : Dev) : Dev :=
  dropEntry 1 pos (dropEntry 0 pos (onClaims 0 pos (fun _ => .withdrawn) (onClaims 1 pos (fun _ => .withdrawn) d)))

end Sys2Proof.Machine
end

