-- ==== Sys2Proof/Machine/Parser.lean ====
section
/-! DEFINITION. The parse graph, the payload patterns, the dispositions and punting (05). -/

namespace Sys2Proof.Machine

/-- The fields of a parse-graph node, read from its 256 bits (05 R135). -/
structure Node where
  cls : Nat
  selOff : Nat
  selWidth : Nat
  trBase : Nat
  trCount : Nat
  dflt : Nat
  computed : Bool
  advFixed : Nat
  len : Nat × Nat × Nat × Nat × Nat
  advMin : Nat
  lcEn : Bool
  lc : Nat × Nat × Nat × Nat × Nat
  sectag : Bool
  ex : List (Nat × Nat × Nat × Bool)

/-- An extraction of 19 bits: offset, units, destination, in-header. -/
def exOf (n : Nat) : Nat × Nat × Nat × Bool := (bitsOf n 18 11, bitsOf n 10 7, bitsOf n 6 1, n.testBit 0)

/-- The node that a 256-bit entry spells (05 R135). -/
def nodeOf (n : Nat) : Node :=
  { cls := bitsOf n 255 248, selOff := bitsOf n 247 240, selWidth := bitsOf n 239 238, trBase := bitsOf n 237 227,
    trCount := bitsOf n 226 222, dflt := bitsOf n 221 213, computed := n.testBit 212, advFixed := bitsOf n 211 203,
    len := (bitsOf n 202 195, bitsOf n 194 191, bitsOf n 190 187, bitsOf n 186 185, bitsOf n 184 177),
    advMin := bitsOf n 176 168, lcEn := n.testBit 167,
    lc := (bitsOf n 166 159, bitsOf n 158 155, bitsOf n 154 151, bitsOf n 150 149, bitsOf n 148 141),
    sectag := n.testBit 140,
    ex := [exOf (bitsOf n 139 121), exOf (bitsOf n 120 102), exOf (bitsOf n 101 83), exOf (bitsOf n 82 64)] }

/-- A length field of a node: ((v >> shift) & mask) << scale, plus bias (05 R140). -/
def lenField (frame : Bytes) (start : Nat) (l : Nat × Nat × Nat × Nat × Nat) : Nat :=
  let v := beAt frame (start + l.1) 2
  v / 2 ^ l.2.1 % 2 ^ (l.2.2.1 + 1) * 2 ^ l.2.2.2.1 + l.2.2.2.2

/-- Offsets read as a run. -/
def readRun (off n : Nat) : List Nat := (List.range n).map (off + ·)

/-- The selection, length and layer-check bytes of a node. -/
def fixedReads (n : Node) (start : Nat) : List Nat :=
  readRun (start + n.selOff) n.selWidth ++ (if n.computed then readRun (start + n.len.1) 2 else []) ++
    (if n.lcEn then readRun (start + n.lc.1) 2 else [])

/-- Whether an extraction reads: used, and in the header where it must be. -/
def exReads (adv : Nat) (e : Nat × Nat × Nat × Bool) : Bool :=
  decide (e.2.1 ≠ 0) && (!e.2.2.2 || decide (e.1 + 2 * e.2.1 ≤ adv))

def extractionReads (n : Node) (start adv : Nat) : List Nat :=
  (n.ex.filter (exReads adv)).flatMap (fun e => readRun (start + e.1) (2 * e.2.1))

/-- The tests of a read set, in order (05 R137): none, or how the parse ends: 0 CIPHER, 1 deep, 2 malformed, and the
lowest offset that fails. -/
def testReads (bdy : Option Nat) (len : Nat) (rs : List Nat) : Option (Nat × Nat) :=
  let low (p : Nat → Bool) : Option Nat := (rs.filter p).foldl (fun a x => match a with
    | none => some x
    | some y => some (min x y)) none
  match bdy.bind (fun b => low (fun x => decide (b ≤ x))) with
  | some x => some (0, x)
  | none =>
    match low (fun x => decide (512 ≤ x)) with
    | some x => some (1, x)
    | none => (low (fun x => decide (len ≤ x))).map (fun x => (2, x))

/-- The containers after the extractions of an executed node (05 R139). -/
def writeExtractions (frame : Bytes) (n : Node) (start adv : Nat) (cs : List Nat) : List Nat :=
  n.ex.foldl (fun cs e =>
    (List.range e.2.1).foldl (fun cs i =>
      cs.set (e.2.2.1 + i) (if exReads adv e then beAt frame (start + e.1 + 2 * i) 2 else 0)) cs) cs

/-- The next node: the first matching transition, else the default (05 R138). -/
def selectNext (trans : Nat → Nat) (frame : Bytes) (n : Node) (start : Nat) : Nat :=
  if n.selWidth = 0 then n.dflt
  else
    let v := beAt frame (start + n.selOff) n.selWidth
    match (List.range n.trCount).find? (fun i =>
      let t := trans (n.trBase + i)
      decide (Nat.land v (bitsOf t 47 32) = bitsOf t 63 48)) with
    | some i => bitsOf (trans (n.trBase + i)) 31 23
    | none => n.dflt

/-- A parse ends: disposition, reason, failing offset, node; `fin` is the header end, of which C3 has 10 bits (05 R133). -/
def endParse (p : Parse) (disp reason fail node fin : Nat) : Parse :=
  { p with disp := disp, reason := reason, failOff := fail, node := node, cs := p.cs.set 3 (fin % 1024) }

/-- The walk of the graph (05 R137). `fuel` is above the step limit; `ends` is the smallest declared end so far. DESIGN CHOICE
(log 100): where a SECTAG node starts at offset 512 or beyond, or at L, R137 reads its E bit untested and R131 forbids the read;
the walk reads the byte, zero past the frame's end. -/
def walkGraph (nodes trans : Nat → Nat) (frame : Bytes) (hint : Nat) :
    Nat → Nat → Nat → Option Nat → Option Nat → Parse → Parse
  | 0, _, _, _, _, p => p
  | fuel + 1, node, start, bdy, ends, p =>
    let len := frame.length
    if p.steps = 24 then endParse p 1 0x10 start node start
    else if bdy.any (fun b => decide (b ≤ start)) then { endParse p 0 0 0 node start with cipher := true }
    else
      let n := nodeOf (nodes node)
      let stop (x : Nat × Nat) : Parse :=
        match x.1 with
        | 0 => { endParse p 0 0 0 node start with cipher := true }
        | 1 => endParse p 1 0x11 x.2 node start
        | _ => endParse p 2 0x01 x.2 node start
      match testReads bdy len (fixedReads n start) with
      | some x => stop x
      | none =>
        let adv := if n.computed then lenField frame start n.len else n.advFixed
        if adv < n.advMin then endParse p 2 0x02 start node start
        else
          match testReads bdy len (extractionReads n start adv) with
          | some x => stop x
          | none =>
            let e := start + lenField frame start n.lc
            let late := fun (x : Nat) => decide (512 < len ∧ 512 < x)
            if n.lcEn ∧ e < start + adv then endParse p 2 0x03 e node start
            else if n.lcEn ∧ ends.any (fun m => decide (m < e)) then endParse p 2 0x04 e node start
            else if n.lcEn ∧ len < e ∧ !late e then endParse p 2 0x05 e node start
            else if len < start + adv ∧ !late (start + adv) then endParse p 2 0x01 (start + adv) node start
            else
              let fin := start + adv
              let lates := (if n.lcEn && late e then [e] else []) ++ (if late fin then [fin] else [])
              let lateEnd := lates.foldl (fun a x => some (max (a.getD 0) x)) p.lateEnd
              let p := { p with
                cs := (writeExtractions frame n start adv p.cs),
                stack := p.stack ++ [{ cls := n.cls, off := start, fin := fin, sectag := n.sectag }],
                steps := p.steps + 1, lateEnd := lateEnd, node := node }
              let bdy := if n.sectag ∧ ((frame.getD start 0).getLsbD 3) then some (fin + hint) else bdy
              let ends := if n.lcEn then some (min e (ends.getD e)) else ends
              let next := selectNext trans frame n start
              if next = nextAccept then endParse p 0 0 0 node fin
              else if next = nextReject then endParse p 2 0x06 start node fin
              else walkGraph nodes trans frame hint fuel next fin bdy ends p

/-- The cipher boundary of a parse that has one. -/
def boundaryOf (frame : Bytes) (hint : Nat) (p : Parse) : Option Nat :=
  ((p.stack.filter (fun h => h.sectag && (frame.getD h.off 0).getLsbD 3)).getLast?).map (fun h => h.fin + hint)

/-- Byte `i` of a 32-byte string kept as a number. -/
def byteOf (n i : Nat) : Nat := n / 256 ^ i % 256

/-- A pattern at a position (05 R153). -/
def patternAt (frame : Bytes) (limit : Nat) (o : Obj) (p : Nat) : Bool :=
  decide (p + o.n 6 ≤ limit) &&
    (List.range (o.n 6)).all (fun i => decide (Nat.land (frame.getD (p + i) 0).toNat (byteOf (o.n 8) i) = byteOf (o.n 7) i))

/-- Whether an enabled pattern matches (05 R152, R153). -/
def patternHits (frame : Bytes) (limit : Nat) (stack : List Header) (o : Obj) : Bool :=
  match o.n 1 with
  | 0 => patternAt frame limit o (o.n 4)
  | 1 =>
    let hs := stack.filter (fun h => h.cls = o.n 2)
    match (if o.b 3 then hs.getLast? else hs.head?) with
    | some h => patternAt frame limit o (h.off + o.n 4)
    | none => false
  | _ => (List.range (o.n 5 + 1 - o.n 4)).any (fun i => patternAt frame limit o (o.n 4 + i))

/-- The parse settings of a frame: those of the port where it first entered (05 R156). -/
def Dev.parseSet (d : Dev) (f : Frame) : Obj := d.objAt f.epoch cParsePort f.port

/-- The action of a disposition: 0 go on, 1 drop, 2 punt (05 R145). -/
def dispAction (o : Obj) (disp : Nat) : Nat :=
  match disp with
  | 0 => 0
  | 1 => o.n 1
  | _ => o.n 2 + 1

/-- The parse result of a frame (05 R133 to R154). -/
def parseFrame (d : Dev) (f : Frame) : Parse :=
  let o := d.parseSet f
  let hint := o.n 3
  let root := if f.recirc then (d.objAt f.epoch cRecirc f.slice).n 0 else o.n 0
  let c0 := b2n f.rx * 2 ^ 15 + b2n f.recirc * 2 ^ 14 + b2n f.epoch * 2 ^ 13 + f.port
  let nodes (i : Nat) := (d.objAt f.epoch cParseNode (sliceIdx f.slice i)).n 0
  let trans (i : Nat) := (d.objAt f.epoch cParseTrans (sliceIdx f.slice i)).n 0
  let p := walkGraph nodes trans f.bytes hint 26 root 0 none none {}
  let limit := min (min 512 f.bytes.length) ((boundaryOf f.bytes hint p).getD 512)
  let ms := if dispAction o p.disp ≠ 0 then [] else
    ((d.tableAt f.epoch cParsePattern).filter (fun e =>
      e.1 / 2 ^ 31 = f.slice && e.2.b 0 && patternHits f.bytes limit p.stack e.2)).map (fun e => e.1 % 2 ^ 31)
  let c1 := b2n (p.disp = 1) * 2 ^ 15 + b2n p.cipher * 2 ^ 14 + b2n (ms ≠ []) * 2 ^ 13 + p.steps * 2 ^ 8 + ms.headD 0
  let c2 := ((p.stack.getLast?).map Header.cls).getD 0 * 256 + p.reason
  { p with cs := ((p.cs.set 0 c0).set 1 c1).set 2 c2, matches_ := ms }

/-- Punted frames that a slice holds (05 R150). -/
def puntLimit : Nat := 64

/-- A token of the punt policer, in units that one frame per second earns in one TCLK edge. -/
def puntToken : Nat := 500000000

/-- The tokens of a punt policer at the present moment, with the parameters that it has run under (05 R149). -/
def Dev.puntLevel (d : Dev) (o : Obj) (dom : Nat) : Int :=
  let cap : Int := (o.n 1 * puntToken : Nat)
  match d.eg.punt.find dom with
  | none => cap
  | some b => min cap (b.level + (o.n 0 * (d.now - b.at_) : Nat))

/-- The punt policer of a domain takes a token: whether it had one (05 R149). -/
def policePunt (dom : Nat) (d : Dev) : Bool × Dev :=
  let level := d.puntLevel (d.obj cPunt dom) dom
  let ok := decide ((puntToken : Int) ≤ level)
  let level := if ok then level - (puntToken : Nat) else level
  (ok, d.onEg (fun e => { e with punt := e.punt.put dom { level := level, at_ := d.now } }))

/-- Whether a frame may be punted: the domain of its port, its ring and its rate (05 R148). -/
def Dev.puntDomain (d : Dev) (port : Nat) : Option Nat :=
  match d.portOwner port with
  | none => none
  | some k => if k < 32 ∧ (d.page k).ringEn.getLsbD 7 ∧ ((d.table cPunt).find k).isSome then some k else none

/-- A PUNT action (05 R148 to R150). -/
def puntFrame (f : Frame) (d : Dev) : Dev :=
  match d.puntDomain f.port with
  | none => dropFrame f.id d
  | some k =>
    let r := policePunt k d
    if !r.1 then dropFrame f.id (bump 0x041 k r.2)
    else if puntLimit ≤ (r.2.fr.punts.getD f.slice []).length then dropFrame f.id (bump 0x042 k r.2)
    else
      resolveIssue tdDelivered f.id (setFrame { f with stage := .punted, owner := k, fretStamp := d.fret.index }
        (r.2.onFr (fun s => { s with punts := modAt s.punts f.slice (· ++ [f.id]) })))

/-- A frame longer than 512 bytes fails the late comparison of declared ends and header ends with L (05 R141). -/
def Frame.lateBad (f : Frame) : Bool :=
  decide (512 < f.bytes.length) && f.parse.lateEnd.any (fun e => decide (f.bytes.length < e))

/-- The parse of a frame is complete and its disposition applied (05 R145, R146). -/
def parseComplete (id : Nat) (d : Dev) : Dev :=
  match d.frame id with
  | none => d
  | some f =>
    if f.stage ≠ .parsing then d
    else
      let p := parseFrame d f
      let f := { f with parse := p }
      let d := setFrame f d
      let d := match p.disp with
        | 0 => d
        | 1 => bump 0x048 f.port d
        | _ => bump 0x049 f.port d
      match dispAction (d.parseSet f) p.disp with
      | 0 =>
        if f.ended && f.lateBad then dropFrame id (bump 0x04A f.port d)
        else setFrame { f with stage := .classifying } d
      | 1 => dropFrame id d
      | _ => puntFrame f d

/-- PARSE_COMPLETE. -/
def execParseComplete (id : Nat) (s : State) : Host.Outcome State Fault Refusal := .next (s.onDev (parseComplete id))

/-- A punt entry (05 R151). -/
def puntEntry (f : Frame) : Bytes :=
  let l := f.bytes.length
  leBytes l 2 ++ leBytes (min l 960) 2 ++ leBytes (b2n f.rx * 128 + b2n f.recirc * 64 + f.port) 1 ++
    leBytes f.parse.disp 1 ++ leBytes f.parse.reason 1 ++ leBytes f.parse.steps 1 ++ leBytes f.parse.failOff 2 ++
    leBytes f.parse.node 1 ++ leBytes (b2n f.epoch) 1 ++ leBytes (f.stamp / 2 ^ 32 % 10 ^ 9) 4 ++
    leBytes (f.stamp / 2 ^ 32 / 10 ^ 9) 4 ++ leBytes f.tb 1 ++ zeros 3 ++ leBytes f.fretStamp 8 ++ zeros 32 ++
    padTo 960 f.bytes

/-- A punt entry whose write faults in translation is discarded; the event comes once per fret and domain (05 R150). -/
def puntFault (dom id cause iova : Nat) (d : Dev) : Dev :=
  let d := dropFrame id (bump 0x044 dom d)
  if (d.dom dom).puntFaultFret = some d.fret.index then d
  else
    raise dom (dmaFaultEvent d 2 true cause 7 0 iova 0)
      (d.onDom dom (fun D => { D with puntFaultFret := some d.fret.index }))

/-- The oldest held punt of a slice is written, or lost. One whose write waits for a walk stays held (05 R150). -/
def puntEntryWrite (slice : Nat) (d : Dev) : Dev :=
  match (d.fr.punts.getD slice []).head? with
  | none => d
  | some id =>
    match d.frame id with
    | none => d.onFr (fun s => { s with punts := modAt s.punts slice (·.erase id) })
    | some f =>
      let k := f.owner
      let mine (d : Dev) : Bool := (d.dom k).held.any (fun h => decide (h.ring = 7 ∧ h.tag = id))
      if mine d then d
      else if !d.ringUp k 7 then dropFrame id d
      else if d.ringFree k 7 = 0 then dropFrame id (bump 0x043 k d)
      else
        match d.ringBlock k 7 1 with
        | some (4, iova, .fault cause) => puntFault k id cause iova d
        | _ =>
          let d := ringPut k 7 (.punt (puntEntry f)) d (tag := id)
          if mine d then d else dropFrame id (bump 0x040 k d)

/-- PUNT_ENTRY_WRITE. -/
def execPuntEntryWrite (slice : Nat) (s : State) : Host.Outcome State Fault Refusal :=
  .next (s.onDev (puntEntryWrite slice))

end Sys2Proof.Machine
end

