-- ==== Sys2Proof/Machine/Classifier.lean ====
section
/-! DEFINITION. The classifier (06): the key, the TCAM, secondary lookups, the result of a pass, and the table commands. -/

namespace Sys2Proof.Machine

/-- Container `i` of a field vector. -/
def cont (cs : List Nat) (i : Nat) : Nat := cs.getD i 0

/-- The 640-bit key of a profile: K39 in the top 16 bits (06 R160). -/
def classKey (profile : Obj) (cs : List Nat) : Nat :=
  (List.range 40).foldl (fun a i =>
    let c := profile.n (39 - i)
    a * 65536 + (if c < 40 then cont cs c else 0)) 0

/-- The key profile of a pass (06 R161). -/
def Dev.profileOf (d : Dev) (f : Frame) : Nat :=
  if f.recirc then (d.objAt f.epoch cRecirc f.slice).n 1 else (d.objAt f.epoch cClsPort f.port).n 0

/-- The matching TCAM entry: lowest index among the valid entries of the port's owner with the frame's profile (06
R164). -/
def Dev.tcamMatch (d : Dev) (f : Frame) (profile key : Nat) : Option (Nat × Obj) :=
  (d.portOwner f.port).bind (fun k =>
    let q := d.quota k
    (d.tableAt f.epoch cTcam).find? (fun e =>
      e.1 / 2 ^ 31 = f.slice && e.2.b 0 && e.2.n 1 = profile && inRange2 (q.lst 4) f.slice (e.1 % 2 ^ 31) &&
        Nat.land key (e.2.n 3) = e.2.n 2))

/-- Fields ACTION to EGRESS that govern a pass, with whether they are a default result and whether their ACTION is
forced to DROP by a shadow mismatch (06 R163, R165, 15 R467). -/
def Dev.governing (d : Dev) (f : Frame) : List Int × Bool × Bool :=
  let p := d.profileOf f
  let key := classKey (d.objAt f.epoch cKeyProfile (sliceIdx f.slice p)) f.parse.cs
  match d.tcamMatch f p key with
  | some (i, o) => (o.f.drop 4, false, d.failSafe (.tcamAction f.slice (i % 2 ^ 31)))
  | none =>
    if f.recirc then ((d.objAt f.epoch cRecirc f.slice).f.drop 2, true, d.failSafe (.recircAction f.slice))
    else ((d.objAt f.epoch cClsPort f.port).f.drop 1, true, d.failSafe (.defaultAction f.port))

/-! ### Longest prefix (06 R185 to R188) -/

/-- Leading bits that name a bucket. -/
def bucketBits (family : Nat) : Nat := if family = 0 then 16 else 32

/-- The first `len` bits of an address held in the top of 128. -/
def addrTop (addr len : Nat) : Nat := addr / 2 ^ (128 - len)

/-- The prefixes of the bucket of an address. -/
def lpmBucket (t : Tbl Obj) (service family addr : Nat) : List Obj :=
  (t.map Prod.snd).filter (fun o => o.n 0 = service && o.n 1 = family &&
    addrTop (o.n 3) (bucketBits family) = addrTop addr (bucketBits family))

/-- The lengths present in a bucket, longest first. -/
def lengthsOf (b : List Obj) : List Nat :=
  ((List.range 129).reverse).filter (fun l => b.any (fun o => o.n 2 = l))

/-- Probes from the longest length: the prefix that covers the address, and the probes made. -/
def probe (b : List Obj) (addr : Nat) : List Nat → Nat → Option Obj × Nat
  | [], n => (none, n)
  | l :: ls, n =>
    match b.find? (fun o => o.n 2 = l && addrTop (o.n 3) l = addrTop addr l) with
    | some o => (some o, n + 1)
    | none => probe b addr ls (n + 1)

/-- An LPM lookup. -/
def lpmLookup (t : Tbl Obj) (service family addr : Nat) : Option Obj × Nat :=
  let b := lpmBucket t service family addr
  probe b addr (lengthsOf b) 0

/-- The address in containers `c` onward, in the top of 128 bits. -/
def addrOf (cs : List Nat) (family c : Nat) : Nat :=
  let n := if family = 0 then 2 else 8
  ((List.range n).foldl (fun a i => a * 65536 + cont cs (c + i)) 0) * 2 ^ (128 - 16 * n)

/-! ### The result (06 R166) -/

/-- A channel-table entry replaces the fields whose use bits are set (06 R189). -/
def channelResult (o : Obj) (r : Result) : Result :=
  { r with
    sc := if o.b 2 then o.n 1 else r.sc
    stream := if o.b 4 then o.n 3 else r.stream
    meterEn := if o.b 7 then o.b 5 else r.meterEn
    meter := if o.b 7 then o.n 6 else r.meter
    tc := if o.b 9 then o.n 8 else r.tc
    egress := if o.b 11 then o.n 10 else r.egress }

/-- The secondary lookup of a transmit pass: none on a miss. -/
def Dev.secondary (d : Dev) (f : Frame) (x : List Int) (r : Result) : Option Result :=
  let n (i : Nat) : Nat := (x.getD i 0).toNat
  let cs := f.parse.cs
  match n 1 with
  | 1 =>
    let svc := d.objAt f.epoch cService (n 5)
    let mac := cont cs 4 * 2 ^ 32 + cont cs 5 * 2 ^ 16 + cont cs 6
    let k : MacKey := { service := n 5, fid := fidOf svc (cont cs 12), mac := mac }
    ((d.rep f.slice).find k).map (fun e => { r with sc := e.2.peer })
  | 2 =>
    (lpmLookup (d.tableAt f.epoch cLpm) (n 5) (n 6) (addrOf cs (n 6) (n 7))).1.map (fun o => { r with sc := o.n 4 })
  | _ =>
    let id := cont cs (n 8) / 2 ^ n 9 % 4096
    let o := d.objAt f.epoch cChannel id
    if o.b 0 && (d.portOwner f.port).any (fun k => quotaChannel (d.quota k) id) then some (channelResult o r) else none

/-- The classification result of a pass, with its counts; none where the frame is dropped (06 R165, R166). -/
def classify (f : Frame) (d : Dev) : Option Result × Dev :=
  let g := d.governing f
  let x := g.1
  let n (i : Nat) : Nat := (x.getD i 0).toNat
  let d := if g.2.1 then bump 0x080 f.port d else d
  let r : Result := { action := if g.2.2 then 1 else n 0, secy := n 3, sc := n 4, service := n 5, meterEn := n 10 ≠ 0,
                      meter := n 11, tc := n 12, stream := n 13, egress := n 14 }
  if r.action = 1 then (none, bump 0x081 f.port d)
  else if f.rx ∨ n 1 = 0 then (some r, d)
  else
    match d.secondary f x r with
    | some r => (some r, d)
    | none =>
      let d := bump 0x082 f.port d
      (if n 2 = 0 then none else some r, d)

/-- Whether EGRESS names a usable port (06 R167). -/
def Dev.egressOk (d : Dev) (rx : Bool) (e : Nat) : Bool := (rx || decide (e < 16)) && (d.isEth e || d.isGroup e)

/-! ### Table commands (06 R190 to R193) -/

/-- A service of the domain's quota. -/
def Dev.ownsService (d : Dev) (dom s : Nat) : Bool := quotaService (d.quota dom) s

/-- The 128-bit MAC-table entry (06 R170). -/
def macImage (e : MacEntry) (hit : Bool) : Bytes :=
  leBytes (2 ^ 127 + b2n e.static_ * 2 ^ 126 + b2n e.frozen * 2 ^ 125 + b2n hit * 2 ^ 124 + e.key.service * 2 ^ 114 +
    e.key.fid * 2 ^ 102 + e.key.mac * 2 ^ 54 + e.peer * 2 ^ 40 + e.port * 2 ^ 35 + e.age * 2 ^ 27 + e.moves * 2 ^ 19 +
    e.sec12 * 2 ^ 7) 16

/-- FOUND in the FLAGS of a completion. -/
def flagFound : Nat := 4

/-- A write waits in the rank-1 queue (02 R43). -/
def queueWrite (w : QueuedWrite) (d : Dev) : Dev := d.onFret (fun f => { f with queue := f.queue ++ [w] })

/-- Operands of a MAC key. -/
def macKeyOk (service fid mac : Nat) : Bool :=
  decide (service < 1024) && decide (fid < 4096) && decide (mac < 2 ^ 48)

/-- TBL_INSERT: it names a service and a port of the domain (13 R392). -/
def tblInsertBody (c : Cmd) (service fid mac peer port : Nat) (isStatic : Bool) (d : Dev) : Dev × Option Reply :=
  if !macKeyOk service fid mac ∨ 16384 ≤ peer ∨ 32 ≤ port then (d, some (fail eRange))
  else if !d.ownsService c.dom service || !quotaPort (d.quota c.dom) port then (d, some (fail ePerm))
  else (queueWrite (.macInsert (some c) service fid mac peer port isStatic) d, none)

/-- TBL_DELETE. -/
def tblDeleteBody (c : Cmd) (service fid mac : Nat) (d : Dev) : Dev × Option Reply :=
  if !macKeyOk service fid mac then (d, some (fail eRange))
  else if !d.ownsService c.dom service then (d, some (fail ePerm))
  else (queueWrite (.macDelete c service fid mac) d, none)

/-- TBL_SEARCH. The prefix of an LPM hit fills RESULT in network order. -/
def tblSearchBody (c : Cmd) (op : SearchOp) (d : Dev) : Dev × Option Reply :=
  match op with
  | .mac service fid mac =>
    if !macKeyOk service fid mac then (d, some (fail eRange))
    else if !d.ownsService c.dom service then (d, some (fail ePerm))
    else
      let d := scanAdvance d
      match (d.rep 0).find { service := service, fid := fid, mac := mac } with
      | none => (d, some {})
      | some (pos, e) => (d, some { flags := flagFound, result := macImage e ((d.rep 0).hits.contains pos) })
  | .lpm service family addr =>
    if 1024 ≤ service ∨ 2 ≤ family then (d, some (fail eRange))
    else if !d.ownsService c.dom service then (d, some (fail ePerm))
    else
      let r := lpmLookup (d.table cLpm) service family addr
      match r.1 with
      | none => (d, some { detail := r.2 })
      | some o => (d, some { flags := flagFound, detail := o.n 2 * 256 + r.2, value := o.n 4, result := beBytes (o.n 3) 16 })
  | .channel index =>
    if 4096 ≤ index then (d, some (fail eRange))
    else if !quotaChannel (d.quota c.dom) index then (d, some (fail ePerm))
    else
      let o := d.obj cChannel index
      if o.b 0 then (d, some { flags := flagFound, result := padTo 16 (writeImage cChannel o) }) else (d, some {})

/-- Positions of a walk (06 R192). -/
def walkPositions : Nat := 4096
def lastPosition : Nat := 262207

/-- Whether an entry passes the filters of a walk. -/
def nextPicks (o : NextOps) (d : Dev) (dom : Nat) (e : MacEntry) : Bool :=
  d.ownsService dom e.key.service && (o.allServices || e.key.service = o.service) &&
    (o.allPorts || e.port = o.port) && (o.select = 3 || (o.select = 1 && e.static_) || (o.select = 2 && !e.static_))

/-- What a walk answers: at most 4,096 positions and 64 entries; the cursor after them, or all ones at the end. -/
def nextReply (o : NextOps) (d : Dev) (dom : Nat) : Reply :=
  let stop := min (o.cursor + walkPositions) (lastPosition + 1)
  let hits := (d.rep 0).entries.filter (fun e => o.cursor ≤ e.1 && e.1 < stop && nextPicks o d dom e.2)
  let got := hits.take 64
  let next := match (hits.drop 64).head? with
    | some _ => ((got.getLast?).map (fun e => e.1 + 1)).getD stop
    | none => stop
  let img := (got.map (fun e => macImage e.2 ((d.rep 0).hits.contains e.1))).flatten
  { detail := got.length, value := if next ≤ lastPosition then next else 0xFFFFFFFF,
    outs := if got = [] then [] else [(o.iova, img)] }

/-- TBL_NEXT. -/
def tblNextBody (c : Cmd) (o : NextOps) (d : Dev) : Dev × Option Reply :=
  if lastPosition < o.cursor ∨ o.select = 0 ∨ 3 < o.select ∨ (!o.allServices ∧ 1024 ≤ o.service) ∨
      (!o.allPorts ∧ 32 ≤ o.port) then (d, some (fail eRange))
  else if (!o.allServices && !d.ownsService c.dom o.service) || (!o.allPorts && !quotaPort (d.quota c.dom) o.port) then
    (d, some (fail ePerm))
  else
    let d := scanAdvance d
    (d, some (nextReply o d c.dom))

/-- TBL_FLUSH_PORT: it waits for leave, then for an ageing step. -/
def tblFlushPortBody (c : Cmd) (port : Nat) (statics : Bool) (d : Dev) : Dev × Option Reply :=
  if 32 ≤ port then (d, some (fail eRange))
  else if !quotaPort (d.quota c.dom) port then (d, some (fail ePerm))
  else
    (askLeave .flushScan (d.onMac (fun m => { m with flushes := m.flushes ++ [{ cmd := c, port := port, statics := statics }] })),
     none)

/-- Leave for the flushes is granted. -/
def flushGranted (d : Dev) : Dev :=
  d.onMac (fun m => { m with flushes := m.flushes.map (fun f => { f with granted := true }) })

end Sys2Proof.Machine
end

