-- ==== Sys2Proof/Machine/Lanes.lean ====
section
/-! DEFINITION. The data lanes (03): bring-up, relock, lane order, adaptation leave, fault mirroring, the PRBS checkers,
the management lanes, and the stamp corrections of a port (11 R346). -/

namespace Sys2Proof.Machine

def Dev.onLanes (d : Dev) (f : LaneSt → LaneSt) : Dev := { d with lanes := f d.lanes }
def Dev.lane (d : Dev) (l : Nat) : Lane := d.lanes.lanes.getD l {}
def Dev.link (d : Dev) (p : Nat) : Link := d.lanes.links.getD p {}
def onLane (l : Nat) (f : Lane → Lane) (d : Dev) : Dev := d.onLanes (fun s => { s with lanes := modAt s.lanes l f })
def onLink (p : Nat) (f : Link → Link) (d : Dev) : Dev := d.onLanes (fun s => { s with links := modAt s.links p f })

/-- The 25GbE port that starts at a lane runs RS(528,514) (03 R64). -/
def Dev.fec25 (d : Dev) (port : Nat) : Bool := !(d.layoutOf port).b (8 + port % 8)

/-- Whether RS-FEC runs on a port: on every port but 10GbE and a 25GbE port without it (03 R64, R67). -/
def Dev.hasFec (d : Dev) (p : Nat) : Bool :=
  d.isGroup p || decide (d.portType p < 5) || (decide (d.portType p = 5) && d.fec25 p)

/-- The lanes of a port count what their FEC decoders found (03 R65). -/
def countFec (p : Nat) (errs : List LaneErrs) (d : Dev) : Dev :=
  if !d.hasFec p then d
  else forEach (errs.filter (fun e => (d.portLanes p).contains e.lane)) (fun e d =>
    bumpBy 0x012 e.lane e.symbols (bumpBy 0x011 e.lane e.uncorrectable (bumpBy 0x010 e.lane e.corrected d))) d

/-- The lanes of a Smivia group count BIP-8 mismatches and markers not matched, with and without a stream (03 R69). The markers
that end a lane's lock are counted at that loss, and not among these (log 75). -/
def countMarkers (p : Nat) (errs : List LaneErrs) (d : Dev) : Dev :=
  forEach (errs.filter (fun e => (d.portLanes p).contains e.lane)) (fun e d =>
    bumpBy 0x015 e.lane e.markers (bumpBy 0x014 e.lane e.bip d)) d

/-- What the applied layout makes of a lane: its port, and a code of its type, rate and FEC. -/
def Dev.laneUse (d : Dev) (l : Nat) : Option (Nat × Nat) :=
  (d.lanePort l).map (fun p =>
    (p, if d.isGroup p then 16 * d.groupLanes (p / 8) + 7
        else if d.portType p = 5 ∧ d.fec25 p then 16 + 5 else d.portType p))

/-- The staged receive and transmit test modes of a lane (03 R81). -/
def Dev.rxTest (d : Dev) (l : Nat) : Bool := (d.obj cLane l).b 29
def Dev.txTest (d : Dev) (l : Nat) : Bool := (d.obj cLane l).b 28

/-- A lane runs NRZ: it belongs to a 25GbE or 10GbE port (03 R61). -/
def Dev.nrz (d : Dev) (l : Nat) : Bool :=
  match d.lanePort l with
  | some p => !d.isGroup p && decide (5 ≤ d.portType p)
  | none => false

/-- The patterns by code, as 03 R81 lists them (log 85); on a PAM4 lane a binary pattern is Gray-coded too. -/
def patternOf (pam4 : Bool) (code : Nat) : Option Pattern :=
  match code with
  | 1 => some { order := 7, taps := [7, 6], gray := pam4 }
  | 2 => some { order := 9, taps := [9, 5], gray := pam4 }
  | 3 => some { order := 13, taps := [13, 12, 2, 1], gray := pam4 }
  | 4 => some { order := 15, taps := [15, 14], gray := pam4 }
  | 5 => some { order := 23, taps := [23, 18], gray := pam4 }
  | 6 => some { order := 31, taps := [31, 28], gray := pam4 }
  | 7 => some { order := 13, taps := [13, 12, 2, 1], gray := true }
  | 8 => some { order := 31, taps := [31, 28], gray := true }
  | _ => none

/-- A lane's generator follows its staged transmit test mode while the lane transmits (03 R81). -/
def applyPattern (l : Nat) (d : Dev) : Dev :=
  let code := if (d.lane l).phase = .off then 0 else (d.obj cLane l).n 28
  let sends := if code = 0 then 0 else code + 16 * b2n (!d.nrz l)
  if sends = (d.lane l).sends then d
  else emit (.pattern l (patternOf (!d.nrz l) code)) (onLane l (fun x => { x with sends := sends }) d)

/-- The staged adaptation mode is FIXED, and the coefficients staged for it (03 R79). -/
def Dev.eqFixed (d : Dev) (l : Nat) : Bool := decide ((d.obj cLane l).n 3 = 2)
def Dev.eqStaged (d : Dev) (l : Nat) : List Int := ((d.obj cLane l).f.drop 4).take 23

/-- The staged adaptation mode is AUTO, whose coefficients track. -/
def Dev.eqAuto (d : Dev) (l : Nat) : Bool := decide ((d.obj cLane l).n 3 = 0)

/-- The taps that a lane's modulation has, of the 23 coefficients: CTLE; 5 FFE and 10 DFE taps on NRZ, 12 and 1 on PAM4. -/
def eqHas (nrz : Bool) (i : Nat) : Bool := if nrz then decide (i ≤ 5 ∨ 13 ≤ i) else decide (i ≤ 13)

/-- The coefficients that an initial adaptation finds are not stated: free values, the CTLE's in its range of 0 to 20 dB. -/
def Dev.eqFound (d : Dev) (l : Nat) : List Int :=
  (List.range 23).map (fun i =>
    let b := (Config.freeBits 184 d.freeCtr).toNat / 256 ^ i % 256
    if !eqHas (d.nrz l) i then 0 else if i = 0 then (b % 21 : Nat) else toSigned 8 b)

/-- The coefficients of a lane now. Those of AUTO have tracked: every tap by a free amount of at most one LSB in 10 µs (03 R79).
DESIGN CHOICE: CTLE peaking is no tap and stands (log 85). -/
def Dev.eqNow (d : Dev) (l : Nat) : List Int :=
  let x := d.lane l
  match x.eqSince with
  | none => x.eq
  | some t =>
    let n : Int := ((d.now - t) / 5000 : Nat)
    x.eq.zipIdx.map (fun c =>
      if c.2 = 0 || !eqHas (d.nrz l) c.2 then c.1 else c.1 + max (-n) (min n (Config.eqDrift l c.2 d.now)))

/-- The staged mode reaches a lane's equaliser: AUTO begins to track, any other mode holds what tracking has come to, and FIXED
takes the staged coefficients. -/
def applyEq (l : Nat) (d : Dev) : Dev :=
  if d.eqAuto l then onLane l (fun x => { x with eqSince := x.eqSince.or (some d.now) }) d
  else onLane l (fun x => { x with eq := if d.eqFixed l then d.eqStaged l else d.eqNow l, eqSince := none }) d

/-! ### Links (03 R72, R80) -/

/-- Skew that a port tolerates, in ns (03 R75). -/
def Dev.maxSkew (d : Dev) (p : Nat) : Nat := if d.isGroup p then 400 else 180

/-- A port is up: every lane UP, and deskewed (03 R72). -/
def Dev.lanesUp (d : Dev) (p : Nat) : Bool :=
  let ls := d.portLanes p
  !ls.isEmpty && ls.all (fun l => decide ((d.lane l).phase = .up))

def Dev.deskewed (d : Dev) (p : Nat) : Bool := (d.portLanes p).all (fun l => decide ((d.lane l).skew ≤ d.maxSkew p))

def Dev.portUp (d : Dev) (p : Nat) : Bool := d.lanesUp p && d.deskewed p

/-- A defect of a group that counts as down for its fault mirror (04 R118). -/
def Dev.mirrorDefect (d : Dev) (p : Nat) : Bool :=
  d.isGroup p && [0, 1, 3, 5, 6].any (fun i => ((d.group (p / 8)).defects.getD i {}).active)

/-- Down in the sense of the fault mirror (03 R80). -/
def Dev.mirrorDown (d : Dev) (p : Nat) : Bool := !d.portUp p || d.mirrorDefect p

/-- The one-step launches of a port that has gone down are dropped (11 R352). -/
def dropLaunches (p : Nat) (d : Dev) : Dev :=
  forEach (d.launches (fun f => decide (f.res.egress = p))) (fun f d => dropFrame f.id (bump 0x0F1 p d)) d

/-- The stream of a Smivia group becomes available, or is lost (04 R114). -/
def smvStream (slice : Nat) (d : Dev) : Dev :=
  let up := (d.groupPort slice).any d.portUp
  let g := d.group slice
  let mark (i : Nat) (f : Defect → Defect) (g : Group) : Group := { g with defects := modAt g.defects i f }
  if up = decide (g.align ≠ .noStream) then d
  else if up then
    d.onGroup slice (fun g => mark 1 (fun x => { x with since := some d.now })
      (mark 0 (fun x => { x with gone := some d.now }) { g with align := .search, alignSince := d.now }))
  else
    d.onGroup slice (fun g => mark 0 (fun x => { x with since := some d.now })
      { g with align := .noStream, alignSince := d.now, cands := [], confirming := [], walk := none, mfIn := false, mfGood := 0,
               hsSlot := [], chanPart := [] })

/-- The links follow the lanes and the defects; the time of a change is kept for the mirror. -/
def refreshLinks (d : Dev) : Dev :=
  forEach [0, 1] smvStream <| forEach (List.range 32) (fun p d =>
    let k := d.link p
    let bad := d.mirrorDown p
    let up := d.portUp p
    let d := onLink p (fun k => { k with up := up, bad := bad, since := if bad = k.bad then k.since else d.now }) d
    if k.up && !up then dropLaunches p d else d) d

/-- Whether the egress MAC of a port can begin frames: its link is up, its transmitter sends neither Local Fault nor a
test pattern (03 R72, R80, R81). -/
def Dev.canSend (d : Dev) (p : Nat) : Bool :=
  (d.link p).up && !(d.link p).localFault && !(d.portLanes p).any d.txTest

/-- The mirror of a port: its partner, where one is staged. -/
def Dev.mirrorOf (d : Dev) (p : Nat) : Option Nat :=
  let o := d.obj cFaultMirror p
  if o.f = [] then none else some (o.n 0)

/-- A transmitter sends Local Fault while the mirror of any port makes it (03 R80). -/
def setFault (q : Nat) (d : Dev) : Dev :=
  let on := d.lanes.links.any (fun k => decide (k.mirror = some q))
  if (d.link q).localFault = on then d else emit (.localFault q on) (onLink q (fun x => { x with localFault := on }) d)

/-- FAULT_MIRROR_TIMER: a port has been down, or up, for 1 ms without a break (03 R80). -/
def faultMirrorTimer (p : Nat) (d : Dev) : Dev :=
  match d.mirrorOf p with
  | none => d
  | some q =>
    let k := d.link p
    setFault q (onLink p (fun x => { x with mirror := if k.bad then some q else none }) (advanceTo (k.since + nsTicks 1000000) d))

def execFaultMirrorTimer (port : Nat) (s : State) : Host.Outcome State Fault Refusal :=
  .next (s.onDev (faultMirrorTimer port))

/-! ### Bring-up (03 R70 to R77) -/

/-- The owner of a lane: that of its port. -/
def Dev.laneOwner (d : Dev) (l : Nat) : Option Nat := (d.lane l).use.bind (fun u => d.portOwner u.1)

def laneDown (l cause : Nat) (d : Dev) : Dev :=
  raiseFrom (portSlice l) (d.laneOwner l) (d.event 0x0202 [(16, 1, l), (17, 1, cause)]) d

def laneUpEvent (l : Nat) (fast : Bool) (d : Dev) : Dev :=
  let x := d.lane l
  raiseFrom (portSlice l) (d.laneOwner l)
    (d.event 0x0201 [(16, 1, l), (17, 1, b2n x.inverted + 2 * b2n fast), (20, 4, x.gearbox)]) d

/-- The lane enters a phase now. -/
def setPhase (l : Nat) (p : LanePhase) (d : Dev) : Dev := onLane l (fun x => { x with phase := p, since := d.now }) d

/-- Lanes in initial adaptation. -/
def Dev.adapting (d : Dev) : Nat := (d.lanes.lanes.filter (fun x => decide (x.phase = .adapt))).length

/-- Lanes that adapt without leave (03 R76). -/
def freeAdapt : Nat := 2

/-- The lane that has waited longest for leave to adapt. -/
def Dev.firstWaiting (d : Dev) : Option Nat :=
  d.power.gov.queue.findSome? (fun x => match x with
    | .lane l => if (d.lane l).phase = .waitLeave then some l else none
    | _ => none)

/-- A lane's request for leave to adapt is withdrawn. -/
def withdrawLane (l : Nat) (d : Dev) : Dev :=
  d.onGov (fun g => { g with queue := without (fun x => decide (x = .lane l)) g.queue })

/-- The lane enters ALIGN with a gearbox depth and coefficients. -/
def enterAlign (l gearboxPs : Nat) (eq : List Int) (d : Dev) : Dev :=
  onLane l (fun x => { x with phase := .align, since := d.now, gearbox := gearboxPs % 2 ^ 32, eq := eq,
                              eqSince := if d.eqAuto l then some d.now else none }) d

/-- A lane enters ADAPT, and its request for leave is withdrawn. In FIXED mode ADAPT completes at once, with the staged
coefficients; the gearbox depth measured then is a free value (03 R79; log 85). -/
def startAdapt (l : Nat) (d : Dev) : Dev :=
  let d := withdrawLane l d
  if d.eqFixed l then enterAlign l (Config.freeBits 32 d.freeCtr).toNat (d.eqStaged l) d.nextFree else setPhase l .adapt d

/-- A lane has left ADAPT: the place it frees goes to the lane that has waited longest, and on from one that completes at
once (03 R76, R77, R79). -/
def passOn : Nat → Dev → Dev
  | 0, d => d
  | n + 1, d =>
    match d.firstWaiting with
    | none => d
    | some l => if (startAdapt l d).adapting = d.adapting then passOn n (startAdapt l d) else startAdapt l d

def passPlace (d : Dev) : Dev := passOn 32 d

/-- LANE_ACQUIRED. -/
def laneAcquired (l : Nat) (d : Dev) : Dev :=
  let x := d.lane l
  if x.phase ≠ .acquire ∨ x.held.isSome then d
  else if d.adapting < freeAdapt then startAdapt l d
  else askLeave (.lane l) (setPhase l .waitLeave d)

def execLaneAcquired (lane : Nat) (s : State) : Host.Outcome State Fault Refusal := .next (s.onDev (laneAcquired lane))

/-- Leave for a lane is granted. -/
def laneGranted (l : Nat) (d : Dev) : Dev := if (d.lane l).phase = .waitLeave then startAdapt l d else d

/-- LANE_ADAPT_DONE. -/
def laneAdaptDone (l gearboxPs : Nat) (d : Dev) : Dev :=
  if (d.lane l).phase ≠ .adapt then d
  else passPlace (enterAlign l gearboxPs (d.eqFound l) d.nextFree)

def execLaneAdaptDone (lane gearboxPs : Nat) (s : State) : Host.Outcome State Fault Refusal :=
  .next (s.onDev (laneAdaptDone lane gearboxPs))

/-- EV_LANE_ORDER of a port: cause, permutation and skew. DESIGN CHOICE: nibble i of the permutation holds the position found on
the port's physical lane i; 14 R447 does not say which of the two readings (log 85). -/
def laneOrder (p cause : Nat) (d : Dev) : Dev :=
  let ls := d.portLanes p
  let perm := ((List.range ls.length).map (fun i => (d.lane (ls.getD i 0)).position % 16 * 16 ^ i)).sum
  let skew := (ls.map (fun l => (d.lane l).skew)).foldl max 0
  raiseFrom (portSlice p) (d.portOwner p)
    (d.event 0x0203 [(16, 1, p), (17, 1, cause), (20, 4, perm), (24, 4, skew)]) d

/-- A port whose last lane has come up: its skew, its order (03 R75). -/
def portCame (p : Nat) (d : Dev) : Dev :=
  let ls := d.portLanes p
  if !d.lanesUp p then d
  else if !d.deskewed p then laneOrder p 2 d
  else if (List.range ls.length).any (fun i => (d.lane (ls.getD i 0)).position ≠ i) then laneOrder p 0 d
  else d

/-- The lanes of a group take a lane: count and tag match, and no other lane, one that relocks among them, carries its number
(03 R75). -/
def Dev.groupAdmits (d : Dev) (slice l position groupTag laneCount : Nat) : Bool :=
  let ls := (d.groupPort slice).elim [] d.portLanes
  decide (laneCount = ls.length) && decide (groupTag = (d.obj cSmvGroup slice).n 0) && decide (position < 8) &&
    ls.all (fun m => m = l || decide ((d.lane m).phase ≠ .up ∧ (d.lane m).phase ≠ .relock) ||
      decide ((d.lane m).position ≠ position))

/-- LANE_ALIGNED. -/
def laneAligned (l : Nat) (inverted : Bool) (position groupTag laneCount skewNs : Nat) (d : Dev) : Dev :=
  let x := d.lane l
  match x.use with
  | none => d
  | some (p, _) =>
    if x.phase ≠ .align then d
    else if d.isGroup p && !d.groupAdmits (p / 8) l position groupTag laneCount then
      laneOrder p 1 d
    else
      let d := onLane l (fun x => { x with phase := .up, since := d.now, fails := 0, inverted := inverted,
                                           position := position, skew := skewNs }) d
      refreshLinks (portCame p (laneUpEvent l false d))

def execLaneAligned (lane : Nat) (inverted : Bool) (position groupTag laneCount skewNs : Nat) (s : State) :
    Host.Outcome State Fault Refusal := .next (s.onDev (laneAligned lane inverted position groupTag laneCount skewNs))

/-- The align and relock bound of a lane, in ns (03 R71). -/
def laneBound (use : Option (Nat × Nat)) : Nat :=
  match use with
  | none => 0
  | some (_, t) => if t % 16 = 7 then 100000 else if t = 6 ∨ t = 5 then 50000 else 1000000

/-- LANE_ALIGN_TIMEOUT: the third consecutive failure holds the lane for 100 ms. DESIGN CHOICE: the count of failures starts
again after that hold, so the next hold follows three more (03 R70 does not say; log 85). -/
def laneAlignTimeout (l : Nat) (d : Dev) : Dev :=
  let x := d.lane l
  if x.phase ≠ .align then d
  else
    let d := advanceTo (x.since + nsTicks (laneBound x.use)) d
    if x.fails + 1 < 3 then onLane l (fun x => { x with phase := .acquire, since := d.now, fails := x.fails + 1 }) d
    else
      laneDown l 7 (onLane l (fun x => { x with phase := .acquire, since := d.now, fails := 0,
                                                held := some (d.now + nsTicks 100000000) }) d)

def execLaneAlignTimeout (lane : Nat) (s : State) : Host.Outcome State Fault Refusal :=
  .next (s.onDev (laneAlignTimeout lane))

/-- LANE_RETRY_TIMER: the 100 ms are over. -/
def laneRetryTimer (l : Nat) (d : Dev) : Dev :=
  match (d.lane l).held with
  | none => d
  | some t => onLane l (fun x => { x with held := none }) (advanceTo t d)

def execLaneRetryTimer (lane : Nat) (s : State) : Host.Outcome State Fault Refusal :=
  .next (s.onDev (laneRetryTimer lane))

/-- LANE_LOCK_LOSS: causes as EV_LANE_DOWN. The three unmatched markers that end the marker lock of a Smivia lane are counted
(03 R69, R71). -/
def laneLockLoss (l cause : Nat) (d : Dev) : Dev :=
  if (d.lane l).phase ≠ .up ∨ cause < 2 ∨ 6 < cause then d
  else
    let d := if cause = 6 ∧ (d.lanePort l).any d.isGroup then bumpBy 0x015 l 3 d else d
    refreshLinks (laneDown l cause (bump 0x013 l (setPhase l .relock d)))

def execLaneLockLoss (lane cause : Nat) (s : State) : Host.Outcome State Fault Refusal :=
  .next (s.onDev (laneLockLoss lane cause))

/-- LANE_RELOCKED: the port may come up with it (03 R75). -/
def laneRelocked (l : Nat) (d : Dev) : Dev :=
  let x := d.lane l
  if x.phase ≠ .relock then d
  else
    let d := laneUpEvent l true (setPhase l .up d)
    refreshLinks (x.use.elim d (fun u => portCame u.1 d))

def execLaneRelocked (lane : Nat) (s : State) : Host.Outcome State Fault Refusal := .next (s.onDev (laneRelocked lane))

/-- LANE_RELOCK_TIMEOUT. -/
def laneRelockTimeout (l : Nat) (d : Dev) : Dev :=
  let x := d.lane l
  if x.phase ≠ .relock then d
  else setPhase l .acquire (advanceTo (x.since + nsTicks (laneBound x.use)) d)

def execLaneRelockTimeout (lane : Nat) (s : State) : Host.Outcome State Fault Refusal :=
  .next (s.onDev (laneRelockTimeout lane))

/-- The applied configuration reaches one lane (03 R70, first three rows and the last). A lane of a new use leaves OFF again, and
with it the stream of a Smivia group starts at block 0 (04 R91). The checker's lock flag, which CNT_LANE_READ shows, ends at the
next entry to TEST. DESIGN CHOICE: 03 R82 does not say what it shows after TEST (log 85). -/
def applyLane (l : Nat) (d : Dev) : Dev :=
  let x := d.lane l
  let u := d.laneUse l
  let wasAdapt := decide (x.phase = .adapt)
  let d :=
    if x.use = u then d
    else
      let d := if x.phase = .up then laneDown l 1 d else d
      let d := if l < 16 then d.onGroup (l / 8) (fun g => { g with sending := false }) else d
      onLane l (fun x => { x with phase := if u.isSome then .acquire else .off, use := u, since := d.now, fails := 0,
                                  held := none }) (withdrawLane l d)
  let y := d.lane l
  let d :=
    if y.phase = .off then d
    else if d.rxTest l ∧ y.phase ≠ .test then
      onLane l (fun x => { x with phase := .test, since := d.now, prbs := { x.prbs with locked := false } }) (withdrawLane l d)
    else if !d.rxTest l ∧ y.phase = .test then setPhase l .acquire d
    else if y.phase = .adapt then (if d.eqFixed l then startAdapt l d else d)
    else if y.phase = .align ∨ y.phase = .up ∨ y.phase = .relock then applyEq l d
    else d
  let d := applyPattern l d
  if wasAdapt ∧ (d.lane l).phase ≠ .adapt then passPlace d else d

/-- A port whose staged mirror is another, or none, makes its former partner send Local Fault no longer (03 R80). -/
def endMirror (p : Nat) (d : Dev) : Dev :=
  match (d.link p).mirror with
  | none => d
  | some q => if d.mirrorOf p = some q then d else setFault q (onLink p (fun x => { x with mirror := none }) d)

/-- The applied configuration reaches every lane, and the fault mirrors. -/
def applyLanes (d : Dev) : Dev :=
  refreshLinks (forEach (List.range 32) endMirror (forEach (List.range 32) applyLane d))

/-! ### PRBS checkers (03 R82) -/

/-- PRBS_CHECKER_LOCK: a checker is locked, or has lost lock; `errors` counts the errored bits seen in lock since its last
report, so a report of a lock that holds only counts them (03 R82; log 85). -/
def prbsCheckerLock (l : Nat) (gained inverted : Bool) (errors : Nat) (d : Dev) : Dev :=
  let x := d.lane l
  let seen (p : Prbs) : Prbs := { p with errors := p.errors.map (fun e => satAdd 48 e errors) }
  if x.phase ≠ .test then d
  else if gained then
    onLane l (fun x => { x with prbs := if x.prbs.locked then seen x.prbs
      else { x.prbs with locked := true, inverted := inverted, errors := some (x.prbs.errors.getD 0) } }) d
  else if x.prbs.locked then
    onLane l (fun x => { x with prbs := { seen x.prbs with locked := false, losses := satAdd 16 x.prbs.losses 1 } }) d
  else d

def execPrbsCheckerLock (lane : Nat) (gained inverted : Bool) (errors : Nat) (s : State) :
    Host.Outcome State Fault Refusal := .next (s.onDev (prbsCheckerLock lane gained inverted errors))

/-- What CNT_LANE_READ answers of a lane's checker. -/
def laneRecord (p : Prbs) : Bytes :=
  padTo 16 (leBytes (p.errors.getD (2 ^ 48 - 1)) 6 ++ leBytes p.losses 2 ++ leBytes (b2n p.locked + 2 * b2n p.inverted) 1)

/-- The error counter, where the lane has locked, and the lock losses of a lane return to zero. -/
def clearLane (lane : Nat) (d : Dev) : Dev :=
  onLane lane (fun x => { x with prbs := { x.prbs with errors := x.prbs.errors.map (fun _ => 0), losses := 0 } }) d

/-- CNT_LANE_READ. -/
def cntLaneReadBody (c : Cmd) (lane : Nat) (clear : Bool) (d : Dev) : Dev × Option Reply :=
  if 32 ≤ lane then (d, some (fail eRange))
  else if !((d.lane lane).use.any (fun u => quotaPort (d.quota c.dom) u.1)) then (d, some (fail ePerm))
  else (if clear then clearLane lane d else d, some { result := laneRecord (d.lane lane).prbs })

/-! ### Management lanes (03 R83, R85) -/

/-- MG_SYNC_LOSS: a frame being received is dropped and counted. -/
def mgSyncLoss (port : Nat) (receiving : Bool) (d : Dev) : Dev :=
  if d.lanes.mgSync.getD port false then
    let d := d.onLanes (fun s => { s with mgSync := s.mgSync.set port false })
    if receiving then bump 0x129 port d else d
  else d

def execMgSyncLoss (port : Nat) (receiving : Bool) (s : State) : Host.Outcome State Fault Refusal :=
  .next (s.onDev (mgSyncLoss port receiving))

/-- MG_SYNC_ACQUIRED. -/
def mgSyncAcquired (port : Nat) (d : Dev) : Dev := d.onLanes (fun s => { s with mgSync := s.mgSync.set port true })

/-! ### Stamp corrections (11 R346) -/

/-- The fixed transmit and receive latencies of a use, in ps. -/
def fixedLatency (t : Nat) : Nat × Nat :=
  if t % 16 = 7 then (27900, 95100)
  else
    match t with
    | 6 => (31200, 44600)
    | 5 => (19800, 30100)
    | 21 => (22400, 88700)
    | 4 => (41000, 142300)
    | 3 => (28600, 97400)
    | _ => (30200, 104800)

/-- The correction of a stamp to or from the MDI of a lane, or of a port by its first lane, in ps, without the board delay. -/
def Dev.mdiCorr (d : Dev) (l : Nat) (tx : Bool) : Nat :=
  let x := d.lane l
  let t := (x.use.map Prod.snd).getD 0
  (if tx then (fixedLatency t).1 else (fixedLatency t).2) + x.gearbox

/-- The correction of a stamp at a lane of a port, in ps: added on transmit, subtracted on receive. -/
def Dev.laneCorr (d : Dev) (p l : Nat) (tx : Bool) : Int :=
  let o := d.obj cStampPort p
  (d.mdiCorr l tx : Nat) + (if tx then o.z 5 else o.z 4)

/-- The lane of a port that carries the block with an SFD, counted from its first; the first where it has no such lane. -/
def Dev.sfdLane (d : Dev) (p k : Nat) : Nat := (d.portLanes p).getD k p

/-- The lane that carries the SFD of the frame that a port sends next is not stated: a free value (11 R346). -/
def Dev.txLane (d : Dev) (p : Nat) : Nat := d.sfdLane p ((Config.freeBits 8 d.freeCtr).toNat % max 1 (d.portLanes p).length)

/-- The correction of a receive stamp at a lane of a port, its deskew offset among it (11 R346). DEDUCED: the offset is what the
lane lags behind the port's first, so it is subtracted as the other terms are (log 86). -/
def Dev.rxCorr (d : Dev) (p l : Nat) : Int := d.laneCorr p l false + (d.lane l).skew * 1000

/-- A time-base reading moved by ps, in units of 2^-32 ns. -/
def shiftPs (frac : Nat) (ps : Int) : Nat := ((frac : Int) + ps * 2 ^ 32 / 1000).toNat

/-- The reading of a time base `phase` thirty-seconds of an edge period after the last edge (01 R32, 11 R346). -/
def Dev.tbPhase (d : Dev) (tb phase : Nat) : Nat :=
  let b := d.time.tbs.getD tb {}
  b.frac + b.inc * (phase % 32) / 32

/-- The arrival stamp of a port on a time base, taken at one of its lanes. -/
def Dev.arrival (d : Dev) (p l tb phase : Nat) : Nat := shiftPs (d.tbPhase tb phase) (-(d.rxCorr p l))

end Sys2Proof.Machine
end

