-- ==== Sys2Proof/Machine/Time.lean ====
section
/-! DEFINITION. The time bases and their steering (11): prediction over pending changes, `TB_INC`, `TB_STEP`, `TB_READ`,
the firmware servo, the time pins and the backup clock. -/

namespace Sys2Proof.Machine

/-- Instants finer than an edge are held in units of 2.5 ps: 400 to the ns, 800 to the TCLK edge. -/
def instantPerNs : Nat := 400
def instantPerTick : Nat := 800

/-- Instants of one byte at a rate of `mbps`. -/
def byteInstants (mbps : Nat) : Nat := 8000 * instantPerNs / max 1 mbps

def Dev.tb (d : Dev) (i : Nat) : TimeBase := d.time.tbs.getD i {}
def onTb (i : Nat) (f : TimeBase → TimeBase) (d : Dev) : Dev :=
  d.onTime (fun t => { t with tbs := modAt t.tbs i f })

/-- Units of 2^-32 ns in a second. -/
def fracPerSec : Nat := 2 ^ 32 * 10 ^ 9

/-- A reading of a time base as moved by a signed amount; the seconds count is 48 bits wide (11 R335). -/
def moveFrac (f : Nat) (z : Int) : Nat := (((f : Int) + z) % (2 ^ 48 * fracPerSec : Nat)).toNat

/-- The reading at a tick not before the present, with every pending change that applies by then (11 R338, R352). -/
def Dev.tbAt (d : Dev) (i tick : Nat) : Nat :=
  let b := d.tb i
  let r := b.pending.foldl (fun (st : Nat × Nat × Nat) p =>
    if p.edge ≤ tick then
      (moveFrac (st.1 + st.2.1 * (p.edge - st.2.2)) p.offset, p.inc.getD st.2.1, max p.edge st.2.2)
    else st) (b.frac, b.inc, d.now)
  r.1 + r.2.1 * (tick - r.2.2)

/-- The reading at an instant not before the present: from the tick before it on with the increment that applies there. -/
def Dev.tbAtInstant (d : Dev) (i l : Nat) : Nat :=
  let t := l / instantPerTick
  d.tbAt i t + (d.tbAt i (t + 1) - d.tbAt i t) * (l % instantPerTick) / instantPerTick

/-- A reading in the 16-byte format of 14: seconds, zero, nanoseconds, fraction. -/
def readingBytes (frac : Nat) : Bytes :=
  leBytes (frac / fracPerSec) 6 ++ [0, 0] ++ leBytes (frac / 2 ^ 32 % 10 ^ 9) 4 ++ leBytes (frac % 2 ^ 32) 4

/-! ### The servo's share of ownership (11 R337, R339) -/

/-- The staged source of a time base's servo: 0 none, 1 to 4 a pin, 5 to 12 a time base. -/
def Dev.servoSource (d : Dev) (i : Nat) : Nat := (d.obj cTimeGlobal 0).n (1 + 3 * i)
def Dev.servoOffset (d : Dev) (i : Nat) : Int := (d.obj cTimeGlobal 0).z (2 + 3 * i)
def Dev.servoLimit (d : Dev) (i : Nat) : Int := (d.obj cTimeGlobal 0).z (3 + 3 * i)

/-- The firmware servo is the write owner of a time base. -/
def Dev.servoOwns (d : Dev) (i : Nat) : Bool := decide (d.servoSource i ≠ 0)

/-! ### Application edges (11 R338) -/

/-- The first edge after the present at which a time base has no one-step launch outstanding. -/
def Dev.applyEdge (d : Dev) (i : Nat) : Nat :=
  ((d.launches (fun f => decide (f.launchTb = i))).map
    (fun f => ceilDiv f.launch instantPerTick)).foldl max (d.now + 1)

/-- A change is put down for its application edge, after those before it. -/
def schedule (i : Nat) (cmd : Option Cmd) (step : Bool) (offset : Int) (inc : Option Nat) (force : Bool) (iova : Nat)
    (d : Dev) : Dev :=
  let e := ((d.tb i).pending.map TbPending.edge).foldl max (d.applyEdge i)
  onTb i (fun b => { b with pending := b.pending ++
    [{ cmd := cmd, edge := e, step := step, offset := offset, inc := inc, force := force, iova := iova }] }) d

/-- An increment in its permitted range (11 R336), in units of 2^-32 ns. -/
def incOk (whole frac : Nat) : Bool :=
  let n := whole * 2 ^ 32 + frac
  decide (1999000000 * 2 ^ 32 ≤ n * 10 ^ 9) && decide (n * 10 ^ 9 ≤ 2001000000 * 2 ^ 32)

/-- TB_INC. -/
def tbIncBody (c : Cmd) (tb whole fraction : Nat) (d : Dev) : Dev × Option Reply :=
  if 8 ≤ tb ∨ !incOk whole fraction then (d, some (fail eRange))
  else if !quotaTb (d.quota c.dom) tb then (d, some (fail ePerm))
  else if d.servoOwns tb then (d, some (fail eState))
  else (schedule tb (some c) false 0 (some (whole * 2 ^ 32 + fraction)) false 0 d, none)

/-- The signed offset of a TB_STEP, in units of 2^-32 ns. -/
def stepOffset (o : StepOps) : Int :=
  let n : Nat := (o.seconds * 10 ^ 9 + o.nanos) * 2 ^ 32 + o.fraction
  if o.subtract then -(n : Int) else n

/-- A backward step of the fret time base that R40 refuses without FORCE: more than 64 fret periods. -/
def Dev.stepTooFar (d : Dev) (tb : Nat) (offset : Int) (force : Bool) : Bool :=
  tb = d.fretTb && !force && decide (offset * (d.fretRate : Int) < -(64 * fracPerSec : Int))

/-- TB_STEP. -/
def tbStepBody (c : Cmd) (o : StepOps) (d : Dev) : Dev × Option Reply :=
  if 8 ≤ o.tb ∨ 10 ^ 9 ≤ o.nanos ∨ (o.newInc ∧ !incOk o.incWhole o.incFrac) then (d, some (fail eRange))
  else if !quotaTb (d.quota c.dom) o.tb then (d, some (fail ePerm))
  else if d.servoOwns o.tb then (d, some (fail eState))
  else if (d.tbAt o.tb (d.applyEdge o.tb) : Int) + (stepOffset o) < 0 ∨ d.stepTooFar o.tb (stepOffset o) o.force then
    (d, some (fail eRange))
  else
    (schedule o.tb (some c) true (stepOffset o) (if o.newInc then some (o.incWhole * 2 ^ 32 + o.incFrac) else none) o.force
      o.iova d, none)

/-- Whether TB_READ gives a domain the reading of a time base: one named, or every one under 255. -/
def Dev.readsTb (d : Dev) (dom tb i : Nat) : Bool := quotaTbRead (d.quota dom) i && (tb = 255 || tb = i)

/-- The TB_READ record: every reading is of one edge. -/
def tbRecord (d : Dev) (dom tb : Nat) : Bytes :=
  let r : Bytes := ((List.range 8).map (fun i => if d.readsTb dom tb i then readingBytes (d.tb i).frac else zeros 16)).flatten
  let g := (List.range 8).filter (d.readsTb dom tb)
  r ++ leBytes d.now 8 ++ leBytes d.fret.index 8 ++ leBytes ((g.map (fun i => 2 ^ i)).sum) 1 ++ zeros 15

/-- TB_READ. -/
def tbReadBody (c : Cmd) (tb iova : Nat) (d : Dev) : Dev × Option Reply :=
  if 8 ≤ tb ∧ tb ≠ 255 then (d, some (fail eRange))
  else if !(List.range 8).any (d.readsTb c.dom tb) then (d, some (fail ePerm))
  else (d, some { outs := [(iova, tbRecord d c.dom tb)] })

/-! ### The firmware servo (11 R339) -/

/-- The state of a servo changes: EV_TB_SERVO. -/
def servoState (i st : Nat) (d : Dev) : Dev :=
  let s := (d.tb i).servo
  if s.state = st then d
  else
    let d := onTb i (fun b => { b with servo := { b.servo with state := st },
                                       fromBackup := if st = 2 then false else b.fromBackup }) d
    let sat : Int := max (-(2 ^ 31)) (min (2 ^ 31 - 1) s.theta)
    raiseTo (d.ownerBy (fun q => quotaTb q i))
      (d.event 0x0603 [(16, 1, i), (17, 1, st), (20, 4, ofSigned 32 sat)]) d

/-- The least and the greatest permitted increment (11 R336). -/
def incMin : Nat := ceilDiv (1999000000 * 2 ^ 32) (10 ^ 9)
def incMax : Nat := 2001000000 * 2 ^ 32 / 10 ^ 9

/-- The increment at ownership corrected by ppb of 2 ns. DESIGN CHOICE: it is held to the permitted range, which 11 R336 gives and
R339 does not mention (log 84). -/
def servoInc (nominal : Nat) (corr : Int) : Nat :=
  max incMin (min incMax ((nominal : Int) + 2 * 2 ^ 32 * corr / 10 ^ 9).toNat)

def clampPpb (z : Int) : Int := max (-100000) (min 100000 z)

/-- The offset of a time base from its source, where that is another time base: both read `phase` thirty-seconds of a TCLK period
after the present edge. -/
def Dev.tbTheta (d : Dev) (i phase : Nat) : Int :=
  (d.tbPhase i phase / 2 ^ 32 : Nat) - (d.tbPhase (d.servoSource i - 5) phase / 2 ^ 32 : Nat) - d.servoOffset i

/-- The offset of a reading from a pulse per second, in ns. DEDUCED: the pulse marks the whole second nearest to it (log 84). -/
def ppsTheta (r : Nat) : Int :=
  ((r : Int) - ((r + fracPerSec / 2) / fracPerSec * fracPerSec : Nat)) / 2 ^ 32

/-- The offset that a source event gives: of a pin's pulse from the reading captured, where there is one; of another time base as
it is read. -/
def Dev.servoTheta (d : Dev) (i phase : Nat) : Option Int :=
  if 5 ≤ d.servoSource i then some (d.tbTheta i phase) else (d.tb i).servo.captured.map ppsTheta

/-- The servo acts on an offset (11 R339). DESIGN CHOICE: the servo's own step of the fret time base is a forced one where
`TB_STEP` would be refused without FORCE, and else an unforced one (log 84). -/
def servoAct (i : Nat) (th : Int) (d : Dev) : Dev :=
    let s := (d.tb i).servo
    let d := onTb i (fun b => { b with servo := { b.servo with theta := th, missed := 0, captured := none } }) d
    if s.state = 0 ∨ d.servoLimit i ≤ th.natAbs then
      let d := schedule i none true (-th * 2 ^ 32) none (d.stepTooFar i (-th * 2 ^ 32) false) 0 d
      servoState i 1 (onTb i (fun b => { b with servo := { b.servo with integ := 0, good := 0 } }) d)
    else
      let integ := s.integ + th
      let corr := clampPpb (-(th.tdiv 2 + integ.tdiv 16))
      let good := if th.natAbs < 100 then s.good + 1 else 0
      let d := onTb i (fun b => { b with servo := { b.servo with integ := integ, good := good } }) d
      let d := schedule i none false 0 (some (servoInc s.nominal corr)) false 0 d
      if 4 ≤ good then servoState i 2 d else if s.state = 3 then servoState i 1 d else d

/-- SERVO_EVENT. -/
def servoEvent (i phase : Nat) (d : Dev) : Dev :=
  if !d.servoOwns i ∨ d.halted then d
  else
    match d.servoTheta i phase with
    | some th => servoAct i th d
    | none => d

def execServoEvent (tb phase : Nat) (s : State) : Host.Outcome State Fault Refusal :=
  .next (s.onDev (servoEvent tb phase))

/-- SERVO_HOLDOVER: two expected events have not arrived. -/
def servoHoldover (i : Nat) (d : Dev) : Dev :=
  if !d.servoOwns i ∨ d.halted ∨ (d.tb i).servo.state = 0 then d
  else servoState i 3 (onTb i (fun b => { b with servo := { b.servo with missed := 2, good := 0 } }) d)

def execServoHoldover (tb : Nat) (s : State) : Host.Outcome State Fault Refusal := .next (s.onDev (servoHoldover tb))

/-- A commit names a new source: the servo is FREE again, and takes ownership with the increment's present offset (11 R339). -/
def servoTake (before : Nat → Nat) (d : Dev) : Dev :=
  forEach (List.range 8) (fun i d =>
    if d.servoSource i = before i then d
    else onTb i (fun b => { b with servo := { nominal := b.inc } }) (servoState i 0 d)) d

/-! ### Time pins (11 R342 to R344) -/

def Dev.pinObj (d : Dev) (p : Nat) : Obj := d.obj cTimePin p
def onPin (p : Nat) (f : TimePin → TimePin) (d : Dev) : Dev := d.onTime (fun t => { t with pins := modAt t.pins p f })

/-- Whether a servo takes its captures from a pin. -/
def Dev.servoPin (d : Dev) (p : Nat) : Bool := (List.range 8).any (fun i => d.servoSource i = p + 1)

/-- The reading of a time base at an edge of a pin, less the board delay. -/
def Dev.pinReading (d : Dev) (p i phase : Nat) : Nat := shiftPs (d.tbPhase i phase) (-((d.pinObj p).z 7))

/-- The servos that a pin steers take the readings of their time bases at its edge. -/
def captureFor (p phase : Nat) (d : Dev) : Dev :=
  forEach ((List.range 8).filter (fun i => decide (d.servoSource i = p + 1)))
    (fun i d => onTb i (fun b => { b with servo := { b.servo with captured := some (d.pinReading p i phase) } }) d) d

/-- TIME_PIN_EDGE: a pulse narrower than 10 ns is ignored. Moments of captures are kept in 1/16 ns. -/
def timePinEdge (p : Nat) (rising : Bool) (x : PinPulse) (d : Dev) : Dev :=
  let o := d.pinObj p
  let m := d.now * 32 + x.phase % 32
  if o.n 0 ≠ 0 ∨ (o.n 2 = 0) ≠ rising ∨ x.width < 10000 then d
  else if ((d.time.pins.getD p {}).lastCapture).any (fun t => m < t + 16000) then bump 0x0F2 p d
  else
    let d := onPin p (fun x => { x with lastCapture := some m }) d
    if d.servoPin p then captureFor p x.phase d
    else
      let r := d.pinReading p (o.n 1) x.phase
      raiseTo (d.ownerBy (fun q => quotaPin q p))
        (d.event 0x0602 [(16, 1, p), (17, 1, o.n 1), (18, 6, r / fracPerSec), (24, 4, r / 2 ^ 32 % 10 ^ 9),
          (28, 4, r % 2 ^ 32)]) d

def execTimePinEdge (pin : Nat) (rising : Bool) (pulse : PinPulse) (s : State) : Host.Outcome State Fault Refusal :=
  .next (s.onDev (timePinEdge pin rising pulse))

/-- A pin is driven to a level, some thirty-seconds of a TCLK period after the present edge, of 62.5 ps each. -/
def drivePin (p : Nat) (level : Bool) (phase : Int) (d : Dev) : Dev :=
  emit (.pin p level phase) (onPin p (fun x => { x with
    level := level, next := if level then ((d.now * 32 : Nat) + phase).toNat else x.next }) d)

/-- The moment at which a time base reaches a reading: the last edge before it, and thirty-seconds of a period after that. -/
def Dev.momentOf (d : Dev) (i target : Nat) : Nat × Nat :=
  let b := d.tb i
  let n := target - b.frac
  (d.now + n / max 1 b.inc, n % max 1 b.inc * 32 / max 1 b.inc)

/-- The first edge at which a time base has reached a reading. -/
def Dev.tickOf (d : Dev) (i target : Nat) : Nat :=
  let b := d.tb i
  d.now + ceilDiv (target - b.frac) (max 1 b.inc)

/-- The instant whose leading edge an output pin drives next: a whole second, or Start + N × Period. The edge falls when the
time base, less the board delay, reaches it. -/
def Dev.nextEdge (d : Dev) (p : Nat) : Nat :=
  let o := d.pinObj p
  let ns := shiftPs (d.tb (o.n 1)).frac (-(o.z 7)) / 2 ^ 32
  if o.n 0 = 1 then (ns / 10 ^ 9 + 1) * 10 ^ 9
  else
    let start := o.n 3 * 10 ^ 9 + o.n 4
    if ns < start then start else start + ((ns - start) / max 1 (o.n 5) + 1) * o.n 5

/-- TIME_PIN_OUTPUT: the next edge of an output pin, leading or trailing. -/
def timePinOutput (p : Nat) (d : Dev) : Dev :=
  let o := d.pinObj p
  let x := d.time.pins.getD p {}
  if x.level then
    let ends := x.next + 16 * (if o.n 0 = 3 then 100 else o.n 6)
    drivePin p false (ends % 32 : Nat) (advanceTo (ends / 32) d)
  else if o.n 0 = 1 ∨ o.n 0 = 2 then
    let m := d.momentOf (o.n 1) (shiftPs (d.nextEdge p * 2 ^ 32) (o.z 7))
    drivePin p true (m.2 : Nat) (advanceTo m.1 d)
  else d

def execTimePinOutput (pin : Nat) (s : State) : Host.Outcome State Fault Refusal := .next (s.onDev (timePinOutput pin))

/-- FRET_OUT pins drive their pulse at a boundary, with their board delay added (11 R344). -/
def fretPins (d : Dev) : Dev :=
  forEach (List.range 4) (fun p d =>
    if (d.pinObj p).n 0 = 3 then drivePin p true ((d.pinObj p).z 7 * 16 / 1000) d else d) d

/-! ### The backup clock (11 R340, R341) -/

/-- The rank-4 duty: the backup clock takes the backup time base's reading, truncated to a tick. -/
def loadBackup (d : Dev) : Dev :=
  let b := (d.obj cTimeGlobal 0).n 0
  if 8 ≤ b then d
  else d.onTime (fun t => { t with bkTicks := (d.tb b).frac * 32768 / fracPerSec, bkAt := t.tclk })

/-- At start backup time base `b` takes the backup clock, where its record is valid (11 R341). -/
def loadFromBackup (b : Nat) (d : Dev) : Dev :=
  if 8 ≤ b ∨ !d.vault.bkValid then d
  else onTb b (fun t => { t with frac := d.bkClock * fracPerSec / 32768 % (2 ^ 48 * fracPerSec), fromBackup := true }) d

end Sys2Proof.Machine
end

