-- ==== Sys2Proof/Machine/Macsec.lean ====
section
/-! DEFINITION. Inline MACsec (07): secure channels and associations, packet numbers, the SecTAG, sealing and opening
of frames, key misses and their fetches, and the SA commands. -/

namespace Sys2Proof.Machine

/-! ### Contexts (07 R197 to R200) -/

def smCLOSED := 0
def smSECURE := 1
def smCLEAR := 2

/-- SEC_MODE of a line port under an epoch. -/
def Dev.secMode (d : Dev) (ep : Bool) (p : Nat) : Nat :=
  if d.failSafe (.secMode p) then smCLOSED else (d.objAt ep cMacsecPort p).n 0

/-- Whether a suite is an XPN suite, and whether it takes a 256-bit key. -/
def suiteXpn (s : Nat) : Bool := decide (2 ≤ s)
def suiteLong (s : Nat) : Bool := decide (s % 2 = 1)

/-- PN_MAX (07 R211). -/
def pnMax (s : Nat) : Nat := if suiteXpn s then 2 ^ 64 - 1 else 2 ^ 32 - 1

/-- The SA of a channel and association number. -/
def saOf (t : Tbl Obj) (dir sc an : Nat) : Option (Nat × Obj) :=
  t.find? (fun e => e.2.b 0 && e.2.n 1 = dir && e.2.n 2 = sc && e.2.n 3 = an)

/-- The receive SC of a SecY and SCI (07 R202). -/
def rxScOf (t : Tbl Obj) (secy sci : Nat) : Option (Nat × Obj) :=
  t.find? (fun e => e.2.b 0 && e.2.n 1 = secy && e.2.n 2 = sci)

/-- The SecY of an SA, through its channel. -/
def Dev.saSecy (d : Dev) (ep : Bool) (o : Obj) : Option (Nat × Obj) :=
  let sc := if o.n 1 = 0 then d.objAt ep cTxSc (o.n 2) else d.objAt ep cRxSc (o.n 2)
  let y := d.objAt ep cSecy (sc.n 1)
  if o.b 0 && sc.b 0 && y.b 0 then some (sc.n 1, y) else none

def Dev.sa (d : Dev) (i : Nat) : SaLive := d.msec.sas.get {} i
def setSa (i : Nat) (s : SaLive) (d : Dev) : Dev := d.onMsec (fun m => { m with sas := Tbl.set {} i s m.sas })

/-- A PN field is written with its complement. -/
def SaLive.withNext (s : SaLive) (n : Nat) : SaLive := { s with next := BitVec.ofNat 64 n, nextN := ~~~(BitVec.ofNat 64 n) }
def SaLive.withLowest (s : SaLive) (n : Nat) : SaLive :=
  { s with lowest := BitVec.ofNat 64 n, lowestN := ~~~(BitVec.ofNat 64 n) }
def SaLive.withThr (s : SaLive) (n : Nat) : SaLive := { s with thr := BitVec.ofNat 64 n, thrN := ~~~(BitVec.ofNat 64 n) }

/-- The complement checks of the transmit and of the receive side (07 R214). -/
def SaLive.txOk (s : SaLive) : Bool := decide (s.nextN = ~~~s.next) && decide (s.thrN = ~~~s.thr)
def SaLive.rxOk (s : SaLive) : Bool := decide (s.nextN = ~~~s.next) && decide (s.lowestN = ~~~s.lowest)

/-- The counters' index of a receive SC (18 R519). -/
def rxScInst (sc : Nat) : Nat := 16384 + sc

/-- The PN integrity alarm. -/
def pnAlarm : Nat := 11

/-! ### Latency-locked pairs (07 R239 to R243) -/

/-- The pair of a port: line port, host port, D in ns. Pairs are an egress-side table (02 R49). -/
def Dev.llPair (d : Dev) (p : Nat) : Option (Nat × Nat × Nat) :=
  ((d.table cLlPair).find? (fun e => e.2.f ≠ [] && (e.1 = p || e.2.n 0 = p))).map
    (fun e => (e.1, e.2.n 0, e.2.n 1))

/-- Whether a frame runs on a pair: it entered one port of it and leaves by the other. -/
def Dev.onPair (d : Dev) (f : Frame) : Option (Nat × Nat × Nat) :=
  match d.llPair f.res.egress with
  | none => none
  | some (l, h, t) => if f.port = (if f.res.egress = l then h else l) && !f.recirc then some (l, h, t) else none

/-! ### PTP in frames (11 R349 to R354) -/

/-- Offset of the PTP header, where the parse found one. -/
def Frame.ptp (f : Frame) : Option Nat := (f.parse.stack.find? (fun h => h.cls = 10)).map Header.off

/-- Offset of the UDP header before it. -/
def Frame.udp (f : Frame) : Option Nat := (f.parse.stack.find? (fun h => h.cls = 8)).map Header.off

/-- The message type of a PTP header. -/
def ptpType (b : Bytes) (o : Nat) : Nat := leAt b o 1 % 16

/-- One's complement sum of 16 bits. -/
def add1c (a b : Nat) : Nat := let s := a + b; if s < 65536 then s else s - 65535

/-- The checksum that RFC 1624 gives when 16-bit words change. -/
def fixSum (hc : Nat) (before after_ : List Nat) : Nat :=
  let c := after_.foldl add1c (before.foldl (fun a m => add1c a (65535 - m)) (65535 - hc))
  if 65535 - c = 0 then 65535 else 65535 - c

/-- 16-bit words of a run of bytes, network order. -/
def words16 (b : Bytes) : List Nat := (chunks 2 b).map (fun c => beNat (padTo 2 c))

/-- Bytes of a frame written at an even distance from its UDP header, and the UDP checksum updated (11 R353). `ip6`
tells that a checksum of zero is no exception. -/
def patchUdp (udp : Option Nat) (ip6 : Bool) (b : Bytes) (off : Nat) (new : Bytes) : Bytes :=
  let b' := putBytes b off new
  match udp with
  | none => b'
  | some u =>
    let hc := beAt b (u + 6) 2
    if hc = 0 ∧ !ip6 then b'
    else putBytes b' (u + 6) (beBytes (fixSum hc (words16 (bytesAt b off new.length)) (words16 new)) 2)

/-- Whether the UDP header of a frame follows IPv6. -/
def Frame.overIp6 (f : Frame) : Bool := f.parse.stack.any (fun h => h.cls = 7)

/-- A signed 64-bit correctionField moved by `z`. -/
def addCorrection (udp : Option Nat) (ip6 : Bool) (b : Bytes) (o : Nat) (z : Int) : Bytes :=
  patchUdp udp ip6 b (o + 8) (beBytes (ofSigned 64 (toSigned 64 (beAt b (o + 8) 8) + z)) 8)

/-- The transparent clock: D × 65,536 on the four event messages (11 R354). `cut` bytes before the PTP header have been
taken out of `b`. -/
def correctPair (f : Frame) (dns cut : Nat) (b : Bytes) : Bytes :=
  match f.ptp with
  | none => b
  | some o =>
    if ptpType f.bytes o ≤ 3 then addCorrection (f.udp.map (· - cut)) f.overIp6 b (o - cut) (dns * 65536 : Nat) else b

/-- A Sync with twoStepFlag clear. -/
def Frame.oneStepSync (f : Frame) : Option Nat :=
  f.ptp.filter (fun o => ptpType f.bytes o = 0 && !(f.bytes.getD (o + 6) 0).getLsbD 1)

/-- The launch of a one-step Sync (11 R352): the launch time, the time base, and the frame's bytes with the inserted time. -/
def launchOf (d : Dev) (f : Frame) : Option (Nat × Nat × Bytes) :=
  let p := f.res.egress
  let o := d.obj cStampPort p
  if !o.b 2 then none
  else
    f.oneStepSync.map (fun h =>
      let bt := byteInstants (d.portRate p)
      let last := ((d.launches (fun g => decide (g.id ≠ f.id) && decide (g.res.egress = p))).map
        (fun g => g.launch + g.sendLen * bt)).foldl max ((d.msec.llEnd.get 0 p))
      let l := max (d.now * instantPerTick + o.n 3 * instantPerNs) (last + 20 * bt)
      let t := d.tbAtInstant (o.n 0) l
      let b := patchUdp f.udp f.overIp6 f.bytes (h + 34)
        (beBytes (t / fracPerSec) 6 ++ beBytes (t / 2 ^ 32 % 10 ^ 9) 4)
      (l, o.n 0, addCorrection f.udp f.overIp6 b h (t % 2 ^ 32 / 65536 : Nat)))

/-- Transmit step 8 of a frame: its bytes and launch (07 R243, 11 R352). -/
def txStep8 (f : Frame) (d : Dev) : Frame :=
  match d.onPair f with
  | some (_, _, t) => { f with bytes := correctPair f t 0 f.bytes }
  | none =>
    match launchOf d f with
    | some (l, tb, b) => { f with bytes := b, launch := l, launchTb := tb }
    | none => f

/-! ### Transmit: the SA, the PN and the SecTAG (07 R204 to R206, R211 to R215) -/

/-- Drop of a frame before the cipher stage under a counter. -/
def dropAs (code inst : Nat) (f : Frame) (d : Dev) : Dev := dropFrame f.id (bump code inst d)

/-- A frame reads SA policy words that are not the inverse of their complements: it is dropped, the alarm is raised, and the
course rewrites the words (15 R466). -/
def policyBad (i : Nat) (f : Frame) (d : Dev) : Dev := raiseAlarm 9 0 (queueWrite (.rewrite cSa i) (dropFrame f.id d))

/-- The SA that a transmit frame takes at the key-cache lookup, or the frame dropped (07 R204). -/
def txSelect (f : Frame) (d : Dev) : Option (Nat × Obj) × Dev :=
  let sc := f.res.sc
  match d.msec.encAn.find sc with
  | none => (none, dropAs 0x0A5 sc f d)
  | some an =>
    match saOf (d.tableAt f.epoch cSa) 0 sc an with
    | none => (none, dropAs 0x0A5 sc f d)
    | some (i, o) =>
      if !d.policyOk f.epoch i o then (none, policyBad i f d)
      else if (d.sa i).state = 3 then (none, dropAs 0x0A6 i f d)
      else if (d.sa i).state ≠ 2 then (none, dropAs 0x0A5 sc f d)
      else (some (i, o), d)

/-- A PN is allocated (07 R211 to R215, R221): none where the frame is dropped instead. -/
def allocPn (f : Frame) (i suite : Nat) (d : Dev) : Option Nat × Dev :=
  let s := d.sa i
  if !s.txOk then
    (none, raiseAlarm pnAlarm 0 (setSa i { s with state := 3 } (dropAs 0x0A6 i f d)))
  else if s.state = 3 then (none, dropAs 0x0A6 i f d)
  else if s.state ≠ 2 then (none, dropAs 0x0A5 f.res.sc f d)
  else
    let pn := s.next.toNat
    let next := pn + 1
    let cross := !s.raised && decide (s.thr.toNat ≤ next)
    let s' := { s.withNext next with raised := s.raised || cross, state := if pn = pnMax suite then 3 else 2 }
    let own := d.saOwner i
    let d := setSa i s' d
    let d := if cross then raiseFrom f.slice own (d.event 0x0501 [(16, 4, i), (24, 8, next)]) d else d
    let d := if pn = pnMax suite then raiseFrom f.slice own (d.event 0x0502 [(16, 4, i)]) d else d
    (some pn, d)

/-- Tags in clear that a frame carries from offset 12, up to `n` (07 R196). -/
def clearTags (b : Bytes) : Nat → Nat → Nat
  | 0, k => k
  | n + 1, k =>
    let t := beAt b (12 + 4 * k) 2
    if t = 0x8100 ∨ t = 0x88A8 then clearTags b n (k + 1) else k

/-- The SecTAG (07 R205). -/
def secTag (y : Obj) (an sdLen pn sci : Nat) : Bytes :=
  let tci := b2n (y.b 5) * 64 + b2n (y.b 4) * 32 + b2n (y.b 6) * 16 + b2n (y.b 3) * 12 + an
  [0x88, 0xE5] ++ leBytes tci 1 ++ leBytes (if sdLen < 48 then sdLen else 0) 1 ++ beBytes pn 4 ++
    (if y.b 4 then beBytes sci 8 else [])

/-- The GCM IV (07 R206). -/
def gcmIv (suite sci ssci salt pn : Nat) : Bytes :=
  if suiteXpn suite then beBytes (Nat.xor (ssci * 2 ^ 64 + pn) salt) 12 else beBytes sci 8 ++ beBytes pn 4

/-- A frame protected: its bytes, and whether its data is encrypted (07 R196, R205, R206). -/
def sealFrame (key : Bytes) (y sc sa : Obj) (pn : Nat) (b : Bytes) : Bytes :=
  let off := 12 + 4 * clearTags b (y.n 10) 0
  let data := b.drop off
  let tag := secTag y (sa.n 3) data.length pn (sc.n 2)
  let k := if y.b 3 then min (sc.n 3) data.length else data.length
  let iv := gcmIv (y.n 2) (sc.n 2) (sa.n 5) (sa.n 6) pn
  let r := gcmSeal key iv (b.take 12 ++ tag ++ data.take k) (data.drop k)
  b.take off ++ tag ++ data.take k ++ r.1 ++ r.2

/-! ### Receive: the SecTAG and the checks (07 R207 to R210, R216, R217) -/

/-- A received SecTAG: offset of its EtherType, its length, TCI, SL, PN field, SCI field, length of the secure data. -/
structure RxTag where
  off : Nat
  len : Nat
  tci : Nat
  sl : Nat
  pn : Nat
  sci : Nat
  data : Int
deriving DecidableEq, Repr

def rxTag (f : Frame) : Option RxTag :=
  (f.parse.stack.find? Header.sectag).map (fun h =>
    let tci := leAt f.bytes h.off 1
    let len := if tci.testBit 5 then 16 else 8
    { off := h.off - 2, len := len, tci := tci, sl := leAt f.bytes (h.off + 1) 1, pn := beAt f.bytes (h.off + 2) 4,
      sci := beAt f.bytes (h.off + 6) 8, data := (f.bytes.length : Int) - ((h.off - 2 + len + 16 : Nat) : Int) })

/-- The checks of R208 that need no length. -/
def RxTag.headBad (t : RxTag) (tags : Nat) : Bool :=
  t.tci.testBit 7 || (t.tci.testBit 5 && (t.tci.testBit 6 || t.tci.testBit 4)) || (t.tci.testBit 3 != t.tci.testBit 2) ||
    decide (48 ≤ t.sl) || decide (t.pn = 0) || decide (tags * 4 + 12 < t.off)

/-- The checks of R208 that the frame's length decides. -/
def RxTag.lenBad (t : RxTag) : Bool :=
  decide (t.data < 0) || (t.sl ≠ 0 && decide (t.data ≠ t.sl)) || (t.sl = 0 && decide (t.data < 48))

/-- The received SCI (07 R209); 0 for none. -/
def rxSci (t : RxTag) (f : Frame) (y : Obj) : Nat :=
  if t.tci.testBit 5 then t.sci
  else if t.tci.testBit 6 then beAt f.bytes 6 6 * 65536 + 1
  else y.n 7

/-- Whether a frame has an SCI. -/
def hasSci (t : RxTag) (y : Obj) : Bool := t.tci.testBit 5 || t.tci.testBit 6 || decide (y.n 7 ≠ 0)

/-- The PN of a received frame (07 R216); 2^64 and above cannot exist. -/
def recoverPn (suite lowest p : Nat) : Nat :=
  if suiteXpn suite then
    (if lowest % 2 ^ 32 ≤ p then lowest / 2 ^ 32 else lowest / 2 ^ 32 + 1) * 2 ^ 32 + p
  else p

/-- A late PN (07 R217). -/
def lateBy (y : Obj) (s : SaLive) (pn : Nat) : Bool := y.b 8 && decide (pn < s.lowest.toNat)

/-- A PN complement mismatch of the receive side: the SA is RETIRED and the alarm raised (07 R214). -/
def rxPnBad (i : Nat) (d : Dev) : Dev := raiseAlarm pnAlarm 0 (setSa i { d.sa i with state := 4 } d)

/-- The steps 1 to 5 of 07 R207 with the check of 05 R144: the SA, its PN and SCI, or the frame dropped. -/
def rxSelect (f : Frame) (d : Dev) : Option (Nat × Obj × Nat × Nat × Bool) × Dev :=
  let yi := f.res.secy
  let y := d.objAt f.epoch cSecy yi
  match rxTag f with
  | none => (none, dropAs 0x0A7 yi f d)
  | some t =>
    let short := decide (f.bytes.length ≤ 512)
    if t.headBad (y.n 10) ∨ (short ∧ t.lenBad) then (none, dropAs 0x0A8 yi f d)
    else
      match (if hasSci t y && y.b 0 then rxScOf (d.tableAt f.epoch cRxSc) yi (rxSci t f y) else none) with
      | none => (none, dropAs 0x0A9 yi f d)
      | some (sci, sc) =>
        if sc.n 3 < (d.objAt f.epoch cParsePort f.port).n 3 then (none, dropAs 0x04B f.port f d)
        else
          match saOf (d.tableAt f.epoch cSa) 1 sci (t.tci % 4) with
          | none => (none, dropAs 0x0AA (rxScInst sci) f d)
          | some (i, o) =>
            let s := d.sa i
            if !d.policyOk f.epoch i o then (none, policyBad i f d)
            else if s.state ≠ 2 then (none, dropAs 0x0AA (rxScInst sci) f d)
            else if !s.rxOk then (none, rxPnBad i (dropAs 0x0AC i f d))
            else
              let pn := recoverPn (y.n 2) s.lowest.toNat t.pn
              if 2 ^ 64 ≤ pn ∨ lateBy y s pn then (none, dropAs 0x0AB i f d)
              else (some (i, o, pn, sci, !t.lenBad), d)

/-- A received frame opened: the plaintext frame and whether the ICV verifies (07 R206, R210). -/
def openFrame (key : Bytes) (y sc sa : Obj) (t : RxTag) (pn : Nat) (b : Bytes) : Bytes × Bool :=
  let rest := b.drop (t.off + t.len)
  let data := rest.take (rest.length - 16)
  let icv := rest.drop (rest.length - 16)
  let k := if t.tci.testBit 3 then min (sc.n 3) data.length else data.length
  let iv := gcmIv (y.n 2) (sc.n 2) (sa.n 5) (sa.n 6) pn
  let r := gcmOpen key iv (b.take 12 ++ bytesAt b t.off t.len ++ data.take k) (data.drop k) icv
  (b.take t.off ++ data.take k ++ r.1, r.2)

/-! ### Key misses (07 R231 to R238) -/

/-- Miss records per slice. -/
def missRecords : Nat := 256

/-- The record of a handle in a slice. -/
def Dev.recordOf (d : Dev) (slice dom handle : Nat) : Option (Nat × MissRec) :=
  (d.msec.recs.getD slice []).find? (fun e => e.2.dom = dom && e.2.handle = handle)

/-- Where the blob of a handle lies. -/
def Dev.fetchIova (d : Dev) (dom handle : Nat) : Nat := (d.obj cBlobTable dom).n 0 + 128 * handle

/-- A blob read is issued, waits for a walk, or is suspended on a fault (07 R234, R238); at a dead endpoint every attempt fails
at once (13 R387). -/
def startFetch (slice r : Nat) (d : Dev) : Dev :=
  match d.missRec slice r with
  | none => d
  | some m =>
    let iova := d.fetchIova m.dom m.handle
    match xlat d m.dom iova false with
    | .ok bus =>
      setRec slice r { m with fetch := .reading, since := d.now } (countDma m.dom 0 96 (emit (.read m.dom bus 96) (tlbTouch m.dom iova d)))
    | .walk => setRec slice r { m with fetch := .walking, since := d.now } d
    | .fault c =>
      let d := raise m.dom (dmaFaultEvent d 0 false c slice r iova 0) d
      setRec slice r { m with fetch := .suspended c d.now } d
    | .dead => failFetch slice r 1 (iter (badRead m.dom) (4 - m.attempts) d)

/-- A frame parks under a record, if its cells fit (07 R232). -/
def parkFrame (f : Frame) (r : Nat) (d : Dev) : Dev :=
  if d.parkFree f.slice < f.cells then dropAs 0x0B2 f.slice f d
  else
    let d := resolveIssue tdPark f.id (setFrame { f with stage := .parked, record := some r, since := d.now } d)
    let d := d.onFr (fun s => { s with parkCells := modAt s.parkCells f.slice (· + f.cells) })
    match d.missRec f.slice r with
    | none => d
    | some m => setRec f.slice r { m with frames := m.frames ++ [f.id] } d

/-- The first free record number of a slice. -/
def Dev.freeRecord (d : Dev) (slice : Nat) : Option Nat :=
  (List.range missRecords).find? (fun r => (d.missRec slice r).isNone)

/-- The key-revoked disposition (07 R231). -/
def keyRevoked (dom : Nat) (f : Frame) (d : Dev) : Dev := dropAs 0x0B5 dom f d

/-- What a key-cache lookup answers. -/
inductive Lookup where
  | hit (slot : Nat)
  | held
deriving DecidableEq, Repr

/-- The key-cache lookup of a frame for a domain, handle, attribute and key length (07 R231 to R233, R237). A frame that may
park waits behind those parked for the handle; one that may not takes the slot there is. -/
def lookupKey (f : Frame) (dom handle attr keyLen : Nat) (mayPark : Bool) (d : Dev) : Lookup × Dev :=
  let d := progEvent 0x030 f.slice 0 1 d
  let rc := d.recordOf f.slice dom handle
  let live := rc.any (fun r => r.2.frames ≠ [])
  match (if live && mayPark then none else d.lookupSlot dom handle) with
  | some (n, s) =>
    if !s.pairOk then (.held, keyRevoked dom f (keyMismatch n d))
    else if s.attr ≠ attr ∨ s.keyLen ≠ keyLen then (.held, keyRevoked dom f (bump 0x0D2 dom d))
    else (.hit n, touchSlot n (bindSlot n d))
  | none =>
    let d := progEvent 0x031 f.slice 0 1 d
    if !mayPark then (.held, keyRevoked dom f d)
    else
      match rc with
      | some (r, _) => (.held, parkFrame f r d)
      | none =>
        if (d.msec.failed.getD f.slice []).any (fun k => k.dom = dom && k.handle = handle) then
          (.held, dropAs 0x0B4 dom f d)
        else
          match d.freeRecord f.slice with
          | none => (.held, dropAs 0x0B2 f.slice f d)
          | some r =>
            let m : MissRec := { dom := dom, handle := handle, attr := attr, keyLen := keyLen, emptySince := d.now }
            let d := bump 0x0B1 dom (setRec f.slice r m d)
            (.held, startFetch f.slice r (parkFrame f r d))

/-- A fetched blob is opened (07 R234); under LOCKDOWN, in which no key is loaded, the fetch is aborted (16 R478, R483). -/
def openFetch (slice r : Nat) (m : MissRec) (blob : Bytes) (d : Dev) : Dev :=
  if d.lockdown then failFetch slice r 6 d
  else
    match openBlob d m.dom m.handle blob (some (m.attr, m.keyLen)) with
    | .error c => failFetch slice r (if c = 0 then 2 else c) (dwkAlarm c d)
    | .ok k => setRec slice r { m with fetch := .opened k } d

/-- The blobs that have come while the key manager moved no key are opened (16 R474). -/
def openArrived (d : Dev) : Dev :=
  forEach [0, 1] (fun sl d => forEach (d.msec.recs.getD sl []) (fun e d =>
    match e.2.fetch with
    | .arrived b => openFetch sl e.1 e.2 b d
    | _ => d) d) d

/-- BLOB_READ_COMPLETION: the walk or the read of a fetch returns. -/
def blobReadCompletion (slice r : Nat) (es : List (BitVec 64)) (ok : Bool) (blob : Bytes) (d : Dev) : Dev :=
  match d.missRec slice r with
  | none => d
  | some m =>
    let d := if (m.fetch = .walking ∨ m.fetch = .reading) ∧ !ok then badRead m.dom d else d
    let d := if m.fetch = .walking then tableReads m.dom 0 (d.fetchIova m.dom m.handle) es d else d
    match m.fetch with
    | .walking =>
      let iova := d.fetchIova m.dom m.handle
      let done (rep : Reply) (d : Dev) : Dev := match m.resumer with
        | some c => finish c rep d
        | none => d
      let m := { m with resumer := none }
      match (if ok then walk iova false es else .error 6) with
      | .ok leaf => done {} (startFetch slice r (setRec slice r m (tlbInsert m.dom iova leaf d)))
      | .error c =>
        let d := raise m.dom (dmaFaultEvent d 0 false c slice r iova 0) d
        done (fail eFault) (setRec slice r { m with fetch := .suspended c d.now } d)
    | .reading =>
      if !ok then
        if m.attempts < 3 then startFetch slice r (setRec slice r { m with attempts := m.attempts + 1 } d)
        else failFetch slice r 1 d
      else if d.frozen then setRec slice r { m with fetch := .arrived blob } d
      else openFetch slice r m blob d
    | _ => d

def execBlobReadCompletion (slice record : Nat) (walk : List (BitVec 64)) (ok : Bool) (blob : Bytes) (s : State) :
    Host.Outcome State Fault Refusal := .next (s.onDev (blobReadCompletion slice record walk ok blob))

/-- A slot of the cache region is evicted to make room elsewhere (09 R297, fourth rule). -/
def evictSlot (n : Nat) (d : Dev) : Dev := bump 0x0D1 (d.slot n).dom (retireSlot false n d)

/-- The fourth rule: at its cap the domain gives up its oldest slot, and the install waits until that slot is FREE. -/
def makeRoom (slice r : Nat) (m : MissRec) (d : Dev) : Dev :=
  let leaving := m.room.any (fun n => (d.slot n).dom = m.dom && !(d.slot n).live && decide ((d.slot n).state ≠ .free))
  if d.cacheCount m.dom < d.cacheCap m.dom ∨ leaving then d
  else
    match d.oldestOwn m.dom with
    | none => d
    | some n => setRec slice r { m with room := some n } (evictSlot n d)

/-- KEY_INSTALL: the slot is chosen and written, or the install waits (09 R297); the records of both slices that name the
handle end their fetches (07 R232, R235). While the key manager moves no key, nothing is installed (16 R474). -/
def keyInstall (slice r : Nat) (d : Dev) : Dev :=
  match d.missRec slice r with
  | none => d
  | some m =>
    match m.fetch with
    | .opened k =>
      if d.frozen then d
      else if d.lockdown then failFetch slice r 6 d
      else if !k.pairOk then failFetch slice r 2 (raiseAlarm 10 0 d)
      else
        match d.lookupSlot m.dom m.handle with
        | some (n, _) => validRecords m.dom m.handle n d
        | none =>
          match d.chooseWay m.dom m.handle with
          | none => makeRoom slice r m d
          | some n =>
            let old := d.slot n
            let d := if old.state = .free then d else bump 0x0D1 old.dom d
            let rank := if old.state = .free then d.openRank n else old.lru
            let d := touchSlot n (setSlot n { k with lru := rank, binds := 0 } d)
            validRecords m.dom m.handle n (bump 0x0D0 m.dom d)
    | _ => d

def execKeyInstall (slice record : Nat) (s : State) : Host.Outcome State Fault Refusal :=
  .next (s.onDev (keyInstall slice record))

/-- PARK_TIMEOUT of a slice, in TCLK edges. -/
def Dev.parkTicks (d : Dev) (slice : Nat) : Nat := nsTicks ((d.obj cPark slice).n 0 * 1000)

/-- PARK_TIMEOUT (07 R236). -/
def parkTimeout (id : Nat) (d : Dev) : Dev :=
  match d.frame id with
  | none => d
  | some f =>
    if f.stage ≠ .parked then d
    else
      let d := advanceTo (f.since + d.parkTicks f.slice) d
      dropAs 0x0B3 f.slice f d

def execParkTimeout (id : Nat) (s : State) : Host.Outcome State Fault Refusal := .next (s.onDev (parkTimeout id))

/-- SUSPENDED_FETCH_ABORT (07 R238). -/
def suspendedFetchAbort (slice r : Nat) (d : Dev) : Dev :=
  match d.missRec slice r with
  | none => d
  | some m =>
    match m.fetch with
    | .suspended _ t =>
      if m.frames ≠ [] then d
      else failFetch slice r 6 (advanceTo (max t m.emptySince + d.parkTicks slice) d)
    | _ => d

def execSuspendedFetchAbort (slice record : Nat) (s : State) : Host.Outcome State Fault Refusal :=
  .next (s.onDev (suspendedFetchAbort slice record))

/-- The suspended fetch that RESUME or ABORT names. -/
def Dev.suspendedFetch (d : Dev) (dom slice r : Nat) : Option MissRec :=
  (d.missRec slice r).filter (fun m => m.dom = dom && (match m.fetch with | .suspended _ _ => true | _ => false))

/-! ### SA commands (07 R218 to R220) -/

/-- An SA that exists in the active configuration, with its SecY. -/
def Dev.saPolicy (d : Dev) (i : Nat) : Option (Obj × Obj) :=
  let o := d.obj cSa i
  (d.saSecy d.cfg.epoch o).map (fun y => (o, y.2))

/-- The checks that an SA command passes when it is taken. -/
def saChecks (c : Cmd) (sa : Nat) (d : Dev) : Option Nat :=
  if 65536 ≤ sa then some eRange
  else if !quotaSa (d.quota c.dom) sa then some ePerm
  else none

/-- Default threshold (07 R215). -/
def defaultThr (suite : Nat) : Nat := if suiteXpn suite then 0xC000000000000000 else 0xC0000000

/-- SA_INIT is applied: its status. -/
def applySaInit (i pn thr : Nat) (d : Dev) : Nat × Dev :=
  match d.saPolicy i with
  | none => (eState, d)
  | some (o, y) =>
    if pn = 0 ∨ pnMax (y.n 2) < pn then (eRange, d)
    else
      let s := d.sa i
      let thr := if thr = 0 then defaultThr (y.n 2) else thr
      let base := ({} : SaLive).withNext pn
      let base := (if o.n 1 = 0 then base else base.withLowest pn).withThr thr
      if s.state = 0 then (0, setSa i { base with state := 1 } d)
      else if s.state = 1 ∧ s = { base with state := 1 } then (0, d)
      else (eState, d)

/-- SA_ENABLE is applied. -/
def applySaEnable (i : Nat) (d : Dev) : Nat × Dev :=
  match d.saPolicy i with
  | none => (eState, d)
  | some (o, _) =>
    let s := d.sa i
    if s.state ≠ 1 ∧ s.state ≠ 2 then (eState, d)
    else if o.n 1 = 1 then (0, setSa i { s with state := 2 } d)
    else
      let prev := (d.msec.encAn.find (o.n 2)).bind (fun an => saOf (d.table cSa) 0 (o.n 2) an)
      let d := match prev with
        | some (j, _) => if j ≠ i ∧ (d.sa j).state = 2 then setSa j { d.sa j with state := 1 } d else d
        | none => d
      (0, (setSa i { s with state := 2 } d).onMsec (fun m => { m with encAn := m.encAn.put (o.n 2) (o.n 3) }))

/-- SA_DISABLE is applied. -/
def applySaDisable (i : Nat) (d : Dev) : Nat × Dev :=
  match d.saPolicy i with
  | none => (eState, d)
  | some (o, _) =>
    let s := d.sa i
    if s.state = 0 then (eState, d)
    else if s.state = 4 then (0, d)
    else
      let d := setSa i { s with state := 4 } d
      (0, if o.n 1 = 0 ∧ d.msec.encAn.find (o.n 2) = some (o.n 3) then
          d.onMsec (fun m => { m with encAn := m.encAn.drop (o.n 2) }) else d)

/-- SA_SET_LOWEST_PN is applied. -/
def applySaLowest (i pn : Nat) (d : Dev) : Nat × Dev :=
  match d.saPolicy i with
  | none => (eState, d)
  | some (o, _) =>
    let s := d.sa i
    if s.state ≠ 1 ∧ s.state ≠ 2 then (eState, d)
    else if o.n 1 = 0 then (eRange, d)
    else
      if !s.rxOk then (eState, rxPnBad i d)
      else (0, setSa i (s.withLowest (max s.lowest.toNat pn)) d)

/-- The SA_READ record. -/
def saRecord (d : Dev) (i : Nat) : Bytes :=
  let o := d.obj cSa i
  let s := if (d.saPolicy i).isSome then d.sa i else {}
  let ctr (code : Nat) : Bytes := leBytes (Tbl.get 0 (cntId code i) d.cnt.vals) 8
  let cs := if o.n 1 = 0 then ctr 0x0A1 ++ ctr 0x0A2 ++ ctr 0x0A6 else ctr 0x0AB ++ ctr 0x0AC ++ ctr 0x0AD
  padTo 128 (leBytes s.state 1 ++ leBytes (b2n s.raised + 2 * b2n s.firstRx) 1 ++ zeros 6 ++
    leBytes s.next.toNat 8 ++ leBytes s.lowest.toNat 8 ++ leBytes s.thr.toNat 8 ++ cs)

/-- SA_READ. -/
def saReadBody (c : Cmd) (i iova : Nat) (d : Dev) : Dev × Option Reply :=
  match saChecks c i d with
  | some st => (d, some (fail st))
  | none => (d, some { outs := [(iova, saRecord d i)] })

end Sys2Proof.Machine
end

