-- ==== Sys2Proof/Machine/Datapath.lean ====
section
/-! DEFINITION. The path of a frame (01 R34): the ingress MAC, classification, the cipher stage, confirmation, the
delay line, launches, recirculation and the egress MAC. -/

namespace Sys2Proof.Machine

/-! ### Ingress -/

/-- A destination address as a number. -/
def destOf (b : Bytes) : Nat := beAt b 0 6

/-- The four frame counters of a port from base `code` (18 R531). -/
def countPort (code p : Nat) (b : Bytes) (d : Dev) : Dev :=
  let d := bumpBy (code + 1) p (b.length + 4) (bump code p d)
  let a := destOf b
  if a = broadcast then bump (code + 3) p d
  else if a.testBit 40 then bump (code + 2) p d
  else d

/-- The source of the slot ledger that a port is (18 R524). -/
def ledgerSource (p : Nat) : Nat := if p < 16 then 0 else 1

/-- What PORT_RX_FRAME does with the frame: `b` runs from the destination address to the byte before the FCS. DESIGN CHOICE: a
frame of a length not allowed counts as TOO_LONG or RUNT and not in CNT_FCS_ERR too, where its FCS is bad; 03 R65 and 18 R531 give
the counters no order (log 75). -/
def receiveFrame (p : Nat) (b : Bytes) (fcsOk : Bool) (x : RxStamp) (d : Dev) : Dev :=
  if !d.isEth p ∨ !(d.link p).up ∨ d.rxTest p then d
  else
    let wire := b.length + 4
    if 16032 < wire then bump 0x029 p d
    else if wire < 64 then bump 0x02A p d
    else
      let d := if fcsOk then countPort 0x024 p b d else bump 0x028 p d
      let rx := decide (p < 16)
      if d.held then bump 0x04C p d
      else if d.course.failClosed then bump 0x04D p d
      else if !rx ∧ !fcsOk then d
      else if rx ∧ d.secMode d.cfg.epoch p = smCLOSED then bump 0x0A0 p d
      else
        let tb := (d.obj cStampPort p).n 0
        let l := d.sfdLane p x.lane
        let id := d.fr.next
        let f : Frame := { id := id, bytes := b, port := p, slice := p % 16 / 8, rx := rx, fcsOk := fcsOk,
                           tick := d.now, phase := x.phase, lane := l, tb := tb, stamp := d.arrival p l tb x.phase,
                           fretStamp := d.arrival p l d.fretTb x.phase / 2 ^ 32 % 2 ^ 32, since := d.now }
        setFrame f (d.onFr (fun s => { s with next := id + 1 }))

/-- PORT_RX_FRAME: the FEC of the port's lanes counts (03 R65), and the frame enters the MAC. -/
def portRxFrame (p : Nat) (b : Bytes) (fcsOk : Bool) (stamp : RxStamp) (errs : List LaneErrs) (d : Dev) : Dev :=
  receiveFrame p b fcsOk stamp (if d.isEth p && (d.link p).up && !d.rxTest p then countFec p errs d else d)

def execPortRxFrame (port : Nat) (frame : Bytes) (fcsOk : Bool) (stamp : RxStamp) (errs : List LaneErrs) (s : State) :
    Host.Outcome State Fault Refusal := .next (s.onDev (portRxFrame port frame fcsOk stamp errs))

/-- FRAME_INGRESS: a frame enters the parser of its first slice, or the frame at the head of a recirculation queue
enters its second pass (01 R20, R33). -/
def frameIngress (id : Nat) (d : Dev) : Dev :=
  match d.frame id with
  | none => d
  | some f =>
    let enter (f : Frame) (source : Nat) (d : Dev) : Dev :=
      let d := issueFrame f source d
      progEvent 0x021 f.slice f.port (f.bytes.length + 4) (progEvent 0x020 f.slice f.port 1 d)
    match f.stage with
    | .mac => enter { f with stage := .parsing, epoch := d.cfg.epoch } (ledgerSource f.port) d
    | .recirc =>
      if (d.fr.recirc.getD f.slice []).head? ≠ some id then d
      else
        let d := d.onFr (fun s => { s with recirc := modAt s.recirc f.slice List.tail,
                                           recircCells := modAt s.recircCells f.slice (· - f.cells) })
        enter { f with stage := .parsing, recirc := true, rx := false, ended := false } 2 d
    | _ => d

def execFrameIngress (id : Nat) (s : State) : Host.Outcome State Fault Refusal := .next (s.onDev (frameIngress id))

/-! ### Toward the egress -/

/-- Instants of `ps` picoseconds. -/
def psInstants (ps : Int) : Int := ps * 2 / 5

/-- The instant at which a frame of a pair leaves the other MDI: its arrival at the ingress MDI plus D (07 R239). -/
def Dev.llRelease (d : Dev) (f : Frame) (dns : Nat) : Nat :=
  (((f.tick * instantPerTick + f.phase * 25 : Nat) : Int) - psInstants (d.mdiCorr f.lane false + (d.lane f.lane).skew * 1000) +
    (dns * instantPerNs : Nat)).toNat

/-- Drops of a pair in the present fret. -/
def noteLl (l : Nat) (late : Bool) (d : Dev) : Dev :=
  d.onMsec (fun m =>
    let x := m.llDrops.get (0, 0) l
    { m with llDrops := m.llDrops.put l (if late then (x.1, x.2 + 1) else (x.1 + 1, x.2)) })

/-- A frame enters the delay line of its pair, or is late (07 R241, R242). -/
def enterDelay (f : Frame) (l t : Nat) (d : Dev) : Dev :=
  let at_ := d.llRelease f t
  let d := if f.verdict.isSome then resolveIssue tdDelivered f.id d else d
  if at_ < d.now * instantPerTick then noteLl l true (dropAtEgress f.id (bump 0x0B8 l d))
  else onFrame f.id (fun f => { f with stage := .delayLine, launch := at_, ll := true }) d

/-- Cells of a slice's recirculation queue (01 R20). -/
def recircLimit : Nat := 512

/-- A confirmed frame is queued for the second pass, or dropped (01 R20). -/
def enterRecirc (f : Frame) (d : Dev) : Dev :=
  let s := f.res.egress / 8
  let f := { f with bytes := f.leaving, out := [] }
  if recircLimit < d.fr.recircCells.getD s 0 + f.cells then dropAs 0x04E s f d
  else
    let d := resolveIssue tdDelivered f.id d
    setFrame { f with stage := .recirc, slice := s, since := d.now, issue := none, slot := none, sa := none, record := none,
                      launch := 0, debit := none, mtrDrop := false, protect := false, verdict := none, stomp := false }
      (d.onFr (fun x => { x with recirc := modAt x.recirc s (· ++ [f.id]), recircCells := modAt x.recircCells s (· + f.cells) }))

/-- Admission to the egress queue; what is admitted is DELIVERED, unless its confirmation is still to come. -/
def toQueue (id : Nat) (d : Dev) : Dev :=
  let d := enqueue id d
  match d.frame id with
  | none => d
  | some f => if f.verdict.isSome then resolveIssue tdDelivered id d else d

/-- A frame goes on from its slice toward its egress: delay line, launch, recirculation or queue. -/
def sendOn (id : Nat) (d : Dev) : Dev :=
  match d.frame id with
  | none => d
  | some f =>
    match d.onPair f with
    | some (l, _, t) => enterDelay f l t d
    | none =>
      if f.launch ≠ 0 then
        (resolveIssue tdDelivered id (setFrame { f with stage := .onestep } d)).onTime
          (fun t => { t with onestep := t.onestep ++ [id] })
      else if f.rx ∧ f.res.egress < 16 then enterRecirc f d
      else toQueue id d

/-! ### Timestamp records (11 R351) -/

/-- The PTP message of a frame from its header at `o` on; a protected receive frame as it was decrypted, without its SecTAG. -/
def Frame.message (f : Frame) (o : Nat) : Bytes :=
  match if f.rx && f.protect then rxTag f else none with
  | some t => f.out.drop (if t.off < o then o - t.len else o)
  | none => f.bytes.drop o

/-- A record of a PTP event message, where the record mask of the port has it. -/
def stampRecord (f : Frame) (p : Nat) (rx : Bool) (tb stamp : Nat) (d : Dev) : Dev :=
  match f.ptp with
  | none => d
  | some o =>
    let ty := ptpType f.bytes o
    let b := f.message o
    let mask := (d.obj cStampPort p).n 1
    if 4 ≤ ty ∨ !(mask.testBit (if rx then ty else ty + 4)) then d
    else
      let own := (d.portOwner p).getD d.sup
      let full := if d.eventsWait then d.evqFull (portSlice p) else if own = dmCode then decide (1024 ≤ d.host.hem.events.length) else decide (d.ringFree own 2 = 0)
      let d := if full then bump 0x0F0 own d else d
      let e : Event :=
        { code := 0x0601, cleared := false, head := stamp / 2 ^ 32 % 10 ^ 9 + stamp / fracPerSec % 2 ^ 32 * 2 ^ 32,
          payload := payload [(16, 1, b2n rx * 128 + p), (17, 1, tb * 32 + ty), (18, 1, leAt b 4 1),
            (19, 1, stamp % 2 ^ 32 / 2 ^ 24), (20, 2, beAt b 30 2), (22, 10, leAt b 20 10)] }
      raiseFrom (portSlice p) own e d

/-! ### Frames without the cipher stage (07 R563) -/

/-- A receive frame outside the cipher stage has ended with a correct FCS: the uncontrolled port's counter, its record and its
meter (18 R533, 11 R351, 12 R381). -/
def plainRx (f : Frame) (d : Dev) : Dev :=
  let d := if f.res.action = 2 ∧ f.ctx.mode = smSECURE then bump 0x141 f.res.secy d else d
  onFrame f.id (fun f => { f with debit := none }) (countMeter f (stampRecord f f.port true f.tb f.stamp d))

/-- A frame from a host port, whose FCS its MAC has found correct, has ended: its receive record (11 R351). -/
def hostStamp (f : Frame) (d : Dev) : Dev := if f.rx || f.recirc then d else stampRecord f f.port true f.tb f.stamp d

/-- The frame has ended with a correct FCS, or fails and gives its debit back (07 R225): the receive record and the meter, then
toward the egress, unless it is a meter drop (12 R380) or has been dropped there. -/
def plainOut (id : Nat) (d : Dev) : Dev :=
  match d.frame id with
  | none => d
  | some f =>
    if !f.fcsOk then dropFrame id (if f.rx then returnDebit f d else d)
    else
      let d := if f.rx then plainRx f d else d
      if f.gone then dropFrame id d
      else if f.mtrDrop then dropAs 0x10D (f.slice * 8192 + f.res.meter) f d
      else sendOn id d

/-- A frame that takes no cipher stage: it waits for its end, or enters the delay line at once; a meter drop only once it has
ended. -/
def plainPath (f : Frame) (d : Dev) : Dev :=
  let f := { f with verdict := some true, protect := false }
  let f := if f.rx then
      (match d.onPair f with
       | some (_, _, t) => { f with out := correctPair f t 0 f.bytes }
       | none => f)
    else txStep8 f d
  if f.ended then plainOut f.id (setFrame f d)
  else
    match (d.onPair f).filter (fun _ => !f.mtrDrop) with
    | some (l, _, t) => enterDelay f l t (setFrame f d)
    | none => setFrame { f with stage := .waitEnd } d

/-! ### Classification complete (01 R34, transmit steps 4 to 8, receive steps 4 to 6) -/

/-- The ports of a frame: where it entered, and its line port. -/
def Frame.ports (f : Frame) : List Nat := [f.port, if f.rx then f.port else f.res.egress]

/-- A frame on a port of a pair or of DM may not park (07 R233). -/
def Dev.mayPark (d : Dev) (f : Frame) : Bool :=
  f.ports.all (fun p => (d.llPair p).isNone && decide (d.portOwner p ≠ some dmCode))

/-- Metering of a transmit frame, whose debit is final (12 R380): none where it is a meter drop. -/
def meterFinal (f : Frame) (d : Dev) : Option Frame × Dev :=
  let r := meterFrame f d
  let d := countMeter r.1 r.2
  let f := { r.1 with debit := none }
  if f.mtrDrop then
    (none, dropAs 0x10D (f.slice * 8192 + f.res.meter) f d)
  else (some f, setFrame f d)

/-- Transmit steps 7 and 8 of a frame that has its key: PN, launch or correction (07 R211, 11 R352). `slot` is none
where the key has gone since. -/
def txGo (f : Frame) (slot : Option Nat) (d : Dev) : Dev :=
  match f.sa with
  | none => d
  | some i =>
    let f := { f with slot := slot }
    let r := allocPn f i (f.ctx.secy.n 2) (setFrame f d)
    match r.1 with
    | none => r.2
    | some pn =>
      let f := txStep8 { f with pn := pn, stage := .toCipher, protect := true, verdict := some true, record := none } r.2
      setFrame f r.2

/-- Receive step 6 of a frame that has its key: the speculative debit (12 R378). -/
def rxGo (f : Frame) (slot : Option Nat) (d : Dev) : Dev :=
  let r := meterFrame { f with slot := slot, stage := .toCipher, protect := true, verdict := none, record := none } d
  setFrame r.1 r.2

/-- The attribute and key length that a frame's SA needs (09 R292). -/
def Frame.keyNeed (f : Frame) : Nat × Nat := (if f.rx then 2 else 1, b2n (suiteLong (f.ctx.secy.n 2)))

/-- The key that a frame's SA `i` needs, and what follows from its lookup. -/
def needKey (f : Frame) (i : Nat) (d : Dev) : Dev :=
  let dom := (d.saOwner i).getD d.sup
  let r := lookupKey f dom (f.ctx.sa.n 4) f.keyNeed.1 f.keyNeed.2 (d.mayPark f) d
  match r.1 with
  | .held => r.2
  | .hit n => if f.rx then rxGo f (some n) r.2 else txGo f (some n) r.2

/-- A transmit frame after classification. -/
def classifyTx (f : Frame) (d : Dev) : Dev :=
  let e := f.res.egress
  let group := d.isGroup e
  let mode := f.ctx.mode
  let y := f.ctx.secy
  let sc := f.ctx.sc
  let secure := decide (mode = smSECURE) && decide (f.res.action = 0)
  if !group ∧ mode = smCLOSED then dropAs 0x0A0 e f d
  else if group ∧ 16000 < f.bytes.length + 4 then dropAs 0x067 (e / 8) f d
  else if (d.llPair e).isSome ∧ (d.onPair f).isNone then
    dropAs 0x0B6 ((d.llPair e).elim e Prod.fst) f d
  else if secure ∧ (!sc.b 0 ∨ sc.n 1 ≠ f.res.secy ∨ !y.b 0 ∨ y.n 1 ≠ e) then dropAs 0x083 f.port f d
  else
    match meterFinal f d with
    | (none, d) => d
    | (some f, d) =>
      if !secure then plainPath f d
      else
        match txSelect f d with
        | (none, d) => d
        | (some (i, o), d) =>
          let f := { f with sa := some i, source := i, ctx := { f.ctx with sa := o } }
          needKey f i (setFrame f d)

/-- A receive frame after classification. -/
def classifyRx (f : Frame) (d : Dev) : Dev :=
  let mode := f.ctx.mode
  let e := f.res.egress
  if mode = smCLOSED then dropAs 0x0A0 f.port f d
  else if (d.llPair e).isSome ∧ (d.onPair f).isNone then
    dropAs 0x0B6 ((d.llPair e).elim e Prod.fst) f d
  else if mode = smSECURE ∧ f.res.action = 0 then
    match rxSelect f d with
    | (none, d) => d
    | (some (i, o, pn, sc, good), d) =>
      let f := { f with sa := some i, source := sc, pn := pn, tagOk := good,
                        ctx := { f.ctx with sa := o, sc := d.objAt f.epoch cRxSc sc } }
      needKey f i (setFrame f d)
  else
    let r := meterFrame f d
    plainPath r.1 (setFrame r.1 r.2)

/-- The context of a classified frame: what it reads, once, of the tables of its epoch (02 R59). The SA, and the channel of a
receive frame, come with their selection. -/
def Dev.context (d : Dev) (f : Frame) : Ctx :=
  let p := if f.rx then f.port else f.res.egress
  let m := d.meter f.epoch f.slice f.res.meter
  { secy := d.objAt f.epoch cSecy f.res.secy
    sc := if f.rx then { f := [] } else d.objAt f.epoch cTxSc f.res.sc
    svc := d.objAt f.epoch cService f.res.service
    meter := m
    mode := if !f.rx ∧ d.isGroup p then smCLEAR else d.secMode f.epoch p
    forward := (d.objAt f.epoch cMacsecPort p).b 1
    pre := if m.b 2 then d.preColour f.epoch f.slice (m.n 3) (f.parse.cs.getD 12 0 / 4096) else 0 }

/-- CLASSIFY_COMPLETE. -/
def classifyComplete (id : Nat) (d : Dev) : Dev :=
  match d.frame id with
  | none => d
  | some f =>
    if f.stage ≠ .classifying then d
    else
      match classify f (scanAdvance d) with
      | (none, d) => dropFrame id d
      | (some r, d) =>
        let f := { f with res := r }
        let f := { f with ctx := d.context f }
        let d := setFrame f (if f.ended then hostStamp f d else d)
        if !d.egressOk f.rx r.egress then dropAs 0x090 f.port f d
        else if f.rx then classifyRx f d
        else classifyTx f d

def execClassifyComplete (id : Nat) (s : State) : Host.Outcome State Fault Refusal :=
  .next (s.onDev (classifyComplete id))

/-! ### Releases of a miss record (07 R235) -/

/-- One parked frame is released: a new issue, from the release port. It takes the record's slot, and none where that has lost
its valid mark; a key that does not suit its SA it does not use (07 R235, 09 R292). -/
def releaseParked (m : MissRec) (slot : Option Nat) (id : Nat) (d : Dev) : Dev :=
  match d.frame id with
  | none => d
  | some f =>
    let d := d.onFr (fun s => { s with parkCells := modAt s.parkCells f.slice (· - f.cells) })
    let f := { f with stage := .toCipher, record := none }
    let d := issueFrame f 3 d
    let f := (d.frame id).getD f
    match slot.filter (fun n => (d.slot n).mark) with
    | some n =>
      if !(d.slot n).pairOk then keyRevoked m.dom f (keyMismatch n d)
      else if ((d.slot n).attr, (d.slot n).keyLen) ≠ f.keyNeed then keyRevoked m.dom f (bump 0x0D2 m.dom d)
      else
        let d := touchSlot n (bindSlot n d)
        if f.rx then rxGo f (some n) d else txGo f (some n) d
    | none => if f.rx then rxGo f none d else txGo f none d

/-- MISS_RECORD_RELEASE: the parked frames in order, then the record closes. -/
def missRecordRelease (slice r : Nat) (d : Dev) : Dev :=
  match d.missRec slice r with
  | none => d
  | some m =>
    match m.fetch with
    | .installed n => closeRecord slice r (forEach m.frames (releaseParked m (some n)) d)
    | .lost => closeRecord slice r (forEach m.frames (releaseParked m none) d)
    | _ => d

def execMissRecordRelease (slice record : Nat) (s : State) : Host.Outcome State Fault Refusal :=
  .next (s.onDev (missRecordRelease slice record))

/-! ### The cipher stage -/

/-- The domain whose key a frame uses. -/
def Dev.keyDom (d : Dev) (f : Frame) : Nat := (f.sa.bind d.saOwner).getD d.sup

/-- A frame takes the key-revoked disposition at the cipher stage; a receive debit is returned. Where the pair check fails
(`pair`), a receive frame whose FCS is bad fails by that and was counted by its MAC (07 R222, R231). -/
def revokedAtCipher (pair : Bool) (f : Frame) (d : Dev) : Dev :=
  let dom := d.keyDom f
  let d := if f.rx then returnDebit f d else d
  if f.fcsOk || !pair then keyRevoked dom f d else dropFrame f.id d

/-- CIPHER_STAGE_ENTRY: the frame binds to its slot's key (01 R14, R22). -/
def cipherStageEntry (id : Nat) (d : Dev) : Dev :=
  match d.frame id with
  | none => d
  | some f =>
    if f.stage ≠ .toCipher then d
    else
      match f.slot with
      | none => revokedAtCipher false f d
      | some n =>
        let s := d.slot n
        if !s.mark && !s.handed then revokedAtCipher false f d
        else if !s.pairOk then keyMismatch n (revokedAtCipher true f d)
        else
          let y := f.ctx.secy
          let o := f.ctx.sa
          if f.rx then
            match rxTag f with
            | none => d
            | some t =>
              let r := openFrame s.keyBytes y f.ctx.sc o t f.pn f.bytes
              let out := match d.onPair f with
                | some (_, _, dns) => correctPair f dns t.len r.1
                | none => r.1
              setFrame { f with stage := .inCipher, out := out, open_ := r.2 } d
          else
            let out := sealFrame s.keyBytes y f.ctx.sc o f.pn f.bytes
            setFrame { f with stage := .inCipher, out := out } d

def execCipherStageEntry (id : Nat) (s : State) : Host.Outcome State Fault Refusal :=
  .next (s.onDev (cipherStageEntry id))

/-- The secure data octets of a transmit frame, and whether it was encrypted (07 R245). -/
def countProtected (f : Frame) (d : Dev) : Dev :=
  let y := f.ctx.secy
  let n := f.bytes.length - (12 + 4 * clearTags f.bytes (y.n 10) 0)
  let i := f.sa.getD 0
  if y.b 3 then bumpBy 0x0A4 f.res.secy n (bump 0x0A2 i d) else bumpBy 0x0A3 f.res.secy n (bump 0x0A1 i d)

/-- Whether a frame's line port runs as STOMP: by its pair, or by RX_FORWARD as the frame's context has it (15 R467). -/
def Dev.stompPort (d : Dev) (f : Frame) : Bool :=
  (d.llPair f.port).isSome || (f.ctx.forward && !d.failSafe (.rxForward f.port))

/-- Stomp cut-through applies to a receive frame (07 R228). -/
def Dev.mayStomp (d : Dev) (f : Frame) : Bool :=
  d.stompPort f && decide (16 ≤ f.res.egress) && decide (d.portRate f.res.egress ≤ d.portRate f.port) &&
    !f.mtrDrop

/-- CIPHER_STAGE_EXIT. -/
def cipherStageExit (id : Nat) (d : Dev) : Dev :=
  match d.frame id with
  | none => d
  | some f =>
    if f.stage ≠ .inCipher then d
    else
      let d := match f.slot with
        | some n => unbindSlot n d
        | none => d
      let f := { f with slot := none, stage := .confirming }
      let d := setFrame f d
      if f.rx then (if d.mayStomp f then sendOn id d else d)
      else sendOn id (countProtected f d)

def execCipherStageExit (id : Nat) (s : State) : Host.Outcome State Fault Refusal :=
  .next (s.onDev (cipherStageExit id))

/-! ### Failing and ending frames -/

/-- A frame that has started ends with an inverted FCS; one that has not is dropped (07 R228, R147, R563). -/
def failFrame (resolution : Nat) (id : Nat) (d : Dev) : Dev :=
  match d.frame id with
  | none => d
  | some f =>
    if f.stage = .sending then
      resolveIssue tdStomp id (emptyCharge id (setFrame { f with stomp := true, verdict := some false, ended := true } d))
    else dropFrame id (resolveIssue resolution id d)

/-- FRAME_END_ARRIVAL: the late checks, and the FCS of frames outside the cipher stage (05 R141, R147, 07 R563); whether a
frame takes that stage is known once it is classified. -/
def frameEndArrival (id : Nat) (d : Dev) : Dev :=
  match d.frame id with
  | none => d
  | some f =>
    if f.ended ∨ f.stage = .mac ∨ f.stage = .punted ∨ f.stage = .recirc then d
    else
      let d := trimCharge id (setFrame { f with ended := true } d)
      if f.stage = .parsing then d
      else if f.lateBad then
        let d := bump 0x04A f.port d
        let d := if f.rx then returnDebit f d else d
        failFrame tdDrop id d
      else if f.stage = .classifying then d
      else
        let d := hostStamp f d
        if f.stage = .waitEnd ∨ (f.gone ∧ !f.protect) then plainOut id d
        else if f.stage = .parked then d
        else if !f.protect ∧ !f.fcsOk then failFrame tdDrop id (if f.rx then returnDebit f d else d)
        else if !f.protect ∧ f.rx ∧ f.ll then plainRx f d
        else d

def execFrameEndArrival (id : Nat) (s : State) : Host.Outcome State Fault Refusal :=
  .next (s.onDev (frameEndArrival id))

/-! ### Confirmation (07 R222 to R226) -/

/-- The side effects of a confirmed frame on its SA (07 R217); NEXT_PN, a 64-bit field, stays at its greatest value. -/
def confirmPn (i pn : Nat) (y : Obj) (d : Dev) : Dev :=
  let s := d.sa i
  let next := max s.next.toNat (min (pn + 1) (2 ^ 64 - 1))
  let lowest := max s.lowest.toNat (max 1 (next - y.n 9))
  setSa i { (s.withNext next).withLowest lowest with firstRx := true } d

/-- The failure counter of a frame, where one of the causes of R222 applies: none where it is confirmed. -/
def failureOf (f : Frame) (i : Nat) (y : Obj) (d : Dev) : Option (Option (Nat × Nat)) :=
  let s := d.sa i
  if !f.fcsOk then some none
  else if f.keyBad then some (some (0x0B5, d.keyDom f))
  else if !s.rxOk then some (some (0x0AC, i))
  else if !f.tagOk then some (some (0x0A8, f.res.secy))
  else if !f.open_ then some (some (0x0AC, i))
  else if lateBy y s f.pn then some (some (0x0AB, i))
  else none

/-- What a failed frame counts: its failure counter, and the return of its debit; a PN complement mismatch retires its SA (07
R214, R222, R225). -/
def countFailure (f : Frame) (cause : Option (Nat × Nat)) (d : Dev) : Dev :=
  let bad := f.fcsOk && !f.keyBad && !(d.sa (f.sa.getD 0)).rxOk
  let d := progEvent 0x041 f.slice f.port 1 (returnDebit f d)
  let d := match cause with
    | some (code, inst) => bump code inst d
    | none => d
  if bad then rxPnBad (f.sa.getD 0) d else d

/-- RX_CONFIRMATION. -/
def rxConfirmation (id : Nat) (d : Dev) : Dev :=
  match d.frame id with
  | none => d
  | some f =>
    let ready := match f.stage with
      | .confirming | .queued | .delayLine | .sending => true
      | _ => false
    if !f.rx ∨ !f.protect ∨ f.verdict.isSome ∨ !ready then d
    else
      let i := f.sa.getD 0
      let y := f.ctx.secy
      match failureOf f i y d with
      | some c => failFrame tdAuth id (countFailure f c d)
      | none =>
        let d := progEvent 0x040 f.slice f.port 1 (bump 0x0AD i d)
        let t := (rxTag f).getD { off := 0, len := 0, tci := 0, sl := 0, pn := 0, sci := 0, data := 0 }
        let d := bumpBy (if t.tci.testBit 3 then 0x0AF else 0x0AE) f.res.secy t.data.toNat d
        let d := if f.pn < (d.sa i).lowest.toNat then bump 0x142 f.res.secy d else d
        let d := learn f (f.ctx.sc.n 4) (confirmPn i f.pn y d)
        let d := stampRecord f f.port true f.tb f.stamp (countMeter f d)
        let f := { f with verdict := some true, ended := true, debit := none }
        let d := trimCharge id (setFrame f d)
        if f.gone then dropFrame id d
        else if f.mtrDrop then dropAs 0x10D (f.slice * 8192 + f.res.meter) f d
        else if f.stage = .confirming then sendOn id d
        else resolveIssue tdDelivered id d

def execRxConfirmation (id : Nat) (s : State) : Host.Outcome State Fault Refusal :=
  .next (s.onDev (rxConfirmation id))

/-! ### Recirculation (01 R20) -/

/-- A second pass that has not built its context yet. -/
def Frame.inRecirc (f : Frame) : Bool :=
  decide (f.stage = .recirc) || (f.recirc && (decide (f.stage = .parsing) || decide (f.stage = .classifying)))

/-- The longest stay: 4 µs. -/
def recircTicks : Nat := 2000

/-- RECIRC_TIMEOUT. -/
def recircTimeout (id : Nat) (d : Dev) : Dev :=
  match d.frame id with
  | none => d
  | some f => if f.inRecirc then dropAs 0x04E f.slice f (advanceTo (f.since + recircTicks) d) else d

def execRecircTimeout (id : Nat) (s : State) : Host.Outcome State Fault Refusal := .next (s.onDev (recircTimeout id))

/-! ### The egress MAC -/

/-- The bytes of a frame on the wire: at least 60 before the FCS (07 R210). -/
def Frame.wireBytes (f : Frame) : Bytes := if f.leaving.length < 60 then padTo 60 f.leaving else f.leaving

/-- The bytes of a frame that its port has sent by a tick (07 R229). -/
def Dev.sentBytes (d : Dev) (p : Nat) (f : Frame) (t : Nat) : Nat :=
  (t * instantPerTick - f.launch) / byteInstants (d.portRate p)

/-- The frame being sent by a port ends after `n` of its bytes. -/
def endSending (p n : Nat) (f : Frame) (d : Dev) : Dev :=
  let b := f.wireBytes.take n
  let d := emit (.frame p b f.stomp) d
  let d := if f.charge.isSome then
      bumpBy 0x101 (p * 8 + f.res.tc) (b.length + 4) (bump 0x100 (p * 8 + f.res.tc) d)
    else d
  let d := progEvent 0x023 (p % 16 / 8) p (b.length + 4) (progEvent 0x022 (p % 16 / 8) p 1 d)
  let d :=
    if f.stomp then
      if 16 ≤ p then progEvent 0x042 f.slice f.port 1 (bump 0x0B0 p d) else d
    else
      let d := countPort 0x020 p b d
      stampRecord f p false (d.obj cStampPort p |>.n 0) f.depart d
  dropFrame f.id (d.onPort p (fun e => { e with sending := none }))

/-- A stomp frame without a verdict fails and ends after `n` bytes; it counts under the first other cause that applies (07
R222, R229). -/
def underrunEnds (p n : Nat) (f : Frame) (d : Dev) : Dev :=
  let d := countFailure f ((failureOf f (f.sa.getD 0) f.ctx.secy d).getD none) d
  let d := resolveIssue tdStomp f.id d
  endSending p n { f with stomp := true, verdict := some false, debit := none, issue := none } d

/-- EGRESS_UNDERRUN: the host MAC ends the frame at once, and the port is free from then on (07 R229). -/
def egressUnderrun (p : Nat) (d : Dev) : Dev :=
  match (d.egress p).sending.bind d.frame with
  | none => d
  | some f =>
    if f.verdict.isSome ∨ !f.rx then d
    else (underrunEnds p (d.sentBytes p f d.now) f d).onMsec (fun m => { m with
      llEnd := m.llEnd.put p (d.now * instantPerTick + 4 * byteInstants (d.portRate p)) })

def execEgressUnderrun (port : Nat) (s : State) : Host.Outcome State Fault Refusal := .next (s.onDev (egressUnderrun port))

/-- FRAME_TX_DONE: the FCS position; a frame still without its verdict ends inverted (07 R229). A frame whose lane has been given
a transmit test mode meanwhile has not left whole, for the lane sends only the pattern (03 R81). -/
def frameTxDone (p : Nat) (d : Dev) : Dev :=
  match (d.egress p).sending.bind d.frame with
  | none => d
  | some f =>
    if (d.portLanes p).any d.txTest then dropAtEgress f.id (d.onPort p (fun e => { e with sending := none }))
    else
      let n := (f.cut.map (d.sentBytes p f)).getD f.wireBytes.length
      let e := if f.rx && f.protect && f.verdict.isNone then underrunEnds p n f d else endSending p n f d
      match f.cut with
      | some t => e.onMsec (fun m => { m with
          llEnd := m.llEnd.put p (t * instantPerTick + 4 * byteInstants (d.portRate p)) })
      | none => e

def execFrameTxDone (port : Nat) (s : State) : Host.Outcome State Fault Refusal := .next (s.onDev (frameTxDone port))

/-- The reading of a port's stamping time base at an instant not before the present. -/
def Dev.readingAt (d : Dev) (p l : Nat) : Nat :=
  d.tbAtInstant ((d.obj cStampPort p).n 0) l

/-- A frame of the uncontrolled port, which a SECURE port has (07 R197), is sent (18 R533). -/
def countUntagged (f : Frame) (d : Dev) : Dev :=
  if !f.rx && decide (f.res.action = 2) && decide (f.ctx.mode = smSECURE) then bump 0x140 f.res.secy d else d

/-- A launch holds back a frame whose last byte and gap would end after the launch's preamble begins (11 R352). -/
def Dev.launchHolds (d : Dev) (p len : Nat) : Bool :=
  let bt := byteInstants (d.portRate p)
  let ends := d.now * instantPerTick + (len + 20) * bt
  (d.launches (fun f => decide (f.res.egress = p))).any (fun f => decide (f.launch - 8 * bt < ends))

/-- TRANSMISSION_SELECTION: an Ethernet port able to begin a frame (12 R360). -/
def transmissionSelection (p : Nat) (d : Dev) : Dev :=
  if !d.isEth p ∨ !d.canSend p ∨ (d.egress p).sending.isSome then d
  else
    let r := selectFrame p d
    match r.1 with
    | none => r.2
    | some f =>
      if d.launchHolds p f.sendLen then d
      else
        let l := d.now * instantPerTick + 8 * byteInstants (d.portRate p)
        let dep := shiftPs (d.readingAt p l) (d.laneCorr p (d.txLane p) true)
        let d := countUntagged f (onFrame f.id (fun g => { g with launch := l, depart := dep }) r.2.nextFree)
        d.onMsec (fun m => { m with llEnd := m.llEnd.put p (l + f.sendLen * byteInstants (d.portRate p)) })

def execTransmissionSelection (port : Nat) (s : State) : Host.Outcome State Fault Refusal :=
  .next (s.onDev (transmissionSelection port))

/-- A frame released at an instant starts at its MDI: whatever the port was sending has ended. -/
def startAt (f : Frame) (d : Dev) : Dev :=
  let p := f.res.egress
  let bt := byteInstants (d.portRate p)
  let d := advanceTo ((f.launch - 8 * bt) / instantPerTick) d
  let d := if (d.egress p).sending.isSome then frameTxDone p d else d
  let d := countUntagged f d
  let d := onFrame f.id (fun g => { g with stage := .sending, depart := d.readingAt p f.launch }) d
  (d.onPort p (fun e => { e with sending := some f.id })).onMsec
    (fun m => { m with llEnd := m.llEnd.put p (f.launch + f.sendLen * bt) })

/-- LL_RELEASE: at t + D, or a collision (07 R239, R242). -/
def llReleaseFrame (id : Nat) (d : Dev) : Dev :=
  match d.frame id with
  | none => d
  | some f =>
    if f.stage ≠ .delayLine then d
    else
      let p := f.res.egress
      let bt := byteInstants (d.portRate p)
      let l := if p < 16 then p else f.port
      if !d.canSend p then dropAtEgress id d
      else if f.launch < d.msec.llEnd.get 0 p + 20 * bt then noteLl l false (dropAtEgress id (bump 0x0B7 l d))
      else startAt f d

def execLlRelease (id : Nat) (s : State) : Host.Outcome State Fault Refusal := .next (s.onDev (llReleaseFrame id))

/-- ONESTEP_LAUNCH (11 R352). A port that may not send, for its link, Local Fault or a test pattern, lets the launch pass, and
the frame is lost and counted as one whose port has gone down (11 R352, 03 R80, R81; log 86). -/
def onestepLaunch (id : Nat) (d : Dev) : Dev :=
  match d.frame id with
  | none => d
  | some f =>
    if f.stage ≠ .onestep then d
    else if !d.canSend f.res.egress then dropFrame id (bump 0x0F1 f.res.egress d)
    else startAt f (d.onTime (fun t => { t with onestep := t.onestep.erase id }))

def execOnestepLaunch (id : Nat) (s : State) : Host.Outcome State Fault Refusal := .next (s.onDev (onestepLaunch id))

/-- EV_LL_DROP at the boundary that ends a fret (07 R242). -/
def llDropEvents (ended : Nat) (d : Dev) : Dev :=
  let xs := d.msec.llDrops
  let d := d.onMsec (fun m => { m with llDrops := [] })
  forEach xs (fun e d =>
    raiseFrom (portSlice e.1) (d.portOwner e.1)
      { code := 0x0503, cleared := false, head := ended,
        payload := payload [(16, 1, e.1), (20, 4, e.2.1), (24, 4, e.2.2)] } d) d

end Sys2Proof.Machine
end

