-- ==== Sys2Proof/Machine/Lookaside.lean ====
section
/-! DEFINITION. The lookaside cluster (10): job checks, what each mode computes, segments, the scheduler, chains and
the public-key unit's queue. -/

namespace Sys2Proof.Machine

/-- Whether an opcode is a lookaside job. -/
def isLkOp (op : Nat) : Bool := decide (0x0B01 ≤ op ∧ op ≤ 0x0B0A)

/-- The number of a lookaside opcode in the table of 10 R321: 1 CBC, 2 CTR, 3 CFB, 4 GCM, 5 CMAC, 6 WRAP, 7 UNWRAP,
8 KDF, 9 HASH, 10 VERIFY. -/
def LkRun.op (r : LkRun) : Nat := r.cmd.op - 0x0B00

/-- Longest data, AAD and message. -/
def lkMax : Nat := 16777216

/-- Bytes of AAD that a job reads (10 R323). -/
def lkAad (op : Nat) (j : LkJob) : Nat := if op = 4 ∧ !j.cont then j.auxLen else 0

/-- Units that a job works through: input bytes, AAD first, or output bytes of a KDF (10 R314). -/
def lkTotal (op : Nat) (j : LkJob) : Nat := lkAad op j + j.length

/-- Segment size (10 R316). -/
def segBytes : Nat := 65536

/-- Block size of a hash (10 R310). -/
def hashBlock (a : Nat) : Nat :=
  match a with
  | 1 => 64
  | 2 | 3 => 128
  | 4 => 136
  | 5 => 104
  | _ => 72

/-- Digest length of a hash. -/
def hashLen (a : Nat) : Nat :=
  match a with
  | 1 | 4 => 32
  | 2 | 5 => 48
  | _ => 64

/-- Output length of a wrap or unwrap known before it runs (10 R326). -/
def wrapLen (op a len : Nat) : Nat :=
  if op = 7 then len - 8 else if a = 0 then len + 8 else if len ≤ 8 then 16 else 8 * ceilDiv len 8 + 8

/-- The address ranges of a job: source, destination, auxiliary, state (10 R320). -/
def lkRanges (op : Nat) (j : LkJob) : List (Nat × Nat) :=
  let fin := !j.more
  let src := if op = 8 then 0 else j.length + (if op = 4 && j.dir && fin then j.paramA else 0)
  let dst := match op with
    | 1 | 2 | 3 | 8 => j.length
    | 4 => j.length + (if !j.dir && fin then j.paramA else 0)
    | 5 => if j.dir || j.more then 0 else j.paramA
    | 6 | 7 => wrapLen op j.paramA j.length
    | 9 => if j.more then 0 else hashLen j.paramA
    | _ => 0
  let aux := match op with
    | 4 => lkAad op j
    | 5 => if j.dir && fin then j.paramA else 0
    | 8 | 10 => j.auxLen
    | _ => 0
  [(j.src, src), (j.dst, dst), (j.aux, aux), (j.stateIova, if j.cont || j.more then 128 else 0)]

/-- Two ranges have a byte in common. -/
def overlaps (a b : Nat × Nat) : Bool := decide (0 < a.2 ∧ 0 < b.2 ∧ a.1 < b.1 + b.2 ∧ b.1 < a.1 + a.2)

/-- The buffers meet 10 R320. -/
def buffersOk (op : Nat) (j : LkJob) : Bool :=
  match lkRanges op j with
  | [s, t, a, st] =>
    (j.src = j.dst || !overlaps s t) && !overlaps a s && !overlaps a t && !overlaps st s && !overlaps st t
  | _ => true

/-- Check 1 of 10 R328: flags, parameters, unused fields, buffers. -/
def lkShapeOk (op : Nat) (j : LkJob) : Bool :=
  let chained := op = 4 || op = 5 || op = 9
  let paramOk := match op with
    | 4 => decide (12 ≤ j.paramA ∧ j.paramA ≤ 16)
    | 5 => decide (8 ≤ j.paramA ∧ j.paramA ≤ 16)
    | 6 | 7 => decide (j.paramA ≤ 1)
    | 9 => decide (1 ≤ j.paramA ∧ j.paramA ≤ 6)
    | 10 => decide (1 ≤ j.paramA ∧ j.paramA ≤ 2)
    | _ => decide (j.paramA = 0)
  let ivUsed := match op with
    | 1 | 2 | 3 => 16
    | 4 => 12
    | _ => 0
  let lenUsed := op = 4 || op = 8 || op = 10
  (chained || (!j.cont && !j.more)) && (!j.dir || decide (op ≤ 7)) && paramOk && (op = 8 || j.paramB = 0) &&
    allZero (j.iv.drop ivUsed) && (lenUsed || op = 5 || j.aux = 0) && (lenUsed || j.auxLen = 0) && (op ≠ 8 || j.src = 0) &&
    (op ≠ 10 || j.dst = 0) && (chained || j.stateIova = 0) && (op < 9 || j.handle = 0) &&
    decide (j.handle < 2 ^ 20) && buffersOk op j

/-- Check 6 of 10 R328: the lengths. -/
def lkLenOk (op : Nat) (j : LkJob) : Bool :=
  match op with
  | 1 => decide (j.length % 16 = 0 ∧ 16 ≤ j.length ∧ j.length ≤ lkMax)
  | 2 | 3 => decide (1 ≤ j.length ∧ j.length ≤ lkMax)
  | 4 => decide (j.length ≤ lkMax) && (!j.more || j.length % 16 = 0) &&
      (if j.cont then j.auxLen = 0 else decide (j.auxLen ≤ lkMax))
  | 5 => decide (j.length ≤ lkMax) && (!j.more || j.length % 16 = 0)
  | 6 => if j.paramA = 0 then decide (j.length % 8 = 0 ∧ 16 ≤ j.length ∧ j.length ≤ 65536)
         else decide (1 ≤ j.length ∧ j.length ≤ 65536)
  | 7 => decide (j.length % 8 = 0 ∧ (if j.paramA = 0 then 24 else 16) ≤ j.length ∧ j.length ≤ 65544)
  | 8 => decide (1 ≤ j.length ∧ j.length ≤ 4096 ∧ 1 ≤ j.paramB ∧ j.paramB ≤ 32 ∧ j.paramB ≤ j.auxLen ∧
      j.auxLen ≤ j.paramB + 64)
  | 9 => decide (j.length ≤ lkMax) && (!j.more || j.length % hashBlock j.paramA = 0)
  | _ => decide (j.length ≤ lkMax ∧ j.auxLen = (if j.paramA = 1 then 193 else 7219))

/-- The initial counter field of a CTR job. -/
def ctrField (j : LkJob) : Nat := beNat (bytesAt j.iv 12 4)

/-- The slot that holds the key a keyed job names, pinned or cached. -/
def Dev.lkSlot (d : Dev) (op dom : Nat) (j : LkJob) : Option (Nat × Slot) :=
  if op ≤ 8 then (d.findPinned dom j.handle).or (d.findCached dom j.handle) else none

/-- Checks 4 and 5 of 10 R328: a slot holds the handle, and is usable. -/
def lkSlotCheck (s : Option (Nat × Slot)) : Option Nat :=
  match s with
  | none => some eState
  | some (_, s) => if s.state = .valid then none else if s.state = .loading then some eState else some eKeyrev

/-- The lookaside share of a domain (10 R314). -/
def Dev.share (d : Dev) (dom : Nat) : Nat := (d.quota dom).n 9

/-- The record that a CONT job reads, where it opens and its bound values are the job's (10 R325). -/
def lkRecord (d : Dev) (op dom : Nat) (j : LkJob) (slot : Option Nat) : Option StateRec :=
  let gen := match slot with
    | some n => (d.slot n).parentGen
    | none => 0
  d.lk.records.find? (fun x => decide (x.bytes = padTo 128 j.stateData) && x.dom = dom && x.op = op &&
    x.handle = j.handle && x.parentGen = gen)

/-- A GCM chain that the job's plaintext would take past its limit (10 R323). -/
def lkTooLong (d : Dev) (op dom : Nat) (j : LkJob) (slot : Option Nat) : Bool :=
  op = 4 && j.cont && (lkRecord d op dom j slot).any (fun x => decide (2 ^ 36 - 32 < x.chain.count + j.length))

/-- The checks of 10 R328, in order: the status of the first that fails. -/
def lkCheck (op : Nat) (dom : Nat) (j : LkJob) (d : Dev) : Option Nat :=
  let keyed := decide (op ≤ 8)
  let slot := d.lkSlot op dom j
  if !lkShapeOk op j then some eRange
  else if keyed ∧ (!d.handleOk dom j.handle ∨ slot.any (fun e => decide (e.2.attr ≠ 3))) then some ePerm
  else if d.share dom = 0 then some eQuota
  else
    match (if keyed then lkSlotCheck slot else none) with
    | some e => some e
    | none =>
      if !lkLenOk op j || lkTooLong d op dom j (slot.map Prod.fst) then some eLen
      else if op = 2 ∧ 2 ^ 32 - ctrField j < ceilDiv j.length 16 then some eWrap
      else none

/-! ### What the modes compute -/

/-- What a job has computed when its input is done: the data it writes at DST, the status, VALUE, RESULT, COUNTER_END,
and what its chain carries on. -/
structure LkResult where
  data : Bytes := []
  status : Nat := 0
  value : Nat := 0
  result : Bytes := []
  counterEnd : Bool := false
  chain : Chain := {}

/-- SHA-3 absorbs whole blocks. -/
def keccakAbsorb (rate : Nat) (s : List Nat) (data : Bytes) : List Nat :=
  (chunks rate data).foldl (fun s b =>
    keccakF ((List.range 25).map (fun i => Nat.xor (s.getD i 0) (leAt (padTo rate b) (8 * i) 8)))) s

/-- The padding that ends a SHA-3 message. -/
def keccakPad (rate len : Nat) : Bytes :=
  let n := rate - len % rate
  if n = 1 then [0x86] else 0x06 :: (zeros (n - 2) ++ [0x80])

/-- A hash continued: its words after whole blocks. -/
def hashAbsorb (a : Nat) (st : List Nat) (data : Bytes) : List Nat :=
  match a with
  | 1 => (chunks 64 data).foldl (shaBlock sha32) st
  | 2 | 3 => (chunks 128 data).foldl (shaBlock sha64) st
  | _ => keccakAbsorb (hashBlock a) st data

/-- The words a hash starts with. -/
def hashInit (a : Nat) : List Nat :=
  match a with
  | 1 => sha256Init
  | 2 => sha384Init
  | 3 => sha512Init
  | _ => List.replicate 25 0

/-- A hash ended: `count` bytes were taken before. -/
def hashFinal (a : Nat) (st : List Nat) (count : Nat) (data : Bytes) : Bytes :=
  (match a with
   | 1 => shaFrom sha32 st count data
   | 2 | 3 => shaFrom sha64 st count data
   | _ => (keccakAbsorb (hashBlock a) st (data ++ keccakPad (hashBlock a) data.length)).flatMap (fun x => leBytes x 8)).take
    (hashLen a)

/-- GCM over one job of a chain (10 R323). -/
def lkGcmRun (j : LkJob) (key : Bytes) (c : Chain) (data : Bytes) : LkResult :=
  let rks := roundKeys key
  let h := beNat (aesEnc rks (zeros 16))
  let j0 := gcmJ0 (padTo 12 c.iv)
  let ctr := padTo 12 c.iv ++ beBytes (2 + c.count / 16) 4
  let res := ctrMode rks 4 ctr data
  let ct := if j.dir then data else res
  let y := ghash h (c.st.headD 0) ct
  let c' := { c with st := [y], count := c.count + data.length }
  if j.more then { data := res, chain := c' }
  else
    let s := gcmMul (Nat.xor y (beNat (beBytes (8 * c.aad) 8 ++ beBytes (8 * c'.count) 8))) h
    let tag := (xorBytes (aesEnc rks j0) (beBytes s 16)).take j.paramA
    if j.dir then
      { data := res, status := if tag = bytesAt j.srcData j.length j.paramA then 0 else eIntegrity }
    else { data := res ++ tag }

/-- CMAC over one job of a chain (10 R324); the last whole block is held back while more may follow. -/
def lkCmacRun (j : LkJob) (key : Bytes) (c : Chain) (data : Bytes) : LkResult :=
  let rks := roundKeys key
  let st := beBytes (c.st.headD 0) 16
  let msg := c.pend ++ data
  if j.more then
    let n := if msg.length = 0 then 0 else (msg.length - 1) / 16 * 16
    { chain := { c with st := [beNat (cmacChain rks st (chunks 16 (msg.take n)))], pend := msg.drop n,
                        count := c.count + data.length } }
  else
    let mac := (cmacFinish rks st msg).take j.paramA
    if j.dir then { status := if mac = bytesAt j.auxData 0 j.paramA then 0 else eIntegrity } else { data := mac }

/-- The last ciphertext block of CBC or CFB, as the result field returns it (10 R321). -/
def lastBlock (dir : Bool) (inp outp : Bytes) : Bytes :=
  if inp.length % 16 ≠ 0 then zeros 16 else (if dir then inp else outp).drop (inp.length - 16)

/-- What a job computes over its whole input (10 R321 to R327, R332). -/
def lkCompute (op : Nat) (j : LkJob) (key : Bytes) (c : Chain) : LkResult :=
  let rks := roundKeys key
  let data := bytesAt j.srcData 0 j.length
  match op with
  | 1 =>
    let out := if j.dir then cbcDec rks j.iv (chunks 16 data) else cbcEnc rks j.iv (chunks 16 data)
    { data := out, result := lastBlock j.dir data out }
  | 2 =>
    let n := ceilDiv j.length 16
    let fin := ctrField j + n
    { data := ctrMode rks 4 j.iv data, counterEnd := decide (fin = 2 ^ 32),
      result := if fin = 2 ^ 32 then zeros 16 else j.iv.take 12 ++ beBytes fin 4 }
  | 3 =>
    let out := if j.dir then cfbDec rks j.iv (chunks 16 data) else cfbEnc rks j.iv (chunks 16 data)
    { data := out, result := lastBlock j.dir data out }
  | 4 => lkGcmRun j key c data
  | 5 => lkCmacRun j key c data
  | 6 => { data := if j.paramA = 0 then kwSeal key data else kwpSeal key data }
  | 7 =>
    match (if j.paramA = 0 then kwOpen key data else kwpOpen key data) with
    | none => { status := eIntegrity }
    | some p => { data := p, value := p.length }
  | 8 => { data := kdfCmac key (bytesAt j.auxData 0 j.paramB) (bytesAt j.auxData j.paramB (j.auxLen - j.paramB)) j.length }
  | 9 =>
    if j.more then { chain := { c with st := hashAbsorb j.paramA c.st data, count := c.count + data.length } }
    else { data := hashFinal j.paramA c.st c.count data }
  | _ =>
    let ok := if j.paramA = 1 then ecdsaVerify (bytesAt j.auxData 0 97) (sha384 data) (bytesAt j.auxData 97 96)
      else mldsaVerify (bytesAt j.auxData 0 2592) data (bytesAt j.auxData 2592 4627)
    { status := if ok then 0 else eIntegrity }

/-- What a job without CONT starts from. -/
def lkFresh (op : Nat) (j : LkJob) (key : Bytes) : Chain :=
  match op with
  | 4 =>
    let h := beNat (aesEnc (roundKeys key) (zeros 16))
    { st := [ghash h 0 (bytesAt j.auxData 0 j.auxLen)], aad := j.auxLen, iv := j.iv.take 12 }
  | 9 => { st := hashInit j.paramA }
  | _ => {}

/-- The key of a started job. -/
def lkKey (d : Dev) (r : LkRun) : Bytes :=
  match r.slot with
  | some n => (d.slot n).keyBytes
  | none => []

/-- The chain a job works from: at its first segment what its record holds, none where that does not open; later what it
started from then (10 R316). -/
def lkChain (d : Dev) (r : LkRun) : Option Chain :=
  if r.done ≠ 0 then some r.chain
  else if r.job.cont then (lkRecord d r.op r.cmd.dom r.job r.slot).map StateRec.chain
  else some (lkFresh r.op r.job (lkKey d r))

/-! ### Runs -/

def Dev.lkRun (d : Dev) (id : Nat) : Option LkRun := d.lk.runs.find? (fun r => r.id = id)

def setRun (r : LkRun) (d : Dev) : Dev :=
  d.onLk (fun k => { k with runs := modAll (fun x => x.id = r.id) (fun _ => r) k.runs })

def onCore (c : Nat) (f : LkCore → LkCore) (d : Dev) : Dev := d.onLk (fun k => { k with cores := modAt k.cores c f })

/-- A core is free from now on (10 R317). -/
def freeCore (c : Nat) (d : Dev) : Dev := onCore c (fun _ => { job := none, since := d.now, waits := false }) d

/-- The core that holds a job, where one does, is free from now on. -/
def freeCoreOf (id : Nat) (d : Dev) : Dev :=
  d.onLk (fun k => { k with
    cores := k.cores.map (fun x => if x.job = some id then { job := none, since := d.now, waits := false } else x) })

/-- A job ends: its binding ends, its counters count, its completion is posted (10 R334). While the course is HALTED the job
is lost (10 R330). -/
def lkEnd (r : LkRun) (rep : Reply) (d : Dev) : Dev :=
  if d.halted then lkDiscard r d
  else finish r.cmd rep (bump (if rep.status = 0 then 0x0E0 else 0x0E1) r.cmd.dom (lkLeave r d))

/-- The reads of a segment, from `done` over `b` units, page by page (10 R316, R323 to R327). -/
def lkReads (r : LkRun) (b : Nat) : List (Nat × Nat × Bool) :=
  let op := r.op
  let j := r.job
  let aad := lkAad op j
  let lo := r.done - aad
  let hi := r.done + b - aad
  let a0 := min r.done aad
  let a1 := min (r.done + b) aad
  let first := r.done = 0
  let last := r.done + b = lkTotal op j
  let rd (i n : Nat) : List (Nat × Nat × Bool) := (pagesOf i n).map (fun p => (p.1, p.2, false))
  (if first ∧ j.cont then rd j.stateIova 128 else []) ++
  (if op = 4 then rd (j.aux + a0) (a1 - a0) else []) ++
  (if first ∧ (op = 8 ∨ op = 10) then rd j.aux j.auxLen else []) ++
  (if op = 8 then [] else rd (j.src + lo) (hi - lo)) ++
  (if last ∧ !j.more ∧ op = 4 ∧ j.dir then rd (j.src + j.length) j.paramA else []) ++
  (if last ∧ !j.more ∧ op = 5 ∧ j.dir then rd j.aux j.paramA else [])

/-- An ML-DSA verification goes to the public-key unit without a core (10 R332). -/
def LkRun.pkOnly (r : LkRun) : Bool := r.op = 10 && r.job.paramA = 2

/-- Input units of the next segment. Wrapping and unwrapping run in one segment (10 R326), and the public-key unit takes its
message whole. -/
def LkRun.seg (r : LkRun) : Nat :=
  let left := lkTotal r.op r.job - r.done
  if r.op = 6 ∨ r.op = 7 ∨ r.pkOnly then left else min segBytes left

/-- The accesses still to be made for the present segment: its reads, then, once it is processed, its writes. -/
def LkRun.ahead (r : LkRun) : List (Nat × Nat × Bool) :=
  match r.out with
  | some ws => ws.map (fun w => (w.1, w.2.length, true))
  | none => (lkReads r r.seg).drop r.reads

/-- The progress mark: input bytes fully processed, those of the present segment included whose output is written (10 R329). -/
def LkRun.mark (r : LkRun) : Nat := if r.out.isSome then r.done + (r.seg - r.left) else r.done

/-! ### The scheduler (10 R312 to R317) -/

/-- Every earlier job of a job's ring has completed (10 R312). -/
def lkFenceOk (k : LkSt) (r : LkRun) : Bool :=
  !r.job.fence || !k.runs.any (fun x => decide (x.id < r.id) && x.cmd.dom = r.cmd.dom && x.cmd.ring = r.cmd.ring)

/-- Every earlier job of a job's ring has started: jobs of one ring start in its order (10 R312). -/
def lkTurn (k : LkSt) (r : LkRun) : Bool :=
  !k.runs.any (fun x => decide (x.id < r.id) && x.cmd.dom = r.cmd.dom && x.cmd.ring = r.cmd.ring && !x.started)

/-- Contexts in use, or assigned to a job whose core waits for leave (10 R316). -/
def lkContexts (k : LkSt) : Nat := (k.runs.filter (fun r => r.started || decide (r.at_ = .assigned))).length

/-- Runnable (10 R313): not suspended, its FENCE condition holding, and, before its start, its turn come. -/
def lkRunnable (k : LkSt) (r : LkRun) : Bool :=
  !r.kill && (r.started || (lkFenceOk k r && lkTurn k r)) &&
    (match r.at_ with | .suspended _ _ => false | _ => true)

/-- A runnable job that a core may take: it waits for one, and has a context or finds one (10 R316). -/
def lkReady (k : LkSt) (r : LkRun) : Bool :=
  decide (r.at_ = .ready) && lkRunnable k r && (r.started || decide (lkContexts k < 256))

/-- Whether no job may start now (10 R330). -/
def Dev.lkStopped (d : Dev) : Bool := d.lockdown || d.halted || !d.power.ready

/-- Whether a segment of a job may begin now: the key manager gives a core no key in a provisional freeze (16 R474). -/
def Dev.lkMay (d : Dev) (r : LkRun) : Bool := !d.lkStopped && !(d.frozen && r.slot.isSome)

/-- The domain of smallest tag that `p` picks, the lower number among equals. -/
def leastTag (k : LkSt) (p : Nat → Bool) : Option Nat :=
  ((List.range 32).filter p).foldl (fun best x => match best with
    | none => some x
    | some b => if k.tags.getD x 0 < k.tags.getD b 0 then some x else some b) none

/-- The job chosen among those that `p` picks: the domain with the smallest tag, its lowest ring; a started job of the ring before a new one (10 R313,
R314). -/
def lkChoice (p : LkRun → Bool) (k : LkSt) : Option LkRun :=
  (leastTag k (fun dom => k.runs.any (fun r => r.cmd.dom = dom && p r && lkReady k r))).bind (fun dom =>
    [3, 4, 5, 6].findSome? (fun ring =>
      let rs := k.runs.filter (fun r => r.cmd.dom = dom && r.cmd.ring = ring && p r && lkReady k r)
      match rs.find? LkRun.started with
      | some r => some r
      | none => rs.head?))

/-- Internal work of a number. -/
def Dev.intRun (d : Dev) (id : Nat) : Option IntRun := d.lk.internal.find? (fun w => w.id = id)

def setInt (w : IntRun) (d : Dev) : Dev :=
  d.onLk (fun k => { k with internal := modAll (fun x => x.id = w.id) (fun _ => w) k.internal })

def dropInt (id : Nat) (d : Dev) : Dev := d.onLk (fun k => { k with internal := without (fun w => w.id = id) k.internal })

/-- The internal work that the next free core takes: the oldest, while fewer than 2 cores hold internal work (10 R309,
R313). -/
def intChoice (k : LkSt) : Option IntRun :=
  if (k.internal.filter (fun w => decide (w.at_ ≠ .ready))).length < 2 then
    k.internal.find? (fun w => decide (w.at_ = .ready))
  else none

/-- A domain's tag is charged for `b` bytes (10 R314). -/
def lkCharge (dom b : Nat) (d : Dev) : Dev :=
  let w := max 1 (d.share dom)
  d.onLk (fun k => { k with tags := modAt k.tags dom (fun t => (t + b * 65536 / w) % 2 ^ 64), lastDom := dom })

/-- A domain gets its first runnable job after having none: its tag is at least the smallest of the domains already runnable,
or that of the domain dispatched last (10 R314). -/
def lkJoin (dom : Nat) (k : LkSt) : LkSt :=
  let base := match k.active.map (fun x => k.tags.getD x 0) with
    | [] => k.tags.getD k.lastDom 0
    | t :: ts => ts.foldl min t
  { k with tags := modAt k.tags dom (max base), active := k.active ++ [dom] }

/-- The scheduler looks which domains have a runnable job. -/
def lkNote (d : Dev) : Dev :=
  d.onLk (fun k =>
    let now := (List.range 32).filter (fun dom => k.runs.any (fun r => r.cmd.dom = dom && lkRunnable k r))
    let k' := { k with active := k.active.filter now.contains }
    (now.filter (fun x => !k.active.contains x)).foldl (fun k x => lkJoin x k) k')

/-- The suspension of a job on a fault (10 R329). -/
def lkSuspend (r : LkRun) (a : Nat × Nat × Bool) (cause : Nat) (d : Dev) : Dev :=
  let d := raise r.cmd.dom (dmaFaultEvent d 3 a.2.2 cause r.cmd.ring r.cmd.tag.toNat a.1 r.mark) d
  setRun { r with at_ := .suspended cause d.now } d

/-- The first access still to be made that does not translate. -/
def lkBlocked (d : Dev) (r : LkRun) : Option ((Nat × Nat × Bool) × Xl) :=
  r.ahead.findSome? (fun a =>
    match xlat d r.cmd.dom a.1 a.2.2 with
    | .ok _ => none
    | x => some (a, x))

/-- Whether an access translates. -/
def Dev.reaches (d : Dev) (dom : Nat) (a : Nat × Nat × Bool) : Bool :=
  match xlat d dom a.1 a.2.2 with
  | .ok _ => true
  | _ => false

/-- The reads still to be made are issued as far as they translate (10 R329, 13 R411). -/
def lkFetch (r : LkRun) (d : Dev) : LkRun × Dev :=
  if r.out.isSome then (r, d)
  else
    let go := r.ahead.takeWhile (d.reaches r.cmd.dom)
    ({ r with reads := r.reads + go.length, since := d.now }, forEach go (fun a d => dmaRead r.cmd.dom 3 a.1 a.2.1 d) d)

/-- The writes still to be made leave as far as they translate. -/
def lkFlush (r : LkRun) (d : Dev) : LkRun × Dev :=
  let ws := r.out.getD []
  let go := ws.takeWhile (fun w => d.reaches r.cmd.dom (w.1, w.2.length, true))
  ({ r with out := some (ws.drop go.length), left := r.left - (go.map (fun w => w.2.length)).sum },
   forEach go (fun w d => dmaWrite r.cmd.dom 3 w.1 w.2 d) d)

/-- The class of an operation. -/
def PkOp.class : PkOp → Nat
  | .fw _ _ => 1
  | .pair _ _ => 2
  | .job _ => 3

/-- The domain of a queued verification, lookaside jobs alone having one. -/
def Dev.pkDom (d : Dev) (o : PkOp) : Option Nat :=
  match o with
  | .job id => (d.lkRun id).map (fun r => r.cmd.dom)
  | _ => none

/-- The operation that the unit takes next: lowest class, then order of arrival; between domains by tag, the lower domain
among equals (10 R331). No job's operation starts while the cluster may start none (10 R330). -/
def pkNext (d : Dev) : Option PkOp :=
  let q := d.lk.pkQueue
  (q.find? (fun o => o.class = 1)).or ((q.find? (fun o => o.class = 2)).or
    (if d.lkStopped then none
     else (leastTag d.lk (fun dom => q.any (fun o => d.pkDom o = some dom))).bind (fun dom =>
       q.find? (fun o => d.pkDom o = some dom))))

/-- The unit is free: it takes its next operation, charging a job's domain as 65,536 bytes (10 R331). -/
def pkTake (d : Dev) : Dev :=
  match (if d.lkStep then none else pkNext d) with
  | none => d.onLk (fun k => { k with pk := none })
  | some o =>
    let d := d.onLk (fun k => { k with pk := some o, pkQueue := k.pkQueue.erase o })
    match d.pkDom o with
    | some dom => lkCharge dom 65536 d
    | none => d

/-- An operation joins the public-key unit (10 R331), which takes it at once where it is free. -/
def pkAsk (o : PkOp) (d : Dev) : Dev :=
  let d := d.onLk (fun k => { k with pkQueue := k.pkQueue ++ [o] })
  if d.lk.pk.isNone then pkTake d else d

/-- A job whose access meets a dead endpoint ends (13 R387); an unsuccessful read counts (13 R386). -/
def lkDead (r : LkRun) (d : Dev) : Dev :=
  lkEnd r { status := eFault, value := r.mark } (if r.out.isNone then badRead r.cmd.dom d else d)

/-- A started job goes to the reads of its segment; whether the core that holds it keeps it. On an IOTLB miss the core
waits for the walk, since a segment is not interrupted (10 R316, R329). The domain is charged once the segment runs (10
R314). A job that a fault stopped at a write goes on to its writes, which its core makes at its next row. -/
def lkGo (id : Nat) (d : Dev) : Bool × Dev :=
  match d.lkRun id with
  | none => (false, d)
  | some r =>
    let x := lkFetch r d
    let r := x.1
    let d := setRun r x.2
    match lkBlocked d r with
    | some (a, .fault c) => (false, lkSuspend r a c d)
    | some (_, .dead) => (false, lkDead r d)
    | some (_, _) => (!r.pkOnly, setRun { r with at_ := .walking } d)
    | none =>
      if r.out.isSome then (true, setRun { r with at_ := .running } d)
      else
        match lkChain d r with
        | none => (false, lkEnd r (fail eIntegrity) d)
        | some c =>
          if r.done = 0 && lkTooLong d r.op r.cmd.dom r.job r.slot then (false, lkEnd r (fail eLen) d)
          else if r.pkOnly then (false, pkAsk (.job id) (setRun { r with at_ := .pk, chain := c } d))
          else (true, lkCharge r.cmd.dom r.seg (setRun { r with at_ := .running, chain := c } d))

/-- Why a job that the scheduler has reached does not start (10 R304, R328): its slot's key is on its way out, or is gone, or
its chain has grown too long. -/
def lkBarred (d : Dev) (r : LkRun) : Option Nat :=
  match r.slot with
  | none => none
  | some n =>
    if r.lost ∨ (d.slot n).state ≠ .valid then some eKeyrev
    else if lkTooLong d r.op r.cmd.dom r.job r.slot then some eLen
    else none

/-- The start of a segment: a new job is checked again and binds its slot (10 R304, R319, R328), and the key moves to the core
under its complement check. Whether the core keeps the job. -/
def lkBegin (id : Nat) (d : Dev) : Bool × Dev :=
  match d.lkRun id with
  | none => (false, d)
  | some r =>
    let n := r.slot.getD 0
    if r.slot.isSome && !r.lost && !(d.slot n).pairOk then (false, keyMismatch n (lkEnd r (fail eIntegrity) d))
    else
      match (if r.started then none else lkBarred d r) with
      | some e => (false, lkEnd r (fail e) d)
      | none =>
        let d := if !r.started && r.slot.isSome then bindSlot n d else d
        lkGo id (setRun { r with started := true } d)

/-- A core begins the work chosen for it. -/
def lkStartOn (c : Nat) (p : IntRun ⊕ LkRun) (d : Dev) : Dev :=
  match p with
  | .inl w => onCore c (fun x => { x with job := some w.id, waits := false }) (setInt { w with at_ := .running } d)
  | .inr r =>
    let b := lkBegin r.id d
    onCore c (fun x => { x with job := if b.1 then some r.id else none, waits := false }) b.2

/-- Cores that hold work. -/
def busyCores (k : LkSt) : Nat := (k.cores.filter (fun c => c.job.isSome)).length

/-- What a dispatch point chooses: internal work first, then a job (10 R313). -/
def Dev.lkPick (d : Dev) : Option (IntRun ⊕ LkRun) :=
  match intChoice d.lk with
  | some w => some (.inl w)
  | none => (lkChoice d.lkMay d.lk).map .inr

/-- Work is assigned to a core whose leave is asked for. -/
def lkAssign (c : Nat) (p : IntRun ⊕ LkRun) (d : Dev) : Dev :=
  let hold (id : Nat) (d : Dev) : Dev := askLeave (.core c) (onCore c (fun x => { x with job := some id, waits := true }) d)
  match p with
  | .inl w => hold w.id (setInt { w with at_ := .assigned } d)
  | .inr r => hold r.id (setRun { r with at_ := .assigned } d)

/-- A free core takes the work chosen; leave is asked where the core has been idle for 10 µs and others are busy
(10 R317). -/
def lkFill (c : Nat) (d : Dev) : Dev :=
  let core := d.lk.cores.getD c {}
  if core.job.isSome ∨ d.lkStep then d
  else
    match d.lkPick with
    | none => d
    | some p => if core.since + 5000 ≤ d.now ∧ 2 ≤ busyCores d.lk then lkAssign c p d else lkStartOn c p d

/-- Rounds in which every piece of work that waits has had its turn. -/
def lkRounds (d : Dev) : Nat := d.lk.runs.length + d.lk.internal.length + 1

/-- Every free core is filled; a job that ends at once frees its core for the next. -/
def lkDispatch (d : Dev) : Dev :=
  lkNote (iter (fun d => forEach (List.range 8) lkFill (lkNote d)) (lkRounds d) d)

/-- A core that has become free is the first to choose, then every other free core. -/
def lkRefill (c : Nat) (d : Dev) : Dev := lkDispatch (iter (fun d => lkFill c (lkNote d)) (lkRounds d) d)

/-- Internal work enters the cluster (10 R313). -/
def lkInternal (w : IntWork) (d : Dev) : Dev :=
  let id := d.lk.next
  lkDispatch (d.onLk (fun k => { k with internal := k.internal ++ [{ id := id, work := w }], next := id + 1 }))

/-- Leave for a core is granted (10 R317). -/
def lkGranted (c : Nat) (d : Dev) : Dev :=
  let core := d.lk.cores.getD c {}
  let start (p : IntRun ⊕ LkRun) (d : Dev) : Dev :=
    lkDispatch (onCore c (fun x => if x.job.isNone then { x with since := d.now } else x) (lkStartOn c p d))
  match core.job.bind d.intRun, core.job.bind d.lkRun with
  | some w, _ => if core.waits then start (.inl w) d else d
  | none, some r =>
    if !core.waits then d
    else
      let d := setRun { r with at_ := .ready } d
      if !d.lkMay r then onCore c (fun x => { x with job := none, waits := false }) d else start (.inr r) d
  | none, none => lkDispatch (onCore c (fun x => { x with job := none, waits := false }) d)

/-- A job enters the cluster after the checks of 10 R328 have passed; a keyed one waits on the slot that holds its key (10
R319). -/
def lkAccept (c : Cmd) (j : LkJob) (d : Dev) : Dev :=
  let id := d.lk.next
  let r : LkRun := { id := id, cmd := c, job := j }
  let slot := (d.lkSlot r.op c.dom j).map Prod.fst
  lkDispatch (d.onLk (fun k => { k with runs := k.runs ++ [{ r with slot := slot }], next := id + 1 }))

/-- A slot has become FREE: the jobs that wait on the key it held will not find it (09 R304). -/
def lkSlotFreed (n : Nat) (d : Dev) : Dev :=
  d.onLk (fun k => { k with runs := modAll (fun r => !r.started && r.slot = some n) (fun r => { r with lost := true }) k.runs })

/-! ### The end of a segment (10 R316) -/

/-- A fresh state record: 128 bytes that the spec leaves opaque (10 R325). -/
def freshRecord (d : Dev) : Bytes × Dev :=
  ((List.range 128).map (fun i => BitVec.setWidth 8 (Config.freeBits 8 (d.freeCtr * 128 + i))), d.nextFree)

/-- Bytes at an IOVA, one piece per page. -/
def pagePieces (w : Nat × Bytes) : List (Nat × Bytes) :=
  (pagesOf w.1 w.2.length).map (fun p => (p.1, bytesAt w.2 (p.1 - w.1) p.2))

/-- What a segment of `b` units writes (10 R323 to R327): the output of a streaming mode, and at the job's end a tag, a whole
output, zeros over the output where a GCM tag does not match, or the state record. -/
def lkOutput (r : LkRun) (b : Nat) (d : Dev) : List (Nat × Bytes) × Dev :=
  let op := r.op
  let j := r.job
  let aad := lkAad op j
  let lo := r.done - aad
  let hi := r.done + b - aad
  let x := lkCompute op j (lkKey d r) r.chain
  let stream := if op ≤ 4 then [(j.dst + lo, (x.data.drop lo).take (hi - lo))] else []
  if r.done + b ≠ lkTotal op j then (stream, d)
  else
    let tail := if 5 ≤ op then [(j.dst, x.data)]
      else if op = 4 ∧ x.status ≠ 0 then [(j.dst, zeros j.length)]
      else if op = 4 then [(j.dst + j.length, x.data.drop j.length)]
      else []
    if !j.more then (stream ++ tail, d)
    else
      let f := freshRecord d
      let gen := match r.slot with
        | some n => (d.slot n).parentGen
        | none => 0
      let sr : StateRec := { bytes := f.1, dom := r.cmd.dom, op := op, handle := j.handle, parentGen := gen, chain := x.chain }
      (stream ++ [(j.stateIova, f.1)], f.2.onLk (fun k => { k with records := sr :: k.records }))

/-- The last segment of a job is done: result and completion. -/
def lkFinal (r : LkRun) (d : Dev) : Dev :=
  let x := lkCompute r.op r.job (lkKey d r) r.chain
  lkEnd r { status := x.status, value := x.value, flags := if x.counterEnd then 8 else 0, result := x.result } d

/-- The core has processed a segment: its counters count, and its writes are to be made. -/
def lkProcess (c : Nat) (r : LkRun) (d : Dev) : LkRun × Dev :=
  if r.out.isSome then (r, d)
  else
    let b := r.seg
    let o := lkOutput r b d
    let aad := lkAad r.op r.job
    ({ r with out := some (o.1.flatMap pagePieces), left := if r.op ≤ 4 then (r.done + b - aad) - (r.done - aad) else 0 },
     progEvent 0x120 2 c (ceilDiv b 16) (bumpBy 0x0E2 r.cmd.dom b o.2))

/-- A job with input left is set aside in favour of the work that its core has taken (10 R316, R334). -/
def lkPreempted (c : Nat) (r : LkRun) (d : Dev) : Dev :=
  if (d.lk.cores.getD c {}).job.isSome ∧ (d.lkRun r.id).any (fun x => decide (x.at_ = .ready)) then bump 0x0E3 r.cmd.dom d
  else d

/-- A segment is over: the job ends, or goes to the public-key unit, or returns to the scheduler, and the core takes its next
work (10 R313, R316). -/
def lkSegmentOver (c : Nat) (r : LkRun) (d : Dev) : Dev :=
  let d := freeCore c d
  let r' := { r with done := r.done + r.seg, reads := 0, out := none, left := 0 }
  if r'.done = lkTotal r.op r.job then
    if r.op = 10 then lkRefill c (pkAsk (.job r.id) (setRun { r' with at_ := .pk } d))
    else lkRefill c (lkFinal r' (setRun r' d))
  else lkPreempted c r (lkRefill c (setRun { r' with at_ := .ready } d))

/-- The writes of a processed segment leave, as far as they translate; the core waits for a walk, and gives up a job that is
suspended (10 R329). -/
def lkWriteOut (c : Nat) (r : LkRun) (d : Dev) : Dev :=
  let x := lkFlush r d
  let r := x.1
  let d := setRun r x.2
  match lkBlocked d r with
  | none => lkSegmentOver c r d
  | some (a, .fault n) => lkRefill c (freeCore c (lkSuspend r a n d))
  | some (_, .dead) => lkRefill c (freeCore c (lkDead r d))
  | some (_, _) => setRun { r with at_ := .walking } d

/-- A core ends the segment of a job: its output, then what follows a segment. A core whose work has been given up meanwhile is
free; while the course is HALTED, and for a job of a domain in reset, the job is discarded (10 R330, 13 R394). -/
def lkSegmentEnd (c : Nat) (d : Dev) : Dev :=
  let core := d.lk.cores.getD c {}
  match core.job.bind d.lkRun with
  | none => if core.job.isSome then lkRefill c (freeCore c d) else d
  | some r =>
    if core.waits ∨ r.at_ ≠ .running then d
    else if d.halted ∨ r.kill then lkRefill c (lkDiscard r (freeCore c d))
    else
      let x := lkProcess c r d
      lkWriteOut c x.1 x.2

/-- A verification ends in the public-key unit (10 R332); while the course is HALTED the job is lost (10 R330). -/
def lkVerified (id : Nat) (d : Dev) : Dev :=
  match d.lkRun id with
  | none => d
  | some r =>
    if r.at_ ≠ .pk then d
    else if d.halted then lkDiscard r d
    else lkDispatch (lkFinal r (if r.pkOnly then bumpBy 0x0E2 r.cmd.dom r.job.length d else d))

/-! ### Suspended jobs (10 R329) -/

/-- The suspended job of a ring and tag. -/
def Dev.lkSuspended (d : Dev) (dom ring : Nat) (tag : BitVec 32) : Option LkRun :=
  d.lk.runs.find? (fun r => r.cmd.dom = dom && r.cmd.ring = ring && r.cmd.tag = tag &&
    (match r.at_ with | .suspended _ _ => true | _ => false))

/-- The job of a ring and tag that waits for a walk. -/
def Dev.lkWalking (d : Dev) (dom ring : Nat) (tag : BitVec 32) : Option LkRun :=
  d.lk.runs.find? (fun r => r.cmd.dom = dom && r.cmd.ring = ring && r.cmd.tag = tag && decide (r.at_ = .walking))

/-- RESUME of a job: its faulting access is tried again with a fresh walk, where the mode of the domain asks for one; it is
runnable from that access on (10 R329). -/
def lkResume (r : LkRun) (by_ : Cmd) (d : Dev) : Dev :=
  let walk := lkDispatch (setRun { r with at_ := .walking, resumer := some by_ } d)
  match lkBlocked d r with
  | none => lkDispatch (finish by_ {} (setRun { r with at_ := .ready } d))
  | some (_, .walk) | some (_, .fault 3) => walk
  | some (a, .fault c) => lkSuspend r a c (finish by_ (fail eFault) d)
  | some (a, _) => lkSuspend r a 6 (badRead r.cmd.dom (finish by_ (fail eFault) d))

/-- A job goes on: on the core that waits for it, or, after a RESUME, by the scheduler's choice. -/
def lkContinue (id : Nat) (d : Dev) : Dev :=
  match (List.range 8).find? (fun c => (d.lk.cores.getD c {}).job = some id), d.lkRun id with
  | some c, some r =>
    if r.out.isSome then lkWriteOut c r d
    else
      let b := lkGo id d
      if b.1 then b.2 else freeCoreOf id b.2
  | none, some r => setRun { r with at_ := .ready } d
  | _, none => d

/-- The walk of a job ends: the job goes on, or is suspended on its fault and gives up its core. -/
def lkWalked (r : LkRun) (es : List (BitVec 64)) (ok : Bool) (d : Dev) : Dev :=
  let a := match lkBlocked d r with
    | some (a, _) => a
    | none => (0, 0, false)
  let resumed (rep : Reply) (d : Dev) : Dev := match r.resumer with
    | some c => finish c rep d
    | none => d
  let r' := { r with resumer := none }
  match (if ok then walk a.1 a.2.2 es else .error 6) with
  | .ok leaf => lkDispatch (lkContinue r.id (resumed {} (setRun r' (tlbInsert r.cmd.dom a.1 leaf d))))
  | .error cause => lkDispatch (freeCoreOf r.id (lkSuspend r' a cause (resumed (fail eFault) d)))

/-- Jobs suspended on a slot that is torn down end at the teardown boundary (10 R329). -/
def lkSlotTorn (n : Nat) (d : Dev) : Dev :=
  forEach (d.lk.runs.filter (fun r => r.slot = some n && (match r.at_ with | .suspended _ _ => true | _ => false)))
    (fun r d => lkDispatch (lkEnd r (fail eKeyrev) d)) d

/-- ABORT of a job (10 R329). -/
def lkAbort (r : LkRun) (flags : Nat) (d : Dev) : Dev :=
  lkDispatch (lkEnd r { status := eFault, value := r.mark, flags := flags } d)

/-- The jobs of a domain end with its reset: at their next boundary where they run, else at once (13 R394); an operation
of the public-key unit that runs for one ends without effect. -/
def lkKill (dom : Nat) (d : Dev) : Dev :=
  forEach (d.lk.runs.filter (fun r => r.cmd.dom = dom)) (fun r d =>
    if r.at_ = .running then setRun { r with kill := true } d
    else (freeCoreOf r.id (lkDiscard r d)).onLk (fun k => { k with pkQueue := k.pkQueue.erase (.job r.id) })) d

/-- A pair of the slot that a job names does not match as it is read (09 R291, R294). -/
def Dev.lkBadPair (d : Dev) (op dom : Nat) (j : LkJob) : Option Nat :=
  if !lkShapeOk op j || !d.handleOk dom j.handle then none
  else ((d.lkSlot op dom j).filter (fun e => !e.2.pairOk)).map Prod.fst

/-- The body of a lookaside command: the checks, then the cluster, where the job waits while none may start. -/
def lkBody (op : Nat) (j : LkJob) (c : Cmd) (d : Dev) : Dev × Option Reply :=
  match d.lkBadPair op c.dom j, lkCheck op c.dom j d with
  | some n, _ => (keyMismatch n (bump 0x0E1 c.dom d), some (fail eIntegrity))
  | none, some e => (bump 0x0E1 c.dom d, some (fail e))
  | none, none => (lkAccept c j d, none)

end Sys2Proof.Machine
end

