-- ==== Sys2Proof/Machine/Keys.lean ====
section
/-! DEFINITION. The key commands (09, 14), revocation and domain rolls, and the zeroing of slots. A body checks its
command in the order of 14 R434 and answers the device and, where the command ends now, its reply. -/

namespace Sys2Proof.Machine

/-- What a command's body answers. -/
abbrev Answer := Dev × Option Reply

/-- The command ends with a reply and changes nothing. -/
def answer (r : Reply) (d : Dev) : Answer := (d, some r)

/-- The first failing check decides the status. -/
def firstFail : List (Bool × Nat) → Option Nat
  | [] => none
  | (bad, e) :: rest => if bad then some e else firstFail rest

/-- A body that runs once every check has passed. -/
def checked (cs : List (Bool × Nat)) (d : Dev) (go : Dev → Answer) : Answer :=
  match firstFail cs with
  | some e => answer (fail e) d
  | none => go d

/-- Where a blob lies: the IOVA named, or the table's entry. -/
def Dev.blobAddr (d : Dev) (dom h iova : Nat) : Nat :=
  if iova ≠ 0 then iova else (d.obj cBlobTable dom).n 0 + 128 * h

/-- A pinned slot in the domain's quota. -/
def Dev.ownsSlot (d : Dev) (dom n : Nat) : Bool := quotaPinned (d.quota dom) n

/-- The ATTR byte of a slot, coded as in an RKB. -/
def Slot.attrByte (s : Slot) : Nat := b2n s.exportable * 16 + s.keyLen * 8 + s.attr

/-- The encodings of KeyOps are valid. -/
def keyOpsOk (d : Dev) (dom : Nat) (k : KeyOps) : Bool :=
  d.handleOk dom k.handle && decide (k.attr.toNat < 32) && attrOk (k.attr.toNat % 8) &&
    (decide (k.parent ≤ 1023) || k.parent = 0xFFFF) && (decide (k.slot < 16384) || k.slot = 0xFFFF)

/-- The quota of the slot and parent that KeyOps name. -/
def keyOpsOwned (d : Dev) (dom : Nat) (k : KeyOps) : Bool :=
  (k.slot = 0xFFFF || d.ownsSlot dom k.slot) && (k.parent = 0xFFFF || quotaParent (d.quota dom) k.parent)

/-- The slot contents of a key. -/
def keySlot (d : Dev) (dom : Nat) (k : KeyOps) (key : Bytes) : Slot :=
  keyedSlot dom k.handle (k.attr.toNat % 8) (k.attr.toNat / 8 % 2) (k.attr.getLsbD 4) k.parent
    (if k.parent = 0xFFFF then 0 else d.parentGen k.parent) (padTo 32 key)

/-- A slot is read, or its key leaves it for an engine: its pairs are checked first (09 R291, R293). -/
def useKey (n : Nat) (s : Slot) (d : Dev) (go : Dev → Answer) : Answer :=
  if s.pairOk then go d else (keyMismatch n d, some (fail eIntegrity))

/-- The slots that a command reads, each checked first. -/
def useKeys : List (Nat × Slot) → Dev → (Dev → Answer) → Answer
  | [], d, go => go d
  | e :: es, d, go => useKey e.1 e.2 d (fun d => useKeys es d go)

/-- A key is installed in a pinned slot; a cached copy of the handle loses its mark in the same cycle (09 R298). -/
def installPinned (n : Nat) (s : Slot) (d : Dev) : Dev :=
  let c := d.findCached s.dom s.handle
  let d := validRecords s.dom s.handle n (setSlot n s d)
  match c with
  | some (m, _) => handOver m d
  | none => d

/-- The slots that commands whose cipher work, or the writing of whose output, is not done will fill. -/
def Dev.toInstall (d : Dev) : List (Nat × Slot) :=
  d.host.doms.flatMap (fun D => D.works.filterMap (fun w => w.reply.bind (fun r => r.install))) ++
    d.lk.internal.filterMap (fun w => match w.work with
      | .key _ r => r.install
      | _ => none)

/-- Checks of a named slot before an install: FREE and not promised, and the handle pinned nowhere else (09 R295,
R305). -/
def slotFails (d : Dev) (dom : Nat) (k : KeyOps) : List (Bool × Nat) :=
  if k.slot = 0xFFFF then []
  else
    let soon := d.toInstall
    [(decide ((d.slot k.slot).state ≠ .free) || soon.any (fun e => decide (e.1 = k.slot)), eBusy),
     ((d.findPinned dom k.handle).any (fun e => decide (e.1 ≠ k.slot)) ||
        soon.any (fun e => e.2.dom = dom && e.2.handle = k.handle && decide (e.1 ≠ k.slot)), eConflict)]

/-- A key of the domain that a command uses: pinned, usable, of the attribute needed (09 R305). -/
def keyFails (d : Dev) (dom handle attr : Nat) : List (Bool × Nat) :=
  match d.findPinned dom handle with
  | none => [(true, eState)]
  | some (_, s) =>
    [(decide (s.state = .orphaned ∨ s.state = .retiring ∨ s.state = .zeroing), eKeyrev),
     (decide (s.state ≠ .valid), eState), (decide (s.attr ≠ attr), ePerm)]

/-- A body runs once the checks `pre` of encodings and privilege have passed and every pair of the slots that it reads has
matched. -/
def reading (pre : List (Bool × Nat)) (slots : List (Nat × Slot)) (d : Dev) (go : Dev → Answer) : Answer :=
  checked pre d (fun d => useKeys slots d go)

/-- The slot that KeyOps name, as it stands. -/
def Dev.slotAt (d : Dev) (n : Nat) : List (Nat × Slot) := if n < 16384 then [(n, d.slot n)] else []

/-- The slot a command's key lies in. -/
def Dev.keyOf (d : Dev) (dom handle : Nat) : Nat × Slot := (d.findPinned dom handle).getD (0, {})

/-- What a command that has made a key answers: the blob, and the slot it fills. -/
def keyReply (dom : Nat) (k : KeyOps) (key : Bytes) (d : Dev) : Reply :=
  let b := sealBlob k.attr dom k.handle k.parent k.ownerTag key d
  { outs := [(b.2.blobAddr dom k.handle k.blobIova, b.1)],
    install := if k.slot = 0xFFFF then none else some (k.slot, keySlot b.2 dom k key)
    sealGen := b.2.domGen dom }

/-- A made key is sealed, written, and then installed where a slot is named (09 R305). The DWK that moves into the wrap
engine is checked first (09 R293). -/
def makeKey (dom : Nat) (k : KeyOps) (key : Bytes) (d : Dev) : Answer :=
  if d.dwkOk dom then
    ((sealBlob k.attr dom k.handle k.parent k.ownerTag key d).2, some (keyReply dom k key d))
  else (raiseAlarm 10 0 d, some (fail eIntegrity))

/-- A product whose generations have moved on since it was sealed, or whose slot has left the domain's quota, is never
installed (09 R303, R304). -/
def installProduct (r : Reply) (d : Dev) : Dev :=
  match r.install with
  | some (n, s) => if d.gensHold s.dom r.sealGen s.parent s.parentGen ∧ d.ownsSlot s.dom n then installPinned n s d else d
  | none => d

/-- Key bytes of KEY_LEN. -/
def makeLen (k : KeyOps) : Nat := if k.attr.getLsbD 3 then 32 else 16

/-- The checks common to the commands that make a key; `more` says that another operand's encoding is invalid. -/
def makeFails (d : Dev) (dom : Nat) (k : KeyOps) (more : Bool) : List (Bool × Nat) :=
  [(!keyOpsOk d dom k || more, eRange), (!keyOpsOwned d dom k, ePerm), (dom = dmCode && k.blobIova = 0, ePerm)]

/-- ROOT_LOST, where R281 names the command. -/
def rootFail (d : Dev) : Bool × Nat := (decide (d.keys.root = 2), eIntegrity)

/-- KEY_GENERATE. -/
def keyGenerateBody (c : Cmd) (k : KeyOps) (d : Dev) : Answer :=
  reading (makeFails d c.dom k false) (d.slotAt k.slot) d (fun d =>
    checked ([rootFail d] ++ slotFails d c.dom k) d (fun d =>
      let r := draw (makeLen k) d
      makeKey c.dom k r.1 r.2))

/-- The checks of KEY_IMPORT after those of its operands. -/
def importFails (d : Dev) (dom : Nat) (k : KeyOps) (kek length : Nat) : List (Bool × Nat) :=
  [rootFail d] ++ keyFails d dom kek 5 ++
    [(decide (length ≠ 24 ∧ length ≠ 40), eLen), (decide (length ≠ makeLen k + 8), eLen)] ++ slotFails d dom k

/-- FORM: 0 KW, 1 KWP (09 R305). -/
def unwrapKey (form : Nat) (kek b : Bytes) : Option Bytes := if form = 0 then kwOpen kek b else kwpOpen kek b
def wrapKey (form : Nat) (kek b : Bytes) : Bytes := if form = 0 then kwSeal kek b else kwpSeal kek b

/-- KEY_IMPORT. -/
def keyImportBody (c : Cmd) (k : KeyOps) (kek form length : Nat) (data : Bytes) (d : Dev) : Answer :=
  reading (makeFails d c.dom k (!d.handleOk c.dom kek || decide (1 < form))) ((d.findPinned c.dom kek).toList ++ d.slotAt k.slot) d
    (fun d => checked (importFails d c.dom k kek length) d (fun d =>
      match unwrapKey form (d.keyOf c.dom kek).2.keyBytes (bytesAt data 0 length) with
      | some key => if key.length = (makeLen k) then makeKey c.dom k key d else answer (fail eIntegrity) d
      | none => answer (fail eIntegrity) d))

/-- The checks of KEY_DERIVE after those of its operands. -/
def deriveFails (d : Dev) (dom : Nat) (k : KeyOps) (source labelLen contextLen : Nat) : List (Bool × Nat) :=
  [rootFail d] ++ keyFails d dom source 4 ++
    [(decide (labelLen = 0 ∨ 32 < labelLen ∨ 64 < contextLen), eLen)] ++ slotFails d dom k

/-- KEY_DERIVE. -/
def keyDeriveBody (c : Cmd) (k : KeyOps) (source labelLen contextLen : Nat) (data : Bytes) (d : Dev) : Answer :=
  reading (makeFails d c.dom k (!d.handleOk c.dom source)) ((d.findPinned c.dom source).toList ++ d.slotAt k.slot) d
    (fun d => checked (deriveFails d c.dom k source labelLen contextLen) d (fun d =>
      makeKey c.dom k (kdfCmac (d.keyOf c.dom source).2.keyBytes (bytesAt data 0 labelLen) (bytesAt data labelLen contextLen)
        (makeLen k)) d))

/-- The checks of KEY_WRITE_CLEAR before those of its slot. -/
def clearFails (d : Dev) (dom : Nat) (k : KeyOps) (sealed : Bool) : List (Bool × Nat) :=
  [(!keyOpsOk d dom k || k.slot = 0xFFFF, eRange), (!keyOpsOwned d dom k, ePerm),
   (!d.grant dom 0 || dom = dmCode, ePerm), (sealed && decide (d.keys.root = 2), eIntegrity)]

/-- The check of the 64 bytes: a key field and its complement (09 R305). -/
def complementFails (data : Bytes) : List (Bool × Nat) :=
  [(decide (bytesAt data 32 32 ≠ invBytes (bytesAt data 0 32)), eIntegrity)]

/-- The key of the field: a 128-bit key is its first 16 bytes (09 R287). -/
def clearKey (k : KeyOps) (data : Bytes) : Bytes := (bytesAt data 0 32).take (makeLen k)

/-- KEY_WRITE_CLEAR; without the seal flag, repeating it while the key stands changes nothing (14, ABSOLUTE). -/
def keyWriteClearBody (c : Cmd) (k : KeyOps) (sealed : Bool) (data : Bytes) (d : Dev) : Answer :=
  let s := keySlot d c.dom k (clearKey k data)
  reading (clearFails d c.dom k sealed) (d.slotAt k.slot) d (fun d =>
    if !sealed && decide ({ d.slot k.slot with binds := 0 } = s) then checked (complementFails data) d (answer {})
    else checked (slotFails d c.dom k ++ complementFails data) d (fun d =>
      if sealed then makeKey c.dom k (clearKey k data) d else (installPinned k.slot s d, some {})))

/-- The checks of KEY_PIN before those of its slot. -/
def pinFails (d : Dev) (dom handle slot blobIova : Nat) : List (Bool × Nat) :=
  [(!d.handleOk dom handle || decide (16384 ≤ slot), eRange), (!d.ownsSlot dom slot, ePerm),
   (dom = dmCode && blobIova = 0, ePerm), rootFail d]

/-- What KEY_PIN names, as the operands of a command that makes a key. -/
def pinOps (handle slot blobIova : Nat) : KeyOps :=
  { handle := handle, attr := 0, parent := 0xFFFF, slot := slot, ownerTag := [], blobIova := blobIova }

/-- KEY_PIN (09 R298, R306). -/
def keyPinBody (c : Cmd) (handle slot blobIova : Nat) (blob : Bytes) (d : Dev) : Answer :=
  reading (pinFails d c.dom handle slot blobIova) (d.slotAt slot) d (fun d =>
    let s := d.slot slot
    if s.state = .valid ∧ s.dom = c.dom ∧ s.handle = handle then answer {} d
    else
      checked (slotFails d c.dom (pinOps handle slot blobIova)) d (fun d =>
        match openBlob d c.dom handle blob none with
        | .error cause => answer (fail (openStatus cause)) (dwkAlarm cause d)
        | .ok s => (installPinned slot s d, some {})))

/-- Whether the slot of a pinned key is in a use that forbids unpinning (09 R299). -/
def Dev.pinUsed (d : Dev) (n : Nat) : Bool :=
  let s := d.slot n
  let ll := (d.table cSa).any (fun e =>
    let sc := if e.2.b 1 then d.obj cRxSc (e.2.n 2) else d.obj cTxSc (e.2.n 2)
    e.2.n 4 = s.handle && d.saOwner e.1 = some s.dom && decide ((d.obj cLlPair ((d.obj cSecy (sc.n 1)).n 1)).f ≠ []))
  let smv := d.smv.any (fun g => g.txSlot = some n || g.nextSlot = some n || g.rx.any (fun r => r.slot = some n) || g.release.contains n)
  let bound := d.keys.parents.any (fun e => e.2.slot = n)
  ll || smv || bound

/-- KEY_UNPIN. -/
def keyUnpinBody (c : Cmd) (slot : Nat) (d : Dev) : Answer :=
  reading [(decide (16384 ≤ slot), eRange), (!d.ownsSlot c.dom slot, ePerm)] (d.slotAt slot) d (fun d =>
    checked [(decide ((d.slot slot).state ≠ .valid ∧ (d.slot slot).state ≠ .loading), eState),
      (d.pinUsed slot, eConflict)] d (fun d => (retireSlot false slot d, some {})))

/-- KEY_EVICT; FOUND is bit 2 of FLAGS. -/
def keyEvictBody (c : Cmd) (handle : Nat) (d : Dev) : Answer :=
  reading [(!d.handleOk c.dom handle, eRange)] ((d.findPinned c.dom handle).toList ++ (d.findCached c.dom handle).toList) d
    (fun d => checked [((d.findPinned c.dom handle).isSome, eState)] d (fun d =>
      match d.findCached c.dom handle with
      | some (n, s) =>
        if s.state = .retiring ∨ s.state = .zeroing then answer {} d
        else (retireSlot false n d, some { flags := 4 })
      | none => answer {} d))

/-- The slot, pinned or cached, that holds a handle; one in use before one on its way out. -/
def Dev.anySlot (d : Dev) (dom handle : Nat) : Option (Nat × Slot) :=
  let c := d.findCached dom handle
  match d.findPinned dom handle with
  | none => c
  | some p => if !p.2.live && c.any (fun e => e.2.live) then c else some p

/-- The checks of KEY_EXPORT after those of its operands. -/
def exportFails (d : Dev) (dom handle kek : Nat) : List (Bool × Nat) :=
  let s := d.anySlot dom handle
  let st := (s.map (fun e => e.2.state)).getD .free
  [rootFail d, (s.isNone, eState), (decide (st = .orphaned ∨ st = .retiring ∨ st = .zeroing), eKeyrev),
   (!(s.map (fun e => e.2.exportable)).getD false, ePerm)] ++ keyFails d dom kek 5

/-- KEY_EXPORT. -/
def keyExportBody (c : Cmd) (handle kek form iova : Nat) (d : Dev) : Answer :=
  reading [(!d.handleOk c.dom handle || !d.handleOk c.dom kek || decide (1 < form), eRange)]
    ((d.anySlot c.dom handle).toList ++ (d.findPinned c.dom kek).toList) d
    (fun d => checked (exportFails d c.dom handle kek) d (fun d =>
      let out := wrapKey form (d.keyOf c.dom kek).2.keyBytes ((d.anySlot c.dom handle).getD (0, {})).2.keyBytes
      (d, some { value := out.length, outs := [(iova, out)] })))

/-- The depth that a binding of a slot gives (09 R301): none where its key's parent is not bound. -/
def Dev.depthOf (d : Dev) (s : Slot) : Option Nat :=
  if s.parent = 0xFFFF then some 1 else (d.keys.parents.find s.parent).map (fun b => b.depth + 1)

/-- KEY_PARENT_BIND. -/
def keyParentBindBody (c : Cmd) (entry slot : Nat) (d : Dev) : Answer :=
  let s := d.slot slot
  reading [(decide (1023 < entry ∨ 16384 ≤ slot), eRange),
      (!quotaParent (d.quota c.dom) entry || !d.ownsSlot c.dom slot, ePerm)] (d.slotAt slot) d (fun d =>
    if (d.keys.parents.find entry).any (fun b => b.slot = slot) then answer {} d
    else checked [((d.keys.parents.find entry).isSome || d.keys.parents.any (fun e => e.2.slot = slot), eBusy),
        (decide (s.state = .orphaned ∨ s.state = .retiring ∨ s.state = .zeroing), eKeyrev),
        (decide (s.state ≠ .valid), eState), ((d.depthOf s).isNone, eState),
        (decide (3 < (d.depthOf s).getD 0), eRange)] d (fun d =>
      (d.onKeys (fun k => { k with parents := k.parents.put entry { slot := slot, depth := (d.depthOf s).getD 1 } }), some {})))

/-! ### Revocation (09 R301 to R303) -/

/-- VALID and LOADING slots that `p` picks enter ORPHANED; they keep their marks. -/
def orphan (p : Nat → Slot → Bool) (d : Dev) : List Nat × Dev :=
  let hit := (d.keys.slots.filter (fun e => (e.2.state = .valid || e.2.state = .loading) && p e.1 e.2)).map Prod.fst
  (hit, forEach hit (fun n d => onSlot n (Slot.goTo .orphaned) d) d)

/-- Entries bound to slots of a list. -/
def Dev.boundTo (d : Dev) (ns : List Nat) : List Nat :=
  (d.keys.parents.filter (fun e => ns.contains e.2.slot)).map Prod.fst

/-- Fetches whose blob is open under a revoked parent end with cause GENERATION (09 R301). -/
def abandonOpened (p : Slot → Bool) (d : Dev) : Dev :=
  forEach [0, 1] (fun sl d =>
    let rs := ((d.msec.recs.getD sl []).filter (fun e =>
      match e.2.fetch with | .opened s => p s | _ => false)).map Prod.fst
    forEach rs (fun r d => failFetch sl r 4 d) d) d

/-- One entry is revoked: GEN, scan, unbinding; the slots orphaned. -/
def revokeOne (p : Nat) (d : Dev) : List Nat × Dev :=
  let b := (d.keys.parents.find p).map ParentBind.slot
  let d := d.onMram (fun m => { m with parentGen := Tbl.set 1 p (min (2 ^ 32 - 1) (d.parentGen p + 1)) m.parentGen })
  let d := abandonOpened (fun s => s.parent = p) d
  let r := orphan (fun n s => s.parent = p || b = some n) d
  (r.1, r.2.onKeys (fun k => { k with parents := k.parents.drop p }))

/-- Entries are revoked with the cascade, at most three passes: entries revoked and slots orphaned (09 R301). -/
def revokeAll : Nat → List Nat → Dev → Nat × List Nat × Dev
  | 0, _, d => (0, [], d)
  | n + 1, ps, d =>
    let r := ps.foldl (fun (st : List Nat × Dev) p => let x := revokeOne p st.2; (st.1 ++ x.1, x.2)) ([], d)
    let next := r.2.boundTo r.1
    if next = [] then (ps.length, r.1, r.2)
    else
      let x := revokeAll n next r.2
      (ps.length + x.1, r.1 ++ x.2.1, x.2.2)

/-- A teardown waits for its boundary. -/
def addTeardown (t : Teardown) (d : Dev) : Dev := d.onKeys (fun k => { k with teardowns := k.teardowns ++ [t] })

/-- KEY_REVOKE: completes at the teardown boundary. -/
def keyRevokeBody (c : Cmd) (entry : Nat) (d : Dev) : Answer :=
  checked [(decide (1023 < entry), eRange), (!quotaParent (d.quota c.dom) entry, ePerm),
      (decide (d.parentGen entry = 2 ^ 32 - 1), eWrap)] d (fun d =>
    let r := revokeAll 4 [entry] d
    (addTeardown { dom := c.dom, first := entry, entries := r.1, slots := r.2.1, cmd := some c } r.2.2, none))

/-- KEY_DOMAIN_ROLL: the scan waits for leave (09 R303). -/
def keyDomainRollBody (c : Cmd) (target : Nat) (d : Dev) : Answer :=
  checked [(decide (32 < target), eRange), (decide (c.dom ≠ d.sup), ePerm),
      (decide (d.domGen target = 2 ^ 32 - 1), eWrap)] d (fun d =>
    (askLeave (.rollScan target) (d.onKeys (fun k => { k with rolls := k.rolls ++ [(c, target)] })), none))

/-- The roll of a domain once its leave is granted. -/
def doRoll (dom : Nat) (d : Dev) : Dev :=
  match d.keys.rolls.find? (fun r => r.2 = dom) with
  | none => d
  | some (c, _) =>
    let d := d.onKeys (fun k => { k with rolls := dropFirst (fun r => r.2 = dom) k.rolls })
    if d.domGen dom = 2 ^ 32 - 1 then finish c (fail eWrap) d
    else
      let d := d.onMram (fun m => { m with domGen := modAt m.domGen dom (· + 1), sealEnd := m.sealEnd.set dom 0 })
      let d := d.onKeys (fun k => { k with sealCtr := k.sealCtr.set dom 0 })
      let d := if d.keys.root = 2 then d else loadDwk dom d
      let d := d.onLk (fun k => { k with records := without (fun r => r.dom = dom) k.records })
      let d := abandonOpened (fun s => s.dom = dom) d
      let r := orphan (fun _ s => s.dom = dom && s.parent = 0xFFFF) d
      let x := revokeAll 4 (r.2.boundTo r.1) r.2
      addTeardown { dom := dom, first := 0xFFFF, entries := x.1, slots := r.1 ++ x.2.1, cmd := some c } x.2.2

/-- What KEY_STATUS answers of a slot; all ones in VALUE where no slot holds the handle (14, KEY_STATUS result). -/
def slotReply (d : Dev) (n : Option Nat) (s : Slot) : Reply :=
  { value := n.getD 0xFFFFFFFF,
    result := leBytes (slotStNum s.state) 1 ++ leBytes s.attrByte 1 ++ leBytes s.dom 1 ++ leBytes d.keys.root 1 ++
      leBytes s.handle 3 ++ [0] ++ leBytes s.parent 2 ++ leBytes s.binds 2 ++ leBytes s.parentGen 4 }

/-- KEY_STATUS (14, KEY_STATUS result). -/
def keyStatusBody (c : Cmd) (kind ident : Nat) (d : Dev) : Answer :=
  match kind with
  | 0 => reading [(!d.handleOk c.dom ident, eRange)] (d.anySlot c.dom ident).toList d (fun d =>
      match d.anySlot c.dom ident with
      | some (n, s) => answer (slotReply d (some n) s) d
      | none => answer (slotReply d none {}) d)
  | 1 => reading [(decide (16384 ≤ ident), eRange)] (d.slotAt ident) d (fun d =>
      checked [(decide ((d.slot ident).state ≠ .free ∧ (d.slot ident).dom ≠ c.dom), ePerm)] d
        (answer (slotReply d (some ident) (d.slot ident))))
  | 2 => checked [(decide (1023 < ident), eRange), (!quotaParent (d.quota c.dom) ident, ePerm)] d (fun d =>
      let b := d.keys.parents.find ident
      answer { result := leBytes c.dom 1 ++ leBytes ((b.map ParentBind.depth).getD 0) 1 ++
        leBytes ((b.map ParentBind.slot).getD 0xFFFF) 2 ++ leBytes (d.parentGen ident) 4 } d)
  | _ => answer (fail eRange) d

/-- A new Hemuner session begins (13 R422): DM's tag history is empty and its events are numbered from 0 (14 R432,
R436). -/
def newSession (d : Dev) : Dev :=
  let r := draw 8 d
  let e := r.2.onDom dmCode (fun D => { D with evtIndex := 0, evtGap := false })
  let r := (r.1, e.onRing dmCode 0 (fun x => { x with history := [] }))
  r.2.onHem (fun h => { h with session := BitVec.ofNat 64 (leNat r.1), high := 0, window := 0, seq := 0 })

/-- The management key, its complement and its identifier enter the vault (13 R426). -/
def setMgmtKey (ident : Nat) (key : Bytes) (d : Dev) : Dev :=
  d.onVault (fun v => { v with
    check := 0x96C35A0FF05A3C69, mgmtKey := key, mgmtKeyN := invBytes key, mgmtId := BitVec.ofNat 64 ident })

/-- KEY_MGMT_SET: the completion is sent under the old key (13 R426). Repeated while that key holds, it changes nothing (14
R435). -/
def keyMgmtSetBody (c : Cmd) (ident form kek length : Nat) (data : Bytes) (d : Dev) : Answer :=
  reading [(decide (ident = 0 ∨ 1 < form) || (form = 0 && !d.handleOk c.dom kek), eRange), (decide (c.dom ≠ d.sup), ePerm),
      (form = 1 && (!d.grant c.dom 0 || c.dom = dmCode), ePerm)] (if form = 0 then (d.findPinned c.dom kek).toList else []) d
    (fun d => checked ((if form = 0 then keyFails d c.dom kek 5 else []) ++
      [(decide (length ≠ (if form = 0 then 40 else 32)), eLen)]) d (fun d =>
      let set (key : Bytes) : Answer :=
        if d.vault.mgmtId.toNat = ident ∧ d.vault.mgmtKey = key ∧ d.mgmtOk then answer {} d
        else (newSession (setMgmtKey ident key (hemSeal (finish c {} d))), none)
      if form = 1 then set (bytesAt data 0 32)
      else
        match kwOpen (d.keyOf c.dom kek).2.keyBytes (bytesAt data 0 40) with
        | some key => set key
        | none => answer (fail eIntegrity) d))

/-! ### Zeroing (09 R294, R302) -/

/-- Leave for the zeroing of a large set is granted, for those of its slots too that are still bound. -/
def zeroGranted (d : Dev) : Dev :=
  d.onKeys (fun k => { k with slots := k.slots.map (fun e => (e.1, { e.2 with waits := false })) })

/-- A ZEROING slot's key and complement are written zero, and it becomes FREE (09 R294). -/
def zeroingDone (n : Nat) (d : Dev) : Dev :=
  let s := d.slot n
  if s.state = .zeroing ∧ !s.waits then lkSlotFreed n (setSlot n {} d) else d

/-- ZEROING_DONE. -/
def execZeroingDone (slot : Nat) (s : State) : Host.Outcome State Fault Refusal := .next (s.onDev (zeroingDone slot))

/-- The first `n` teardowns, those begun before this boundary, reach it: marks cleared, events, completions. Where all of
them together tear down more than 256 slots, the zeroing waits for the one leave asked (09 R302, R303). -/
def teardownBoundary (n : Nat) (d : Dev) : Dev :=
  let ts := d.keys.teardowns.take n
  let d := d.onKeys (fun k => { k with teardowns := k.teardowns.drop n })
  let all := (ts.flatMap Teardown.slots).eraseDups.filter (fun n => (d.slot n).state = .orphaned)
  let big := decide (256 < all.length)
  let d := if big then askLeave .zeroSlots d else d
  forEach ts (fun t d =>
    let live := t.slots.filter (fun n => (d.slot n).state = .orphaned)
    let d := forEach live (fun n d => lkSlotTorn n (retireSlot big n d)) d
    let d := bumpBy 0x0D3 t.dom live.length d
    let d := raise t.dom (d.event 0x0402 [(16, 2, t.first), (18, 2, t.entries), (20, 4, live.length)]) d
    match t.cmd with
    | some c => finish c { value := live.length } d
    | none => d) d

end Sys2Proof.Machine
end

