-- ==== Sys2Proof/Machine/Pairing.lean ====
section
/-! DEFINITION. Out-of-box pairing of a Smivia group (08 R266 to R274), its handshake units (R264, R265), and the epoch
commands (R258 to R262). -/

namespace Sys2Proof.Machine

/-! ### The group -/

/-- The staged parameters of a group (04 R127, 08 R249). -/
def Dev.smvObj (d : Dev) (slice : Nat) : Obj := d.obj cSmvGroup slice

def Dev.smvChannel (d : Dev) (slice : Nat) : Nat := (d.smvObj slice).n 1

/-- KEY_MODE is PAIRED. -/
def Dev.paired (d : Dev) (slice : Nat) : Bool := (d.smvObj slice).b 17

/-- Lanes of a group. -/
def Dev.groupWidth (d : Dev) (slice : Nat) : Nat := popCount 8 (d.groupLanes slice)

/-- The successor of an epoch (08 R248). -/
def epochAfter (e : Nat) : Nat := if e = 65535 then 1 else e + 1

/-- The slots that a group's registers name, and those it has still to release. -/
def Group.slotsHeld (g : Group) : List Nat :=
  ([g.txSlot, g.nextSlot] ++ g.rx.map RxReg.slot).filterMap id ++ g.release

/-- An RX register of a group is written or released. -/
def setRx (slice i : Nat) (r : RxReg) (d : Dev) : Dev := d.onGroup slice (fun g => { g with rx := g.rx.set i r })

def Dev.rxReg (d : Dev) (slice i : Nat) : RxReg := (d.group slice).rx.getD i {}

/-- An RX register is released with its slot. -/
def dropRx (slice i : Nat) (d : Dev) : Dev :=
  let r := d.rxReg slice i
  releaseOpt slice r.slot (setRx slice i {} d)

/-! ### What a pairing sends and derives -/

def deviceId : Bytes := (List.range 16).map Config.deviceIdByte

/-- A message as sent: its length, then its content (08 R269). -/
def pairMsg (content : Bytes) : Bytes := beBytes content.length 2 ++ content

/-- Segments of a message. -/
def pairSegs (len : Nat) : Nat := ceilDiv (len + 2) 12

/-- A segment as a handshake unit. -/
def pairUnit (code seg : Nat) (content : Bytes) : Bytes :=
  [0x10, BitVec.ofNat 8 code] ++ beBytes seg 2 ++ bytesAt (pairMsg content) (12 * seg) 12

/-- A scalar of P-384 from 48 bytes drawn. -/
def drawScalar (bs : Bytes) : Nat := beNat bs % (p384n - 1) + 1

/-- HELLO (08 R268). -/
def helloOf (rekey : Bool) (epoch : Nat) (nonce : Bytes) (scalar kem : Nat) : Bytes :=
  [0x01, BitVec.ofNat 8 (b2n rekey)] ++ deviceId ++ beBytes epoch 2 ++ nonce ++ ecBytes (ecMul (some p384g) scalar 384) ++
    mlkemKey ((List.range 64).map (Config.drawByte kem))

/-- The epoch of a HELLO, its ECDH key and its encapsulation key. -/
def helloEpoch (h : Bytes) : Nat := beAt h 18 2
def helloPoint (h : Bytes) : Bytes := bytesAt h 52 97
def helloKem (h : Bytes) : Bytes := bytesAt h 149 1568

/-- The counter mode of SP 800-108 with HMAC-SHA-384, up to 48 bytes (08 R270). -/
def smvExpand (prk : Bytes) (label : Bytes) (chan epoch len : Nat) : Bytes :=
  (hmac384 prk (beBytes 1 4 ++ label ++ [0] ++ beBytes chan 4 ++ beBytes epoch 2 ++ beBytes (8 * len) 4)).take len

/-- Labels smv-i2r, smv-r2i, smv-fin, smv-auth. -/
def labelI2R : Bytes := [0x73, 0x6D, 0x76, 0x2D, 0x69, 0x32, 0x72]
def labelR2I : Bytes := [0x73, 0x6D, 0x76, 0x2D, 0x72, 0x32, 0x69]
def labelFin : Bytes := [0x73, 0x6D, 0x76, 0x2D, 0x66, 0x69, 0x6E]
def labelAuth : Bytes := [0x73, 0x6D, 0x76, 0x2D, 0x61, 0x75, 0x74, 0x68]

/-- Two messages in the order initiator, responder. -/
def inOrder (initiator : Bool) (mine peer : Bytes) : Bytes := if initiator then mine ++ peer else peer ++ mine

/-- TH (08 R270). -/
def pairTh (p : Pairing) : Bytes :=
  sha384 (sha384 (inOrder p.initiator (pairMsg p.myHello) (pairMsg p.peerHello)) ++
    inOrder p.initiator (pairMsg p.myKem) (pairMsg p.peerKem))

/-- PRK: the ECDH secret, then the ML-KEM secrets of KEM_I and of KEM_R. -/
def pairPrk (p : Pairing) (th : Bytes) : Bytes :=
  let sse := match ecPoint (helloPoint p.peerHello) with
    | some q => ecdhX p.ecdh q
    | none => zeros 48
  let theirs : Bytes := mlkemDecaps ((List.range 64).map (Config.drawByte p.kemDraw)) p.peerKem
  hmac384 th (sse ++ inOrder p.initiator p.ssMine theirs)

/-- What an AUTH message signs: the role's hash over TH. -/
def authDigest (initiator : Bool) (th : Bytes) : Bytes := sha384 (labelAuth ++ [if initiator then 1 else 2] ++ th)

/-- The FINISHED value of a role. -/
def pairFinished (p : Pairing) (chan : Nat) (initiator : Bool) : Bytes :=
  hmac384 (smvExpand p.prk labelFin chan p.epoch 48)
    ([if initiator then 1 else 2] ++ sha384 (p.th ++ inOrder p.initiator (pairMsg p.myAuth) (pairMsg p.peerAuth)))

/-- The transmit key of the initiator or of the responder. -/
def pairKey (p : Pairing) (chan : Nat) (initiator : Bool) : Bytes :=
  smvExpand p.prk (if initiator then labelI2R else labelR2I) chan p.epoch 32

/-! ### States -/

def onPair (slice : Nat) (f : Pairing → Pairing) (d : Dev) : Dev := d.onGroup slice (fun g => { g with pair := f g.pair })

/-- The exchange ends in BACKOFF; an ABORT is sent where `send` holds its cause (08 R272). -/
def pairFail (slice cause : Nat) (send : Option Nat) (d : Dev) : Dev :=
  let p := (d.group slice).pair
  let d := pairEvent slice 1 cause p.epoch p.peerId (bump 0x0C6 slice d)
  let d := if p.st = .finish ∧ (d.rxReg slice (p.epoch % 2)).epoch = p.epoch then dropRx slice (p.epoch % 2) d else d
  let d := forgetPair slice d
  onPair slice (fun p => { st := .backoff, since := d.now, fails := p.fails + 1, noted := p.noted, lastSwitch := p.lastSwitch,
                           cur := send.map (fun c => (0xF, [BitVec.ofNat 8 c])), aborting := if send.isSome then 256 else 0 }) d

/-- An exchange begins: fresh key pairs and nonce, and HELLO once the public-key unit has made them. -/
def pairHello (slice : Nat) (rekey : Bool) (d : Dev) : Dev :=
  let a := draw 48 d
  let kem := a.2.freeCtr
  let n := draw 32 a.2.nextFree
  let h := helloOf rekey (d.group slice).txEpoch n.1 (drawScalar a.1) kem
  let d := pkAsk (.pair slice 2) (forgetPair slice n.2)
  onPair slice (fun p => { st := .hello, since := d.now, fails := p.fails, noted := p.noted, lastSwitch := p.lastSwitch,
                           step := some (.helloOut rekey), ecdh := drawScalar a.1, kemDraw := kem, myHello := h }) d

/-- PAIR_START and the row to OFF: the state follows KEY_MODE, the life cycle and the alignment (08 R266, R272). -/
def pairCheck (slice : Nat) (d : Dev) : Dev :=
  if d.halted then d
  else
    let g := d.group slice
    let p := g.pair
    if !d.paired slice then
      if p.st = .off then d
      else onPair slice (fun p => { lastSwitch := p.lastSwitch }) (forgetPair slice d)
    else if d.lc ≠ 3 then
      let d := if p.st = .off then d else onPair slice (fun p => { noted := p.noted }) (forgetPair slice d)
      if g.align = .inFrame ∧ !p.noted then
        pairEvent slice 2 0 0 [] (onPair slice (fun p => { p with noted := true }) d)
      else d
    else if g.align = .inFrame ∧ (p.st = .off ∨ p.st = .idle) ∧ !d.lockdown then pairHello slice false d
    else d

/-- A reserved slot that no register of the group names, a free one first. -/
def Dev.pairSlot (d : Dev) (slice : Nat) : Nat :=
  let held := (d.group slice).slotsHeld
  let open_ := (pairSlots slice).filter (fun n => !held.contains n)
  ((open_.find? (fun n => decide ((d.slot n).state = .free))).or open_.head?).getD (4088 + 4 * slice)

/-- The domain code of the reserved slots: no domain's. -/
def noDomain : Nat := 64

/-- The key manager writes a derived key into a reserved slot (08 R266). -/
def putPairKey (slice attr : Nat) (key : Bytes) (d : Dev) : Nat × Dev :=
  let n := d.pairSlot slice
  (n, setSlot n (keyedSlot noDomain n attr 1 false 0xFFFF 0 key) d)

/-! ### The steps of the public-key unit -/

/-- The verdict on a peer's AUTH (08 R271): none, or the cause of its ABORT. -/
def authCause (d : Dev) (slice : Nat) (p : Pairing) : Option Nat :=
  let a := p.peerAuth
  let l1 := beAt a 0 2
  let c1 := bytesAt a 2 l1
  let l2 := beAt a (2 + l1) 2
  let c2 := bytesAt a (4 + l1) l2
  let sig := bytesAt a (4 + l1 + l2) 96
  let mld := bytesAt a (100 + l1 + l2) 4627
  let named (c : Bytes) : Bool := Config.certVerifies c && decide ((List.range 16).map (Config.certSerialByte c) = p.peerId)
  let dg := authDigest (!p.initiator) p.th
  let pins := (d.smvObj slice).lst 1
  if !(named c1 && named c2) then some 1
  else if !(ecdsaVerify ((List.range 97).map (Config.certKeyByte c1)) dg sig &&
      mldsaVerify ((List.range 2592).map (Config.certKeyByte c2)) dg mld) then some 2
  else if pins ≠ [] ∧ !pins.any (fun x => decide (x.getD 0 0 = (leNat p.peerId : Nat))) then some 3
  else none

/-- The factory certificate as AUTH carries it. -/
def certBytes (c : Nat) : Bytes :=
  beBytes (Config.certLength c) 2 ++ (List.range (Config.certLength c)).map (Config.certByte c)

/-- The peer's FINISHED verifies: the transmit switch is due, and the pairing is KEYED. -/
def pairKeyed (slice : Nat) (d : Dev) : Dev :=
  let p := (d.group slice).pair
  let s := putPairKey slice 1 (pairKey p (d.smvChannel slice) p.initiator) d
  let d := s.2.onGroup slice (fun g => { g with nextEpoch := p.epoch, nextSlot := some s.1, switchDue := true })
  let d := pairEvent slice 0 0 p.epoch p.peerId d
  onPair slice (fun p => { p with st := .keyed, since := d.now, fails := 0, lastSwitch := d.now,
                                  finUntil := some (d.now + 500000000) }) d

/-- A step's operations and hashing are done, and the pairing goes on. -/
def pairStepDone (slice : Nat) (d : Dev) : Dev :=
  let p := (d.group slice).pair
  let d := onPair slice (fun p => { p with step := none }) d
  match p.step with
  | none => d
  | some (.helloOut _) => onPair slice (fun p => { p with cur := some (1, p.myHello), seg := 0 }) d
  | some .helloIn =>
    let m := draw 32 d
    let e := mlkemEncaps (helloKem p.peerHello) m.1
    onPair slice (fun p => { p with st := .kem, since := d.now, myKem := e.1, ssMine := e.2, cur := some (2, e.1), seg := 0 })
      m.2
  | some .kemIn =>
    let th := pairTh p
    let e := epochAfter (max (helloEpoch p.myHello) (helloEpoch p.peerHello))
    let k := draw 48 d
    let dg := authDigest p.initiator th
    let n := k.2.freeCtr
    let auth := certBytes 0 ++ certBytes 1 ++ ecdsaSign Config.deviceEcdsaScalar (drawScalar k.1) dg ++
      (List.range 4627).map (Config.mldsaSignByte dg n)
    onPair slice (fun p => { p with st := .auth, since := d.now, th := th, prk := pairPrk p th, epoch := e, myAuth := auth,
                                    cur := some (3, auth), seg := 0 }) k.2.nextFree
  | some .authIn =>
    match authCause d slice p with
    | some c => pairFail slice c (some c) d
    | none =>
      let r := p.epoch % 2
      let d := dropRx slice r d
      let s := putPairKey slice 2 (pairKey p (d.smvChannel slice) (!p.initiator)) d
      let d := (setRx slice r { epoch := p.epoch, slot := some s.1 } s.2).onGroup slice (fun g => { g with
        releaseRx := if g.releaseRx = some r then none else g.releaseRx })
      onPair slice (fun p => { p with st := .finish, since := d.now, seg := 0,
                                      cur := some (4, pairFinished p (d.smvChannel slice) p.initiator) }) d
  | some (.finIn m) =>
    if m = pairFinished p (d.smvChannel slice) (!p.initiator) then pairKeyed slice d else pairFail slice 5 (some 5) d

/-- The public-key operations of a step are done. A step that hashes, the peer's KEM or AUTH or FINISHED, has that work done on
a core (10 R313). -/
def pairHash (slice : Nat) (d : Dev) : Dev :=
  match (d.group slice).pair.step with
  | some .kemIn | some .authIn | some (.finIn _) => lkInternal (.pair slice) d
  | _ => pairStepDone slice d

/-! ### Messages received -/

/-- A pairing segment enters the assembly; one that disagrees in length starts it again (08 R269). -/
def takeSegment (slice : Nat) (unit : Bytes) (d : Dev) : Dev :=
  let code := leAt unit 1 1
  let i := beAt unit 2 2
  let body := bytesAt unit 4 12
  onPair slice (fun p =>
    let p := if p.inCode = code then p else { p with inCode := code, inSegs := [], inLen := none }
    let len := if i = 0 then some (beAt body 0 2) else p.inLen
    let bad := (p.inLen.isSome && decide (len ≠ p.inLen)) ||
      len.any (fun n => decide (pairSegs n ≤ i) || p.inSegs.any (fun e => decide (pairSegs n ≤ e.1)))
    if bad then { p with inSegs := [], inLen := none }
    else if (p.inSegs.find i).isSome then p
    else { p with inLen := len, inSegs := p.inSegs.put i body }) d

/-- The message assembled, where every segment has come. -/
def Pairing.message (p : Pairing) : Option (Nat × Bytes) :=
  match p.inLen with
  | none => none
  | some n =>
    if p.inSegs.length = pairSegs n then
      some (p.inCode, (((p.inSegs.map Prod.snd).flatten).drop 2).take n)
    else none

/-- The public-key operations of a step. -/
def pairAsk (slice n : Nat) (st : PairStep) (f : Pairing → Pairing) (d : Dev) : Dev :=
  pkAsk (.pair slice n) (onPair slice (fun p => { f p with step := some st }) d)

/-- PAIR_MESSAGE_ASSEMBLED: the rows of 08 R272 that a peer's message takes. A message waits for the step in progress; an ABORT
does not. -/
def pairMessage (slice : Nat) (d : Dev) : Dev :=
  let p := (d.group slice).pair
  match p.message with
  | none => d
  | some (code, m) =>
    if d.halted ∨ (p.step.isSome ∧ code ≠ 0xF) then d
    else
      let d := onPair slice (fun p => { p with inSegs := [], inLen := none }) d
      let active := p.st = .hello ∨ p.st = .kem ∨ p.st = .auth ∨ p.st = .finish
      if code = 0xF then
        if active then pairFail slice (leAt m 0 1 % 128 + 128) none d else d
      else
        match code, p.st with
        | 1, .hello =>
          if helloId m = deviceId then pairFail slice 4 (some 4) (onPair slice (fun p => { p with peerHello := m }) d)
          else
            pairAsk slice 2 .helloIn (fun p => { p with peerHello := m, initiator := decide (beNat deviceId < beNat (helloId m)) }) d
        | 1, .keyed => pairHello slice false d
        | 2, .kem => pairAsk slice 3 .kemIn (fun p => { p with peerKem := m }) d
        | 3, .auth => pairAsk slice 4 .authIn (fun p => { p with peerAuth := m }) d
        | 4, .finish => pairHash slice (onPair slice (fun p => { p with step := some (.finIn m) }) d)
        | _, _ => d

def execPairMessageAssembled (slice : Nat) (s : State) : Host.Outcome State Fault Refusal :=
  .next (s.onDev (fun d => pairCheck slice (pairMessage slice d)))

/-- PAIR_TIMEOUT: no state change for 2 s. -/
def pairTimeout (slice : Nat) (d : Dev) : Dev :=
  let p := (d.group slice).pair
  if p.st = .hello ∨ p.st = .kem ∨ p.st = .auth ∨ p.st = .finish then
    pairFail slice 6 none (advanceTo (p.since + 1000000000) d)
  else d

def execPairTimeout (slice : Nat) (s : State) : Host.Outcome State Fault Refusal := .next (s.onDev (pairTimeout slice))

/-- The backoff after a number of consecutive failures, in TCLK edges: 1 s, doubling to 64 s. -/
def backoffTicks (fails : Nat) : Nat := min 64 (2 ^ (fails - 1)) * 500000000

/-- PAIR_BACKOFF_EXPIRY. -/
def pairBackoff (slice : Nat) (d : Dev) : Dev :=
  let p := (d.group slice).pair
  if p.st ≠ .backoff then d
  else
    let d := advanceTo (p.since + backoffTicks p.fails) d
    pairCheck slice (onPair slice (fun p => { p with st := .idle, since := d.now }) d)

def execPairBackoffExpiry (slice : Nat) (s : State) : Host.Outcome State Fault Refusal := .next (s.onDev (pairBackoff slice))

/-- REKEY_INTERVAL_EXPIRY, while the conditions of 08 R266 hold. -/
def rekeyInterval (slice : Nat) (d : Dev) : Dev :=
  let p := (d.group slice).pair
  let iv := (d.smvObj slice).n 18
  if p.st ≠ .keyed ∨ iv = 0 ∨ d.halted ∨ (d.group slice).align ≠ .inFrame then d
  else pairHello slice true (advanceTo (p.lastSwitch + iv * 500000000) d)

def execRekeyIntervalExpiry (slice : Nat) (s : State) : Host.Outcome State Fault Refusal :=
  .next (s.onDev (rekeyInterval slice))

/-! ### Epoch commands (08 R258, R259) -/

/-- Changes of the fret time base or rate; a removal brings back the reset source (02 R41, 15 R458). -/
def Dev.changesSource (d : Dev) (cs : List Staged) : Bool :=
  cs.any (fun s => decide (s.cls = cFret) && decide ((s.obj.getD (d.rst cFret 0)).f.take 2 ≠ (d.obj cFret 0).f.take 2))

/-- A commit that changes the fret rate or the fret time base is armed (02 R41). -/
def Dev.sourceArmed (d : Dev) : Bool :=
  d.cfg.doms.any (fun c => (c.armed.isSome || c.copying.isSome) && d.changesSource c.staging)

/-- The multiframe period of a group exceeds the fret period: 256 frames of 65,536 bits at 105.869 Gbit/s per lane. -/
def Dev.groupTooSlow (d : Dev) (slice : Nat) : Bool := decide (105869000000 * d.groupWidth slice < 2 ^ 24 * d.fretRate)

/-- The pinned, valid slot of a handle with an engine use and an AES-256 key. -/
def Dev.smvSlot (d : Dev) (dom handle attr : Nat) : Option Nat :=
  ((d.findPinned dom handle).filter (fun e => decide (e.2.state = .valid) && e.2.attr = attr && e.2.keyLen = 1)).map Prod.fst

/-- The checks of the operands that name a group. -/
def groupFails (d : Dev) (dom slice : Nat) : List (Bool × Nat) :=
  [(decide (2 ≤ slice) || (d.groupPort slice).isNone, eRange), (decide (d.groupOwner slice ≠ some dom), ePerm)]

/-- The checks of SA_SMV_ARM where no equal switch is armed (08 R260, R261). -/
def smvArmFails (d : Dev) (dom slice epoch tx rx target : Nat) : List (Bool × Nat) :=
  let g := d.group slice
  let ts := d.smvSlot dom tx 1
  let rs := d.smvSlot dom rx 2
  let other := (d.group (1 - slice)).slotsHeld
  [(d.paired slice, eState),
   (decide (epoch = 0 ∨ (g.txEpoch ≠ 0 ∧ epoch ≠ epochAfter g.txEpoch)), eRange),
   (d.groupTooSlow slice, eRange), (g.armed.isSome || g.switchDue, eBusy), (d.sourceArmed, eBusy),
   (decide (target < d.fret.index + 2), eLate), (ts.isNone || rs.isNone, eState),
   (decide (tx = rx) || ts.any other.contains || rs.any other.contains, eConflict)]

/-- SA_SMV_ARM. The RX register written verifies from now on: a release of it that waits for the next boundary is off (08
R260, R262). -/
def smvArmBody (c : Cmd) (slice epoch tx rx target : Nat) (d : Dev) : Answer :=
  checked (groupFails d c.dom slice) d (fun d =>
    let g := d.group slice
    if g.armed = some (epoch, tx, rx, target) then answer {} d
    else
      checked (smvArmFails d c.dom slice epoch tx rx target) d (fun d =>
        let e := setRx slice (epoch % 2) { epoch := epoch, slot := d.smvSlot c.dom rx 2 } d
        answer {} (e.onGroup slice (fun g => { g with
          nextEpoch := epoch, nextSlot := d.smvSlot c.dom tx 1, armed := some (epoch, tx, rx, target),
          releaseRx := if g.releaseRx = some (epoch % 2) then none else g.releaseRx }))))

/-- An armed switch is given up: TX next and the RX register that the arm wrote are cleared. -/
def disarmSwitch (slice : Nat) (d : Dev) : Dev :=
  let e := (d.group slice).nextEpoch
  let d := if (d.rxReg slice (e % 2)).epoch = e then setRx slice (e % 2) {} d else d
  d.onGroup slice (fun g => { g with nextEpoch := 0, nextSlot := none, armed := none, switchDue := false })

/-- SA_SMV_CANCEL. -/
def smvCancelBody (c : Cmd) (slice : Nat) (d : Dev) : Answer :=
  checked (groupFails d c.dom slice) d (fun d =>
    let g := d.group slice
    match g.armed with
    | none => answer (fail eState) d
    | some (_, _, _, f) =>
      if f ≤ d.fret.index + 1 then answer (fail eLate) d else (disarmSwitch slice d, some {}))

/-- The number of a pairing state (14, output records). -/
def pairStNum : PairSt → Nat
  | .off => 0
  | .idle => 1
  | .hello => 2
  | .kem => 3
  | .auth => 4
  | .finish => 5
  | .keyed => 6
  | .backoff => 7

/-- The SA_SMV_READ record of a group. -/
def smvRecord (g : Group) : Bytes :=
  let reg (slot : Option Nat) (epoch : Nat) (synced : Bool) (last : Option Nat) : Bytes :=
    leBytes (slot.getD 0xFFFF) 2 ++ leBytes epoch 2 ++ [if synced then 1 else 0, 0, 0, 0] ++ leBytes (last.getD 0) 8
  let rx (i : Nat) : Bytes := let r := g.rx.getD i {}; reg r.slot r.epoch r.synced r.last
  let role := if g.pair.peerHello = [] then 0 else if g.pair.initiator then 1 else 2
  padTo 128 (reg g.txSlot g.txEpoch false none ++ reg g.nextSlot g.nextEpoch false none ++ rx 0 ++ rx 1 ++
    leBytes g.fc 8 ++ leBytes ((g.armed.map (fun a => a.2.2.2)).getD (2 ^ 64 - 1)) 8 ++
    [BitVec.ofNat 8 (pairStNum g.pair.st), BitVec.ofNat 8 role] ++ zeros 14 ++ g.pair.peerId)

/-- SA_SMV_READ. -/
def smvReadBody (c : Cmd) (slice iova : Nat) (d : Dev) : Answer :=
  checked (groupFails d c.dom slice) d (fun d => answer { outs := [(iova, smvRecord (d.group slice))] } d)

/-- SA_SMV_STOP. -/
def smvStopBody (c : Cmd) (slice : Nat) (d : Dev) : Answer :=
  checked (groupFails d c.dom slice) d (fun d =>
    let g := d.group slice
    if g.stopDue ∨ (g.txEpoch = 0 ∧ g.rx.all (fun r => r.epoch = 0)) then answer (fail eState) d
    else (d.onGroup slice (fun g => { g with stopDue := true }), some {}))

/-- The group's share of a fret boundary: the armed switch of this fret, which stays armed until the transmitter makes it, the release of what was left behind, the delay
request, and the pairing's start (08 R260, R262, R258; 04 R123). -/
def smvBoundary (slice : Nat) (d : Dev) : Dev :=
  let g := d.group slice
  let d := forEach g.release (releaseKey slice) (d.onGroup slice (fun g => { g with release := [], dmDue := true }))
  let d := match g.releaseRx with
    | some i => (dropRx slice i d).onGroup slice (fun g => { g with releaseRx := none })
    | none => d
  match g.armed with
  | some (_, _, _, f) =>
    if f ≤ d.fret.index then d.onGroup slice (fun g => { g with switchDue := true }) else d
  | none => d

end Sys2Proof.Machine
end

