-- ==== Sys2Proof/Machine/Staging.lean ====
section
/-! DEFINITION. The staging sets and the arming of commits: `STAGE_*`, the images of the banks, `ARM_COMMIT`,
`CANCEL_COMMIT` and what ends their copies and rewrites (02 R47 to R55, R561, R562; 14 R442). -/

namespace Sys2Proof.Machine

/-! ### Tables and changes -/

/-- The table of an object: its class, or class + 38 in slice 1 of a per-slice class. -/
def tableOf (cls key : Nat) : Nat := if perSlice cls && decide (2 ^ 31 ≤ key) then cls + 38 else cls

def Staged.table (s : Staged) : Nat := tableOf s.cls s.key

/-- A staged object in a table: SET puts its image, REMOVE drops it. -/
def applyOne (t : Tbl Obj) (s : Staged) : Tbl Obj :=
  match s.obj with
  | some o => t.put s.key o
  | none => t.drop s.key

def applyAll (t : Tbl Obj) (cs : List Staged) : Tbl Obj := cs.foldl applyOne t

/-- The active content of a table. -/
def Dev.activeOf (d : Dev) (t : Nat) : Tbl Obj := (d.banks t).at d.cfg.epoch

/-- The classes whose objects the supervisor alone stages, or that every domain has for itself: no quota object. -/
def unowned (cls : Nat) : Bool := [2, 3, 4, 5, 8, 14, 15, 16, 28, 29, 32, 37].contains cls

/-- The classes that only the supervisor stages (14 R444, 02 R47). -/
def supOnly (cls : Nat) : Bool := [2, 3, 4, 5, 8, 14, 16, 29, 32, 37].contains cls

/-- Whether a quota covers an object: of a Smivia group its port, or where the layout has none some line port of the
slice; of a fault mirror and of a pair both ports. -/
def covers (d : Dev) (q : Obj) (cls idx : Nat) (o : Obj) : Bool :=
  if unowned cls then true
  else if cls = cSmvGroup then
    match d.groupPort idx with
    | some p => quotaPort q p
    | none => (List.range 8).any (fun i => quotaPort q (8 * idx + i))
  else if cls = cFaultMirror ∨ cls = cLlPair then
    quotaCovers q cls idx o && (o.f = [] || quotaPort q (o.n 0))
  else quotaCovers q cls idx o

/-- A base-image entry of the parse graph: nodes 0 to 15, transitions 0 to 63. It belongs to the supervisor, whatever the
quotas (05 R155, R157). -/
def baseEntry (cls idx : Nat) : Bool :=
  (decide (cls = cParseNode) && decide (idx % 2 ^ 31 < 16)) || (decide (cls = cParseTrans) && decide (idx % 2 ^ 31 < 64))

/-- INDEX of the object that a table holds under a key. -/
def keyIdx (cls key : Nat) : Nat := if cls = cLpm ∨ cls = cPunt ∨ cls = cBlobTable then 0 else key

/-- The domains whose quota a set changes, with what they hold before it and after. -/
def Dev.quotaMoves (d : Dev) (set : List Staged) : List (Nat × Obj × Obj) :=
  let qs := set.filter (fun s => s.cls = cQuota)
  if qs.isEmpty then []
  else
    let t := applyAll (d.table cQuota) qs
    ((List.range 33).map (fun k =>
      (k, quotaIn (d.table cQuota) (d.rst cQuota k) k, quotaIn t (d.rst cQuota k) k))).filter (fun x => decide (x.2.1 ≠ x.2.2))

/-- The objects of the active configuration that staged quotas of a set take from their domains (13 R393): class, key
and losing domain. -/
def Dev.taken (d : Dev) (set : List Staged) : List (Nat × Nat × Nat) :=
  (d.quotaMoves set).flatMap (fun x =>
    ((List.range 38).filter (fun c => !unowned c)).flatMap (fun c =>
      ((d.table c).filter (fun e =>
        !baseEntry c e.1 && covers d x.2.1 c (keyIdx c e.1) e.2 && !covers d x.2.2 c (keyIdx c e.1) e.2)).map (fun e => (c, e.1, x.1))))

/-- What a commit of a staging set changes: the set, and under FORCE the objects it takes. -/
def Dev.changesIn (d : Dev) (set : List Staged) : List Staged :=
  let forced := set.filter (fun s => s.force)
  set ++ (d.taken forced).map (fun t => { cls := t.1, key := t.2.1, idx := keyIdx t.1 t.2.1, obj := none })

def Dev.changesOf (d : Dev) (dom : Nat) : List Staged := d.changesIn (d.domCfg dom).staging

/-- The parse-graph part that a firmware slot holds, as changes of both slices (17 R512). The part of the factory image
is the base graph, the reset image of the tables. -/
def Dev.pgChanges (d : Dev) (slot : Nat) : List Staged :=
  let b := (d.fw.slots.getD slot {}).pg
  let image (off n : Nat) : Option Obj := if b = [] then none else some { f := [(leAt b off n : Nat)] }
  [0, 1].flatMap (fun sl =>
    (List.range 16).map (fun i => { cls := cParseNode, key := sliceIdx sl i, idx := sliceIdx sl i,
                                    obj := image (32 * i) 32 : Staged }) ++
    (List.range 64).map (fun i => { cls := cParseTrans, key := sliceIdx sl i, idx := sliceIdx sl i,
                                    obj := image (512 + 8 * i) 8 : Staged }))

/-- The armed commits: domain (64 for a parse graph that an activation has armed), target and changes. -/
def Dev.armedSets (d : Dev) : List (Nat × Nat × List Staged) :=
  ((List.range 33).filterMap (fun k => (d.domCfg k).armed.map (fun t => (k, t, d.changesOf k)))) ++
    (match d.fw.act with
     | some a => if d.fw.pgArmed then [(64, a.target, d.pgChanges a.slot)] else []
     | none => [])

/-- The changes that touch a table. -/
def inTable (t : Nat) (cs : List Staged) : List Staged := cs.filter (fun s => s.table = t)

/-- The tables that changes affect. -/
def affected (cs : List Staged) : List Nat := (cs.map Staged.table).eraseDups

/-- Whether two sets of changes share a table. -/
def shares (a b : List Staged) : Bool := (affected a).any (fun t => (affected b).contains t)

/-- The image of 02 R52: the active content with the armed commits and further changes. -/
def Dev.imageOf (d : Dev) (t : Nat) (sets : List (List Staged)) : Tbl Obj :=
  sets.foldl (fun tb cs => applyAll tb (inTable t cs)) (d.activeOf t)

/-- The inactive bank of a table is written whole. -/
def setInactive (t : Nat) (tb : Tbl Obj) (d : Dev) : Dev :=
  d.onCfg (fun c =>
    let c := { c with banks := modAt c.banks t (fun b =>
      if (if c.epoch then b.e1 else b.e0) then { b with b0 := tb, raw := [] } else { b with b1 := tb, raw := [] }) }
    if t = cSa then c.withPolicies else c)

/-- The slices that an object is written to (02 R52). -/
def slicesOf (cls key : Nat) (o : Obj) : List Nat :=
  let ofPort (p : Nat) := [p % 16 / 8]
  if perSlice cls then [key / 2 ^ 31]
  else if [9, 14, 29].contains cls then [key]
  else if [6, 13, 18, 22, 27, 30, 33, 35].contains cls then ofPort key
  else if cls = cQueue then ofPort (key / 8)
  else if cls = cFaultMirror then (ofPort key ++ (if o.f = [] then [] else ofPort (o.n 0))).eraseDups
  else [0, 1]

/-- The words that a slice's inactive bank of a table holds of an object: what a copy that was cut short has left there, else
the bank's own. -/
def Dev.bankWords (d : Dev) (t key slice : Nat) : List Bytes :=
  let b := d.banks t
  match b.raw.find (2 * key + slice) with
  | some ws => ws
  | none => imageWords (t % 38) (((b.inactive d.cfg.epoch).find key).getD (d.rst (t % 38) key))

/-- The words of an object, by number, that a slice's inactive bank must take to hold `o` (02 R52). -/
def Dev.wordsFor (d : Dev) (t key slice : Nat) (o : Obj) : List Nat :=
  let b := d.banks t
  if !(slicesOf (t % 38) key o).contains slice then []
  else if (b.raw.find (2 * key + slice)).isNone ∧ o = ((b.inactive d.cfg.epoch).find key).getD (d.rst (t % 38) key) then []
  else diffWords (imageWords (t % 38) o) (d.bankWords t key slice)

/-- What brings the inactive bank of a table to an image: keys in rising order, each with its object and its words per slice;
only words that differ are written (02 R52). -/
def Dev.writesOf (d : Dev) (t : Nat) (sets : List (List Staged)) : List (Nat × Obj × List Nat × List Nat) :=
  let img := d.imageOf t sets
  let b := d.banks t
  let keys := (((b.inactive d.cfg.epoch) ++ img).map Prod.fst ++ b.raw.map (fun (e : Nat × List Bytes) => e.1 / 2)).foldl
    (fun (ks : Tbl Unit) k => ks.put k ()) []
  (keys.map (fun k =>
    let o := (img.find k.1).getD (d.rst (t % 38) k.1)
    (k.1, o, d.wordsFor t k.1 0 o, d.wordsFor t k.1 1 o))).filter (fun w => w.2.2.1 ≠ [] || w.2.2.2 ≠ [])

def addWords (a b : Nat × Nat) : Nat × Nat := (a.1 + b.1, a.2 + b.2)

/-- Words per slice that bring the inactive bank of a table to an image. -/
def Dev.tableWords (d : Dev) (sets : List (List Staged)) (t : Nat) : Nat × Nat :=
  ((d.writesOf t sets).map (fun w => (w.2.2.1.length, w.2.2.2.length))).foldl addWords (0, 0)

/-- Words per slice that bring the inactive banks of some tables to an image. -/
def Dev.copyWords (d : Dev) (ts : List Nat) (sets : List (List Staged)) : Nat × Nat :=
  (ts.map (d.tableWords sets)).foldl addWords (0, 0)

/-- The tick until which the old bank of a table is held: of the gate lists, while a port waits for its switch
(12 R368). -/
def Dev.heldUntil (d : Dev) (t : Nat) : Nat :=
  let h := (d.banks t).hold
  if t ≠ cGateList then h
  else
    (List.range 32).foldl (fun h p =>
      match (d.egress p).gate.pending with
      | some s => max h (d.tickOf ((d.obj cGateList p).n 1) (s * 2 ^ 32))
      | none => h) h

/-! ### The write queues (02 R52, 01 R32) -/

/-- Units of 1/27 TCLK tick that a word takes in a slice's write queue: 8 DCLK cycles. -/
def wordSpan : Nat := 80

/-- `n` words take the free time of a queue from `t` on; `busy` is what is taken, in order. -/
def placeWords : List (Nat × Nat) → Nat → Nat → List (Nat × Nat)
  | [], t, n => if n = 0 then [] else [(t, t + n * wordSpan)]
  | (a, b) :: rest, t, n =>
    let k := min n ((a - t) / wordSpan)
    (if k = 0 then [] else [(t, t + k * wordSpan)]) ++ placeWords rest (max t b) (n - k)

/-- The stretches of a slice's queue that are taken, in order. -/
def busySpans (slice : Nat) (l : List QueueSpan) : List (Nat × Nat) :=
  (l.filter (fun x => x.1 = slice)).foldl (fun (t : Tbl Nat) x => t.put x.2.1 x.2.2) []

/-- The copies and rewrites in progress. -/
def Dev.queueSpans (d : Dev) : List QueueSpan :=
  d.cfg.doms.flatMap (fun c => (c.copying.map (fun x => x.spans)).getD [] ++ (c.rewrite.map (fun x => x.spans)).getD [])

/-- Words per slice by the tick from which they can be written: those of a table whose old bank is held wait for its
release (02 R52, R60). -/
def Dev.wordsByStart (d : Dev) (ts : List Nat) (sets : List (List Staged)) : Tbl (Nat × Nat) :=
  ts.foldl (fun acc t =>
    let s := max d.now (d.heldUntil t)
    acc.put s (addWords (Tbl.get (0, 0) s acc) (d.tableWords sets t))) []

/-- What bringing some tables to an image takes: the stretches of the write queues, and the tick at which it ends. The two
slices write in parallel; each queue serves one word at a time, whichever copy it belongs to (log 82). -/
def Dev.copyPlan (d : Dev) (ts : List Nat) (sets : List (List Staged)) : List QueueSpan × Nat :=
  let groups := d.wordsByStart ts sets
  let busy := d.queueSpans
  let spans := groups.foldl (fun (acc : List QueueSpan) g =>
    [0, 1].foldl (fun (acc : List QueueSpan) sl =>
      acc ++ (placeWords (busySpans sl (busy ++ acc)) (g.1 * 27) (if sl = 0 then g.2.1 else g.2.2)).map (fun p => (sl, p))) acc) []
  (spans, (groups.map Prod.fst ++ spans.map (fun x => ceilDiv x.2.2 27)).foldl max d.now)

/-- The words of a slice's stretches that are written by now. -/
def Dev.wordsDone (d : Dev) (slice : Nat) (l : List QueueSpan) : Nat :=
  ((l.filter (fun x => x.1 = slice)).map (fun x => (min (d.now * 27) x.2.2 - x.2.1) / wordSpan)).sum

/-- The tick of the boundary that opens a fret, as the fret time base now runs. -/
def Dev.boundaryTick (d : Dev) (f : Nat) : Nat := d.tickOf d.fretTb (ceilDiv (f * 10 ^ 9) (max 1 d.fretRate) * 2 ^ 32)

/-! ### Staging (14 R442, 02 R47, R48) -/

def Dev.frozenSet (d : Dev) (dom : Nat) : Bool :=
  let c := d.domCfg dom
  c.armed.isSome || c.copying.isSome || c.rewrite.isSome

def setStaging (dom : Nat) (f : List Staged → List Staged) (d : Dev) : Dev :=
  d.onDomCfg dom (fun c => { c with staging := f c.staging })

/-- The prefix that a `STAGE_LPM` image names; every value of its bytes has a key of its own. -/
def lpmImageKey (b : Bytes) : Nat := lpmKey (leAt b 0 2) (leAt b 2 1) (leAt b 3 1) (beAt b 4 16)

/-- The object that a prefix key image stands for; its PEER is zero. -/
def lpmKeyObj (b : Bytes) : Obj :=
  { f := [(leAt b 0 2 : Nat), (leAt b 2 1 : Nat), (leAt b 3 1 : Nat), (beAt b 4 16 : Nat), 0] }

/-- Operand encodings of a `STAGE_*` command (14 R442). -/
def stageShapeOk (cls : Nat) (o : StageOps) : Bool :=
  decide (o.action ≤ 2) && (!o.force || decide (cls = cQuota)) && decide (o.length ≤ 16384) &&
    (!o.isInline || (decide (o.length ≤ 40) && decide (o.imageIova = 0))) &&
    (!([cPunt, cBlobTable, cLpm].contains cls) || decide (o.index = 0)) &&
    (if o.action = 0 then true
     else if cls = cLpm then decide (o.length = 20)
     else decide (o.length = 0) && decide (o.imageIova = 0) && allZero o.image)

/-- Whether a domain owns the object of an index. A base-image entry is the supervisor's, whatever the quotas (05 R155). -/
def Dev.ownsObj (d : Dev) (dom cls idx : Nat) (o : Obj) : Bool :=
  if baseEntry cls idx then decide (dom = d.sup) else covers d (d.quota dom) cls idx o

/-- Whether an index that a table has lies in the domain's quota (13 R392). An index that no table has names no
object; its range is left to `CHECK` (14 R444). -/
def stageOwned (d : Dev) (dom cls : Nat) (o : StageOps) (ob : Obj) : Bool :=
  !indexOk cls o.index || d.ownsObj dom cls o.index ob

/-- The key of the object that a `STAGE_*` command names. -/
def stageKey (dom cls : Nat) (o : StageOps) : Nat :=
  if cls = cLpm then lpmImageKey (o.image.take o.length) else if cls = cPunt ∨ cls = cBlobTable then dom else o.index

/-- The image of a SET, where it has the length of 14 R443. -/
def stageImage (cls : Nat) (o : StageOps) : Option Obj := readImage cls (o.image.take o.length)

/-- The object by which a `STAGE_*` command is owned: the image of a SET, else the object named. -/
def stageObject (d : Dev) (dom cls : Nat) (o : StageOps) : Obj :=
  if cls = cLpm then lpmKeyObj (o.image.take o.length)
  else if o.action = 0 then (stageImage cls o).getD { f := [] } else d.obj cls (stageKey dom cls o)

/-- The staging set after a `STAGE_*` command: ACTION 0 SET, 1 REMOVE, 2 takes the entry out of the set. -/
def stagedBy (dom cls : Nat) (o : StageOps) (l : List Staged) : List Staged :=
  let key := stageKey dom cls o
  let others := without (fun s => s.cls = cls && s.key = key) l
  let s : Staged := { cls := cls, key := key, idx := o.index, obj := if o.action = 0 then stageImage cls o else none,
                      force := o.force }
  if o.action = 2 then others else others ++ [s]

/-- A domain's set, or the device's store, is full (02 R48). -/
def Dev.stageFull (d : Dev) (dom cls : Nat) (o : StageOps) : Bool :=
  let set : List Staged := (d.domCfg dom).staging
  let has := set.any (fun s => s.cls = cls && s.key = stageKey dom cls o)
  let total : Nat := (d.cfg.doms.map (fun x => x.staging.length)).sum
  o.action ≠ 2 && !has && (decide (65536 ≤ set.length) || decide (262144 ≤ total))

/-- The checks of a `STAGE_*` command. -/
def stageFails (d : Dev) (dom cls : Nat) (o : StageOps) : List (Bool × Nat) :=
  [(!stageShapeOk cls o, eRange),
   (supOnly cls && decide (dom ≠ d.sup), ePerm),
   ((cls = cPunt || cls = cBlobTable) && decide (dom = dmCode), ePerm),
   (!stageOwned d dom cls o (stageObject d dom cls o), ePerm),
   (d.frozenSet dom, eBusy),
   (o.action = 0 && ((stageImage cls o).isNone || decide (o.image.length < o.length)), eLen),
   (d.stageFull dom cls o, eQuota)]

/-- A `STAGE_*` command of a class. -/
def stageBody (c : Cmd) (cls : Nat) (o : StageOps) (d : Dev) : Answer :=
  checked (stageFails d c.dom cls o) d (fun d => answer {} (setStaging c.dom (stagedBy c.dom cls o) d))

/-- STAGE_DISCARD has no operands: their bytes are reserved (14 R429). -/
def noOperands (o : StageOps) : Bool :=
  decide (o.index = 0 ∧ o.action = 0 ∧ o.isInline = false ∧ o.force = false ∧ o.length = 0 ∧ o.imageIova = 0) && allZero o.image

/-- STAGE_DISCARD. -/
def stageDiscardBody (c : Cmd) (o : StageOps) (d : Dev) : Answer :=
  checked [(!noOperands o, eRange), (d.frozenSet c.dom, eBusy)] d (fun d => answer {} (setStaging c.dom (fun _ => []) d))

/-! ### Commits of the fret source, of gate lists and of SAs -/

/-- A commit, a key-epoch switch or a firmware activation is scheduled. -/
def Dev.anyScheduled (d : Dev) : Bool :=
  d.armedSets ≠ [] || d.cfg.doms.any (fun c => c.copying.isSome) || d.smv.any (fun g => g.armed.isSome) ||
    d.fw.act.any (fun a => !a.running)

/-- The key of an SA as its key-defining policy has it (07 R203): none where the SA does not exist. -/
def Dev.saKey (d : Dev) (i : Nat) : Option (Nat × Nat × Nat × Nat) :=
  let o := d.obj cSa i
  if !o.b 0 then none else some (o.n 4, o.n 5, o.n 6, ((d.saSecy d.cfg.epoch o).map (fun y => y.2.n 2)).getD 0)

/-- The device as its configuration would be with further changes: both banks of every table hold the image. -/
def Dev.withChanges (d : Dev) (sets : List (List Staged)) : Dev :=
  { d with cfg := { d.cfg with banks := (List.range 76).map (fun t =>
      let b := d.imageOf t sets
      { b0 := b, b1 := b }) } }

/-- The device with the armed commits and a domain's set (02 R50). -/
def Dev.merged (d : Dev) (dom : Nat) : Dev :=
  d.withChanges (((d.armedSets.filter (fun a => a.1 ≠ dom)).map (fun a => a.2.2)) ++ [d.changesOf dom])

/-- The same without what FORCE takes from other domains: FORCE is not refused for what it leaves (13 R393; log 79). -/
def Dev.asStaged (d : Dev) (dom : Nat) : Dev :=
  d.withChanges (((d.armedSets.filter (fun a => a.1 ≠ dom)).map (fun a => a.2.2)) ++ [(d.domCfg dom).staging])

/-- An SA whose key-defining policy a commit armed or being armed changes (07 R203). -/
def Dev.saBusy (d : Dev) (sa : Nat) : Bool :=
  (List.range 33).any (fun k =>
    let c := d.domCfg k
    (c.armed.isSome || c.copying.isSome) && decide ((d.withChanges [d.changesOf k]).saKey sa ≠ d.saKey sa))

/-- The instant at which a fret opens, in ns of a time base. -/
def Dev.openNs (d : Dev) (tb f : Nat) : Nat := d.tbAt tb (d.boundaryTick f) / 2 ^ 32

/-- A staged gate list's BASE lies more than 1 s after the opening of a fret (12 R369). -/
def Dev.baseTooLate (d : Dev) (cs : List Staged) (f : Nat) : Bool :=
  cs.any (fun s => decide (s.cls = cGateList) && s.obj.any (fun o => decide (d.openNs (o.n 1) f + 10 ^ 9 < gateBase o)))

/-! ### Arming (02 R51 to R54, R561, R562) -/

/-- An affected table's inactive bank is armed, or being copied, for a fret other than `f`; for any fret under ASAP. -/
def Dev.bankTaken (d : Dev) (dom : Nat) (cs : List Staged) (f : Option Nat) : Bool :=
  (d.armedSets.any (fun a => decide (a.1 ≠ dom) && shares a.2.2 cs && decide (some a.2.1 ≠ f))) ||
    (List.range 33).any (fun k => decide (k ≠ dom) && (d.domCfg k).copying.any (fun x =>
      shares (d.changesOf k) cs && (decide (f = none) || x.asap || decide (some x.target ≠ f))))

/-- The banks that a set affects take its image, with the armed commits. -/
def writeBanks (sets : List (List Staged)) (ts : List Nat) (d : Dev) : Dev :=
  forEach ts (fun t e => setInactive t (d.imageOf t sets) e) d

/-- Stored words of which those of some numbers are overwritten. -/
def putWords (old new : List Bytes) (is : List Nat) : List Bytes :=
  (List.range (max old.length new.length)).map (fun i => if is.contains i then new.getD i [] else old.getD i [])

/-- The first `n` words of a list of writes to a slice's bank: table, key, words to hold, and the numbers of those that
differ. -/
def writeWords (slice : Nat) : List (Nat × Nat × List Bytes × List Nat) → Nat → Dev → Dev
  | [], _, d => d
  | (t, k, ws, is) :: rest, n, d =>
    if n = 0 then d
    else
      let ws := putWords (d.bankWords t k slice) ws (is.take n)
      writeWords slice rest (n - is.length) (d.onCfg (fun c =>
        { c with banks := modAt c.banks t (fun b => { b with raw := b.raw.put (2 * k + slice) ws }) }))

/-- Tables in the order in which a copy that starts now writes them. -/
def Dev.copyOrder (d : Dev) (ts : List Nat) : List Nat :=
  (ts.foldl (fun (acc : Tbl (List Nat)) t =>
    let s := max d.now (d.heldUntil t)
    acc.put s (Tbl.get [] s acc ++ [t])) []).flatMap Prod.snd

/-- A copy that is cut short leaves in the inactive banks the words that each slice's queue has written, in the order of the
tables given, of their keys and of an object's words (02 R561; log 82). -/
def cutCopy (sets : List (List Staged)) (ts : List Nat) (spans : List QueueSpan) (d : Dev) : Dev :=
  let ws := ts.flatMap (fun t => (d.writesOf t sets).map (fun w => (t, w)))
  let of_ (slice : Nat) : List (Nat × Nat × List Bytes × List Nat) :=
    (ws.map (fun w => (w.1, w.2.1, imageWords (w.1 % 38) w.2.2.1, if slice = 0 then w.2.2.2.1 else w.2.2.2.2))).filter
      (fun w => w.2.2.2 ≠ [])
  writeWords 1 (of_ 1) (d.wordsDone 1 spans) (writeWords 0 (of_ 0) (d.wordsDone 0 spans) d)

/-- The changes of every armed commit but those of some domains. -/
def Dev.armedBut (d : Dev) (doms : List Nat) : List (List Staged) :=
  (d.armedSets.filter (fun a => !doms.contains a.1)).map (fun a => a.2.2)

/-- The copy that ARM_COMMIT starts: it waits for held banks, and takes 8 DCLK cycles a word (02 R52, R60). -/
def Dev.copyOf (d : Dev) (c : Cmd) (target : Nat) (asap : Bool) : Copying :=
  let cs := d.changesOf c.dom
  let ts := affected cs
  let sets := d.armedBut [c.dom] ++ [cs]
  let w := d.copyWords ts sets
  let p := d.copyPlan ts sets
  { target := target, asap := asap, words0 := w.1, words1 := w.2, ends := p.2, tables := d.copyOrder ts,
    spans := p.1, cmd := c }

/-- A commit of another domain, armed or being armed for a fret, shares a table with changes. -/
def Dev.sharedFor (d : Dev) (dom target : Nat) (cs : List Staged) : Bool :=
  d.armedSets.any (fun a => decide (a.1 ≠ dom) && decide (a.2.1 = target) && shares a.2.2 cs) ||
    (List.range 33).any (fun k => decide (k ≠ dom) && (d.domCfg k).copying.any (fun x =>
      !x.asap && decide (x.target = target) && shares (d.changesOf k) cs))

/-- A copy into a bank that a commit of the same fret shares, armed or being copied itself, would end too late (02 R53). -/
def Dev.copyLate (d : Dev) (c : Cmd) (target : Nat) (asap : Bool) : Bool :=
  !asap && d.sharedFor c.dom target (d.changesOf c.dom) &&
    decide (d.boundaryTick (target - 1) ≤ (d.copyOf c target asap).ends)

/-- ARM_COMMIT once the checks of the set have passed: the copy starts (02 R52, R53). -/
def armCopy (c : Cmd) (target : Nat) (asap : Bool) (d : Dev) : Answer :=
  if d.copyLate c target asap then answer (fail eLate) d
  else (d.onDomCfg c.dom (fun x => { x with copying := some (d.copyOf c target asap) }), none)

/-- The checks of ARM_COMMIT before those of the set (02 R51). A gate list that waits for its switch instant refuses a set
that stages it, not one that takes its port with FORCE (12 R369). -/
def armFails (d : Dev) (dom target : Nat) (asap : Bool) : List (Bool × Nat) :=
  let cs := d.changesOf dom
  let now := d.fret.index
  let waits := (d.domCfg dom).staging.any (fun s => decide (s.cls = cGateList) && (d.egress s.key).gate.pending.isSome)
  [(decide ((d.domCfg dom).staging = []), eState),
   (d.frozenSet dom, eBusy),
   (d.bankTaken dom cs (if asap then none else some target), eBusy),
   (waits, eBusy),
   (d.sourceArmed, eBusy),
   (d.changesSource cs && d.anyScheduled, eBusy),
   (!asap && decide (now + 16777216 < target), eRange),
   (!asap && decide (target < now + 2), eLate)]

/-- ARM_COMMIT; `verdict` is what `CHECK` finds in the set. -/
def armBody (c : Cmd) (target : Nat) (asap : Bool) (verdict : Option Reply) (d : Dev) : Answer :=
  let cs := d.changesOf c.dom
  checked (armFails d c.dom target asap) d (fun d =>
    match verdict with
    | some r => (d, some r)
    | none => if !asap ∧ d.baseTooLate cs target then (d, some (fail eRange)) else armCopy c target asap d)

/-! ### Cancelling (02 R55) -/

/-- EV_COMMIT_CANCELLED (14 R447). -/
def cancelEvent (dom target cause kind slice : Nat) (d : Dev) : Dev :=
  raise dom (d.event 0x0102 [(16, 8, target), (24, 1, cause), (25, 1, kind), (26, 1, slice)]) d

/-- The commit of a domain is no longer armed; its words stay, never applied. -/
def disarm (dom : Nat) (d : Dev) : Dev := d.onDomCfg dom (fun c => { c with armed := none })

/-- A scheduled activation is withdrawn: its words stay unarmed, out of the banks that armed commits share; the slot is
what it was before (17 R511). -/
def dropActivation (d : Dev) : Dev :=
  match d.fw.act with
  | none => d
  | some a =>
    let ts := if d.fw.pgArmed then affected (d.pgChanges a.slot) else []
    let rest := d.armedBut [64]
    let d := writeBanks rest (ts.filter (fun t => rest.any (fun cs => (affected cs).contains t))) d
    let d := d.onFw (fun w => { w with act := none, pgArmed := false })
    if a.revert then d else setFwState a.slot fwVERIFIED d

/-- A scheduled activation is cancelled by the device (17 R511): cause as EV_COMMIT_CANCELLED. -/
def cancelActivation (cause : Nat) (d : Dev) : Dev :=
  match d.fw.act with
  | some a => if a.running then d else cancelEvent a.dom a.target cause 2 0 (dropActivation d)
  | none => d

/-- The armed commits for a fret, other than those of some domains, that share a table with changes. -/
def Dev.sharersOf (d : Dev) (doms : List Nat) (target : Nat) (cs : List Staged) : List (Nat × List Staged) :=
  (d.armedSets.filter (fun a => !doms.contains a.1 && decide (a.2.1 = target) && shares a.2.2 cs)).map
    (fun a => (a.1, a.2.2))

/-- The armed commits, other than a domain's own, that share a table with its changes for the same fret. -/
def Dev.sharers (d : Dev) (dom target : Nat) : List Nat := (d.sharersOf [dom] target (d.changesOf dom)).map Prod.fst

/-- The tables of changes that other changes affect too. -/
def sharedTables (cs : List Staged) (others : List (List Staged)) : List Nat :=
  (affected cs).filter (fun t => others.any (fun o => (affected o).contains t))

/-- The rewrite that takes a domain's commit out of the banks that commits of the same fret share: its tables, and what it
takes of the write queues (02 R55). -/
def Dev.rewriteOf (d : Dev) (dom target : Nat) : List Nat × List QueueSpan × Nat :=
  let cs := d.changesOf dom
  let ts := sharedTables cs ((d.sharersOf [dom] target cs).map Prod.snd)
  (ts, d.copyPlan ts (d.armedBut [dom]))

/-- CANCEL_COMMIT acts (02 R55). -/
def cancelNow (c : Cmd) (d : Dev) : Answer :=
  match (d.domCfg c.dom).armed with
  | none => (d, some (fail eState))
  | some f =>
    if f < d.fret.index + 2 then (d, some (fail eLate))
    else if d.sharers c.dom f = [] then (disarm c.dom d, some {})
    else
      let r := d.rewriteOf c.dom f
      if d.boundaryTick (f - 1) ≤ r.2.2 then (d, some (fail eLate))
      else
        let d := writeBanks (d.armedBut [c.dom]) r.1 d
        ((disarm c.dom d).onDomCfg c.dom (fun x => { x with rewrite := some { ends := r.2.2, spans := r.2.1, cmd := some c } }),
          none)

/-- The words of commits that are no longer armed leave the banks that commits of the same fret share. Where the rewrite
would end too late, the sharing commits are cancelled too, and their words leave the banks that still others share
(02 R55). `gone` are the domains whose words leave, `cs` their changes; the first of them carries the rewrite. DESIGN CHOICE:
a sharing firmware activation is cancelled as the sharing commits are, with cause 4 and kind 2 (log 99). -/
def takeOut : Nat → List Nat → Nat → List Staged → Dev → Dev
  | 0, _, _, _, d => d
  | n + 1, gone, f, cs, d =>
    let sh := d.sharersOf gone f cs
    if sh = [] then d
    else
      let ts := sharedTables cs (sh.map Prod.snd)
      let p := d.copyPlan ts (d.armedBut gone)
      if d.boundaryTick (f - 1) ≤ p.2 then
        let d := forEach (sh.map Prod.fst) (fun k d =>
          if k = 64 then cancelActivation 4 d else cancelEvent k f 4 0 0 (disarm k d)) d
        takeOut n (gone ++ sh.map Prod.fst) f (cs ++ sh.flatMap Prod.snd) d
      else
        (writeBanks (d.armedBut gone) ts d).onDomCfg (gone.headD 0)
          (fun x => { x with rewrite := some { ends := p.2, spans := p.1, cmd := none } })

/-- The commit of a domain is disarmed without a command: by a quota change (13 R393). -/
def disarmShared (dom : Nat) (d : Dev) : Dev :=
  match (d.domCfg dom).armed with
  | none => d
  | some f => takeOut 34 [dom] f (d.changesOf dom) (disarm dom d)

/-- The copy of a domain stops: its written words stay unarmed in the inactive banks (02 R561). -/
def stopCopy (dom : Nat) (d : Dev) : Dev :=
  match (d.domCfg dom).copying with
  | none => d
  | some x =>
    let cs := d.changesOf dom
    (cutCopy (d.armedBut [dom] ++ [cs]) x.tables x.spans d).onDomCfg dom (fun y => { y with copying := none })

/-- A domain reset (13 R394, 02 R561): an armed commit is cancelled as `CANCEL_COMMIT` would; a copy stops, and its words
leave the banks that a commit armed for the same fret shares. The staging set empties, unless its commit stays
armed. -/
def resetCommit (dom : Nat) (d : Dev) : Dev :=
  match (d.domCfg dom).copying with
  | some x =>
    let cs := d.changesOf dom
    setStaging dom (fun _ => []) (if x.asap then stopCopy dom d else takeOut 34 [dom] x.target cs (stopCopy dom d))
  | none =>
    let e := (cancelNow { dom := dom, ring := 0, tag := 0, crc := 0, op := 0 } d).1
    if (e.domCfg dom).armed.isSome then e else setStaging dom (fun _ => []) e

/-- CANCEL_COMMIT: during the copy it is held (02 R561). -/
def cancelBody (c : Cmd) (d : Dev) : Answer :=
  match (d.domCfg c.dom).copying with
  | some x => (d.onDomCfg c.dom (fun y => { y with copying := some { x with cancels := x.cancels ++ [c] } }), none)
  | none => cancelNow c d

/-- Completes a command with what a body answered. -/
def conclude (c : Cmd) (a : Answer) : Dev :=
  match a.2 with
  | some r => finish c r a.1
  | none => a.1

/-- ARM_COPY_DONE: the copy of a domain ends (02 R53, R561, R562). Words that are not armed are never applied: a bank that
an armed commit shares does not keep them. -/
def armCopyDone (dom : Nat) (d : Dev) : Dev :=
  match (d.domCfg dom).copying with
  | none => d
  | some x =>
    let d := advanceTo x.ends d
    let cs := d.changesOf dom
    let now := d.fret.index
    let f := if x.asap then now + 2 else x.target
    let rest := d.armedBut [dom]
    let d := d.onDomCfg dom (fun y => { y with copying := none })
    let unarmed (status : Nat) : Dev :=
      let d := writeBanks (rest ++ [cs]) (affected cs) d
      finish x.cmd (fail status) (writeBanks rest (sharedTables cs rest) d)
    let d :=
      if x.asap ∧ d.baseTooLate cs f then unarmed eRange
      else if f < now + 2 then unarmed eLate
      else
        let d := writeBanks (rest ++ [cs]) (affected cs) d
        finish x.cmd { result := leBytes f 8 } (d.onDomCfg dom (fun y => { y with armed := some f }))
    forEach x.cancels (fun c d => conclude c (cancelNow c d)) d

def execArmCopyDone (dom : Nat) (s : State) : Host.Outcome State Fault Refusal := .next (s.onDev (armCopyDone dom))

/-- CANCEL_REWRITE_DONE: the rewrite of the shared banks ends, and the cancel completes (02 R55). -/
def cancelRewriteDone (dom : Nat) (d : Dev) : Dev :=
  match (d.domCfg dom).rewrite with
  | none => d
  | some r =>
    let d := (advanceTo r.ends d).onDomCfg dom (fun c => { c with rewrite := none })
    match r.cmd with
    | some c => finish c {} d
    | none => d

def execCancelRewriteDone (dom : Nat) (s : State) : Host.Outcome State Fault Refusal :=
  .next (s.onDev (cancelRewriteDone dom))

end Sys2Proof.Machine
end

