-- ==== Sys2Proof/Machine/Check.lean ====
section
/-! DEFINITION. `CHECK`: the rules of 02 R50 in their order, and what it reports (14 R445). `m` is the device with the
armed commits and the set applied (`Dev.merged`), `d` the device as it is. -/

namespace Sys2Proof.Machine

/-- A failure: class, INDEX, the rule's own detail. -/
abbrev Failure := Nat × Nat × Bytes

def failAt (cls idx : Nat) : Failure := (cls, idx, [])

/-! ### Rule 1: ranges -/

/-- A next-node code (05 R136). -/
def nextOk (n : Nat) : Bool := decide (n ≤ 257)

/-- A node entry meets the ranges of 05 R135. -/
def nodeOk (n : Nat) : Bool :=
  let ex (lo : Nat) : Bool :=
    let u := bitsOf n (lo + 10) (lo + 7)
    let t := bitsOf n (lo + 6) (lo + 1)
    u = 0 || (decide (u ≤ 8) && decide (4 ≤ t) && decide (t + u ≤ 40))
  decide (bitsOf n 255 248 ≠ 0) && decide (bitsOf n 239 238 ≠ 3) && decide (bitsOf n 226 222 ≤ 16) &&
    decide (bitsOf n 237 227 + bitsOf n 226 222 ≤ 2048) && nextOk (bitsOf n 221 213) &&
    decide (bitsOf n 194 191 + bitsOf n 190 187 ≤ 15) && decide (bitsOf n 158 155 + bitsOf n 154 151 ≤ 15) &&
    ex 121 && ex 102 && ex 83 && ex 64 && decide (n % 2 ^ 64 = 0)

/-- A transition entry meets the ranges of 05 R135. -/
def transOk (n : Nat) : Bool :=
  decide (bitsOf n 63 48 &&& (65535 - bitsOf n 47 32) = 0) && nextOk (bitsOf n 31 23) && decide (n % 2 ^ 23 = 0)

/-- The transitions that a node entry uses. -/
def nodeTrans (n : Nat) : List Nat := (List.range (bitsOf n 226 222)).map (fun i => bitsOf n 237 227 + i)

def Dev.nodeAt (d : Dev) (slice e : Nat) : Nat := (d.obj cParseNode (sliceIdx slice e)).n 0
def Dev.transAt (d : Dev) (slice e : Nat) : Nat := (d.obj cParseTrans (sliceIdx slice e)).n 0

/-- A next-node code names no node, or one that exists: its CLASS is not 0x00 (02 R50; log 79). -/
def Dev.named (m : Dev) (slice c : Nat) : Bool := decide (256 ≤ c) || decide (bitsOf (m.nodeAt slice c) 255 248 ≠ 0)

/-- A node names existing nodes, by default and by its transitions. -/
def Dev.nodeNames (m : Dev) (slice n : Nat) : Bool :=
  m.named slice (bitsOf n 221 213) && (nodeTrans n).all (fun t => m.named slice (bitsOf (m.transAt slice t) 31 23))

/-- The nodes of a slice that use a transition. -/
def Dev.usersOf (d : Dev) (slice t : Nat) : List Nat :=
  (List.range 256).filter (fun e => (nodeTrans (d.nodeAt slice e)).contains t)

/-- A one-byte selection compares no high byte. -/
def Dev.maskFits (d : Dev) (slice e t : Nat) : Bool :=
  decide (bitsOf (d.nodeAt slice e) 239 238 ≠ 1) || decide (bitsOf (d.transAt slice t) 47 32 < 256)

/-- A pattern entry (05 R152). -/
def patternOk (o : Obj) : Bool :=
  let v := (leBytes (o.n 7) 32)
  let m := (leBytes (o.n 8) 32)
  (List.zipWith (fun (a b : Byte) => decide (a &&& ~~~b = 0)) v m).all id && allZero (m.drop (o.n 6)) &&
    (!o.b 0 || (if o.n 1 = 2 then decide (o.n 4 ≤ o.n 5) && decide (o.n 5 + o.n 6 ≤ 512) else decide (o.n 4 + o.n 6 ≤ 512)))

/-- The lanes of a layout's Ethernet port that starts at a lane. -/
def layoutLanes (o : Obj) (i : Nat) : List Nat :=
  if o.n i < 7 then (List.range (typeLanes (o.n i))).map (i + ·) else []

/-- The lanes of a mask are contiguous. -/
def contiguous (m : Nat) : Bool :=
  m = 0 || (List.range (popCount 8 m)).all (fun i => m.testBit (lowBit m + i))

/-- A layout that 03 R62 permits: alignment, and groups on the line side alone. -/
def layoutOk (idx : Nat) (o : Obj) : Bool :=
  (List.range 8).all (fun i => decide (8 ≤ o.n i) || decide (i % typeLanes (o.n i) = 0)) &&
    decide (o.n 16 < 256) && (decide (idx % 2 = 0) || (decide (o.n 16 = 0) && (List.range 8).all (fun i => decide (o.n i ≠ 7))))

/-- A layout names one Smivia group at most: its lanes are one contiguous run, and no lane is given to another (01 R30). DESIGN
CHOICE: a mask of two runs is two groups (rule 5, E_CONFLICT), not one group whose lanes are not contiguous (log 75). -/
def oneGroup (o : Obj) : Bool := contiguous (o.n 16) && (List.range 8).all (fun i => decide (o.n i ≠ 7))

/-- No lane of a layout is claimed twice. -/
def layoutDisjoint (o : Obj) : Bool :=
  (List.range 8).all (fun l =>
    decide ((((List.range 8).filter (fun i => (layoutLanes o i).contains l)).length +
      b2n ((o.n 16).testBit l)) ≤ 1))

/-- Longest MAX_SDU of a port. -/
def Dev.maxSdu (d : Dev) (p : Nat) : Nat := ((List.range 8).map (fun q => (d.qSet p q).n 2)).foldl max 0

/-- A burst covers a frame of `n` bytes with the port's OVERHEAD. -/
def Dev.burstFits (d : Dev) (p n burst : Nat) : Bool := decide ((n : Int) + d.overhead p ≤ burst)

/-- The settings of a port and its queues stand within each other's ranges (12 R358): rates within the port's rate, where there
is a port, and bursts that cover the largest frame. -/
def Dev.egressFits (m : Dev) (p : Nat) : Bool :=
  let e := m.egSet p
  let within (r : Nat) : Bool := !(m.isEth p || m.isGroup p) || decide (r ≤ m.portRate p)
  within (e.n 1) && m.burstFits p (m.maxSdu p) (e.n 2) &&
    (List.range 8).all (fun q => within ((m.qSet p q).n 3) && m.burstFits p ((m.qSet p q).n 2) ((m.qSet p q).n 4))

/-- The ports whose egress settings a staged object bears on: of a layout its lanes, of a queue its port. -/
def egressOf (cls idx : Nat) : List Nat :=
  match cls with
  | 5 => (List.range 8).map (fun i => idx % 2 * 16 + idx / 2 * 8 + i)
  | 33 => [idx]
  | 34 => [idx / 8]
  | _ => []

/-- Ranges within the size of what they name. -/
def rangesOk (size : Nat) (rs : List (List Int)) : Bool :=
  rs.all (fun r => decide (r.getD (r.length - 1) 0 < size))

/-- A quota image names objects that exist (13 R390). -/
def quotaRangesOk (o : Obj) : Bool :=
  (List.zipWith rangesOk [1024, 16384, 32768, 65536, 4096, 256, 2048, 256, 1024, 4096, 8192] o.l).all id

/-- The rules for the value of one staged object. -/
def valueOk (m : Dev) (dom : Nat) (s : Staged) (o : Obj) : Bool :=
  let idx := s.idx
  fieldsOk s.cls o &&
  match s.cls with
  | 3 => decide (idx < 32) && decide (o.n 0 < m.epCount) && (decide (idx ≠ 0) || decide (o.n 0 = 0 ∧ o.n 1 = 0))
  | 4 => quotaRangesOk o
  | 5 => layoutOk idx o
  | 6 => decide ((o.z 0).natAbs + o.n 1 + (o.z 2).natAbs ≤ 64) &&
      (!m.nrz idx || (decide (o.n 28 ≤ 6) && decide (o.n 29 ≤ 6)))
  | 7 => decide ((o.n 0 < 16) ↔ ¬ (idx < 16))
  | 9 => [0x10, 0x11, 0xFD, 0xFE].contains (o.n 2) && (o.lst 0).all (fun e => decide (16 ≤ e.getD 1 0)) &&
      decide ((o.lst 1).length ≤ 4)
  | 10 => nodeOk (o.n 0) &&
      (nodeTrans (o.n 0)).all (fun t => m.maskFits (idx / 2 ^ 31) (idx % 2 ^ 31) t) && m.nodeNames (idx / 2 ^ 31) (o.n 0)
  | 11 => transOk (o.n 0) && m.named (idx / 2 ^ 31) (bitsOf (o.n 0) 31 23) &&
      (m.usersOf (idx / 2 ^ 31) (idx % 2 ^ 31)).all (fun e => m.maskFits (idx / 2 ^ 31) e (idx % 2 ^ 31))
  | 12 => patternOk o
  | 13 => [0, 30, 50].contains (o.n 3) && m.named (idx % 16 / 8) (o.n 0)
  | 14 => decide (o.n 8 = 0 ∨ o.n 9 ≤ 32) && m.named idx (o.n 0)
  | 17 => decide (o.n 2 &&& (2 ^ 640 - 1 - o.n 3) = 0) && decide (o.n 10 = 0 ∨ o.n 11 ≤ 32)
  | 18 => decide (o.n 7 = 0 ∨ o.n 8 ≤ 32)
  | 20 => (if o.n 1 = 0 then decide (16 ≤ o.n 2 ∧ o.n 2 ≤ 32) else decide (32 ≤ o.n 2)) &&
      decide (o.n 3 % 2 ^ (128 - o.n 2) = 0)
  | 23 => !(o.b 4 && (o.b 5 || o.b 6))
  | 24 => [0, 30, 50].contains (o.n 3)
  | 25 => [0, 30, 50].contains (o.n 3) && (decide (o.n 4 < 16384) || decide (o.n 4 = 65535))
  | 26 => (o.b 1 || decide (o.n 2 < 16384)) && m.handleOk dom (o.n 4)
  | 28 => decide (o.n 0 % 4096 = 0)
  | 30 => !(m.isEth idx || m.isGroup idx) || decide (16052 * 8000 + 600 * m.portRate idx ≤ o.n 3 * m.portRate idx)
  | 31 => decide (o.n 6 + 10 ≤ o.n 5)
  | 35 => decide (1 ≤ (o.lst 0).length ∧ (o.lst 0).length ≤ 1024) &&
      (o.lst 0).all (fun e =>
        let n := (e.getD 0 0).toNat
        decide (bitsOf n 55 30 = 0) && decide (32 ≤ n % 2 ^ 30) && decide (n % 2 ^ 30 ≤ 10 ^ 9)) &&
      decide (((o.lst 0).map (fun e => (e.getD 0 0).toNat % 2 ^ 30)).sum ≤ o.n 4)
  | 36 => (o.b 1 || decide (o.n 4 ≤ o.n 6)) && (decide (o.n 4 = 0) || decide (16064 ≤ o.n 5)) &&
      (decide (o.n 6 = 0) || decide (16064 ≤ o.n 7))
  | _ => true

/-- An SC that names an invalid SecY, an SA that names an invalid SC (07 R201), and a node, a port or a recirculation root
that names a node that does not exist; and an SA of the domain whose KEY_HANDLE lies outside its blob table (09 R288). -/
def dangling (m : Dev) (dom : Nat) : List Failure :=
  let scBad (e : Nat × Obj) : Bool := e.2.b 0 && !(m.obj cSecy (e.2.n 1)).b 0
  let saBad (e : Nat × Obj) : Bool := (e.2.b 0 && !(m.obj (if e.2.b 1 then cRxSc else cTxSc) (e.2.n 2)).b 0) ||
    (m.saOwner e.1 = some dom && !m.handleOk dom (e.2.n 4))
  let nodeBad (e : Nat × Obj) : Bool := decide (bitsOf (e.2.n 0) 255 248 ≠ 0) && !m.nodeNames (e.1 / 2 ^ 31) (e.2.n 0)
  (((m.table cParseNode).filter nodeBad).map (fun e => failAt cParseNode e.1)) ++
    (((m.table cParsePort).filter (fun e => !m.named (e.1 % 16 / 8) (e.2.n 0))).map (fun e => failAt cParsePort e.1)) ++
    (((m.table cRecirc).filter (fun e => !m.named e.1 (e.2.n 0))).map (fun e => failAt cRecirc e.1)) ++
    (((m.table cTxSc).filter scBad).map (fun e => failAt cTxSc e.1)) ++
    (((m.table cRxSc).filter scBad).map (fun e => failAt cRxSc e.1)) ++
    (((m.table cSa).filter saBad).map (fun e => failAt cSa e.1))

/-- A REMOVE of a prefix names a prefix that the tables accept (06 R185); of a node or a transition it leaves masks that fit
the selections (05 R135). -/
def removeOk (m : Dev) (dom : Nat) (s : Staged) : Bool :=
  let slice := s.idx / 2 ^ 31
  let e := s.idx % 2 ^ 31
  s.obj.isSome ||
    (match s.cls with
     | 10 => (nodeTrans (m.nodeAt slice e)).all (m.maskFits slice e)
     | 11 => (m.usersOf slice e).all (fun n => m.maskFits slice n e)
     | 20 => valueOk m dom s (lpmObjOf s.key)
     | _ => true)

/-- A quota for a domain that the merged domain map gives no slot: it does not exist, and no command gives it a quota
(13 R388). DESIGN CHOICE: rule 1 refuses it, as an index that names nothing (log 99). -/
def quotaNowhere (m : Dev) (s : Staged) : Bool := decide (s.cls = cQuota) && s.obj.isSome && !m.domExists s.idx

def rule1 (m : Dev) (dom : Nat) (set : List Staged) : List Failure :=
  (((set.filter (fun s => !indexOk s.cls s.idx || s.obj.any (fun o => !valueOk m dom s o) || !removeOk m dom s ||
      quotaNowhere m s || !(egressOf s.cls s.idx).all m.egressFits)).map
    (fun s => failAt s.cls s.idx)) ++ dangling m dom).eraseDups

/-! ### Rule 2: ranges of the domain -/

/-- A node names only what its owner may name (05 R155): next nodes and transitions. -/
def nodeRefsOk (m : Dev) (slice e : Nat) : Bool :=
  let n := m.nodeAt slice e
  let q := m.quota (if e < 16 then m.sup else (m.ownerBy (fun q => inRange2 (q.lst 5) slice e)).getD m.sup)
  let next (c : Nat) : Bool := decide (256 ≤ c) || decide (c < 16) || (decide (16 ≤ e) && inRange2 (q.lst 5) slice c)
  next (bitsOf n 221 213) &&
    (nodeTrans n).all (fun t =>
      (decide (t < 64) || (decide (16 ≤ e) && inRange2 (q.lst 6) slice t)) && next (bitsOf (m.transAt slice t) 31 23))

def refsOk (m : Dev) (dom : Nat) (s : Staged) : Bool :=
  let q := m.quota dom
  let o := s.obj.getD { f := [] }
  let slice := s.idx / 2 ^ 31
  if s.obj.isNone then true
  else
    match s.cls with
    | 10 => nodeRefsOk m slice (s.idx % 2 ^ 31)
    | 11 => (m.usersOf slice (s.idx % 2 ^ 31)).all (nodeRefsOk m slice)
    | 13 => decide (o.n 0 < 16) || inRange2 (q.lst 5) (s.idx % 16 / 8) (o.n 0)
    | 23 => !o.b 0 || quotaPort q (o.n 1)
    | _ => true

def rule2 (d m : Dev) (dom : Nat) (set : List Staged) : List Failure :=
  (set.filter (fun s =>
    (supOnly s.cls && decide (dom ≠ d.sup)) || !m.ownsObj dom s.cls s.idx (s.obj.getD (d.obj s.cls s.key)) ||
      !refsOk m dom s)).map (fun s => failAt s.cls s.idx)

/-! ### Rule 3: the life cycle -/

def rule3 (d : Dev) (set : List Staged) : List Failure :=
  (set.filter (fun s => decide (d.lc = 3) && s.obj.any (fun o =>
    (decide (s.cls = cSmvGroup) && decide (o.n 2 = 0xFE)) || (decide (s.cls = cMacsecPort) && decide (o.n 0 = smCLEAR))))).map
      (fun s => failAt s.cls s.idx)

/-! ### Rule 4: double claims -/

/-- Two lists of ranges have an entry in common. -/
def rangesMeet (a b : List (List Int)) : Bool :=
  a.any (fun x => b.any (fun y =>
    let n := x.length
    decide (n = 2 ∨ x.getD 0 0 = y.getD 0 0) && decide (x.getD (n - 2) 0 ≤ y.getD (n - 1) 0) &&
      decide (y.getD (n - 2) 0 ≤ x.getD (n - 1) 0)))

/-- Two spans of numbers meet; an empty span has its first above its last. -/
def spansMeet (a b c e : Nat) : Bool := decide (a ≤ b) && decide (c ≤ e) && decide (a ≤ e) && decide (c ≤ b)

/-- Two quotas claim an object twice: ports, pinned slots, parents, ranges, time bases and pins owned. -/
def quotasMeet (a b : Obj) : Bool :=
  decide (a.n 0 &&& b.n 0 ≠ 0) || spansMeet (a.n 1) (a.n 2) (b.n 1) (b.n 2) || spansMeet (a.n 4) (a.n 5) (b.n 4) (b.n 5) ||
    decide (a.n 10 &&& b.n 10 ≠ 0) || decide (a.n 12 &&& b.n 12 ≠ 0) || (List.zipWith rangesMeet a.l b.l).any id

/-- The other entries of a table that agree with one. -/
def clash (t : Tbl Obj) (k : Nat) (p : Obj → Bool) : Bool := t.any (fun e => decide (e.1 ≠ k) && e.2.b 0 && p e.2)

/-- The time bases that the objects of a domain name, its ports, pins and groups that stand as after reset among them
(11 R337). -/
def Dev.tbsUsed (d : Dev) (dom : Nat) : List Nat :=
  let q := d.quota dom
  let of_ (cls field : Nat) : List Nat :=
    ((d.table cls).filter (fun e => covers d q cls e.1 e.2)).map (fun e => e.2.n field)
  let standing (cls field : Nat) (ks : List Nat) : List Nat := ks.map (fun k => (d.obj cls k).n field)
  let ports := (List.range 32).filter (quotaPort q)
  standing cStampPort 0 ports ++ standing cTimePin 1 ((List.range 4).filter (quotaPin q)) ++
    standing cSmvGroup 13 ([0, 1].filter (fun s => (d.groupPort s).any (quotaPort q))) ++ of_ cGateList 1

/-- What a staged quota takes from a domain that is in use there (13 R393): configured objects, occupied pinned slots,
bound parent entries, and time bases whose use the domain's quota no longer allows. -/
def quotaTakes (d : Dev) (s : Staged) : Bool :=
  (d.taken [s]) ≠ [] || (d.quotaMoves [s]).any (fun m =>
    let old := m.2.1
    let new := m.2.2
    d.keys.slots.any (fun e => decide (e.1 < cacheBase) && decide (e.2.state ≠ .free) && quotaPinned old e.1 && !quotaPinned new e.1) ||
    d.keys.parents.any (fun e => quotaParent old e.1 && !quotaParent new e.1) ||
    (d.tbsUsed m.1).any (fun t => quotaTbRead old t && !quotaTbRead new t) ||
    d.armedSets.any (fun a => decide (a.1 = m.1) && a.2.2.any (fun x =>
      covers d old x.cls x.idx (x.obj.getD (d.obj x.cls x.key)) && !covers d new x.cls x.idx (x.obj.getD (d.obj x.cls x.key)))))

/-- The staged objects that claim something twice. -/
def claimsTwice (d m : Dev) (s : Staged) : Bool :=
  match s.cls, s.obj with
  | 3, _ => (m.place s.idx).isSome && (List.range 32).any (fun k => decide (k ≠ s.idx) && decide (m.place k = m.place s.idx))
  | 4, o => o.any (fun o => (m.table cQuota).any (fun e => decide (e.1 ≠ s.key) && quotasMeet o e.2)) ||
      (!s.force && quotaTakes d s)
  | 5, some o => !layoutDisjoint o
  | 10, _ => d.fw.pgArmed && decide (s.idx % 2 ^ 31 < 16)
  | 11, _ => d.fw.pgArmed && decide (s.idx % 2 ^ 31 < 64)
  | 24, some o => o.b 0 && clash (m.table cTxSc) s.key (fun p => p.n 1 = o.n 1 && p.n 2 = o.n 2)
  | 25, some o => o.b 0 && clash (m.table cRxSc) s.key (fun p => p.n 1 = o.n 1 && p.n 2 = o.n 2)
  | 26, some o => o.b 0 && clash (m.table cSa) s.key (fun p => p.n 1 = o.n 1 && p.n 2 = o.n 2 && p.n 3 = o.n 3)
  | _, _ => false

/-- SAs whose key-defining policy changes while they are neither EMPTY nor RETIRED (07 R203). -/
def keyChanges (d m : Dev) : List Failure :=
  (d.msec.sas.filter (fun e => decide (e.2.state ≠ 0 ∧ e.2.state ≠ 4) && decide (d.saKey e.1 ≠ m.saKey e.1))).map
    (fun e => failAt cSa e.1)

def rule4 (d m : Dev) (set : List Staged) : List Failure :=
  ((set.filter (claimsTwice d m)).map (fun s => failAt s.cls s.idx)) ++ keyChanges d m

/-! ### Rule 5: structure -/

/-- Every valid SA of a SecY has its key pinned. -/
def allPinned (m : Dev) (secy : Nat) : Bool :=
  (m.table cSa).all (fun e =>
    let sc := m.obj (if e.2.b 1 then cRxSc else cTxSc) (e.2.n 2)
    !(e.2.b 0 && sc.b 0 && decide (sc.n 1 = secy)) ||
      ((m.findPinned ((m.saOwner e.1).getD m.sup) (e.2.n 4)).any (fun x => decide (x.2.state = .valid))))

/-- A port has an enabled gate list. -/
def Dev.gated (m : Dev) (p : Nat) : Bool := (m.obj cGateList p).b 0

/-- The words of a key that a receive frame of a line port has on its first pass, as far as they are known: position, value
and the bits that are fixed. C0 holds direction and port; its epoch is open (05 R133, 06 R160). -/
def Dev.knownKey (m : Dev) (l : Nat) : List (Nat × Nat × Nat) :=
  let prof := m.obj cKeyProfile (sliceIdx (l % 16 / 8) ((m.obj cClsPort l).n 0))
  (List.range 40).filterMap (fun i =>
    if prof.n i = 0 then some (i, 0x8000 + l, 0xDFFF) else if prof.n i = 40 then some (i, 0, 0xFFFF) else none)

/-- A TCAM entry, of index `i`, that a first-pass receive frame of a line port may match, and that sends it to a line port.
Only entries of the port's owner match (06 R164). -/
def Dev.turnsBack (m : Dev) (l i : Nat) (o : Obj) : Bool :=
  (m.portOwner l).any (fun k => inRange2 ((m.quota k).lst 4) (l % 16 / 8) i) &&
    o.b 0 && decide (o.n 1 = (m.obj cClsPort l).n 0) && decide (o.n 4 ≠ 1) && decide (o.n 18 < 16) &&
    (m.knownKey l).all (fun k =>
      let v := o.n 2 / 2 ^ (16 * k.1) % 65536
      let w := o.n 3 / 2 ^ (16 * k.1) % 65536
      decide (Nat.xor v k.2.1 &&& w &&& k.2.2 = 0))

/-- A latency-locked pair that breaks 01 R21 or 07 R240. -/
def pairBad (m : Dev) (l : Nat) (o : Obj) : Bool :=
  let h := o.n 0
  let shaped (p : Nat) : Bool := decide ((m.egSet p).n 1 ≠ 0) || (List.range 8).any (fun q => decide ((m.qSet p q).n 3 ≠ 0))
  let dflt := m.obj cClsPort l
  decide (l % 16 / 8 ≠ h % 16 / 8) || m.isGroup l || decide (3 < m.portType l) || decide (m.portType l ≠ m.portType h) ||
    m.gated l || m.gated h || shaped l || shaped h ||
    (m.table cLlPair).any (fun e => decide (e.1 ≠ l) && e.2.f ≠ [] && decide (e.2.n 0 = h)) ||
    (m.table cSecy).any (fun e => e.2.b 0 && decide (e.2.n 1 = l) && !allPinned m e.1) ||
    (decide (dflt.n 1 ≠ 1) && decide (dflt.n 15 < 16)) ||
    (m.table cTcam).any (fun e => decide (e.1 / 2 ^ 31 = l % 16 / 8) && m.turnsBack l (e.1 % 2 ^ 31) e.2)

/-- One-step where 11 R350 forbids it. -/
def oneStepBad (m : Dev) (p : Nat) : Bool :=
  (m.obj cStampPort p).b 2 && (decide (16 ≤ p) || m.isGroup p || m.gated p || decide ((m.obj cLlPair p).f ≠ []))

/-- A servo of `STAGE_TIME_GLOBAL` takes its pulses from a pin that another domain owns. -/
def servoPinBad (q : Obj) (o : Obj) : Bool :=
  (List.range 8).any (fun i =>
    let src := o.n (1 + 3 * i)
    decide (1 ≤ src) && decide (src ≤ 4) && !quotaPin q (src - 1))

def rule5 (m : Dev) (dom : Nat) (set : List Staged) : List Failure :=
  let q := m.quota dom
  let tbOf (s : Staged) : Option Nat := match s.cls, s.obj with
    | 30, some o => some (o.n 0)
    | 35, some o => some (o.n 1)
    | 9, some o => some (o.n 13)
    | 31, some o => some (o.n 1)
    | _, _ => none
  (((m.table cLlPair).filter (fun e => e.2.f ≠ [] && pairBad m e.1 e.2)).map (fun e => failAt cLlPair e.1)) ++
    (((m.table cSecy).filter (fun e => e.2.b 0 && decide (m.portOwner (e.2.n 1) = some dmCode) && !allPinned m e.1)).map
      (fun e => failAt cSecy e.1)) ++
    (((List.range 32).filter (oneStepBad m)).map (failAt cStampPort)) ++
    ((set.filter (fun s => (tbOf s).any (fun t => !quotaTbRead q t) ||
      (decide (s.cls = cPortLayout) && s.obj.any (fun o => !oneGroup o)) ||
      (decide (s.cls = cTimeGlobal) && s.obj.any (servoPinBad q)))).map (fun s => failAt s.cls s.idx))

/-! ### Rule 6: counts, and the index of receive SCs -/

/-- Distinct buckets of a list of prefixes (06 R186). -/
def bucketsOf (ps : List Obj) : List (Nat × Nat × Nat) :=
  (ps.map (fun o => (o.n 0, o.n 1, addrTop (o.n 3) (bucketBits (o.n 1))))).eraseDups

/-- LPM entries of a domain: prefixes and filter entries. -/
def lpmCount (m : Dev) (q : Obj) : Nat :=
  let ps := ((m.table cLpm).map Prod.snd).filter (fun o => quotaService q (o.n 0))
  ps.length + (bucketsOf ps).length

/-- Queue minima of a domain's ports. -/
def minCells (m : Dev) (q : Obj) : Nat :=
  (((List.range 256).filter (fun i => quotaPort q (i / 8))).map (fun i => (m.obj cQueue i).n 7)).sum

/-- The four candidate positions of a receive SC (07 R202). -/
def scSlots (o : Obj) : List Nat :=
  (List.range 4).map (fun w =>
    w * 16384 + (crc32c (leBytes w 1 ++ beBytes (o.n 1) 2 ++ beBytes (o.n 2) 8)).toNat % 16384)

/-- An augmenting path from one SC: the placement with it, where there is one. `seen` holds positions tried. -/
def augment (cands : Tbl (List Nat)) : Nat → Nat → List Nat → Tbl Nat → Option (Tbl Nat) × List Nat
  | 0, _, seen, _ => (none, seen)
  | n + 1, sc, seen, pl =>
    (Tbl.get [] sc cands).foldl (fun (st : Option (Tbl Nat) × List Nat) pos =>
      match st.1 with
      | some _ => st
      | none =>
        if st.2.contains pos then st
        else
          match pl.find pos with
          | none => (some (pl.put pos sc), pos :: st.2)
          | some other =>
            let r := augment cands n other (pos :: st.2) pl
            (r.1.map (fun p => p.put pos sc), r.2)) (none, seen)

/-- Receive SCs that the index cannot place (07 R202). -/
def scUnplaced (m : Dev) : List Nat :=
  let scs := (m.table cRxSc).filter (fun e => e.2.b 0)
  let cands : Tbl (List Nat) := scs.map (fun e => (e.1, scSlots e.2))
  (scs.foldl (fun (st : List Nat × Tbl Nat) e =>
    match (augment cands (scs.length + 1) e.1 [] st.2).1 with
    | some p => (st.1, p)
    | none => (st.1 ++ [e.1], st.2)) ([], [])).1

def rule6 (m : Dev) (dom : Nat) (set : List Staged) : List Failure :=
  let doms := (dom :: ((set.filter (fun s => s.cls = cQuota)).map Staged.key)).eraseDups
  let exceed (f : Dev → Obj → Nat) (field cls : Nat) : List Failure :=
    (doms.filter (fun k => decide ((m.quota k).n field < f m (m.quota k)))).map (fun k =>
      match set.find? (fun s => s.cls = cls) with
      | some s => failAt cls s.idx
      | none => failAt cQuota k)
  exceed lpmCount 7 cLpm ++ exceed minCells 8 cQueue ++
    (if 65536 < (m.table cLpm).length + (bucketsOf ((m.table cLpm).map Prod.snd)).length then [failAt cLpm 0] else []) ++
    (scUnplaced m).map (failAt cRxSc)

/-! ### Rules 7 to 9 -/

/-- The shared pool holds at least 8,192 cells (12 R372). The failing object, from whose port the slice follows, is the first
staged one that adds cells to a reservation. DESIGN CHOICE: queues before SecYs, then pairs and quotas, and any other last
(log 99). -/
def rule7 (m : Dev) (set : List Staged) : List Failure :=
  let used := 2 * m.parkSize + 1024 + m.minTotal
  let short := used + 8192 - 196608
  let named := ([cQueue, cSecy, cLlPair, cQuota].findSome? (fun c => set.find? (fun s => s.cls = c))).or set.head?
  if short = 0 then []
  else named.toList.map (fun s => (s.cls, s.idx, leBytes short 8))

/-- Buckets that mark more than 6 lengths (06 R188). -/
def rule8 (m : Dev) : List Failure :=
  let ps := (m.table cLpm).map Prod.snd
  ((bucketsOf ps).filter (fun b =>
    6 < (lengthsOf (ps.filter (fun o => decide ((o.n 0, o.n 1, addrTop (o.n 3) (bucketBits (o.n 1))) = b)))).length)).map
    (fun b => (cLpm, 0, leBytes b.2.1 1 ++ leBytes b.1 2 ++ [0] ++ leBytes b.2.2 4))

/-- The lengths of the open windows of a queue in a list of segments that begins with the gate closed. -/
def windows (q : Nat) : List (Nat × Nat) → Nat → List Nat
  | [], acc => if acc = 0 then [] else [acc]
  | (g, n) :: rest, acc =>
    if g.testBit q then windows q rest (acc + n) else (if acc = 0 then [] else [acc]) ++ windows q rest 0

/-- The open windows of a queue, counted cyclically; none where it is open, or closed, in every entry (12 R367). -/
def openWindows (o : Obj) (q : Nat) : List Nat :=
  let segs := gateSegs o
  if segs.all (fun s => s.1.testBit q) then []
  else
    let i := segs.findIdx (fun s => !s.1.testBit q)
    windows q (segs.drop i ++ segs.take i) 0

/-- The guard-band test of a queue (12 R367). -/
def guardFails (m : Dev) (p q : Nat) : Bool :=
  let o := m.obj cGateList p
  let s := m.qSet p q
  let segs := gateSegs o
  let bits := (((s.n 2 : Int) + m.overhead p).toNat) * 8000
  if segs.all (fun x => x.1.testBit q) ∨ segs.all (fun x => !x.1.testBit q) then false
  else if s.n 5 = 0 then
    decide (s.n 6 * m.portRate p < bits) || (openWindows o q).any (fun w => decide (w ≤ s.n 6))
  else (openWindows o q).any (fun w => decide (w * m.portRate p < bits))

def rule9 (m : Dev) : List Failure :=
  ((List.range 32).filter (fun p => m.gated p && (List.range 8).any (guardFails m p))).map (failAt cGateList)

/-! ### CHECK -/

/-- The first rule that fails: its order number and its failures. -/
def Dev.verdict (d : Dev) (dom : Nat) : Option (Nat × List Failure) :=
  let set := (d.domCfg dom).staging
  let m := d.merged dom
  [(1, fun (_ : Unit) => rule1 (d.asStaged dom) dom set), (2, fun _ => rule2 d m dom set), (3, fun _ => rule3 d set),
   (4, fun _ => rule4 d m set), (5, fun _ => rule5 m dom set), (6, fun _ => rule6 m dom set), (7, fun _ => rule7 m set),
   (8, fun _ => rule8 m), (9, fun _ => rule9 m)].findSome? (fun r =>
     let fs := r.2 ()
     if fs = [] then none else some (r.1, fs))

/-- The status of a rule (02 R50). -/
def ruleStatus (r : Nat) : Nat :=
  match r with
  | 1 | 9 => eRange
  | 2 => ePerm
  | 3 => eState
  | 4 | 5 => eConflict
  | 6 | 7 => eQuota
  | _ => eProbes

/-- What a failed `CHECK` answers (14 R445). -/
def Dev.checkFail (d : Dev) (dom : Nat) : Option Reply :=
  (d.verdict dom).map (fun v =>
    let f := v.2.headD (0, 0, [])
    { status := ruleStatus v.1, detail := min 65535 v.2.length,
      result := [BitVec.ofNat 8 v.1, 0] ++ leBytes (0x100 + f.1) 2 ++ leBytes f.2.1 4 ++ f.2.2 })

/-- CHECK. -/
def checkBody (c : Cmd) (d : Dev) : Answer :=
  match d.checkFail c.dom with
  | some r => answer r d
  | none =>
    let cs := d.changesOf c.dom
    let w := d.copyWords (affected cs) (d.armedBut [c.dom] ++ [cs])
    answer { result := leBytes w.1 2 ++ leBytes w.2 2 } d

/-- ARM_COMMIT: `CHECK` runs again in full, last of the conditions of 02 R51. -/
def armCommitBody (c : Cmd) (target : Nat) (asap : Bool) (d : Dev) : Answer := armBody c target asap (d.checkFail c.dom) d

end Sys2Proof.Machine
end

