-- ==== Sys2Proof/Machine/Counters.lean ====
section
/-! DEFINITION. The counters: their identifiers, owners and values, `CNT_READ`, `CNT_SELECT`, and the dumps (18). -/

namespace Sys2Proof.Machine

/-! ### Identifiers (18 R519) -/

/-- What a counter is kept per. -/
inductive CntPer where
  | prog
  | lane
  | port
  | linePort
  | hostPort
  | domain
  | slice
  | group
  | sa
  | secy
  | txSc
  | rxSc
  | queue
  | meter
  | pin
  | endpoint
  | mgmt
  | memClass
  | device
  | ledger
deriving DecidableEq, Repr

/-- The counter of a CODE; none where it is not assigned. -/
def cntPer (code : Nat) : Option CntPer :=
  let within (a b : Nat) : Bool := decide (a ≤ code ∧ code ≤ b)
  if code = 0 then some .prog
  else if within 0x010 0x015 then some .lane
  else if within 0x020 0x02A then some .port
  else if within 0x040 0x044 then some .domain
  else if within 0x048 0x04D then some .port
  else if within 0x04E 0x04F then some .slice
  else if within 0x060 0x06C then some .group
  else if within 0x080 0x083 ∨ code = 0x090 then some .port
  else if within 0x084 0x08F then some .domain
  else if code = 0x0A0 then some .linePort
  else if within 0x0A1 0x0A2 ∨ code = 0x0A6 ∨ within 0x0AB 0x0AD then some .sa
  else if within 0x0A3 0x0A4 ∨ within 0x0A7 0x0A9 ∨ within 0x0AE 0x0AF then some .secy
  else if code = 0x0A5 then some .txSc
  else if code = 0x0AA then some .rxSc
  else if code = 0x0B0 then some .hostPort
  else if code = 0x0B1 ∨ within 0x0B4 0x0B5 then some .domain
  else if within 0x0B2 0x0B3 then some .slice
  else if within 0x0B6 0x0B8 then some .linePort
  else if within 0x0C0 0x0C6 then some .group
  else if within 0x0D0 0x0D3 ∨ within 0x0E0 0x0E3 ∨ code = 0x0F0 then some .domain
  else if code = 0x0F1 then some .linePort
  else if code = 0x0F2 then some .pin
  else if within 0x100 0x105 then some .queue
  else if code = 0x106 then some .port
  else if within 0x107 0x10D then some .meter
  else if code = 0x120 then some .endpoint
  else if within 0x121 0x122 then some .domain
  else if within 0x123 0x129 then some .mgmt
  else if code = 0x130 then some .device
  else if within 0x131 0x132 then some .memClass
  else if within 0x140 0x142 then some .secy
  else if within 0x150 0x153 then some .slice
  else if within 0x154 0x159 then some .ledger
  else none

/-- The instances of a kind: first and last. -/
def perRange (k : CntPer) : Nat × Nat :=
  match k with
  | .prog => (0, 95)
  | .lane | .port => (0, 31)
  | .linePort => (0, 15)
  | .hostPort => (16, 31)
  | .domain => (0, 32)
  | .slice | .group | .mgmt => (0, 1)
  | .sa => (0, 65535)
  | .secy => (0, 1023)
  | .txSc => (0, 16383)
  | .rxSc => (16384, 49151)
  | .queue => (0, 255)
  | .meter => (0, 16383)
  | .pin | .endpoint => (0, 3)
  | .memClass => (0, 9)
  | .device => (0, 0)
  | .ledger => (0, 7)

/-- The code and instance of a valid identifier. -/
def cntOk (id : Nat) : Bool :=
  match cntPer (id / 2 ^ 20) with
  | none => false
  | some k => decide ((perRange k).1 ≤ id % 2 ^ 20 ∧ id % 2 ^ 20 ≤ (perRange k).2)

/-! ### Owners (18 R520) -/

/-- Ranges of a quota list. -/
def quotaRanges (l : List (List Int)) : List (Nat × Nat) := l.map (fun r => ((r.getD 0 0).toNat, (r.getD 1 0).toNat))

/-- Single instances that satisfy a test. -/
def pointsOf (n : Nat) (p : Nat → Bool) : List (Nat × Nat) := ((List.range n).filter p).map (fun i => (i, i))

/-- The instances of a kind that a domain reads, as ranges. -/
def Dev.readable (d : Dev) (dom : Nat) (k : CntPer) : List (Nat × Nat) :=
  let q := d.quota dom
  match k with
  | .lane => pointsOf 32 (fun l => (d.lanePort l).any (quotaPort q))
  | .port | .linePort | .hostPort => pointsOf 32 (quotaPort q)
  | .domain => [(dom, dom)]
  | .group => pointsOf 2 (fun s => d.groupOwner s = some dom)
  | .sa => quotaRanges (q.lst 3)
  | .secy => quotaRanges (q.lst 0)
  | .txSc => quotaRanges (q.lst 1)
  | .rxSc => (quotaRanges (q.lst 2)).map (fun r => (r.1 + 16384, r.2 + 16384))
  | .queue => (pointsOf 32 (quotaPort q)).map (fun r => (r.1 * 8, r.1 * 8 + 7))
  | .meter => (q.lst 10).map (fun r => ((r.getD 0 0).toNat * 8192 + (r.getD 1 0).toNat, (r.getD 0 0).toNat * 8192 + (r.getD 2 0).toNat))
  | .pin => pointsOf 4 (quotaPin q)
  | .prog | .slice | .endpoint | .mgmt | .memClass | .device | .ledger => if dom = d.sup then [perRange k] else []

/-- Whether an instance lies in one of the ranges. -/
def inRanges (rs : List (Nat × Nat)) (i : Nat) : Bool := rs.any (fun r => decide (r.1 ≤ i ∧ i ≤ r.2))

/-- Whether a domain reads a counter. -/
def Dev.ownsCounter (d : Dev) (dom id : Nat) : Bool :=
  match cntPer (id / 2 ^ 20) with
  | none => false
  | some k => inRanges (d.readable dom k) (id % 2 ^ 20)

/-! ### Values -/

/-- What a counter of the slot ledger that runs with DCLK has reached beyond what is stored (18 R526). -/
def Dev.cntRunning (d : Dev) (code : Nat) : Nat :=
  match code with
  | 0x150 => dclkAt d.now
  | 0x151 => 4 * dclkAt d.now
  | _ => 0

/-- The value of a counter. -/
def Dev.cntValue (d : Dev) (id : Nat) : Nat :=
  let v := Tbl.get 0 id d.cnt.vals
  let r := d.cntRunning (id / 2 ^ 20)
  if id / 2 ^ 20 = 0x150 ∨ id / 2 ^ 20 = 0x151 then (v + r) % 2 ^ 48 else v

/-- A counter returns to zero. -/
def clearCounter (id : Nat) (d : Dev) : Dev :=
  let r := d.cntRunning (id / 2 ^ 20) % 2 ^ 48
  d.onCnt (fun c => { c with vals := Tbl.set 0 id (if r = 0 then 0 else 2 ^ 48 - r) c.vals })

/-- CNT_READ. -/
def cntReadBody (c : Cmd) (first count : Nat) (clear : Bool) (iova : Nat) (d : Dev) : Answer :=
  let ids := (List.range count).map (first + ·)
  checked [(decide (count = 0 ∨ 128 < count) || !ids.all cntOk, eRange), (!ids.all (d.ownsCounter c.dom), ePerm)] d (fun d =>
    let d := scanAdvance d
    let out := (ids.map (fun i => leBytes (d.cntValue i) 8)).flatten
    (if clear then forEach ids clearCounter d else d, some { outs := [(iova, out)] }))

/-- The bits of the qualifier that an event takes, for its scope: slice or global; none where the event is reserved (18
R523). -/
def eventQual (ev : Nat) (global : Bool) : Option Nat :=
  let sl (w : Nat) : Option Nat := if global then none else some w
  let gl (w : Nat) : Option Nat := if global then some w else none
  match ev with
  | 0x000 | 0x001 => some 0
  | 0x002 | 0x003 | 0x060 | 0x130 | 0x131 => gl 0
  | 0x010 | 0x011 | 0x014 | 0x015 | 0x016 | 0x017 => sl 4
  | 0x012 | 0x013 | 0x018 | 0x019 | 0x030 | 0x031 | 0x032 | 0x033 | 0x050 => sl 0
  | 0x020 | 0x021 | 0x022 | 0x023 | 0x040 | 0x041 | 0x042 => sl 32
  | 0x100 | 0x101 | 0x120 => gl 8
  | 0x102 | 0x110 => gl 32
  | _ => none

/-- CNT_SELECT; repeated while the selection holds, it changes nothing (14 R435). -/
def cntSelectBody (c : Cmd) (counter event qualifier : Nat) (d : Dev) : Answer :=
  checked [(decide (95 < counter) || (eventQual event (decide (64 ≤ counter))).all (fun w => decide (2 ^ w ≤ qualifier)), eRange),
      (decide (c.dom ≠ d.sup), ePerm)] d (fun d =>
    if Tbl.get (0, 0) counter d.cnt.sel = (event, qualifier) then answer {} d
    else
    let d := clearCounter counter d
    (d.onCnt (fun x => { x with sel := Tbl.set (0, 0) counter (event, qualifier) x.sel }), some {}))

/-! ### Dumps (18 R527 to R530) -/

def Dev.dump (d : Dev) (dom : Nat) : Dump := d.cnt.dumps.getD dom {}
def onDump (dom : Nat) (f : Dump → Dump) (d : Dev) : Dev := d.onCnt (fun c => { c with dumps := modAt c.dumps dom f })

/-- DUMP_CONFIG. -/
def dumpConfigBody (c : Cmd) (period mask : Nat) (d : Dev) : Answer :=
  checked [(decide (1048576 < period), eRange)] d (fun d =>
    (onDump c.dom (fun x => { x with period := period, mask := mask }) d, some {}))

/-- The bases of the counter tables, in the order of the content mask. -/
def cntBases : List Nat :=
  [0x000, 0x010, 0x020, 0x040, 0x048, 0x060, 0x080, 0x0A0, 0x0C0, 0x0D0, 0x0E0, 0x0F0, 0x100, 0x120, 0x130, 0x140, 0x150]

/-- The assigned codes of a table, in rising order. -/
def tableCodes (base : Nat) : List Nat :=
  let next := (cntBases.find? (fun b => decide (base < b))).getD 0x160
  ((List.range (next - base)).map (base + ·)).filter (fun c => (cntPer c).isSome)

/-- The spans of a domain's dump: code, lowest and highest readable instance. -/
def Dev.dumpSpans (d : Dev) (dom mask : Nat) : List (Nat × Nat × Nat) :=
  let codes := ((List.range cntBases.length).filter (fun i => mask.testBit i)).flatMap (fun i => tableCodes (cntBases.getD i 0))
  codes.filterMap (fun code =>
    match cntPer code with
    | none => none
    | some k =>
      let full := perRange k
      let rs := ((d.readable dom k).map (fun r => (max r.1 full.1, min r.2 full.2))).filter (fun r => decide (r.1 ≤ r.2))
      if rs = [] then none
      else some (code, (rs.map Prod.fst).foldl min full.2, (rs.map Prod.snd).foldl max full.1))

/-- The delay record of a group (18 R530). -/
def Dev.delayRecord (d : Dev) (slice : Nat) : Bytes :=
  match (d.smv.getD slice {}).delay with
  | none => padTo 64 [BitVec.ofNat 8 slice]
  | some r =>
    let z (v : Int) : Bytes := leBytes (ofSigned 32 v) 4
    padTo 64 ([BitVec.ofNat 8 slice, BitVec.ofNat 8 (1 + r.flags % 4 * 2), BitVec.ofNat 8 r.seq, 0] ++ leBytes r.fret 8 ++
      z r.roundTrip ++ z r.fwd ++ z r.rev ++ z (r.fwd - r.rev))

/-- The snapshot of a domain now. -/
def Dev.snapshot (d : Dev) (dom : Nat) (x : Dump) : Snapshot :=
  let spans := d.dumpSpans dom x.mask
  let codes := spans.map Prod.fst
  let live := ([0x150, 0x151].flatMap (fun c => [cntId c 0, cntId c 1])) ++ d.cnt.vals.map Prod.fst
  let ids := live.filter (fun i => codes.contains (i / 2 ^ 20) && d.ownsCounter dom i)
  { fret := d.fret.index, period := x.period, mask := x.mask, rate := d.fretRate, seq := x.seq, spans := spans,
    values := ids.foldl (fun t i => Tbl.put i (d.cntValue i) t) [],
    delays := ([0, 1].filter (fun s => d.groupOwner s = some dom)).map d.delayRecord }

/-- DUMP_CAPTURE: the hardware duty of a boundary (18 R528, 02 R45). -/
def captureDumps (d : Dev) : Dev :=
  let d := scanAdvance d
  forEach (List.range 32) (fun dom d =>
    let x := d.dump dom
    if x.period = 0 ∨ d.fret.index % x.period ≠ 0 ∨ !d.ringUp dom 8 then d
    else
      let x := { x with seq := (x.seq + 1) % 2 ^ 32 }
      if x.waiting.isSome then onDump dom (fun _ => { x with skipped := x.skipped + 1 }) d
      else
        onDump dom (fun _ => { x with waiting := some (d.snapshot dom x) })
          (d.onCnt (fun c => { c with dumpQueue := without (· = dom) c.dumpQueue ++ [dom] }))) d

/-- Values in one entry. -/
def entryValues : Nat := 504

/-- The bodies of a dump's entries: type, first identifier, count and bytes from 64. -/
def dumpBodies (s : Snapshot) : List (Nat × Nat × Nat × Bytes) :=
  let counters := s.spans.flatMap (fun sp =>
    let n := sp.2.2 + 1 - sp.2.1
    (List.range (ceilDiv n entryValues)).map (fun i =>
      let first := sp.2.1 + i * entryValues
      let k := min entryValues (sp.2.2 + 1 - first)
      let id := cntId sp.1 first
      (1, id, k, ((List.range k).map (fun j => leBytes (Tbl.get 0 (id + j) s.values) 8)).flatten)))
  counters ++ (if s.delays = [] then [] else [(2, 0, s.delays.length, s.delays.flatten)])

/-- The entries of a dump (18 R529). -/
def dumpEntries (dom skipped : Nat) (s : Snapshot) : List Bytes :=
  let bs := dumpBodies s
  (List.range bs.length).map (fun i =>
    let b := bs.getD i (0, 0, 0, [])
    padTo 4096 ([BitVec.ofNat 8 b.1, BitVec.ofNat 8 (b2n (i = 0) + 2 * b2n (i + 1 = bs.length)), BitVec.ofNat 8 dom, 0] ++
      leBytes s.seq 4 ++ leBytes s.fret 8 ++ leBytes i 4 ++ leBytes bs.length 4 ++ leBytes skipped 4 ++ leBytes b.2.1 4 ++
      leBytes b.2.2.1 2 ++ [0, 0] ++ leBytes s.period 4 ++ leBytes s.mask 4 ++ leBytes s.rate 4 ++ zeros 16 ++ b.2.2.2))

/-- Domains whose snapshot waits: those deferred before those of the present boundary, each in domain order (02 R45). -/
def Dev.dumpsWaiting (d : Dev) : List Nat := d.cnt.dumpQueue.filter (fun k => (d.dump k).waiting.isSome)

/-- A snapshot is lost. -/
def loseDump (dom : Nat) (d : Dev) : Dev := onDump dom (fun x => { x with waiting := none, skipped := x.skipped + 1 }) d

/-- EV_DMA_FAULT of a dump that is discarded, once per fret and domain (13 R414). -/
def dumpFault (dom cause iova : Nat) (d : Dev) : Dev :=
  if (d.dom dom).dumpFaultFret = some d.fret.index then d
  else
    raise dom (dmaFaultEvent d 1 true cause 8 0 iova 0)
      (d.onDom dom (fun D => { D with dumpFaultFret := some d.fret.index }))

/-- DUMP_WRITE_OUT of one domain (18 R529). -/
def writeDump (dom : Nat) (d : Dev) : Dev :=
  let x := d.dump dom
  match x.waiting with
  | none => d
  | some s =>
    let es := dumpEntries dom x.skipped s
    if es = [] then onDump dom (fun x => { x with waiting := none }) d
    else if !d.ringUp dom 8 ∨ d.ringFree dom 8 < es.length then loseDump dom d
    else
      match d.ringBlock dom 8 es.length with
      | some (4, iova, .fault cause) => dumpFault dom cause iova (loseDump dom d)
      | _ =>
        ringPut dom 8 (.dump es) (onDump dom (fun x => { x with waiting := none, skipped := 0 }) d) (tag := x.skipped)

end Sys2Proof.Machine
end

