-- ==== Sys2Proof/Machine/Rings.lean ====
section
/-! DEFINITION. The register pages, domain resets, rings and polls, interrupts, the PCIe endpoints, and the acceptance of
Hemuner frames (13). -/

namespace Sys2Proof.Machine

/-! ### Register pages (13 R384, R395, R396) -/

/-- The domain whose page a slot shows: none where no domain occupies it, and none to a host that cannot reach the
endpoint. -/
def Dev.pageDom (d : Dev) (ep slot : Nat) : Option Nat :=
  let p := d.ep ep
  if d.power.ready && p.linkUp && !p.d3hot then d.domAt ep slot else none

/-- COURSE of `GLB_LC`: 0 TRIPLE, 1 DUPLEX, 2 HALTED. -/
def Dev.courseCode (d : Dev) : Nat := if d.halted then 2 else if d.course.mode = .duplex then 1 else 0

/-- A register of the global page as read through an endpoint (13 R395). -/
def Dev.globalReg (d : Dev) (ep off : Nat) : Nat :=
  match off with
  | 0x000 => 0x1620 * 2 ^ 16 + Config.stepping.toNat * 2 ^ 8 + ep * 2 ^ 6 + d.sup
  | 0x004 =>
    d.courseCode * 2 ^ 8 + d.fw.run.getD 0 0 * 2 ^ 7 + d.keys.root * 2 ^ 5 + b2n d.tampered * 2 ^ 4 +
      b2n d.tamper.locked * 2 ^ 3 + d.lc
  | 0x008 => ((List.range 11).map (fun i => b2n (d.tamper.bits.getD i false) * 2 ^ (i + 2))).sum + d.response
  | 0x00C => d.power.straps.pcieBif * 2 ^ 6 + d.power.straps.portmap1 * 2 ^ 3 + d.power.straps.portmap0
  | 0x010 => min 255 d.power.gov.queue.length * 2 ^ 16 + ofSigned 8 d.tamper.temp * 2 ^ 8 + d.power.avs
  | 0x020 => beNat (deviceId.take 4)
  | 0x024 => beNat ((deviceId.drop 4).take 4)
  | 0x028 => beNat ((deviceId.drop 8).take 4)
  | 0x02C => beNat (deviceId.drop 12)
  | _ => 0

/-- A transfer of a domain is suspended (`DP_STATUS.SUSPENDED`, 13 R414). -/
def Dev.suspended (d : Dev) (dom : Nat) : Bool :=
  (d.dom dom).works.any (fun w => match w.state with | .suspended _ _ => true | _ => false) ||
    d.lk.runs.any (fun r => r.cmd.dom = dom && (match r.at_ with | .suspended _ _ => true | _ => false)) ||
    d.msec.recs.any (fun t => t.any (fun e => e.2.dom = dom && (match e.2.fetch with | .suspended _ _ => true | _ => false)))

/-- The ring whose BASE or SIZE lies at an offset of the page, and whether it is the SIZE register. -/
def ringReg (off : Nat) : Option (Nat × Bool) :=
  let r := (off - 0x40) / 16
  if off < 0x40 ∨ 0xD0 ≤ off then none
  else if off % 16 = 0 then some (r, false)
  else if off % 16 = 8 then some (r, true)
  else none

/-- A 64-bit register. -/
def wideReg (off : Nat) : Bool :=
  [0x010, 0x020, 0x028, 0x030].contains off || (match ringReg off with | some (_, false) => true | _ => false)

/-- A register of the page of a domain as read by its host (13 R396). -/
def Dev.pageReg (d : Dev) (dom off : Nat) : Nat :=
  let p := d.page dom
  let place := (d.place dom).getD (0, 0)
  match off with
  | 0x000 =>
    2 ^ 31 + b2n (d.sup = dom) * 2 ^ 30 + dom * 2 ^ 16 + b2n (d.grant dom 3) * 2 ^ 15 + b2n (d.grant dom 2) * 2 ^ 14 +
      b2n (d.grant dom 1) * 2 ^ 13 + b2n (d.grant dom 0) * 2 ^ 12 + place.1 * 2 ^ 8 + place.2
  | 0x004 => p.ringEn.toNat * 4 + b2n p.enable
  | 0x008 =>
    b2n (d.suspended dom) * 2 ^ 14 + b2n d.halted * 2 ^ 13 + b2n p.evtOverflow * 2 ^ 12 + b2n p.dtuErr * 2 ^ 11 +
      p.ringErr.toNat * 4 + b2n p.resetBusy * 2 + b2n d.power.ready
  | 0x00C => b2n p.fretOnly * 2 ^ 31 + p.interval
  | 0x010 => p.dbrec
  | 0x018 => b2n p.invalBusy * 2 ^ 8 + d.dtuMode dom
  | 0x01C => p.msixMap.toNat
  | 0x020 => p.dtuRoot
  | 0x030 => p.faultAddr
  | 0x038 => p.faultInfo.toNat
  | 0x03C => p.holdoff
  | _ =>
    match ringReg off with
    | some (r, false) => (d.ring dom r).base
    | some (r, true) => (d.ring dom r).gen * 2 ^ 16 + (d.ring dom r).log2
    | none => 0

/-- Four bytes of a domain page: of a 64-bit register the half at that offset. -/
def Dev.pageWord (d : Dev) (dom off : Nat) : Nat :=
  if 4 ≤ off ∧ wideReg (off - 4) then d.pageReg dom (off - 4) / 2 ^ 32 else d.pageReg dom off % 2 ^ 32

/-- Four bytes of the MSI-X table of an endpoint (13 R384): address, data, and the mask in bit 0 of the last word. -/
def Dev.msixWord (d : Dev) (ep off : Nat) : Nat :=
  let p := d.ep ep
  let x := p.msix.getD (off / 16) {}
  match off % 16 with
  | 0 => x.addr.toNat % 2 ^ 32
  | 4 => x.addr.toNat / 2 ^ 32
  | 8 => x.data.toNat
  | 12 => b2n (p.masked.getLsbD (off / 16))
  | _ => 0

/-- Four bytes of BAR0 of an endpoint as its host reads them (13 R384): the global page, the pages of the slots, of which one
without a domain reads as zero, the MSI-X table, the pending bits, and zeros. -/
def Dev.bar0 (d : Dev) (ep off : Nat) : Nat :=
  let p := d.ep ep
  if !d.power.ready || !p.linkUp || p.d3hot then 0
  else if off < 0x1000 then d.globalReg ep off
  else if off < 0x9000 then
    match d.domAt ep (off / 0x1000 - 1) with
    | some k => d.pageWord k (off % 0x1000)
    | none => 0
  else if off < 0x9400 then d.msixWord ep (off - 0x9000)
  else if off = 0x9400 then p.pending.toNat % 2 ^ 32
  else if off = 0x9404 then p.pending.toNat / 2 ^ 32
  else 0

/-! ### Translation settings (13 R407, R409) -/

/-- A write of `DTU_CTL.MODE`: PASSTHROUGH without the grant and the reserved value are ignored; an accepted write ends a
forced OFF (15 R467). -/
def dtuModeWrite (dom mode : Nat) (d : Dev) : Dev :=
  if 3 ≤ mode ∨ (mode = 2 ∧ !d.grant dom 1) then d
  else
    (d.onPage dom (fun p => { p with dtuMode := mode })).onCourse (fun c => { c with
      failSafe := without (fun r => decide (r = .dtuMode dom)) c.failSafe })

/-- A write of `DTU_INVAL`. -/
def dtuInval (dom : Nat) (all : Bool) (page : Nat) (d : Dev) : Dev :=
  if (d.page dom).invalBusy then d
  else
    let gone (e : TlbEntry) : Bool := e.dom = dom && (all || e.vpn = page * 4096 / 2 ^ leafBits e.lvl)
    (d.onHost (fun h => { h with iotlb := h.iotlb.map (without gone) })).onPage dom (fun p => { p with invalBusy := true })

/-- Every DMA that used a removed entry has ended. -/
def dtuInvalDone (dom : Nat) (d : Dev) : Dev := d.onPage dom (fun p => { p with invalBusy := false })

/-! ### Polls and fetches (13 R399 to R404, R417) -/

/-- The device polls records and takes commands (14 R441, 15 R456, 16 R499, 17 R512). -/
def Dev.serves (d : Dev) : Bool := d.power.ready && d.courseRuns && !d.tcStep && d.tamper.resetAt.isNone

/-- A domain whose records may be polled. -/
def Dev.pollable (d : Dev) (dom : Nat) : Bool :=
  let p := d.page dom
  decide (dom < 32) && d.domExists dom && p.enable && !p.resetBusy && !p.dtuErr && d.serves

/-- The read of a poll is issued at a bus address: 576 bytes in the commands class. -/
def pollRead (dom bus : Nat) (d : Dev) : Dev :=
  countDma dom 2 576 (emit (.read dom bus 576)
    (d.onDom dom (fun D => { D with pollOut := true, pollWalk := none, pollSince := d.now })))

/-- The records of a domain are read, at once or once their walk has ended. -/
def pollNow (dom : Nat) (d : Dev) : Dev :=
  let at_ := (d.page dom).dbrec
  let d := d.onDom dom (fun D => { D with lastPoll := d.now })
  match xlat d dom at_ false with
  | .ok bus => pollRead dom bus (tlbTouch dom at_ d)
  | .walk => d.onDom dom (fun D => { D with pollOut := true, pollWalk := some at_, pollSince := d.now })
  | .fault c => structFault dom 0 1 c at_ d
  | .dead => badRead dom d

/-- The poll of a fret boundary, which starts the interval again, where the domain may be polled and no poll is outstanding
(13 R402). -/
def poll (dom : Nat) (d : Dev) : Dev :=
  let d := d.onDom dom (fun D => { D with lastPoll := d.now })
  if d.pollable dom && !(d.dom dom).pollOut then pollNow dom d else d

/-- Where the next descriptor of a host-produced ring lies. -/
def Dev.fetchAddr (d : Dev) (dom ring : Nat) : Nat :=
  let r := d.ring dom ring
  r.base + (r.devIndex.toNat % 2 ^ r.log2) * 64

/-- The host-produced rings. -/
def hostRings : List Nat := [0, 3, 4, 5, 6]

/-- Completion entries promised to commands of a domain. -/
def Dev.promised (d : Dev) (dom : Nat) : Nat := (hostRings.map (fun r => (d.ring dom r).reserved)).sum

/-- Descriptors fetched at one poll, and beyond a suspended command (13 R402, R415). -/
def fetchLimit : Nat := 64

/-- A descriptor of a ring may be fetched: none is being fetched, it is produced, the poll has not had its 64, and a completion
entry is free for it (13 R402, R404, R415). -/
def Dev.canFetch (d : Dev) (dom ring : Nat) : Bool :=
  let r := d.ring dom ring
  decide (r.fetch = .none) && hostRings.contains ring && d.pollable dom && d.ringUp dom ring && decide (r.hostIndex ≠ r.devIndex) &&
    decide (r.fetched < fetchLimit) && decide (r.waiting.length < fetchLimit) && d.ringUp dom 1 &&
    decide (d.promised dom < d.ringFree dom 1)

/-- The read of a descriptor is issued at a bus address. -/
def fetchRead (dom ring bus : Nat) (d : Dev) : Dev :=
  countDma dom 2 64 (emit (.read dom bus 64) (d.onRing dom ring (fun r => { r with fetch := .reading d.now })))

/-- The completion entry of a ring's next descriptor is reserved (13 R404). -/
def reserve (dom ring : Nat) (d : Dev) : Dev := d.onRing dom ring (fun r => { r with reserved := r.reserved + 1 })

/-- The fetch of a ring ends with no descriptor, and its reservation with it. -/
def endFetch (dom ring : Nat) (d : Dev) : Dev :=
  d.onRing dom ring (fun r => if r.fetch = .none then r else { r with fetch := .none, reserved := r.reserved - 1 })

/-- The fetch of a ring's next descriptor is issued, or waits for a walk, or is a ring-structure fault. -/
def issueFetch (dom ring : Nat) (d : Dev) : Dev :=
  if !d.canFetch dom ring then d
  else
    let at_ := d.fetchAddr dom ring
    match xlat d dom at_ false with
    | .ok bus => fetchRead dom ring bus (reserve dom ring (tlbTouch dom at_ d))
    | .walk => (reserve dom ring d).onRing dom ring (fun r => { r with fetch := .walking d.now at_ })
    | .fault c => structFault dom ring 3 c at_ d
    | .dead => badRead dom (d.onRing dom ring (fun r => { r with fetched := fetchLimit }))

def issueFetches (dom : Nat) (d : Dev) : Dev := forEach hostRings (issueFetch dom) d

/-- A record is valid for a ring (13 R400). -/
def recOk (x : DbRec) (gen : Nat) : Bool :=
  decide (x.epoch.toNat / 2 ^ 16 = gen) && decide (x.epoch.toNat % 2 ^ 16 = 65535 - x.hostIndex.toNat % 2 ^ 16)

/-- One record of a poll is taken (13 R400, R401). -/
def takeRecord (dom ring : Nat) (x : DbRec) (d : Dev) : Dev :=
  if !d.ringUp dom ring then d
  else
    let r := d.ring dom ring
    if !recOk x r.gen then bump 0x121 dom d
    else
      let used := if hostRings.contains ring then x.hostIndex - r.devIndex else r.devIndex - x.hostIndex
      if 2 ^ r.log2 < used.toNat then ringError dom ring d
      else d.onRing dom ring (fun r => { r with hostIndex := x.hostIndex })

/-- A poll gives every host-produced ring its 64 fetches anew (13 R402). -/
def freshFetches (dom : Nat) (d : Dev) : Dev := forEach hostRings (fun r d => d.onRing dom r (fun x => { x with fetched := 0 })) d

/-- The records of a poll return (13 R402). -/
def recordRead (dom : Nat) (recs : List DbRec) (d : Dev) : Dev :=
  if !(d.dom dom).pollOut || (d.dom dom).pollWalk.isSome then d
  else
    let d := d.onDom dom (fun D => { D with pollOut := false })
    if !d.pollable dom then d
    else issueFetches dom (forEach recs.zipIdx (fun x d => takeRecord dom x.2 x.1 d) (freshFetches dom d))

/-- A fetch that walks, of a ring: its start and IOVA. -/
def Ring.walks (r : Ring) : Option (Nat × Nat) :=
  match r.fetch with
  | .walking t a => some (t, a)
  | _ => none

/-- The ring-structure access of a domain that waits for a walk: access, ring, IOVA, write. -/
def Dev.structWaits (d : Dev) (dom : Nat) : Option (Nat × Nat × Nat × Bool) :=
  let D := d.dom dom
  let held := D.held.head?.bind (fun h =>
    (d.ringBlock dom h.ring (entryCount h.entry)).bind (fun b =>
      if b.2.2 = .walk then some (b.1, h.ring, b.2.1, true) else none))
  let polls := D.pollWalk.map (fun a => (1, 0, a, false))
  let fetches := hostRings.findSome? (fun r => (d.ring dom r).walks.map (fun x => (3, r, x.2, false)))
  if D.page.dtuErr then none else held.or (polls.or fetches)

/-- A held write has gone out: a punted frame leaves its slice, and is counted (05 R150). -/
def heldDone (dom : Nat) (h : HeldWrite) (d : Dev) : Dev :=
  match h.entry with
  | .punt _ => dropFrame h.tag (bump 0x040 dom d)
  | _ => d

/-- The first held write, of a punt or dump entry, faults in translation and is discarded (05 R150, 18 R529). -/
def heldLost (dom cause iova : Nat) (d : Dev) : Dev :=
  match (d.dom dom).held with
  | [] => d
  | h :: hs =>
    let d := d.onDom dom (fun D => { D with held := hs })
    match h.entry with
    | .punt _ => puntFault dom h.tag cause iova d
    | _ => dumpFault dom cause iova (onDump dom (fun x => { x with skipped := x.skipped + h.tag + 1 }) d)

/-- The held writes go out, and those of punt and dump entries that fault are discarded, until one waits. -/
def goHeld (dom : Nat) : Nat → Dev → Dev
  | 0, d => d
  | n + 1, d =>
    let hs := (d.dom dom).held
    let d := flushHeld dom (hs.length + 1) d
    let d := forEach (hs.take (hs.length - (d.dom dom).held.length)) (heldDone dom) d
    match (d.dom dom).held.head?.bind (fun h => (d.ringBlock dom h.ring (entryCount h.entry)).map (fun b => (h.ring, b))) with
    | some (ring, acc, iova, .fault c) =>
      if entryFault ring acc && !(d.page dom).dtuErr then goHeld dom n (heldLost dom c iova d) else d
    | _ => d

/-- Ring-structure accesses go on after a walk, or after `DTU_ERR` is cleared: held writes, the poll, the fetches of the
rings named. -/
def structGo (dom : Nat) (again : Bool) (rings : List Nat) (d : Dev) : Dev :=
  let d := goHeld dom ((d.dom dom).held.length + 1) d
  let d := if again then pollNow dom d else d
  if (d.page dom).dtuErr then d else forEach rings (issueFetch dom) d

/-- The read of the records has been issued and nothing of it waits for a walk. -/
def Dev.pollReading (d : Dev) (dom : Nat) : Bool := (d.dom dom).pollOut && (d.dom dom).pollWalk.isNone

/-- The access of a domain whose walk has found a leaf: the read of the poll or of the descriptor is issued where the leaf
maps it, under the mode in which it began (13 R407); held writes go on. -/
def structLeaf (dom acc ring iova : Nat) (leaf : Nat × Nat × Bool × Bool) (d : Dev) : Dev :=
  let bus := leaf.2.1 + iova % 2 ^ leafBits leaf.1
  match acc with
  | 1 => pollRead dom bus d
  | 3 => fetchRead dom ring bus d
  | _ => structGo dom false [] d

/-- The access of a domain whose walk has failed is over. -/
def structOver (dom acc ring : Nat) (d : Dev) : Dev :=
  match acc with
  | 1 => d.onDom dom (fun D => { D with pollOut := false, pollWalk := none })
  | 3 => endFetch dom ring d
  | _ => d

/-- A walk for a ring-structure access, or for a punt or dump entry, ends (13 R414, R417). Where none waits, an unsuccessful
read is that of the records: it is counted, and the next poll reads them (13 R386, R402). -/
def structWalked (dom : Nat) (es : List (BitVec 64)) (ok : Bool) (d : Dev) : Dev :=
  match d.structWaits dom with
  | none => if ok || !d.pollReading dom then d else badRead dom (d.onDom dom (fun D => { D with pollOut := false }))
  | some (acc, ring, iova, write) =>
    match (if ok then walk iova write es else .error 6) with
    | .ok leaf => structLeaf dom acc ring iova leaf (tlbInsert dom iova leaf d)
    | .error c =>
      let d := structOver dom acc ring d
      let d := if ok then d else badRead dom d
      if entryFault ring acc then structGo dom false [] (heldLost dom c iova d) else structFault dom ring acc c iova d

/-- Writing 1 to `DTU_ERR`: the faulting access is retried, and the rings continue (13 R417). -/
def dtuErrClear (dom : Nat) (d : Dev) : Dev :=
  if !(d.page dom).dtuErr then d
  else
    let acc := bitsOf (d.page dom).faultInfo.toNat 19 16
    let cause := bitsOf (d.page dom).faultInfo.toNat 23 20
    let again := decide (acc = 1 ∨ (cause = 6 ∧ (d.dom dom).held = []))
    let d := d.onPage dom (fun p => { p with dtuErr := false, faultAddr := 0, faultInfo := 0 })
    structGo dom (again && d.pollable dom && !(d.dom dom).pollOut) hostRings d

/-! ### Rings (13 R401, R405) -/

/-- Clearing a ring's enable bit. -/
def ringDisable (dom ring : Nat) (d : Dev) : Dev :=
  if 9 ≤ ring then d
  else (endFetch dom ring d).onPage dom (fun p => { p with ringEn := p.ringEn &&& ~~~((1 : BitVec 9) <<< ring) })

/-- Setting a ring's enable bit: DEV_INDEX 0 goes to the record, the history empties, events number from 0. -/
def ringEnable (dom ring : Nat) (d : Dev) : Dev :=
  if 9 ≤ ring ∨ (d.page dom).ringEn.getLsbD ring then d
  else
    let d := d.onPage dom (fun p => { p with ringEn := p.ringEn ||| (1 <<< ring) })
    let d := d.onRing dom ring (fun r => { r with devIndex := 0, hostIndex := 0, fetched := 0, stopped := false, history := [] })
    let d := if ring = 2 then d.onDom dom (fun D => { D with evtIndex := 0, evtGap := false }) else d
    let d := ringPut dom ring (.dump []) d
    if log2Ok ring (d.ring dom ring).log2 then d else ringError dom ring d

/-! ### Domain reset (13 R394) -/

/-- The page after a reset: every RW and W1C field at its reset value. -/
def resetPage (p : Page) : Page := { resetBusy := true, invalBusy := p.invalBusy }

/-- Work of a command whose transfer is suspended. -/
def Work.isSuspended (w : Work) : Bool := match w.state with
  | .suspended _ _ => true
  | .walking => false

/-- Snapshots that a held write loses when it is discarded: its own, and those counted in the SKIPPED it carries. -/
def HeldWrite.snapshots (h : HeldWrite) : Nat := match h.entry with
  | .dump (_ :: _) => h.tag + 1
  | _ => 0

/-- Frames whose punt entry is held for a domain leave with it, and its snapshots not yet written are discarded (18 R529). -/
def dropPunts (dom : Nat) (d : Dev) : Dev :=
  let hs := (d.dom dom).held
  let tags := hs.filterMap (fun h => match h.entry with
    | .punt _ => some h.tag
    | _ => none)
  let d := forEach tags dropFrame (d.onDom dom (fun D => { D with held := [] }))
  onDump dom (fun x => { x with
    waiting := none, skipped := x.skipped + (hs.map HeldWrite.snapshots).sum + b2n x.waiting.isSome }) d

/-- The host side of a domain in reset: its page, its rings with the commands that wait on them and their histories, and its
suspended transfers. A command already taken runs to its end without a completion, and its transfer goes on. -/
def resetHost (dom : Nat) (d : Dev) : Dev :=
  d.onDom dom (fun D => { D with
    page := resetPage D.page
    rings := List.replicate 9 {}
    sources := List.replicate 5 {}
    inProg := []
    works := without Work.isSuspended D.works
    pollOut := false
    pollWalk := none })

/-- The suspended key-miss fetches of a domain end with cause ABORTED (07 R237). -/
def abortFetches (dom : Nat) (d : Dev) : Dev :=
  forEach [0, 1] (fun sl d =>
    let rs := ((d.msec.recs.getD sl []).filter (fun e =>
      e.2.dom = dom && (match e.2.fetch with | .suspended _ _ => true | _ => false))).map Prod.fst
    forEach rs (fun r d => failFetch sl r 6 d) d) d

/-- A domain reset begins. -/
def domainReset (dom : Nat) (d : Dev) : Dev :=
  resetCommit dom (lkKill dom (abortFetches dom (resetHost dom (dropPunts dom d))))

/-- DMA of a domain is in progress: transfers of commands, lookaside jobs still on cores, and key-miss fetches. -/
def Dev.dmaRuns (d : Dev) (dom : Nat) : Bool :=
  !(d.dom dom).works.isEmpty || d.lk.runs.any (fun r => r.cmd.dom = dom) ||
    d.msec.recs.any (fun t => t.any (fun e => e.2.dom = dom && decide (e.2.fetch = .reading ∨ e.2.fetch = .walking)))

/-- Every DMA of a resetting domain has ended. -/
def domainResetDone (dom : Nat) (d : Dev) : Dev :=
  if d.dmaRuns dom then d else d.onPage dom (fun p => { p with resetBusy := false })

/-- Every domain of an endpoint is reset (13 R387). -/
def resetDomains (ep : Nat) (d : Dev) : Dev :=
  forEach (((List.range 32)).filter (fun k => (d.place k).any (fun x => x.1 = ep))) domainReset d

/-! ### Register writes (13 R396) -/

/-- The sources that have entries no message has told of, and that are enabled, send or wait for their hold-off (13 R406). -/
def dueSources (dom : Nat) (d : Dev) : Dev :=
  forEach [0, 1, 2, 3] (fun src d => if ((d.dom dom).sources.getD src {}).due then notify dom src d else d) d

/-- A register of 32 bits takes a value. Ring BASE and SIZE are ignored while the ring is enabled. -/
def write32 (dom off v : Nat) (d : Dev) : Dev :=
  match off with
  | 0x004 =>
    let d := d.onPage dom (fun p => { p with enable := v.testBit 0 })
    let d := forEach (List.range 9) (fun r d => if v.testBit (r + 2) then ringEnable dom r d else ringDisable dom r d) d
    if v.testBit 1 then domainReset dom d else d
  | 0x008 =>
    let d := d.onPage dom (fun p => { p with
      evtOverflow := p.evtOverflow && !v.testBit 12
      ringErr := p.ringErr &&& ~~~(BitVec.ofNat 9 (v / 4)) })
    if v.testBit 11 then dtuErrClear dom d else d
  | 0x00C => d.onPage dom (fun p => { p with fretOnly := v.testBit 31, interval := max 250 (min 100000 (v % 2 ^ 17)) })
  | 0x018 => dtuModeWrite dom (v % 4) d
  | 0x01C => dueSources dom (d.onPage dom (fun p => { p with msixMap := BitVec.ofNat 32 (v % 2 ^ 20) }))
  | 0x03C => d.onPage dom (fun p => { p with holdoff := v % 2 ^ 16 })
  | _ =>
    match ringReg off with
    | some (r, true) =>
      if (d.page dom).ringEn.getLsbD r then d
      else d.onRing dom r (fun x => { x with gen := bitsOf v 31 16, log2 := v % 32 })
    | _ => d

/-- Bits 51 to 12 of an address. -/
def addrField (v : Nat) : Nat := bitsOf v 51 12 * 2 ^ 12

/-- A register of 64 bits takes a value. -/
def write64 (dom off v : Nat) (d : Dev) : Dev :=
  match off with
  | 0x010 => d.onPage dom (fun p => { p with dbrec := addrField v })
  | 0x020 => d.onPage dom (fun p => { p with dtuRoot := addrField v })
  | 0x028 => dtuInval dom (v.testBit 63) (bitsOf v 47 12) d
  | _ =>
    match ringReg off with
    | some (r, false) =>
      if (d.page dom).ringEn.getLsbD r then d else d.onRing dom r (fun x => { x with base := addrField v })
    | _ => d

/-- A host write: 8 bytes of a wide register, 4 bytes of a narrow one, or a half of a wide one; the value is taken with
its upper half. -/
def registerWrite (dom off width v : Nat) (d : Dev) : Dev :=
  if width = 8 ∧ wideReg off then write64 dom off v d
  else if width ≠ 4 then d
  else if wideReg off then d.onPage dom (fun p => { p with half := some (off, BitVec.ofNat 32 v) })
  else if 4 ≤ off ∧ wideReg (off - 4) then
    let low := match (d.page dom).half with
      | some (o, l) => if o = off - 4 then l.toNat else d.pageReg dom (off - 4) % 2 ^ 32
      | none => d.pageReg dom (off - 4) % 2 ^ 32
    write64 dom (off - 4) (v % 2 ^ 32 * 2 ^ 32 + low) (d.onPage dom (fun p => { p with half := none }))
  else write32 dom off (v % 2 ^ 32) d

/-- An action on the page of a slot; nothing where no domain is seen there. -/
def atSlot (ep slot : Nat) (f : Nat → Dev → Dev) (d : Dev) : Dev :=
  match d.pageDom ep slot with
  | some k => f k d
  | none => d

/-- MSIX_VECTOR_UNMASK: the pending message is sent, and the hold-off of the sources that wait for it counts from now. -/
def msixUnmask (ep vector : Nat) (d : Dev) : Dev :=
  let p := d.ep ep
  if 64 ≤ vector ∨ !p.linkUp then d
  else
    let bit : BitVec 64 := 1 <<< vector
    let d := d.onEp ep (fun p => { p with masked := p.masked &&& ~~~bit })
    match d.domAt ep (vector / 8) with
    | some k =>
      if p.pending.getLsbD vector && p.busMaster && !p.d3hot then
        let d := d.onEp ep (fun p => { p with pending := p.pending &&& ~~~bit })
        msixWrite k ep vector (d.onDom k (fun D => { D with
          sources := D.sources.map (fun x => if x.pend = some vector then { x with last := some d.now, pend := none } else x) }))
      else d
    | none => d.onEp ep (fun p => { p with pending := p.pending &&& ~~~bit })

/-- Four bytes of the MSI-X table are written (13 R384). -/
def msixStore (ep off v : Nat) (d : Dev) : Dev :=
  let k := off / 16
  let onEntry (f : MsixEntry → MsixEntry) : Dev := d.onEp ep (fun p => { p with msix := modAt p.msix k f })
  match off % 16 with
  | 0 => onEntry (fun x => { x with addr := BitVec.ofNat 64 (x.addr.toNat / 2 ^ 32 * 2 ^ 32 + v / 4 * 4) })
  | 4 => onEntry (fun x => { x with addr := BitVec.ofNat 64 (v * 2 ^ 32 + x.addr.toNat % 2 ^ 32) })
  | 8 => onEntry (fun x => { x with data := BitVec.ofNat 32 v })
  | 12 =>
    if v.testBit 0 then d.onEp ep (fun p => { p with masked := p.masked ||| (1 <<< k) }) else msixUnmask ep k d
  | _ => d

/-- A host write beyond the slots' pages: of the MSI-X table, 4 bytes or 8; what lies behind it takes no write (13 R384). -/
def msixTableWrite (ep off width v : Nat) (d : Dev) : Dev :=
  let p := d.ep ep
  if !d.power.ready || !p.linkUp || p.d3hot || decide (0x400 ≤ off) then d
  else if width = 4 then msixStore ep off (v % 2 ^ 32) d
  else if width = 8 ∧ off % 8 = 0 then msixStore ep (off + 4) (v / 2 ^ 32) (msixStore ep off (v % 2 ^ 32) d)
  else d

/-- REGISTER_WRITE: a write at 0x1000 × (slot + 1) + offset of BAR0, that is to a slot's page, to the MSI-X table, or to
reserved bytes (13 R384; log 99). -/
def execRegisterWrite (ep slot offset width : Nat) (value : BitVec 64) (s : State) : Host.Outcome State Fault Refusal :=
  .next (s.onDev (fun d =>
    if slot < 8 then atSlot ep slot (fun k d => registerWrite k offset width value.toNat d) d
    else if slot = 8 then msixTableWrite ep offset width value.toNat d
    else d))

/-- DOMAIN_RESET. -/
def execDomainReset (ep slot : Nat) (s : State) : Host.Outcome State Fault Refusal :=
  .next (s.onDev (atSlot ep slot domainReset))

/-- DOMAIN_RESET_DONE. -/
def execDomainResetDone (dom : Nat) (s : State) : Host.Outcome State Fault Refusal := .next (s.onDev (domainResetDone dom))

/-- RING_ENABLE. -/
def execRingEnable (ep slot ring : Nat) (s : State) : Host.Outcome State Fault Refusal :=
  .next (s.onDev (atSlot ep slot (fun k d => ringEnable k ring d)))

/-- RING_DISABLE. -/
def execRingDisable (ep slot ring : Nat) (s : State) : Host.Outcome State Fault Refusal :=
  .next (s.onDev (atSlot ep slot (fun k d => ringDisable k ring d)))

/-- DTU_MODE_WRITE. -/
def execDtuModeWrite (ep slot mode : Nat) (s : State) : Host.Outcome State Fault Refusal :=
  .next (s.onDev (atSlot ep slot (fun k d => dtuModeWrite k mode d)))

/-- DTU_INVAL. -/
def execDtuInval (ep slot : Nat) (all : Bool) (page : Nat) (s : State) : Host.Outcome State Fault Refusal :=
  .next (s.onDev (atSlot ep slot (fun k d => dtuInval k all page d)))

/-- DTU_INVAL_DONE. -/
def execDtuInvalDone (dom : Nat) (s : State) : Host.Outcome State Fault Refusal := .next (s.onDev (dtuInvalDone dom))

/-- DTU_ERR_CLEAR. -/
def execDtuErrClear (ep slot : Nat) (s : State) : Host.Outcome State Fault Refusal :=
  .next (s.onDev (atSlot ep slot dtuErrClear))

/-- DOORBELL_POLL: the poll that falls due when INTERVAL has passed since the last one (13 R402). -/
def doorbellPoll (dom : Nat) (d : Dev) : Dev :=
  let p := d.page dom
  if p.fretOnly || !d.pollable dom || (d.dom dom).pollOut then d
  else pollNow dom (advanceTo ((d.dom dom).lastPoll + nsTicks p.interval) d)

def execDoorbellPoll (dom : Nat) (s : State) : Host.Outcome State Fault Refusal := .next (s.onDev (doorbellPoll dom))

/-! ### Interrupts (13 R406) -/

def execMsixVectorUnmask (ep vector : Nat) (s : State) : Host.Outcome State Fault Refusal :=
  .next (s.onDev (msixUnmask ep vector))

/-- MSIX_HOLDOFF_EXPIRY: HOLDOFF has passed since a source's last message, and it has new entries. -/
def msixHoldoff (dom src : Nat) (d : Dev) : Dev :=
  let x := (d.dom dom).sources.getD src {}
  let p := d.page dom
  if !x.due ∨ !p.msixMap.getLsbD (4 * src + 3) then d
  else sendMsi dom src (advanceTo (x.last.getD 0 + p.holdoff * 50) d)

def execMsixHoldoffExpiry (dom source : Nat) (s : State) : Host.Outcome State Fault Refusal :=
  .next (s.onDev (msixHoldoff dom source))

/-! ### PCIe endpoints (13 R385 to R387, 19 R544) -/

/-- A function-level reset: the function returns to its reset state, the link stays. -/
def pcieFlr (ep : Nat) (d : Dev) : Dev :=
  resetDomains ep (d.onEp ep (fun p => { linkUp := p.linkUp }))

/-- DL_Down. -/
def pcieDown (ep : Nat) (d : Dev) : Dev := resetDomains ep (d.onEp ep (fun _ => {}))

/-- A link trains, once START_UP has created the endpoint (19 R549). -/
def pcieUp (ep : Nat) (d : Dev) : Dev :=
  if d.power.up ∧ ep < d.epCount then d.onEp ep (fun p => { p with linkUp := true }) else d

/-- A configuration write; a value of the completion timeout of 0 stands for 10 ms (13 R386). -/
def pcieConfig (ep : Nat) (w : PcieCfg) (d : Dev) : Dev :=
  if !(d.ep ep).linkUp ∨ !d.power.ready then d
  else
    d.onEp ep (fun p => match w with
      | .busMaster on => { p with busMaster := on }
      | .powerState z => { p with d3hot := z }
      | .completionTimeout ns => { p with timeoutNs := if ns = 0 then 10000000 else ns }
      | .maxPayload n => if n = 128 ∨ n = 256 ∨ n = 512 then { p with maxPayload := n } else p
      | .maxReadRequest n => if [128, 256, 512, 1024, 2048, 4096].contains n then { p with maxRead := n } else p
      | .tags10 on => { p with tags10 := on }
      | .ecrc g c => { p with ecrcGen := g, ecrcCheck := c }
      | .aerMasks u c => { p with aerUnc := u, aerCor := c })

/-- PCIE_FLR. -/
def execPcieFlr (ep : Nat) (s : State) : Host.Outcome State Fault Refusal := .next (s.onDev (pcieFlr ep))

/-- PCIE_LINK_DOWN. -/
def execPcieLinkDown (ep : Nat) (s : State) : Host.Outcome State Fault Refusal := .next (s.onDev (pcieDown ep))

/-- PERST_N_ASSERT: the effect of DL_Down on one controller (19 R544). -/
def execPerstNAssert (ep : Nat) (s : State) : Host.Outcome State Fault Refusal := .next (s.onDev (pcieDown ep))

/-- PCIE_LINK_UP. -/
def execPcieLinkUp (ep : Nat) (s : State) : Host.Outcome State Fault Refusal := .next (s.onDev (pcieUp ep))

/-- PCIE_CONFIG_WRITE. -/
def execPcieConfigWrite (ep : Nat) (w : PcieCfg) (s : State) : Host.Outcome State Fault Refusal :=
  .next (s.onDev (pcieConfig ep w))

/-! ### The Hemuner channel (13 R418 to R425) -/

/-- An ANNOUNCE leaves a port for an address. -/
def announceTo (port da : Nat) (d : Dev) : Dev :=
  if !d.hemUp port then d
  else
    let f := d.hemFrame port da 1 0 [] (deviceId ++ beBytes d.host.hem.high 8)
    emit (.hemuner port f) (d.onHem (fun h => { h with seq := h.seq + 1 }))

/-- ANNOUNCE_TIMER: 1 s after the one before, one ANNOUNCE on each synchronised port (13 R425). The key that seals it is checked
against its complement (15 R466). -/
def announce (d : Dev) : Dev :=
  let d := advanceTo (d.host.hem.announced + 500000000) d
  let d := d.onHem (fun h => { h with announced := d.now })
  let d := if d.vault.mgmtId ≠ 0 ∧ !d.mgmtOk then raiseAlarm 10 0 d else d
  forEach [0, 1] (fun p d =>
    announceTo p ((d.host.hem.announce.getD p none).getD broadcast) d) d

def execAnnounceTimer (s : State) : Host.Outcome State Fault Refusal := .next (s.onDev announce)

/-- Whether a frame is for the channel of a port (13 R418). -/
def Dev.hemFor (d : Dev) (port : Nat) (f : Bytes) : Bool :=
  decide (bytesAt f 0 6 = d.mgMac port) && decide (beAt f 12 2 = 0x88B5)

/-- Check 1 of 13 R421. -/
def hemFormatOk (f : Bytes) : Bool :=
  let ty := leAt f 15 1
  let n := leAt f 40 1
  let len := beAt f 46 2
  leAt f 14 1 = 1 && leAt f 41 1 = 0 && decide (f.length = 48 + 64 * n + len + 16) &&
    ((ty = 2 && decide (1 ≤ n ∧ n ≤ 16 ∧ len ≤ 1024 ∧ (len = 0 ∨ n = 1))) || (ty = 5 && n = 0 && len = 0))

/-- The MAC of a frame verifies. -/
def hemMacOk (d : Dev) (f : Bytes) : Bool :=
  decide (bytesAt f (f.length - 16) 16 = cmac d.vault.mgmtKey (f.take (f.length - 16)))

/-- The window passes a sequence number (13 R422). -/
def Hemuner.passes (h : Hemuner) (q : Nat) : Bool :=
  decide (h.high < q) || (decide (h.high - q < 64) && !h.window.getLsbD (h.high - q))

/-- The window takes a sequence number. -/
def Hemuner.accept (h : Hemuner) (q : Nat) : Hemuner :=
  if h.high < q then { h with high := q, window := (h.window <<< (q - h.high)) ||| 1 }
  else { h with window := h.window ||| (1 <<< (h.high - q)) }

/-- A frame for the channel passes the checks of 13 R421 in order, or is dropped at the first that fails. -/
def hemAccept (port : Nat) (f : Bytes) (d : Dev) : Bool × Dev :=
  let q := beAt f 32 8
  let src := beAt f 6 6
  if !hemFormatOk f then (false, bump 0x124 port d)
  else if d.vault.mgmtId = 0 ∨ beAt f 16 8 ≠ d.vault.mgmtId.toNat then (false, bump 0x125 port d)
  else if !d.mgmtOk then (false, raiseAlarm 10 0 (bump 0x125 port d))
  else if !hemMacOk d f then (false, bump 0x125 port d)
  else if beAt f 24 8 ≠ d.host.hem.session.toNat then (false, announceTo port src (bump 0x126 port d))
  else if !d.host.hem.passes q then (false, bump 0x127 port d)
  else (true, d.onHem (fun h => { h.accept q with announce := h.announce.set port (some src) }))

/-- An accepted ACK: events below its index are acknowledged (13 R424). -/
def hemAck (f : Bytes) (d : Dev) : Dev :=
  d.onHem (fun h => { h with events := without (fun e => decide (e.index < beAt f 42 4)) h.events })

/-- A frame waits in the buffer of its port, which holds one (01 R32). -/
def hemBuffer (port : Nat) (f : Bytes) (d : Dev) : Dev :=
  if (d.host.hem.buffer.getD port none).isSome then bump 0x128 port d
  else d.onHem (fun h => { h with buffer := h.buffer.set port (some f) })

/-- A frame arrives at a synchronised management port; `go` is what an accepted frame does. While the command processor
serves nobody, the frame waits in the buffer. -/
def hemArrive (port : Nat) (f : Bytes) (go : Dev → Dev) (d : Dev) : Dev :=
  if !d.lanes.mgSync.getD port false then d
  else if !d.hemFor port f then bump 0x123 port d
  else if !d.serves then hemBuffer port f d
  else
    let r := hemAccept port f d
    if r.1 then go r.2 else r.2

/-- HEMUNER_ACK_FRAME. -/
def hemunerAck (port : Nat) (f : Bytes) (d : Dev) : Dev :=
  if leAt f 15 1 = 2 then d else hemArrive port f (hemAck f) d

def execHemunerAckFrame (port : Nat) (frame : Bytes) (s : State) : Host.Outcome State Fault Refusal :=
  .next (s.onDev (hemunerAck port frame))

/-- HEMUNER_OTHER_FRAME: a frame not addressed to the channel is dropped and counted. -/
def hemunerOther (port : Nat) (f : Bytes) (d : Dev) : Dev :=
  if d.lanes.mgSync.getD port false && !d.hemFor port f then bump 0x123 port d else d

def execHemunerOtherFrame (port : Nat) (frame : Bytes) (s : State) : Host.Outcome State Fault Refusal :=
  .next (s.onDev (hemunerOther port frame))

/-- DM_EVENT_RESEND: an event not acknowledged is sent again after 100 ms (13 R424); among events of different sessions that
bear one index, the one sent longest ago. -/
def dmResend (index : Nat) (d : Dev) : Dev :=
  let same := d.host.hem.events.filter (fun e => e.index = index)
  match same.find? (fun e => same.all (fun x => decide (e.sent ≤ x.sent))) with
  | none => d
  | some e =>
    let d := advanceTo (e.sent + 50000000) d
    let d := d.onHem (fun h => { h with events := modFirst (fun x => decide (x.index = index ∧ x.sent = e.sent)) (fun x => { x with sent := d.now }) h.events })
    hemSend 1 4 1 e.image [] (hemSend 0 4 1 e.image [] d)

def execDmEventResend (index : BitVec 32) (s : State) : Host.Outcome State Fault Refusal :=
  .next (s.onDev (dmResend index.toNat))

end Sys2Proof.Machine
end

