-- ==== Sys2Proof/Machine/Firmware.lean ====
section
/-! DEFINITION. The firmware slots (17): images and their verification, the activation order, the `FW_*` commands, the
steps of an activation, reverts, trials, and the public-key unit's completions. -/

namespace Sys2Proof.Machine

/-- The part of a type, 1 to 4, that a slot holds. -/
def FwSlot.part (s : FwSlot) (ty : Nat) : FwPart := s.parts.getD (ty - 1) {}

/-- The running slot of a type, and its part. -/
def Dev.runSlot (d : Dev) (ty : Nat) : Nat := d.fw.run.getD (ty - 1) 0
def Dev.runPart (d : Dev) (ty : Nat) : FwPart := (d.fwSlot (d.runSlot ty)).part ty

/-- EV_FW_STATE (14 R447): to the supervisor. -/
def fwEvent (slot part state cause version : Nat) (d : Dev) : Dev :=
  raise d.sup (d.event 0x0801 [(16, 1, slot), (17, 1, part), (18, 1, state), (19, 1, cause), (20, 4, version)])
    (d.onFw (fun w => { w with lastCause := cause }))

/-! ### Images (17 R504) -/

/-- Bytes of the signatures that end an image. -/
def sigLen : Nat := 4723
def imageMin : Nat := 512 + sigLen + 3 * 4096 + 1024
def imageMax : Nat := 2097152

/-- Least and greatest length of a part. -/
def partBounds (ty : Nat) : Nat × Nat :=
  match ty with
  | 1 => (4096, 1048576)
  | 2 => (4096, 262144)
  | 3 => (4096, 131072)
  | _ => (1024, 1024)

/-- The image received into a slot. -/
def FwSlot.image (s : FwSlot) : Bytes :=
  ((List.range (ceilDiv s.len 1024)).flatMap (fun i => padTo 1024 (s.bytes.get [] i))).take s.len

/-- Part entry `i` of an image: type, offset, length. -/
def entryOf (b : Bytes) (i : Nat) : Nat × Nat × Nat :=
  (leAt b (32 + 64 * i) 1, leAt b (40 + 64 * i) 4, leAt b (44 + 64 * i) 4)

/-- The entry of a type. -/
def entryIdx (b : Bytes) (ty : Nat) : Nat := ((List.range 4).find? (fun i => (entryOf b i).1 = ty)).getD 0

def bodyOf (b : Bytes) (i : Nat) : Bytes := bytesAt b (entryOf b i).2.1 (entryOf b i).2.2

/-- The part of a type as its image states it. -/
def partOf (b : Bytes) (ty : Nat) : FwPart :=
  let i := entryIdx b ty
  let o := 32 + 64 * i
  { ver := leAt b (o + 4) 4, svn := leAt b (o + 2) 2, format := leAt b (o + 1) 1, digest := bytesAt b (o + 16) 48,
    bounds := (List.range 4).map (fun k => (leAt b (288 + 32 * i + 8 * k) 4, leAt b (292 + 32 * i + 8 * k) 4)) }

/-- Check 1 of 17 R508. -/
def imageFormatOk (b : Bytes) (len : Nat) : Bool :=
  let es := (List.range 4).map (entryOf b)
  bytesAt b 0 4 = [0x56, 0x52, 0x58, 0x46] && leAt b 4 1 = 1 && leAt b 5 1 = 4 && leAt b 8 4 = len &&
    leAt b 6 2 = 0 && allZero (bytesAt b 16 16) && allZero (bytesAt b 416 96) &&
    [1, 2, 3, 4].all (fun ty => (es.filter (fun e => e.1 = ty)).length = 1) &&
    es.all (fun e => decide ((partBounds e.1).1 ≤ e.2.2 ∧ e.2.2 ≤ (partBounds e.1).2 ∧ 512 ≤ e.2.1 ∧
      e.2.1 + e.2.2 ≤ len - sigLen)) &&
    (List.range 4).all (fun i => (List.range i).all (fun j => !overlaps (entryOf b i).2 (entryOf b j).2))

/-- Check 2: both signatures verify under the Lemrex firmware keys (17 R505). -/
def imageSignedOk (b : Bytes) : Bool :=
  let n := b.length - sigLen
  let dg := sha384 (b.take n)
  ecdsaVerify ((List.range 97).map (Config.lemrexEcdsaByte 0)) dg (bytesAt b n 96) &&
    mldsaVerify ((List.range 2592).map (Config.lemrexMldsaByte 0)) dg (bytesAt b (n + 96) 4627)

/-- Check 3: every body matches its digest. -/
def imageDigestOk (b : Bytes) : Bool :=
  (List.range 4).all (fun i => decide (sha384 (bodyOf b i) = bytesAt b (48 + 64 * i) 48))

/-- Check 5: every entry of the parse graph is in range and names only nodes 0 to 15, ACCEPT or REJECT. -/
def imageParseOk (b : Bytes) : Bool :=
  let pg := bodyOf b (entryIdx b 4)
  let next (c : Nat) : Bool := decide (c < 16 ∨ c = 256 ∨ c = 257)
  (List.range 16).all (fun i =>
    let n := leAt pg (32 * i) 32
    nodeOk n && next (bitsOf n 221 213) && (nodeTrans n).all (fun t => decide (t < 64))) &&
  (List.range 64).all (fun i =>
    let t := leAt pg (512 + 8 * i) 8
    transOk t && next (bitsOf t 31 23))

/-! ### Compatibility and order (17 R509) -/

/-- A set, one part of each type, is compatible. -/
def setCompatible (set : Nat → FwPart) : Bool :=
  [1, 2, 3, 4].all (fun i => [1, 2, 3, 4].all (fun j =>
    i = j || (let x := (set j).bounds.getD (i - 1) (0, 2 ^ 32 - 1); decide (x.1 ≤ (set i).ver ∧ (set i).ver ≤ x.2))))

/-- A part differs from the running one. -/
def partDiffers (a b : FwPart) : Bool := decide (a.ver ≠ b.ver ∨ a.digest ≠ b.digest)

/-- The set after the steps of a list. -/
def setAfter (run new : Nat → FwPart) (steps : List Nat) : Nat → FwPart :=
  fun ty => if steps.contains ty then new ty else run ty

/-- The orders of TC, SD and LK, lexicographically. -/
def tcsdlkOrders : List (List Nat) := [[1, 2, 3], [1, 3, 2], [2, 1, 3], [2, 3, 1], [3, 1, 2], [3, 2, 1]]

/-- The activation order from a running set to a new one; none where no order is compatible. -/
def orderOf (run new : Nat → FwPart) : Option (List Nat) :=
  let diff (ty : Nat) : Bool := partDiffers (new ty) (run ty)
  let pg := [4].filter diff
  (tcsdlkOrders.map (fun o => pg ++ o.filter diff)).find? (fun o =>
    (List.range o.length).all (fun i => setCompatible (setAfter run new (o.take (i + 1)))))

/-- The order to what a slot holds. -/
def Dev.fwOrder (d : Dev) (slot : Nat) : Option (List Nat) := orderOf d.runPart (d.fwSlot slot).part

/-! ### Receiving and verification (17 R506 to R508) -/

/-- A slot number, and the FW grant (13 R391). -/
def fwFails (d : Dev) (dom slot : Nat) : List (Bool × Nat) := [(decide (1 < slot), eRange), (!d.grant dom 2, ePerm)]

/-- A verification of a slot is in progress. -/
def Dev.fwVerifies (d : Dev) (slot : Nat) : Bool := d.fw.verifying.any (fun v => v.2 = slot)

/-- FW_BEGIN. -/
def fwBeginBody (c : Cmd) (slot len : Nat) (d : Dev) : Answer :=
  checked (fwFails d c.dom slot ++
      [(d.fw.run.contains slot || d.fw.act.any (fun a => a.slot = slot) || d.fwVerifies slot, eBusy),
       (decide (len < imageMin ∨ imageMax < len), eLen)]) d (fun d =>
    answer {} (onFwSlot slot (fun _ => { state := fwRECEIVING, len := len }) d))

/-- The unit of a block: 4,096 bytes, for DM 1,024. -/
def blockUnit (dom : Nat) : Nat := if dom = dmCode then 1024 else 4096

/-- FW_BLOCK: the block goes to MRAM under leave. -/
def fwBlockBody (c : Cmd) (slot offset length : Nat) (data : Bytes) (d : Dev) : Answer :=
  let s := d.fwSlot slot
  let u := blockUnit c.dom
  checked (fwFails d c.dom slot ++
      [(decide (offset % u ≠ 0), eRange),
       (decide (s.state ≠ fwRECEIVING ∧ s.state ≠ fwRECEIVED), eState),
       (decide (s.len ≤ offset), eRange),
       (decide (length ≠ min u (s.len - offset)), eLen)]) d (fun d =>
    (askLeave (.mram 6 c.dom) (d.onFw (fun w => { w with blocks := w.blocks ++ [(c, slot, offset, bytesAt data 0 length)] })), none))

/-- A block is written: the map, and RECEIVED once the image is covered. -/
def writeBlock (slot offset : Nat) (b : Bytes) (d : Dev) : Dev :=
  let put (t : Tbl Bytes) : Tbl Bytes := (chunks 1024 b).zipIdx.foldl (fun t x => t.put (offset / 1024 + x.2) x.1) t
  let d := onFwSlot slot (fun s => { s with bytes := put s.bytes }) d
  let s := d.fwSlot slot
  if s.state = fwRECEIVING ∧ s.bytes.length = ceilDiv s.len 1024 then
    fwEvent slot 0 1 0 (leAt s.image 12 4) (setFwState slot fwRECEIVED d)
  else d

/-- Leave for the blocks of a domain is granted: the first is written, and leave is asked for the next. -/
def fwBlockGranted (dom : Nat) (d : Dev) : Dev :=
  match d.fw.blocks.find? (fun x => x.1.dom = dom) with
  | none => d
  | some (c, slot, off, b) =>
    let d := d.onFw (fun w => { w with blocks := dropFirst (fun x => x.1.dom = dom) w.blocks })
    let s := d.fwSlot slot
    let d := if (s.state = fwRECEIVING ∨ s.state = fwRECEIVED) ∧ off + b.length ≤ s.len then
        finish c {} (writeBlock slot off b d)
      else finish c (fail eState) d
    if d.fw.blocks.any (fun x => x.1.dom = dom) then askLeave (.mram 6 dom) d else d

/-- The checks of 17 R508 after the first: cause and status of the first that fails. -/
def imageFails (d : Dev) (b : Bytes) : Option (Nat × Nat) :=
  let parts (ty : Nat) : FwPart := partOf b ty
  if !imageSignedOk b then some (2, eIntegrity)
  else if !imageDigestOk b then some (3, eIntegrity)
  else if [1, 2, 3, 4].any (fun ty => decide ((parts ty).svn < d.fw.floors.getD (ty - 1) 0)) then some (4, eState)
  else if !imageParseOk b then some (5, eRange)
  else if (orderOf d.runPart parts).isNone then some (6, eConflict)
  else none

/-- A verification fails: REJECTED. -/
def fwReject (c : Cmd) (slot cause status : Nat) (d : Dev) : Dev :=
  finish c (fail status) (fwEvent slot 0 3 cause (leAt (d.fwSlot slot).image 12 4) (setFwState slot fwREJECTED d))

/-- FW_VERIFY: the format at once, then the signatures on the public-key unit. -/
def fwVerifyBody (c : Cmd) (slot : Nat) (d : Dev) : Answer :=
  let s := d.fwSlot slot
  checked (fwFails d c.dom slot ++
      [(!([fwRECEIVED, fwVERIFIED, fwREJECTED, fwFAILED].contains s.state), eState), (d.fw.verifying.isSome, eBusy)]) d (fun d =>
    if !imageFormatOk s.image s.len then (fwReject c slot 1 eRange d, none)
    else (pkAsk (.fw slot 2) (d.onFw (fun w => { w with verifying := some (c, slot) })), none))

/-- The signatures of a slot's image have been through the unit, and its bodies hashed: the verification ends. -/
def fwVerified (d : Dev) : Dev :=
  match d.fw.verifying with
  | none => d
  | some (c, slot) =>
    let d := d.onFw (fun w => { w with verifying := none })
    let b := (d.fwSlot slot).image
    match imageFails d b with
    | some (cause, status) => fwReject c slot cause status d
    | none =>
      let d := onFwSlot slot (fun s => { s with
        state := fwVERIFIED, version := leAt b 12 4, parts := [1, 2, 3, 4].map (partOf b), pg := bodyOf b (entryIdx b 4) }) d
      finish c {} (fwEvent slot 0 2 0 (leAt b 12 4) d)

/-- PK_OP_DONE: the public-key unit has finished an operation and takes its next (10 R331). The hashing of an image, or of a
pairing step, then runs as internal work (10 R313, 17 R508). -/
def pkOpDone (d : Dev) : Dev :=
  match d.lk.pk with
  | none => d
  | some o =>
    let again : Option PkOp := match o with
      | .fw s n => if 1 < n then some (.fw s (n - 1)) else none
      | .pair s n => if 1 < n then some (.pair s (n - 1)) else none
      | .job _ => none
    let d := pkTake (d.onLk (fun k => { k with pkQueue := again.toList ++ k.pkQueue }))
    match o with
    | .fw _ n => if n = 1 then lkInternal .fw d else d
    | .pair s n => if n = 1 then pairHash s d else d
    | .job id => lkVerified id d

def execPkOpDone (s : State) : Host.Outcome State Fault Refusal := .next (s.onDev pkOpDone)

/-! ### Scheduling (17 R510, R511, R515) -/

/-- An inactive bank of the parse graph is armed, or being copied, for a fret other than `f`. -/
def Dev.pgTaken (d : Dev) (slot f : Nat) : Bool :=
  let cs := d.pgChanges slot
  d.armedSets.any (fun a => shares a.2.2 cs && decide (a.2.1 ≠ f)) ||
    (List.range 33).any (fun k => (d.domCfg k).copying.any (fun x =>
      shares (d.changesOf k) cs && (x.asap || decide (x.target ≠ f))))

/-- An activation is set: a differing parse graph is copied into the inactive banks and armed. -/
def setActivation (slot target : Nat) (order : List Nat) (revert : Bool) (dom : Nat) (d : Dev) : Dev :=
  let a : Activation := { slot := slot, target := target, order := order, revert := revert, dom := dom }
  let d := d.onFw (fun w => { w with act := some a, pgArmed := order.contains 4 })
  if order.contains 4 then writeBanks (d.armedBut []) (affected (d.pgChanges slot)) d else d

/-- FW_SCHEDULE. -/
def fwScheduleBody (c : Cmd) (slot target : Nat) (d : Dev) : Answer :=
  let order := d.fwOrder slot
  let now := d.fret.index
  checked (fwFails d c.dom slot ++
      [(decide ((d.fwSlot slot).state ≠ fwVERIFIED), eState),
       (d.fw.act.isSome || d.fw.trialEnd.isSome || d.sourceArmed, eBusy),
       (decide (target < now + 2), eLate),
       (decide (now + 16777216 < target), eRange),
       (order.isNone, eConflict),
       ((order.getD []).contains 4 && d.pgTaken slot target, eBusy)]) d (fun d =>
    let d := setFwState slot fwSCHEDULED (setActivation slot target (order.getD []) false c.dom d)
    answer {} (fwEvent slot 0 4 0 (d.fwSlot slot).version d))

/-- FW_CANCEL. -/
def fwCancelBody (c : Cmd) (slot : Nat) (d : Dev) : Answer :=
  checked (fwFails d c.dom slot ++
      [(decide ((d.fwSlot slot).state ≠ fwSCHEDULED), eState),
       (d.fw.act.any (fun a => a.running || decide (a.target < d.fret.index + 2)), eLate)]) d (fun d =>
    answer {} (dropActivation d))

/-- The slot that is PREVIOUS. -/
def Dev.previous (d : Dev) : Option Nat := [0, 1].find? (fun s => decide ((d.fwSlot s).state = fwPREVIOUS))

/-- FW_REVERT. -/
def fwRevertBody (c : Cmd) (d : Dev) : Answer :=
  let p := d.previous
  let slot := p.getD 0
  let target := d.fret.index + 2
  let order := d.fwOrder slot
  checked [(!d.grant c.dom 2, ePerm), (d.fw.act.isSome, eBusy),
      (p.isNone || [1, 2, 3, 4].any (fun ty => decide (((d.fwSlot slot).part ty).svn < d.fw.floors.getD (ty - 1) 0)), eState),
      (order.isNone, eConflict), ((order.getD []).contains 4 && d.pgTaken slot target, eBusy)] d (fun d =>
    answer {} (setActivation slot target (order.getD []) true c.dom d))

/-! ### Activation (17 R512 to R515) -/

/-- 600 s of TCLK. -/
def trialTicks : Nat := 300000000000

/-- The last step has ended: the whole set runs from the new slot. -/
def endActivation (a : Activation) (d : Dev) : Dev :=
  let other := 1 - a.slot
  let d := d.onFw (fun w => { w with act := none, run := List.replicate 4 a.slot,
                                     trialEnd := (if a.revert then none else some (d.now + trialTicks)) })
  setFwState other (if a.revert then fwVERIFIED else fwPREVIOUS) (setFwState a.slot fwACTIVE d)

/-- A step has ended: its part runs from the new slot. -/
def stepEnds (a : Activation) (ty : Nat) (d : Dev) : Dev :=
  let a' := { a with order := a.order.drop 1, done := a.done ++ [ty], inStep := false }
  let d := d.onFw (fun w => { w with act := some a', run := w.run.set (ty - 1) a.slot })
  let d := if a.revert then fwEvent a.slot ty 6 9 ((d.fwSlot a.slot).part ty).ver d
    else fwEvent a.slot ty 5 0 ((d.fwSlot a.slot).part ty).ver d
  if a'.order = [] then endActivation a' d else d

/-- A change of the lookaside microcode's format: started jobs end, old state records no longer open (17 R512). -/
def lkFormatChange (d : Dev) : Dev :=
  let d := forEach (d.lk.runs.filter LkRun.started) (fun r d => lkEnd r (fail eState 0xFFFC) d) d
  d.onLk (fun k => { k with records := [], cores := k.cores.map (fun c => { c with job := none, waits := false }),
                            pkQueue := without PkOp.isJob k.pkQueue })

/-- A lane that is not UP begins again after its load (17 R512). -/
def lanesReload (d : Dev) : Dev :=
  let d := forEach (List.range 32) (fun l d =>
    let p := (d.lane l).phase
    if p = .off ∨ p = .up ∨ p = .test then d
    else onLane l (fun x => { x with phase := .acquire, since := d.now, held := none }) d) d
  iter passPlace (freeAdapt - min freeAdapt d.adapting) d

/-- Whether what a step waits for has come: leave and the end of commands for TC, idle cores and unit for LK. -/
def Dev.stepReady (d : Dev) (ty : Nat) : Bool :=
  match ty with
  | 1 => [0, 1, 2].all (fun s => !d.power.gov.queue.contains (.tcLoad s))
  | 3 => d.lk.cores.all (fun c => c.job.isNone) && d.lk.pk.isNone
  | _ => true

/-- FW_STEP_DONE: the step in progress ends. -/
def fwStepDone (d : Dev) : Dev :=
  match d.fw.act with
  | none => d
  | some a =>
    match d.fwStep with
    | none => d
    | some ty =>
      if !d.stepReady ty ∨ d.halted then d
      else
        let newFormat := decide ((d.runPart 3).format ≠ ((d.fwSlot a.slot).part 3).format)
        let d := stepEnds a ty d
        match ty with
        | 2 => lanesReload d
        | 3 => lkDispatch (pkTake (if newFormat then lkFormatChange d else d))
        | _ => d

/-- A step begins at a boundary, once its deferrable duties are done (17 R512). -/
def fwStepBegin (d : Dev) : Dev :=
  match d.fw.act with
  | none => d
  | some a =>
    if !a.running || a.inStep || d.halted then d
    else
      match a.order with
      | [] => endActivation a d
      | ty :: _ =>
        let d := d.onFw (fun w => { w with act := some { a with inStep := true } })
        if ty = 1 then forEach [0, 1, 2] (fun s d => askLeave (.tcLoad s) d) d else d

/-- The boundary that opens the target fret: the activation runs, and a differing parse graph has been swapped in with
the commits of the fret (17 R512). -/
def fwStart (index : Nat) (d : Dev) : Dev :=
  match d.fw.act with
  | none => d
  | some a =>
    if a.running ∨ index < a.target then d
    else
      let a := { a with running := true }
      let d := d.onFw (fun w => { w with act := some a, pgArmed := false })
      if a.order.head? = some 4 then stepEnds a 4 d else d

/-- The parts of a slot that differ from those of the other. -/
def Dev.changedParts (d : Dev) (slot : Nat) : List Nat :=
  [1, 2, 3, 4].filter (fun ty => partDiffers ((d.fwSlot slot).part ty) ((d.fwSlot (1 - slot)).part ty))

/-- All four parts go back to the slot that ran before (17 R513, R514); cause 7 HALT. -/
def fwGoBack (slot : Nat) (parts : List Nat) (d : Dev) : Dev :=
  let old := 1 - slot
  let format := decide (((d.fwSlot slot).part 3).format ≠ ((d.fwSlot old).part 3).format) && parts.contains 3
  let d := d.onFw (fun w => { w with act := none, trialEnd := none, pgArmed := false, run := List.replicate 4 old,
                                     pgRevert := (if parts.contains 4 then some 0 else w.pgRevert) })
  let d := if format then d.onLk (fun k => { k with records := [] }) else d
  let d := setFwState slot fwFAILED (setFwState old fwACTIVE d)
  forEach parts (fun ty d => fwEvent slot ty 6 7 ((d.fwSlot old).part ty).ver d) d

/-- The course enters HALTED: a scheduled activation is cancelled, one that runs and one on trial are reverted. -/
def fwHalt (d : Dev) : Dev :=
  match d.fw.act with
  | some a =>
    if a.running then fwGoBack a.slot a.done d else cancelActivation 3 d
  | none =>
    if d.fw.trialEnd.isSome then
      let slot := d.runSlot 1
      fwGoBack slot (d.changedParts slot) d
    else d

/-- FW_TRIAL_END: the floors rise (17 R514). -/
def fwTrialEnd (d : Dev) : Dev :=
  match d.fw.trialEnd with
  | none => d
  | some t =>
    let d := advanceTo t d
    let d := d.onFw (fun w => { w with
      trialEnd := none
      floors := [1, 2, 3, 4].map (fun ty => max (w.floors.getD (ty - 1) 0) (d.runPart ty).svn) })
    fwEvent (d.runSlot 1) 0 5 0 (d.fwSlot (d.runSlot 1)).version d

def execFwTrialEnd (s : State) : Host.Outcome State Fault Refusal := .next (s.onDev fwTrialEnd)

/-! ### Start (17 R516) -/

/-- The directory of a start: that of the valid copy with the higher sequence number (17 R517). -/
def readDir (d : Dev) : Dev :=
  let x := d.fw.current.dir
  d.onFw (fun w => { w with
    slots := w.slots.zipIdx.map (fun s => { s.1 with state := x.states.getD s.2 0, len := x.lens.getD s.2 0 })
    run := x.run, floors := x.floors, act := x.act, trialEnd := x.trialEnd })

/-- What the start does with the slots; `ok` tells which pass checks 1 to 4. Whether a slot could be loaded is
`noFw`. -/
def fwBoot (ok : List Bool) (d : Dev) : Dev :=
  let d := readDir d
  let passes (s : Nat) : Bool := ok.getD s false && decide (6 ≤ (d.fwSlot s).state ∧ (d.fwSlot s).state ≤ 7)
  let cut := d.fw.act.any Activation.running
  let d := match d.fw.act with
    | some a => if a.running then endActivation { a with order := [] } d else dropActivation d
    | none => d.onFw (fun w => { w with trialEnd := w.trialEnd.map (fun _ => d.now + trialTicks) })
  let d := d.onFw (fun w => { w with verifying := none, blocks := [], pgRevert := none, pgArmed := false })
  let r := d.runSlot 1
  if (cut && ok.getD r false) || passes r then d.onPower (fun p => { p with noFw := false })
  else if passes (1 - r) && decide ((d.fwSlot (1 - r)).state = fwPREVIOUS) then
    let d := setFwState r fwFAILED (setFwState (1 - r) fwACTIVE d)
    let d := d.onFw (fun w => { w with run := List.replicate 4 (1 - r), trialEnd := none })
    fwEvent r 0 6 8 (d.fwSlot (1 - r)).version (d.onPower (fun p => { p with noFw := false }))
  else d.onPower (fun p => { p with noFw := true })

/-! ### Status (17 R518) -/

/-- The FW_STATUS record. -/
def fwRecord (d : Dev) : Bytes :=
  let w := d.fw
  let a := w.act
  let parts (s : Nat) : Bytes := [1, 2, 3, 4].flatMap (fun ty => leBytes ((d.fwSlot s).part ty).ver 4)
  let receiving := ([0, 1].find? (fun s => decide ((d.fwSlot s).state = fwRECEIVING))).map (fun s => (d.fwSlot s).bytes.length)
  let sched := match a with
    | some x => if x.running then 2 ^ 64 - 1 else x.target
    | none => 2 ^ 64 - 1
  let left := match w.trialEnd with
    | some t => (t - d.now) / 500000000
    | none => 0
  let run := w.run.zipIdx.foldl (fun n x => n + x.1 * 2 ^ x.2) 0
  padTo 128 (leBytes (d.fwSlot 0).state 1 ++ leBytes (d.fwSlot 1).state 1 ++
    leBytes (run + b2n w.trialEnd.isSome * 16 + b2n (a.any Activation.running) * 32) 1 ++
    leBytes (d.fwStep.getD 0) 1 ++ leBytes (receiving.getD 0) 4 ++ leBytes sched 8 ++ leBytes left 4 ++
    w.floors.flatMap (fun n => leBytes n 2) ++ zeros 4 ++ [1, 2, 3, 4].flatMap (fun ty => leBytes (d.runPart ty).ver 4) ++
    parts 0 ++ parts 1 ++ leBytes (d.fwSlot 0).version 4 ++ leBytes (d.fwSlot 1).version 4 ++ leBytes w.lastCause 1)

/-- FW_STATUS. -/
def fwStatusBody (c : Cmd) (iova : Nat) (d : Dev) : Answer :=
  checked [(!d.grant c.dom 2, ePerm)] d (fun d => answer { outs := [(iova, fwRecord d)] } d)

end Sys2Proof.Machine
end

