-- ==== Sys2Proof/Machine/Smivia.lean ====
section
/-! DEFINITION. Smivia framing and encryption (04, 08): the frame sent, the frame received, its confirmation, the elements,
the defects and the delay measurement. -/

namespace Sys2Proof.Machine

/-! ### Sequences -/

/-- `n` steps of the scrambler; the bits shifted out, least significant first (04 R98). -/
def scrambleStep (s : Nat) : Nat := (s * 2 + b2n (s.testBit 22 != s.testBit 17)) % 2 ^ 23

/-- One byte of the scrambler's sequence, and the register after it. -/
def scrambleByte (s : Nat) : Nat × Nat :=
  (List.range 8).foldl (fun x k => (x.1 + b2n (x.2.testBit 22) * 2 ^ k, scrambleStep x.2)) (0, s)

/-- `n` bytes of the sequence. -/
def scrambleSeq : Nat → Nat → Bytes
  | _, 0 => []
  | s, n + 1 => let x := scrambleByte s; BitVec.ofNat 8 x.1 :: scrambleSeq x.2 n

/-- Bytes 6 to 8191 scrambled, or descrambled. -/
def scramble (f : Bytes) : Bytes := f.take 6 ++ xorBytes (f.drop 6) (scrambleSeq 0x7FFFFF (f.length - 6))

/-- One byte through the CRC of the overhead, most significant bit first (04 R94). -/
def ohCrcByte (c : BitVec 16) (b : Byte) : BitVec 16 :=
  iter (fun c : BitVec 16 => if c.getLsbD 15 then (c <<< 1) ^^^ 0x1021 else c <<< 1) 8 (c ^^^ (b.setWidth 16 <<< 8))

def ohCrc (bs : Bytes) : BitVec 16 := bs.foldl ohCrcByte 0xFFFF

/-- The next bit of PRBS31 after a register of its last 31 bits (03 R81). -/
def prbsNext (r : Nat) : Bool := r.testBit 30 != r.testBit 27

def prbsShift (r : Nat) (b : Bool) : Nat := (r * 2 + b2n b) % 2 ^ 31

/-- One byte of PRBS31, bit 0 first. -/
def prbsByte (r : Nat) : Nat × Nat :=
  (List.range 8).foldl (fun x k => let b := prbsNext x.2; (x.1 + b2n b * 2 ^ k, prbsShift x.2 b)) (0, r)

/-- `n` bytes of PRBS31, and the register after them. -/
def prbsBytes : Nat → Nat → Bytes × Nat
  | r, 0 => ([], r)
  | r, n + 1 => let x := prbsByte r; let y := prbsBytes x.2 n; (BitVec.ofNat 8 x.1 :: y.1, y.2)

/-- The checker takes one bit: whether it counts as an error (03 R82). DESIGN CHOICE: the 1,024 bits of the lock-loss rule are
consecutive blocks from the moment of lock on, and do not slide (log 92). -/
def prbsBit (p : PrbsRx) (b : Bool) : Bool × PrbsRx :=
  let want := prbsNext p.reg
  if p.locked then
    let bad := b != (want != p.inverted)
    let errs := p.errs + b2n bad
    let p := { p with reg := prbsShift p.reg want, errs := if p.pos = 1023 then 0 else errs, pos := (p.pos + 1) % 1024 }
    (bad, if 64 ≤ errs then { p with locked := false, run := (0, 0) } else p)
  else
    let t := if b = want then p.run.1 + 1 else 0
    let i := if b = want then 0 else p.run.2 + 1
    let p := { p with reg := prbsShift p.reg b, run := (t, i) }
    if 256 ≤ t then (false, { p with locked := true, inverted := false, errs := 0, pos := 0 })
    else if 256 ≤ i then
      (false, { p with locked := true, inverted := true, errs := 0, pos := 0, reg := 2 ^ 31 - 1 - p.reg })
    else (false, p)

/-- The checker takes bytes: errored bits counted. -/
def prbsCheck (p : PrbsRx) (bs : Bytes) : Nat × PrbsRx :=
  bs.foldl (fun st b => (List.range 8).foldl (fun st k =>
    let r := prbsBit st.2 (b.getLsbD k)
    (st.1 + b2n r.1, r.2)) st) (0, p)

/-- The checker steps over a frame that is not confirmed (04 R110). -/
def prbsSkip (p : PrbsRx) : PrbsRx :=
  if p.locked then { p with reg := iter (fun r => prbsShift r (prbsNext r)) 64896 p.reg } else { p with run := (0, 0) }

/-! ### Transmission -/

def fas : Bytes := [0x3C, 0x9E, 0xA5, 0x71, 0x0D, 0xB4]

def frameLen : Nat := 8192
def areaLen : Nat := 8110

/-- A stamp as the overhead carries it: seconds, low 32 bits, and nanoseconds. -/
def dmStamp (reading : Nat) : Nat := reading / fracPerSec % 2 ^ 32 * 2 ^ 32 + reading / 2 ^ 32 % 10 ^ 9

/-- Data positions of a lane from marker to marker (03 R68), and the block positions that a lane's transmit pipeline spans, 27.9
ns of 2.418 ns each. -/
def markerGap : Nat := 8199
def pipeBlocks : Nat := 11

/-- The time of one block position on a lane: 257 bits at 112.5 Gbit/s with RS(544,514), in ps. -/
def blockPs : Nat := 2418

/-- Lane-marker positions between the entry of a lane's data block `x` into the pipeline and its departure, where a lane begins
with a marker (11 R348; log 88). -/
def markersAhead (x : Nat) : Nat := b2n (decide (x % markerGap < pipeBlocks))

/-- The lane that carries a block of the stream received: the one whose number it has in turn (04 R91, 03 R75). -/
def Dev.rxLaneOf (d : Dev) (slice blk : Nat) : Nat :=
  let p := (d.groupPort slice).getD 0
  ((d.portLanes p).find? (fun l => decide ((d.lane l).position = blk % max 1 (d.groupWidth slice)))).getD p

/-- The arrival of the frame whose block 0 is block `blk` of the stream, on the group's delay time base (04 R123, 11 R348). -/
def Dev.smvArrival (d : Dev) (slice blk : Nat) : Nat :=
  let p := (d.groupPort slice).getD 0
  dmStamp (shiftPs (d.tb ((d.smvObj slice).n 13)).frac (-(d.rxCorr p (d.rxLaneOf slice blk))))

/-- The departure of the frame whose block 0 is the next block of the stream sent (04 R91, R123, 11 R348). -/
def Dev.smvDeparture (d : Dev) (slice : Nat) : Nat :=
  let p := (d.groupPort slice).getD 0
  let n := max 1 (d.groupWidth slice)
  let b := (d.group slice).txBlk
  dmStamp (shiftPs (d.tb ((d.smvObj slice).n 13)).frac
    (d.laneCorr p (p + b % n) true + (markersAhead (b / n) * blockPs : Nat)))

/-- TRACEABLE of this end: staged, and not while its delay time base runs from the backup clock (04 R126, 11 R341). -/
def Dev.traceable (d : Dev) (slice : Nat) : Bool :=
  decide ((d.smvObj slice).n 14 = 0) && !(d.tb ((d.smvObj slice).n 13)).fromBackup

/-- A mismatch of the complement of the transmit key raises its alarm as the frame begins. -/
def checkTxKey (slice : Nat) (d : Dev) : Dev :=
  match (d.group slice).txSlot with
  | none => d
  | some n => if (d.slot n).mark && !(d.slot n).pairOk then keyMismatch n d else d

/-- The transmit direction has a usable key (08 R250). -/
def Dev.usableKey (d : Dev) (slice : Nat) : Bool :=
  let g := d.group slice
  decide (g.txEpoch ≠ 0) && !g.exhausted && g.txSlot.any (fun n => (d.slot n).mark && (d.slot n).pairOk)

/-- A condition of AIS holds (04 R120, 15 R467). -/
def Dev.aisNow (d : Dev) (slice : Nat) : Bool :=
  !d.usableKey slice || d.held || d.course.failClosed || decide ((d.smvObj slice).n 16 = 0) ||
    d.failSafe (.smvPayload slice) || d.failSafe (.keyMode slice)

/-- The RDI cause that a group reports: the first defect past its hold-off in the order of 04 R119; 0 for none. -/
def rdiCause (g : Group) : Nat :=
  (([(0, 1), (1, 2), (3, 3), (2, 4), (6, 5), (5, 6)].find? (fun x => (g.defects.getD x.1 {}).active)).map Prod.snd).getD 0

/-- RDI is reported: any defect past its hold-off, the defect RDI itself among them, which has no code and is sent with cause 0.
DESIGN CHOICE: 04 R119 says any defect, and R118 gives RDI no RDI_CAUSE (log 92). -/
def rdiSent (g : Group) : Bool := g.defects.any Defect.active

/-- The multiframe boundary of the transmit direction: a stop, or the switch to the next epoch (08 R258, R260). -/
def txBoundary (slice : Nat) (d : Dev) : Dev :=
  let g := d.group slice
  if g.stopDue then
    d.onGroup slice (fun g => { g with
      txEpoch := 0, txSlot := none, nextEpoch := 0, nextSlot := none, rx := [{}, {}], armed := none, switchDue := false,
      stopDue := false, releaseRx := none, exhausted := false, release := g.slotsHeld })
  else if g.switchDue then
    let d := d.onGroup slice (fun g => { g with
      txEpoch := g.nextEpoch, txSlot := g.nextSlot, nextEpoch := 0, nextSlot := none, armed := none, switchDue := false, fc := 0,
      exhausted := false, release := g.release ++ g.txSlot.toList, pair := { g.pair with lastSwitch := d.now } })
    raiseFrom slice (d.groupOwner slice) (d.event 0x0206 [(16, 1, slice), (17, 1, 0), (18, 2, g.nextEpoch)]) d
  else d

/-- The unit of the slot that begins: slot 15 the counter unit, the others the segments of the message being sent. -/
def nextUnit (slice m : Nat) (keyed : Bool) (d : Dev) : Dev :=
  d.onGroup slice (fun g =>
    if m = 240 then
      { g with unitTx := if keyed then [0x01, 0] ++ beBytes g.txEpoch 2 ++ beBytes g.fc 8 ++ zeros 4 else zeros 16 }
    else
      match g.pair.cur with
      | none => { g with unitTx := zeros 16 }
      | some (code, c) =>
        { g with unitTx := pairUnit code g.pair.seg c, pair := { g.pair with seg := (g.pair.seg + 1) % pairSegs c.length } })

/-- An element's header (04 R101). -/
def elemHeader (ty len stream : Nat) : Bytes := beBytes (ty * 2 ^ 30 + len * 2 ^ 16 + stream * 2 ^ 12) 4

/-- A CBR run of the first stream, in number order, of which blocks wait: up to 64 of them (04 R105; log 89). -/
def nextCbr (slice : Nat) (d : Dev) : Option (Bytes × Dev) :=
  (d.group slice).cbr.head?.map (fun e =>
    let k := min 64 (e.2.length / 9)
    (elemHeader 2 (1 + 9 * k) e.1 ++ [BitVec.ofNat 8 k] ++ e.2.take (9 * k),
     d.onGroup slice (fun g => { g with cbr := Tbl.set [] e.1 (e.2.drop (9 * k)) g.cbr })))

/-- The stream that the map gives a host port. -/
def Dev.streamOf (d : Dev) (slice port : Nat) : Option Nat :=
  (((d.smvObj slice).lst 0).find? (fun x => decide (x.getD 1 0 = (port : Int)))).map (fun x => (x.getD 0 0).toNat)

/-- PCS blocks that a CBR host port has received wait for their runs: those of a 10GbE, or 25GbE port without FEC, that the map
names, under label 0x11 (04 R105). -/
def takeCbr (slice label : Nat) (x : CbrBlocks) (d : Dev) : Dev :=
  if label ≠ 0x11 ∨ !(decide (d.portType x.port = 5) || decide (d.portType x.port = 6)) ∨ d.hasFec x.port then d
  else
    match d.streamOf slice x.port with
    | some s => d.onGroup slice (fun g => { g with cbr := Tbl.set [] s (Tbl.get [] s g.cbr ++ x.blocks) g.cbr })
    | none => d

/-- A transmitter takes client data: not while, as a mirror's partner, it sends Local Fault instead, nor under a lane test (03 R80,
R81). The stream of a Smivia group itself goes on (04 R86; log 90). -/
def Dev.takesClients (d : Dev) (p : Nat) : Bool := !(d.link p).localFault && !(d.portLanes p).any d.txTest

/-- Ticks that bytes of the element area of a group take. -/
def elemTicks (d : Dev) (p n : Nat) : Nat := n * 4000 / max 1 (d.portRate p)

/-- The next element: a client frame that scheduling releases, or a CBR run, else drone fill (04 R104, R105). -/
def nextElem (slice p label : Nat) (d : Dev) : Bytes × Dev :=
  if !d.takesClients p then (elemHeader 1 60 0 ++ zeros 60, bump 0x068 slice d)
  else if label = 0x11 then
    (nextCbr slice d).getD (elemHeader 1 60 0 ++ zeros 60, bump 0x068 slice d)
  else
  let r := selectFrame p d
  match r.1 with
  | some f =>
    let b := f.wireBytes
    let q := p * 8 + f.res.tc
    let d := bumpBy 0x101 q (b.length + 4) (bump 0x100 q r.2)
    let ends := d.now + elemTicks d p (b.length + 4)
    (elemHeader 0 b.length f.res.stream ++ b,
     dropFrame f.id (d.onGroup slice (fun g => { g with txFrame := some (f.res.tc, ends) })))
  | none => (elemHeader 1 60 0 ++ zeros 60, bump 0x068 slice r.2)

/-- The element area: what is left of the element begun, then elements back to back (04 R101). Each is selected at its own boundary,
to which the clock moves on from the start of the area at tick `t` (12 R360). -/
def fillArea (slice p label t : Nat) : Nat → Bytes → Dev → Bytes × Dev
  | 0, acc, d => (acc, d)
  | n + 1, acc, d =>
    if areaLen ≤ acc.length then (acc, d)
    else
      let e := nextElem slice p label (advanceTo (t + elemTicks d p acc.length) d)
      fillArea slice p label t n (acc ++ e.1) e.2

/-- The payload of a frame under a label that is not AIS (04 R100, R110). -/
def txPayload (slice p label : Nat) (d : Dev) : Bytes × Dev :=
  let g := d.group slice
  if label = 0xFD then
    let x := prbsBytes g.prbsTx 8112
    (x.1, d.onGroup slice (fun g => { g with prbsTx := x.2 }))
  else
    let fep := if g.txElem.length < areaLen then g.txElem.length else 0xFFFF
    let x := fillArea slice p label d.now areaLen g.txElem d
    (beBytes fep 2 ++ x.1.take areaLen, x.2.onGroup slice (fun g => { g with txElem := x.1.drop areaLen }))

/-- Client frames that scheduling releases toward a group without a usable key are discarded (08 R274). -/
def discardUnkeyed (slice p : Nat) : Nat → Nat → Dev → Dev
  | 0, _, d => d
  | n + 1, room, d =>
    match selectFrame p d with
    | (none, d) => d
    | (some f, d) =>
      let d := bump 0x0C5 slice (dropFrame f.id d)
      if room ≤ f.sendLen then d else discardUnkeyed slice p n (room - f.sendLen) d

/-- The period, in blocks of a group's stream, after which lanes and marker positions recur. -/
def Dev.blkPeriod (d : Dev) (slice : Nat) : Nat := markerGap * max 1 (d.groupWidth slice)

/-- SMV_FRAME_TX: the group begins its next frame (04 R86 to R99, R121, R123; 08 R252, R253). DESIGN CHOICE: DM_SEQ, T_DEP and
the echo fields are zero in a frame that is no request or carries no echo (04 R92 does not say; log 92). While a lane of the
group sends a test pattern no frame leaves whole (03 R81). `cbr` are the blocks that CBR host ports have received since the
frame before. DESIGN CHOICE: an element in progress when AIS begins is kept, and its rest follows in the first frame after AIS;
04 R104 says only that an element is completed without interruption (log 92). -/
def smvFrameTx (slice : Nat) (cbr : List CbrBlocks) (d : Dev) : Dev :=
  match d.groupPort slice with
  | none => d
  | some p =>
    if (d.portLanes p).any (fun l => decide ((d.lane l).phase = .off)) then d.onGroup slice (fun g => { g with sending := false })
    else
      let d := d.onGroup slice (fun g => if g.sending then g else { g with sending := true, mfas := 0, txElem := [], txFrame := none, txBlk := 0, cbr := [] })
      let m := (d.group slice).mfas
      let d := checkTxKey slice (if m = 0 then txBoundary slice d else d)
      let o := d.smvObj slice
      let ais := d.aisNow slice || ((d.group slice).ais && decide (m ≠ 0))
      let label := if ais then 0xFF else o.n 2
      let keyed := !ais && decide (label ≠ 0xFE)
      let departs := d.smvDeparture slice
      let d := d.onGroup slice (fun g => { g with ais := ais })
      let d := forEach cbr (takeCbr slice label) d
      let d := if m % 16 = 0 then nextUnit slice m keyed d else d
      let d := if d.usableKey slice then d else discardUnkeyed slice p 128 areaLen d
      let x := if ais then (List.replicate 8112 (0xFF : Byte), d) else txPayload slice p label d
      let d := x.2
      let g := d.group slice
      let chan := o.n 1
      let psl := match m with
        | 0 => label
        | 1 => 1
        | 2 | 3 | 4 | 5 => chan / 256 ^ (5 - m) % 256
        | 6 => d.groupWidth slice - 1
        | _ => 0
      let stat := b2n ais * 128 + b2n (rdiSent g) * 64 + (if keyed then g.txEpoch % 2 * 32 else 0) + rdiCause g
      let ask := g.dmDue && decide (o.n 12 = 0)
      let seq := if ask then (g.dmSeq + 1) % 256 else g.dmSeq
      let dep := if ask then departs else 0
      let echo := if ask then g.echo else none
      let flags := b2n ask * 128 + b2n echo.isSome * 64 + b2n (d.traceable slice) * 32
      let e := echo.getD { seq := 0, dep := 0, arr := 0 }
      let oh : Bytes := fas ++ [BitVec.ofNat 8 m, BitVec.ofNat 8 psl, BitVec.ofNat 8 stat, 0] ++
        beBytes (if keyed then g.txEpoch else 0) 2 ++ beBytes (if keyed then g.fc else 0) 4 ++ padTo 16 g.unitTx ++
        [BitVec.ofNat 8 (if ask then seq else 0), BitVec.ofNat 8 flags, BitVec.ofNat 8 e.seq, 0] ++ beBytes dep 8 ++
        beBytes e.dep 8 ++ beBytes e.arr 8 ++ [0, 0]
      let key := ((g.txSlot.map d.slot).getD {}).keyBytes
      let body : Bytes :=
        if ais then x.1 ++ List.replicate 16 (0xFF : Byte)
        else if keyed then
          let c := gcmSeal key (beBytes chan 4 ++ beBytes g.fc 8) oh x.1
          c.1 ++ c.2
        else x.1 ++ zeros 16
      let frame := oh ++ beBytes (ohCrc (oh.drop 6)).toNat 2 ++ body
      let d := if (d.portLanes p).any d.txTest then d else emit (.smivia slice (scramble frame)) d
      let last := keyed && decide (g.fc = 2 ^ 64 - 1)
      let d := d.onGroup slice (fun g => { g with
        mfas := (m + 1) % 256, txBlk := (g.txBlk + 256) % d.blkPeriod slice, dmSeq := seq, dmDue := g.dmDue && !ask && decide (o.n 12 = 0), echo := if ask then none else g.echo,
        fc := if keyed && !last then g.fc + 1 else g.fc, exhausted := g.exhausted || last,
        pair := if g.pair.aborting = 1 then { g.pair with aborting := 0, cur := none }
          else if g.pair.finUntil.any (fun t => decide (t ≤ d.now)) then { g.pair with finUntil := none, cur := none }
          else { g.pair with aborting := g.pair.aborting - 1 } })
      if last then
        raiseFrom slice (d.groupOwner slice) (d.event 0x0207 [(16, 1, slice), (18, 2, g.txEpoch)]) d
      else d

def execSmvFrameTx (tx : SmvTx) (s : State) : Host.Outcome State Fault Refusal := .next (s.onDev (smvFrameTx tx.slice tx.cbr))

/-! ### Alignment (04 R113 to R115) -/

/-- The frame alignment leaves IN_FRAME for SEARCH. DESIGN CHOICE: the runs of 3 multiframes of a label or a channel identifier go on
over it; 04 R112 names what breaks no sequence, and not this (log 92). -/
def outOfFrame (slice : Nat) (d : Dev) : Dev :=
  bump 0x062 slice (d.onGroup slice (fun g => { g with
    align := .search, alignSince := d.now, walk := none, mfIn := false, mfGood := 0, fasErrs := 0, hsSlot := [], chanPart := [],
    defects := modAt g.defects 1 (fun x => { x with since := some d.now }) }))

/-- Alignment is set: IN_FRAME and MF_IN, the next MFAS and its place expected. -/
def enterFrame (slice mfas next : Nat) (d : Dev) : Dev :=
  d.onGroup slice (fun g => { g with
    align := .inFrame, alignSince := d.now, cands := [], fasErrs := 0, mfIn := true, mfErrs := 0, mfGood := 0,
    expMfas := mfas, expAt := next, prevMfas := 256, walk := none, hsSlot := [], chanPart := [],
    rx := g.rx.map (fun r => { r with synced := false, base := none }), pair := { g.pair with noted := false },
    defects := modAt g.defects 1 (fun x => { x with gone := some d.now }) })

/-- 256 blocks from stream block `pos` on, met in SEARCH or CONFIRM. A candidate whose expected place has gone by is discarded,
and so is one that expects its FAS here and does not find it; a match that none expects opens one, at most 4 (04 R114). DESIGN
CHOICE: the frames from the one after a candidate's third on are processed, for the third is met in CONFIRM (log 92). -/
def searchFrame (slice : Nat) (hit : Bool) (pos mfas : Nat) (d : Dev) : Dev :=
  let next (c : Cand) : Cand := { c with at_ := pos + 256, mfas := (mfas + 1) % 256 }
  let settle (cs : List Cand) : Dev :=
    d.onGroup slice (fun g => { g with cands := cs, align := if cs = [] then .search else .confirm })
  let live := (d.group slice).cands.filter (fun c => decide (pos ≤ c.at_))
  match live.find? (fun c => decide (c.at_ = pos)) with
  | none => settle (if hit then live.drop (live.length + 1 - 4) ++ [next { at_ := 0, mfas := 0 }] else live)
  | some c =>
    if !hit ∨ c.mfas ≠ mfas then settle (without (fun c => decide (c.at_ = pos)) live)
    else if c.count = 2 then enterFrame slice ((mfas + 1) % 256) (pos + 256) d
    else settle (modFirst (fun c => decide (c.at_ = pos)) (fun c => { next c with count := 2 }) live)

/-- The multiframe state machine takes a frame. -/
def multiframe (slice : Nat) (crcOk : Bool) (mfas : Nat) (d : Dev) : Dev :=
  let g := d.group slice
  let d :=
    if g.mfIn then
      if crcOk ∧ mfas = g.expMfas then d.onGroup slice (fun g => { g with mfErrs := 0 })
      else if g.mfErrs = 4 then d.onGroup slice (fun g => { g with mfIn := false, mfErrs := 0, mfGood := 0, hsSlot := [], chanPart := [] })
      else
        let d := if crcOk then bump 0x064 slice d else d
        d.onGroup slice (fun g => { g with mfErrs := g.mfErrs + 1 })
    else
      let good := if crcOk ∧ g.prevMfas < 256 ∧ mfas = (g.prevMfas + 1) % 256 then g.mfGood + 1 else 0
      if good = 3 then d.onGroup slice (fun g => { g with mfIn := true, mfErrs := 0, mfGood := 0, expMfas := mfas })
      else d.onGroup slice (fun g => { g with mfGood := good })
  d.onGroup slice (fun g => { g with prevMfas := if crcOk then mfas else 256 })

/-! ### Labels and defects (04 R112, R116 to R118) -/

/-- A run of equal values. -/
def runOf (r : Nat × Nat) (v : Nat) : Nat × Nat := if r.1 = v then (v, r.2 + 1) else (v, 1)

/-- Whether a defect is masked. -/
def maskedBy (g : Group) (i : Nat) : Bool :=
  let dec (j : Nat) : Bool := (g.defects.getD j {}).declared
  match i with
  | 0 => false
  | 1 => dec 0
  | 2 | 3 | 4 => dec 0 || dec 1
  | 5 => dec 0 || dec 1 || dec 3 || dec 6
  | _ => dec 0 || dec 1 || dec 3 || dec 2

/-- The defects that a defect masks. -/
def maskedOf (i : Nat) : List Nat :=
  match i with
  | 0 => [1, 2, 3, 4, 5, 6]
  | 1 => [2, 3, 4, 5, 6]
  | 3 => [5, 6]
  | 2 => [6]
  | 6 => [5]
  | _ => []

/-- The PSL byte of a frame with a valid overhead in a multiframe found. A channel identifier of which a byte is missing is
passed over (04 R93, R112). -/
def takePsl (slice mfas psl : Nat) (d : Dev) : Dev :=
  d.onGroup slice (fun g =>
    if mfas = 0 then
      if psl = 0xFF ∧ (g.defects.getD 3 {}).declared then { g with chanPart := [] }
      else
        let r := runOf g.labelRun psl
        { g with chanPart := [], labelRun := r, label := if 3 ≤ r.2 then some psl else g.label }
    else if 2 ≤ mfas ∧ mfas ≤ 5 then
      let part := (if mfas = 2 then [] else g.chanPart) ++ [(mfas, psl)]
      if mfas = 5 then
        if part.map Prod.fst = [2, 3, 4, 5] then
          let v := part.foldl (fun a x => a * 256 + x.2) 0
          let r := runOf g.chanRun v
          { g with chanPart := [], chanRun := r, chan := if 3 ≤ r.2 then some v else g.chan }
        else { g with chanPart := [] }
      else { g with chanPart := part }
    else { g with chanPart := [] })

/-- The payload mismatch (04 R112). -/
def Dev.plm (d : Dev) (slice : Nat) : Bool :=
  let g := d.group slice
  let o := d.smvObj slice
  g.label.any (fun l => decide (l ≠ o.n 2)) || g.chan.any (fun c => decide (c ≠ o.n 1))

/-- The runs of AIS and RDI; masked anomalies are ignored. -/
def takeStat (slice stat : Nat) (d : Dev) : Dev :=
  d.onGroup slice (fun g =>
    let a := stat.testBit 7
    let r := stat.testBit 6
    let cnt (mask on : Bool) (n : Nat) : Nat := if mask || !on then 0 else n + 1
    { g with aisRun := cnt (maskedBy g 3) a g.aisRun, noAisRun := cnt (maskedBy g 3) (!a) g.noAisRun,
             rdiRun := cnt (maskedBy g 4) r g.rdiRun, noRdiRun := cnt (maskedBy g 4) (!r) g.noRdiRun })

/-- A defect's place, from its code in EV_SMV_DEFECT: LOS 1, LOF 2, AIS 3, LOM 4, PLM 5, LOA 6, RDI 7. -/
def defectPlace (code : Nat) : Option Nat :=
  match code with
  | 1 => some 0
  | 2 => some 1
  | 3 => some 3
  | 4 => some 2
  | 5 => some 6
  | 6 => some 5
  | 7 => some 4
  | _ => none

/-- The code of a defect's place. -/
def defectCode (i : Nat) : Nat :=
  match i with
  | 0 => 1
  | 1 => 2
  | 2 => 4
  | 3 => 3
  | 4 => 7
  | 5 => 6
  | _ => 5

/-- The anomaly of a defect has lasted for its detection; for LOS and LOF their times follow (04 R116). DESIGN CHOICE: the anomaly
of LOM counts in IN_FRAME only, since MF_OUT outside it says no more than LOS and LOF do (04 R115; log 92). -/
def Dev.smvAnomaly (d : Dev) (slice i : Nat) : Bool :=
  let g := d.group slice
  match i with
  | 0 => decide (g.align = .noStream)
  | 1 => decide (g.align = .search ∨ g.align = .confirm)
  | 2 => decide (g.align = .inFrame) && !g.mfIn
  | 3 => decide (3 ≤ g.aisRun)
  | 4 => decide (3 ≤ g.rdiRun)
  | 5 => decide ((d.smvObj slice).n 10 ≤ g.badRun)
  | _ => d.plm slice

/-- The anomaly of a declared defect has been absent as its clearing asks. -/
def Dev.smvGone (d : Dev) (slice i : Nat) : Bool :=
  let g := d.group slice
  match i with
  | 0 => decide (g.align ≠ .noStream)
  | 1 => decide (g.align = .inFrame)
  | 2 => g.mfIn
  | 3 => decide (3 ≤ g.noAisRun)
  | 4 => decide (3 ≤ g.noRdiRun)
  | 5 => decide ((d.smvObj slice).n 11 ≤ g.goodRun)
  | _ => !d.plm slice

/-- Detection and clearing times, in TCLK edges. -/
def detectTicks (i : Nat) : Nat := match i with | 0 => 1000 | 1 => 5000 | _ => 0
def clearTicks (i : Nat) : Nat := match i with | 0 | 1 => 5000 | _ => 0

def onDefect (slice i : Nat) (f : Defect → Defect) (d : Dev) : Dev :=
  d.onGroup slice (fun g => { g with defects := modAt g.defects i f })

def defectEvent (slice i : Nat) (cleared : Bool) (d : Dev) : Dev :=
  raiseFrom slice (d.groupOwner slice) (d.event 0x0204 [(16, 1, slice), (17, 1, defectCode i)] cleared) d

/-- A declared defect ends: its event where its hold-off had expired, else its count, while the group's lanes are UP (04 R118,
R128). -/
def endDefect (slice i : Nat) (d : Dev) : Dev :=
  let x := (d.group slice).defects.getD i {}
  if !x.declared then d
  else
    let d := onDefect slice i (fun x => { x with declared := false, active := false }) d
    let d := if x.active then defectEvent slice i true d else if (d.group slice).align = .noStream then d else bump 0x06A slice d
    forEach (maskedOf i) (fun j d => onDefect slice j (fun x => { x with since := some d.now }) d) d

/-- The runs of masked defects are held at zero. -/
def holdRuns (slice : Nat) (d : Dev) : Dev :=
  d.onGroup slice (fun g =>
    let g := if maskedBy g 3 then { g with aisRun := 0, noAisRun := 0 } else g
    let g := if maskedBy g 4 then { g with rdiRun := 0, noRdiRun := 0 } else g
    if maskedBy g 5 then { g with badRun := 0, goodRun := 0 } else g)

/-- SMV_DEFECT_DECLARE. -/
def smvDeclare (slice code : Nat) (d : Dev) : Dev :=
  match defectPlace code with
  | none => d
  | some i =>
    let g := d.group slice
    let x := g.defects.getD i {}
    if (d.groupPort slice).isNone ∨ x.declared ∨ maskedBy g i ∨ !d.smvAnomaly slice i then d
    else
      let d := if detectTicks i = 0 then d else advanceTo (max (x.since.getD 0) 0 + detectTicks i) d
      let hold := (d.smvObj slice).n (3 + i)
      let d := onDefect slice i (fun x => { x with declared := true, active := decide (hold = 0), at_ := d.now }) d
      let d := holdRuns slice (forEach (maskedOf i) (endDefect slice) d)
      refreshLinks (if hold = 0 then defectEvent slice i false d else d)

def execSmvDefectDeclare (slice defect : Nat) (s : State) : Host.Outcome State Fault Refusal :=
  .next (s.onDev (smvDeclare slice defect))

/-- SMV_DEFECT_HOLDOFF_EXPIRY. -/
def smvHoldoff (slice code : Nat) (d : Dev) : Dev :=
  match defectPlace code with
  | none => d
  | some i =>
    let x := (d.group slice).defects.getD i {}
    if !x.declared ∨ x.active then d
    else
      let d := advanceTo (x.at_ + (d.smvObj slice).n (3 + i) * 500) d
      refreshLinks (defectEvent slice i false (onDefect slice i (fun x => { x with active := true }) d))

def execSmvDefectHoldoffExpiry (slice defect : Nat) (s : State) : Host.Outcome State Fault Refusal :=
  .next (s.onDev (smvHoldoff slice defect))

/-- SMV_DEFECT_CLEAR. -/
def smvClear (slice code : Nat) (d : Dev) : Dev :=
  match defectPlace code with
  | none => d
  | some i =>
    let x := (d.group slice).defects.getD i {}
    if !x.declared ∨ !d.smvGone slice i then d
    else
      let d := if clearTicks i = 0 then d else advanceTo (x.gone.getD 0 + clearTicks i) d
      refreshLinks (endDefect slice i d)

def execSmvDefectClear (slice defect : Nat) (s : State) : Host.Outcome State Fault Refusal :=
  .next (s.onDev (smvClear slice defect))

/-! ### Reception -/

/-- A unit is delivered: the counter unit to the register of its epoch, a pairing segment to the course (08 R264, R265). -/
def deliverUnit (slice pos : Nat) (u : Bytes) (d : Dev) : Dev :=
  let ty := leAt u 0 1
  if ty = 1 ∧ pos = 15 then
    let e := beAt u 2 2
    d.onGroup slice (fun g => { g with rx := g.rx.map (fun r =>
      if e ≠ 0 ∧ r.epoch = e then { r with base := some (beAt u 4 8 + 16) } else r) })
  else if ty = 0x10 ∧ pos < 15 ∧ d.paired slice ∧ !d.halted then takeSegment slice u d
  else d

/-- HANDSHAKE_UNIT_DELIVERY at the end of a slot (04 R97). -/
def slotEnd (slice pos : Nat) (d : Dev) : Dev :=
  let us := (d.group slice).hsSlot
  let d := d.onGroup slice (fun g => { g with hsSlot := [] })
  let u := us.headD []
  if us.length < 8 ∨ !us.all (· == u) then bump 0x069 slice d
  else if allZero u then d
  else deliverUnit slice pos u d

/-- A frame at its expected position in IN_FRAME is processed. DESIGN CHOICE: of a slot's 16 frames only those of the expected MFAS
count for its unit (04 R97), for another MFAS tells of another slot (log 92). -/
def inFrameRx (slice : Nat) (b : Bytes) (crcOk : Bool) (d : Dev) : Dev :=
  let d := if crcOk then d else bump 0x063 slice d
  let mfas := leAt b 6 1
  let d := multiframe slice crcOk mfas d
  let g := d.group slice
  let ok := crcOk && g.mfIn && decide (mfas = g.expMfas)
  let d := if crcOk then takeStat slice (leAt b 8 1) d else d
  let d := if ok then takePsl slice mfas (leAt b 7 1) d else d
  let m := g.expMfas
  let d := if ok then d.onGroup slice (fun g => { g with hsSlot := g.hsSlot ++ [bytesAt b 16 16] }) else d
  let d := d.onGroup slice (fun g => { g with
    expMfas := (m + 1) % 256, expAt := g.expAt + 256, rx := g.rx.map (fun r => { r with base := r.base.map (· + 1) }),
    confirming := g.confirming ++ [{ bytes := b, crcOk := crcOk, arr := d.smvArrival slice g.expAt, tick := d.now }] })
  if m % 16 = 15 ∧ g.mfIn then slotEnd slice (m / 16) d else d

/-- What SMV_FRAME_RX does with the run of 256 transcoded blocks from stream block `pos` on, of which `badBlocks`, not counted
with a run before, were bad (04 R90, R95, R113 to R115). In frame only the expected position matters. -/
def receiveBlocks (slice : Nat) (frame : Bytes) (badBlocks : Nat) (fasBad : Bool) (pos : Nat) (d : Dev) : Dev :=
  let g := d.group slice
  if g.align = .noStream ∨ (d.groupPort slice).isNone then d
  else
    let d := bumpBy 0x060 slice badBlocks d
    let b := scramble (padTo frameLen frame)
    let crcOk := decide (beAt b 62 2 = (ohCrc ((b.take 62).drop 6)).toNat)
    let mfas := leAt b 6 1
    let d :=
      if g.align ≠ .inFrame then searchFrame slice (decide (b.take 6 = fas) && crcOk) pos mfas d
      else if pos % 256 ≠ g.expAt % 256 then d
      else
        let diff := ((List.zipWith (fun (x y : Byte) => popCount 8 (x ^^^ y).toNat) (b.take 6) fas)).sum
        if diff ≤ 3 ∧ !fasBad then inFrameRx slice b crcOk (d.onGroup slice (fun g => { g with fasErrs := 0 }))
        else
          let d := bump 0x061 slice d
          if g.fasErrs = 4 then outOfFrame slice d
          else inFrameRx slice b crcOk (d.onGroup slice (fun g => { g with fasErrs := g.fasErrs + 1 }))
    pairCheck slice d

/-- SMV_FRAME_RX: the FEC and the lane markers of the group's lanes are counted (03 R65, R69), and the blocks enter the
framer. -/
def smvFrameRx (slice : Nat) (frame : Bytes) (badBlocks : Nat) (fasBad : Bool) (pos : Nat) (errs : List LaneErrs) (d : Dev) :
    Dev :=
  receiveBlocks slice frame badBlocks fasBad pos (match d.groupPort slice with
    | none => d
    | some p => countMarkers p errs (countFec p errs d))

def execSmvFrameRx (slice : Nat) (frame : Bytes) (badBlocks : Nat) (fasUncorrectable : Bool) (position : Nat)
    (errs : List LaneErrs) (s : State) : Host.Outcome State Fault Refusal :=
  .next (s.onDev (smvFrameRx slice frame badBlocks fasUncorrectable position errs))

/-! ### Elements (04 R100 to R108) -/

/-- The host port and TC of a stream. -/
def Dev.streamTo (d : Dev) (slice stream : Nat) : Option (Nat × Nat) :=
  (((d.smvObj slice).lst 0).find? (fun x => decide (x.getD 0 0 = (stream : Int)))).map (fun x =>
    ((x.getD 1 0).toNat, (x.getD 2 0).toNat))

/-- A client frame is released to the queue of its host port (04 R108); a port of a latency-locked pair takes none (07
R241). -/
def releaseClient (slice : Nat) (dst : Nat × Nat) (b : Bytes) (d : Dev) : Dev :=
  let p := (d.groupPort slice).getD 0
  if d.held then bump 0x04C p d
  else if d.course.failClosed then bump 0x04D p d
  else if (d.llPair dst.1).isSome then bump 0x0B6 ((d.llPair dst.1).elim dst.1 Prod.fst) d
  else
    let id := d.fr.next
    let f : Frame := { id := id, bytes := b, port := p, slice := slice, rx := true, epoch := d.cfg.epoch, tick := d.now,
                       since := d.now, res := { egress := dst.1, tc := dst.2 }, verdict := some true, ended := true,
                       stage := .waitEnd }
    enqueue id (setFrame f (d.onFr (fun s => { s with next := id + 1 })))

/-- One element complete. DESIGN CHOICE: a CBR run whose K is 0 or above 64, or whose LENGTH is not 1 + 9 K, is discarded and
counted like one of a TYPE not allowed (04 R105 gives K its range and says no more; log 92). -/
def takeElem (slice label : Nat) (e : Bytes) (d : Dev) : Dev :=
  let h := beAt e 0 4
  let ty := h / 2 ^ 30
  let len := h / 2 ^ 16 % 2 ^ 14
  let stream := h / 2 ^ 12 % 16
  let body := e.drop 4
  let bad := bump 0x065 slice
  match ty with
  | 1 => d
  | 0 =>
    if (label ≠ 0x10 ∧ label ≠ 0xFE) ∨ len < 60 ∨ 15996 < len then bad d
    else
      match d.streamTo slice stream with
      | some dst => releaseClient slice dst body d
      | none => bad d
  | 2 =>
    let k := leAt body 0 1
    if label ≠ 0x11 ∨ k = 0 ∨ 64 < k ∨ len ≠ 1 + 9 * k then bad d
    else
      match d.streamTo slice stream with
      | some dst => if d.takesClients dst.1 then emit (.cbr dst.1 (body.drop 1)) d else d
      | none => bad d
  | _ => bad d

/-- The chain of elements in a run of bytes: what is left of the last. -/
def walkElems (slice label : Nat) : Nat → Bytes → Dev → Bytes × Dev
  | 0, b, d => (b, d)
  | n + 1, b, d =>
    let len := 4 + beAt b 0 4 / 2 ^ 16 % 2 ^ 14
    if b.length < 4 ∨ b.length < len then (b, d) else walkElems slice label n (b.drop len) (takeElem slice label (b.take len) d)

/-- Where the walk expects the next header: none before the whole header of the element in progress is known to end. -/
def expectAt (part area : Bytes) : Nat :=
  if part = [] then 0
  else
    let len := 4 + beAt (part ++ area) 0 4 / 2 ^ 16 % 2 ^ 14
    if len - part.length < areaLen then len - part.length else 0xFFFF

/-- The elements of a confirmed frame (04 R106). -/
def extract (slice label : Nat) (payload : Bytes) (d : Dev) : Dev :=
  let fep := beAt payload 0 2
  let area := payload.drop 2
  let go (part : Bytes) (d : Dev) : Dev :=
    let x := walkElems slice label 2100 part d
    x.2.onGroup slice (fun g => { g with walk := some x.1 })
  let anew (d : Dev) : Dev :=
    if fep < areaLen then go (area.drop fep) d else d.onGroup slice (fun g => { g with walk := none })
  let lost (part : Bytes) (d : Dev) : Dev := if part = [] then d else bump 0x065 slice d
  match (d.group slice).walk with
  | none => anew d
  | some part => if fep = expectAt part area then go (part ++ area) d else anew (lost part d)

/-- The walk ends at a frame that is not confirmed (04 R107). DESIGN CHOICE: a fill element in progress counts as one that touches
the frame; that fill is discarded without counting is taken of fill received whole (log 92). -/
def breakWalk (slice : Nat) (d : Dev) : Dev :=
  let d := match (d.group slice).walk with
    | some (_ :: _) => bump 0x066 slice d
    | _ => d
  d.onGroup slice (fun g => { g with walk := none })

/-! ### Delay measurement (04 R124 to R126) -/

/-- The difference of two stamps in ns, seconds modulo 2^32. -/
def dmDiff (a b : Nat) : Int :=
  toSigned 32 (ofSigned 32 ((a / 2 ^ 32 : Nat) - (b / 2 ^ 32 : Nat) : Int)) * 10 ^ 9 + ((a % 2 ^ 32 : Nat) - (b % 2 ^ 32 : Nat) : Int)

/-- A result that has no asymmetry, or none to compare, ends the runs (04 R126). -/
def breakAsym (slice : Nat) (d : Dev) : Dev := d.onGroup slice (fun g => { g with asymRun := 0, asymOk := 0 })

/-- EV_SMV_ASYMMETRY follows the runs of results above and at or below the threshold. -/
def takeAsym (slice : Nat) (asym rtt : Int) (d : Dev) : Dev :=
  let thr := (d.smvObj slice).n 15
  if thr = 0 then breakAsym slice d
  else
    let above := decide (thr < asym.natAbs)
    let d := d.onGroup slice (fun g => { g with asymRun := if above then g.asymRun + 1 else 0, asymOk := if above then 0 else g.asymOk + 1 })
    let g := d.group slice
    let ev (cleared : Bool) (d : Dev) : Dev :=
      raiseFrom slice (d.groupOwner slice)
        (d.event 0x0205 [(16, 1, slice), (20, 4, ofSigned 32 asym), (24, 4, ofSigned 32 rtt)] cleared) d
    if !g.asymRaised ∧ 3 ≤ g.asymRun then ev false (d.onGroup slice (fun g => { g with asymRaised := true }))
    else if g.asymRaised ∧ 3 ≤ g.asymOk then ev true (d.onGroup slice (fun g => { g with asymRaised := false }))
    else d

/-- SMV_DELAY_RESULT and the request to be echoed, from an accepted request (04 R124, R125). -/
def takeRequest (slice : Nat) (f : SmvRx) (unauth : Bool) (d : Dev) : Dev :=
  let b := f.bytes
  let flags := leAt b 33 1
  if !f.crcOk ∨ !flags.testBit 7 then d
  else
    let dep := beAt b 36 8
    let d := d.onGroup slice (fun g => { g with echo := some { seq := leAt b 32 1, dep := dep, arr := f.arr } })
    if !flags.testBit 6 then d
    else
      let t1 := beAt b 44 8
      let t2 := beAt b 52 8
      let rtt := dmDiff f.arr t1 - dmDiff dep t2
      if rtt < 0 ∨ 10 ^ 9 < rtt then bump 0x06B slice d
      else
        let tr := d.traceable slice && flags.testBit 5
        let fwd := if tr then dmDiff t2 t1 else 0
        let rev := if tr then dmDiff f.arr dep else 0
        let d := d.onGroup slice (fun g => { g with delay := some { seq := leAt b 34 1, fret := d.fret.index, flags := b2n tr + 2 * b2n unauth, roundTrip := rtt, fwd := fwd, rev := rev } })
        if tr then takeAsym slice (fwd - rev) rtt d else breakAsym slice d

/-! ### Confirmation (08 R254 to R257) -/

/-- The counter that FC_LOW recovers from a base; none where the high half runs over (08 R255). -/
def recoverFc (b low : Nat) : Option Nat :=
  let hi := b / 2 ^ 32 + (if low < b % 2 ^ 32 then 1 else 0)
  if 2 ^ 32 ≤ hi then none else some (hi * 2 ^ 32 + low)

/-- The base of a register for the frame that has waited behind `k` received frames. -/
def rxBase (r : RxReg) (k : Nat) : Nat :=
  let after := match r.last with
    | some c => c + 1
    | none => 0
  if r.synced then after
  else
    match r.base with
    | some b => b - k
    | none => after

/-- A tag-checked failure: its counts and its step in the LOA sequence, which a frame without a valid overhead does not take
(04 R116, 08 R257). A register that holds no key is not one that waits for its counter: its failures lead to LOA (08 R262). -/
def tagFailed (slice i code : Nat) (crcOk : Bool) (d : Dev) : Dev :=
  let r := d.rxReg slice i
  let d := bump 0x0C1 slice (if code = 0 then d else bump code slice d)
  if !crcOk ∨ (r.epoch ≠ 0 ∧ !r.synced ∧ r.base.isNone) then d
  else d.onGroup slice (fun g => if maskedBy g 5 then g else { g with badRun := g.badRun + 1, goodRun := 0 })

/-- A frame is confirmed under a register (08 R256, R262). -/
def rxConfirmed (slice i c : Nat) (crcOk : Bool) (d : Dev) : Dev :=
  let r := d.rxReg slice i
  let d := bump 0x0C0 slice (setRx slice i { r with last := some c, synced := true } d)
  let d := d.onGroup slice (fun g =>
    if !crcOk || maskedBy g 5 then g else { g with goodRun := g.goodRun + 1, badRun := 0 })
  let d := d.onGroup slice (fun g =>
    if g.pair.st = .keyed ∧ r.epoch = g.pair.epoch ∧ g.pair.finUntil.isSome then
      { g with pair := { g.pair with finUntil := none, cur := none } }
    else g)
  if r.last.isSome then d
  else
    let d := if (d.rxReg slice (1 - i)).epoch = 0 then d else d.onGroup slice (fun g => { g with releaseRx := some (1 - i) })
    raiseFrom slice (d.groupOwner slice) (d.event 0x0206 [(16, 1, slice), (17, 1, 1), (18, 2, r.epoch)]) d

/-- The decision on a frame under a keyed label: its payload where it is confirmed. -/
def openSmv (slice : Nat) (f : SmvRx) (k : Nat) (d : Dev) : Option Bytes × Dev :=
  let b := f.bytes
  if (d.group slice).rx.all (fun r => r.epoch = 0) then (none, bump 0x0C4 slice d)
  else
    let i := leAt b 8 1 / 32 % 2
    let r := d.rxReg slice i
    let s := (r.slot.map d.slot).getD {}
    if r.epoch = 0 ∨ r.epoch ≠ beAt b 10 2 then (none, tagFailed slice i 0x0C3 f.crcOk d)
    else if !s.mark then (none, tagFailed slice i 0 f.crcOk d)
    else if !s.pairOk then (none, keyMismatch (r.slot.getD 0) (tagFailed slice i 0 f.crcOk d))
    else
      match recoverFc (rxBase r k) (beAt b 12 4) with
      | none => (none, tagFailed slice i 0 f.crcOk d)
      | some c =>
        let x := gcmOpen s.keyBytes (beBytes (d.smvChannel slice) 4 ++ beBytes c 8) (b.take 62) ((b.drop 64).take 8112) (bytesAt b 8176 16)
        if !x.2 then (none, tagFailed slice i 0 f.crcOk d)
        else if r.last.any (fun l => decide (c ≤ l)) then (none, tagFailed slice i 0x0C2 f.crcOk d)
        else (some x.1, rxConfirmed slice i c f.crcOk d)

/-- The label that the receiver acts under: the one accepted, or before any the one staged. -/
def Dev.rxLabel (d : Dev) (slice : Nat) : Nat := (d.group slice).label.getD ((d.smvObj slice).n 2)

/-- The decision on a frame under the label in force: a 0xFE frame is confirmed without a check, and never in PRODUCTION (04 R111,
08 R256, R274). -/
def decideSmv (slice label : Nat) (f : SmvRx) (k : Nat) (d : Dev) : Option Bytes × Dev :=
  if label ≠ 0xFE then openSmv slice f k d
  else if d.lc = 3 then (none, d)
  else (some ((f.bytes.drop 64).take 8112), bump 0x0C0 slice d)

/-- SMV_FRAME_CONFIRM: the oldest received frame is decided. Out of frame no element is extracted any more (04 R114). -/
def smvConfirm (slice : Nat) (d : Dev) : Dev :=
  let q := (d.group slice).confirming
  match q with
  | [] => d
  | f :: rest =>
    let d := d.onGroup slice (fun g => { g with confirming := rest })
    let label := d.rxLabel slice
    if f.crcOk ∧ (leAt f.bytes 8 1).testBit 7 then breakWalk slice (takeRequest slice f true d)
    else
      let r := decideSmv slice label f q.length d
      match r.1 with
      | none =>
        let d := breakWalk slice r.2
        if label = 0xFD then d.onGroup slice (fun g => { g with prbsRx := prbsSkip g.prbsRx }) else d
      | some pt =>
        let d := takeRequest slice f (decide (label = 0xFE)) r.2
        if label = 0xFD then
          let x := prbsCheck (d.group slice).prbsRx pt
          bumpBy 0x06C slice x.1 (d.onGroup slice (fun g => { g with prbsRx := x.2 }))
        else if (d.plm slice ∧ !maskedBy (d.group slice) 6) ∨ (d.group slice).align ≠ .inFrame then d.onGroup slice (fun g => { g with walk := none })
        else extract slice label pt d

def execSmvFrameConfirm (slice : Nat) (s : State) : Host.Outcome State Fault Refusal := .next (s.onDev (smvConfirm slice))

end Sys2Proof.Machine
end

