-- ==== Sys2Proof/Machine/Course.lean ====
section
/-! DEFINITION. The triple course (15): the soundpost, fences, halts, restarts, resynchronisation, the fallback; memory
protection, the scrubber and the shadowed registers. -/

namespace Sys2Proof.Machine

/-! ### Codes of the memories (15 R463, R469) -/

/-- Carry-less remainder of a number of up to `n + 15` bits by the generator of the BCH code, degree 14. -/
def bchRem : Nat → Nat → Nat
  | 0, x => x
  | n + 1, x => bchRem n (if x.testBit (n + 14) then Nat.xor x (0x4377 * 2 ^ n) else x)

/-- The 79 bits stored for a word of 64: data, remainder, parity (15 R463). -/
def eccWord (data : BitVec 64) : BitVec 79 :=
  let w := data.toNat + bchRem 64 (data.toNat * 2 ^ 14) * 2 ^ 64
  BitVec.ofNat 79 (w + popCount 78 w % 2 * 2 ^ 78)

/-- The errors of a stored word leave a trace that does not depend on the data: the remainder that they add, and whether they
turn the parity over (15 R463). -/
def eccTrace (flips : Nat) : Nat × Nat :=
  let data := flips % 2 ^ 64
  let rem := flips / 2 ^ 64 % 2 ^ 14
  (Nat.xor (bchRem 64 (data * 2 ^ 14)) rem, popCount 79 flips % 2)

/-- The traces of the 79 words with one error. -/
def eccSingles : List (Nat × Nat) := (List.range 79).map (fun i => eccTrace (2 ^ i))

/-- What the decoder makes of a stored word: nothing to do, 1 or 2 errors corrected, or uncorrectable. -/
inductive EccVerdict where
  | clean
  | corrected
  | uncorrectable
deriving DecidableEq, Repr

/-- The decoder: it corrects the pattern of at most two errors that leaves the trace, if there is one (15 R463). -/
def eccDecode (flips : BitVec 79) : EccVerdict :=
  let t := eccTrace flips.toNat
  let l := eccSingles
  if t = (0, 0) then .clean
  else if l.contains t ∨ l.any (fun x => l.contains (Nat.xor x.1 t.1, (x.2 + t.2) % 2)) then .corrected
  else .uncorrectable

/-- The wide-distance word of a code (15 R469). -/
def wideWord (c : BitVec 8) : BitVec 64 :=
  let e := c ^^^ 0xA5
  c ++ ~~~c ++ ~~~c ++ c ++ e ++ ~~~e ++ ~~~e ++ e

/-! ### Strings -/

def Dev.string (d : Dev) (s : Nat) : StringSt := d.course.strings.getD s {}
def onString (s : Nat) (f : StringSt → StringSt) (d : Dev) : Dev :=
  d.onCourse (fun c => { c with strings := modAt c.strings s f })

/-- The strings in the course. -/
def Dev.unfenced (d : Dev) : List Nat := [0, 1, 2].filter (fun s => decide ((d.string s).st = .inCourse))

/-- 3,600 s of TCLK. -/
def courseSpan : Nat := 1800000000000

/-- Moments of a list within the last 3,600 s. -/
def recent (now : Nat) (l : List Nat) : List Nat := l.filter (fun t => decide (now < t + courseSpan))

/-- EV_COURSE_MODE: to every domain, HALTED or not (15 R454). -/
def courseEvent (string cause : Nat) (d : Dev) : Dev :=
  raiseAll (d.event 0x0904 [(16, 1, d.courseCode), (17, 1, string), (18, 1, d.course.lead), (19, 1, cause)]) d

/-- The lead passes to the next unfenced string of the succession order, where it is fenced or retired (15 R453). -/
def passLead (d : Dev) : Dev :=
  let us := d.unfenced
  d.onCourse (fun c => if us.contains c.lead then c else { c with lead := (c.succession.find? us.contains).getD c.lead })

/-! ### Halt and fallback (15 R459 to R461, 02 R57) -/

/-- FALLBACK of the course parameters is FAIL_CLOSED. -/
def Dev.failsClosed (d : Dev) : Bool := (d.obj cFret 0).b 4

/-- CTL_LOSS_HOLD. -/
def Dev.lossHold (d : Dev) : Nat := (d.obj cFret 0).n 3

/-- FALLBACK is applied: under FAIL_CLOSED every frame not started is dropped (15 R461). -/
def applyFallback (d : Dev) : Dev :=
  let d := courseEvent 3 3 (d.onCourse (fun c => { c with applied := true, withdraw := false }))
  if d.failsClosed then dropAll 0x04D (d.onCourse (fun c => { c with failClosed := true })) else d

/-- Arm flags are cleared: each armed commit is cancelled with cause HALTED; a copy stops, and a rewrite with it. -/
def haltCommits (d : Dev) : Dev :=
  let d := forEach (List.range 33) stopCopy d
  let d := forEach (List.range 33) (fun k d => match (d.domCfg k).armed with
    | some f => cancelEvent k f 3 0 0 (disarm k d)
    | none => d) d
  d.onCfg (fun c => { c with doms := c.doms.map (fun x => { x with copying := none, rewrite := none }) })

/-- Restarts that the device attempts within 3,600 s. -/
def restartLimit : Nat := 3

/-- The course enters HALTED: what R57, R460 and R513 say of that moment. -/
def enterHalt (string cause : Nat) (d : Dev) : Dev :=
  let again := decide ((recent d.now d.course.restarts).length < restartLimit)
  let d := d.onCourse (fun c => { c with
    mode := .halted
    afterHalt := true
    windows := []
    haltBoundaries := 0
    applied := false
    withdraw := false
    resync := none
    heldFin := []
    restartAt := if again then some (d.now + 5000000) else none })
  let d := forEach [0, 1, 2] (fun s d => withdraw (fun l => decide (l = .stringBist s ∨ l = .tcLoad s)) d) d
  let d := courseEvent string cause (fwHalt (haltCommits d))
  if d.lossHold = 0 then applyFallback d else d

/-- A disagreement that halts. -/
def courseHalt (d : Dev) : Dev := enterHalt 3 1 d

/-- A minority string is fenced (15 R452, R455); the third fence within 3,600 s retires it. -/
def fence (s : Nat) (d : Dev) : Dev :=
  let fs := recent d.now (d.string s).fences ++ [d.now]
  let out := decide (3 ≤ fs.length)
  let d := onString s (fun x => { x with st := if out then .retired else .fenced, fences := fs }) d
  let d := d.onCourse (fun c => { c with
    mode := .duplex, windows := c.windows.map (without (fun p => decide (p.1 = s))) })
  let d := courseEvent s 1 (bump 0x130 0 (passLead d))
  if out then d else askLeave (.stringBist s) d

/-! ### The soundpost (15 R450, R451) -/

/-- What the soundpost decides on the presentations of one window. -/
inductive Verdict where
  | pass (w : StringWrite)
  | minority (w : StringWrite) (string : Nat)
  | halt
deriving DecidableEq, Repr

/-- The write that two strings present. -/
def majority (ps : List (Nat × StringWrite)) : Option StringWrite :=
  (ps.find? (fun p => decide (2 ≤ (ps.filter (fun q => q.2 = p.2)).length))).map Prod.snd

/-- The table of decisions: `us` are the strings in the course. -/
def soundpost (us : List Nat) (ps : List (Nat × StringWrite)) : Verdict :=
  match majority ps with
  | none => .halt
  | some w =>
    match us.find? (fun s => !ps.contains (s, w)) with
    | none => .pass w
    | some s => if us.length = 3 then .minority w s else .halt

/-- A decided window closes. -/
def decideWindow (ps : List (Nat × StringWrite)) (d : Dev) : Dev :=
  match soundpost d.unfenced ps with
  | .pass w => emit (.course w) d
  | .minority w s => fence s (emit (.course w) d)
  | .halt => courseHalt d

/-- Every string in the course has presented. -/
def Dev.complete (d : Dev) (ps : List (Nat × StringWrite)) : Bool := d.unfenced.all (fun s => ps.any (fun p => p.1 = s))

/-- Windows that are complete are decided, in order. -/
def settleWindows : Nat → Dev → Dev
  | 0, d => d
  | n + 1, d =>
    match d.course.windows with
    | [] => d
    | w :: ws =>
      if d.complete w then settleWindows n (decideWindow w (d.onCourse (fun c => { c with windows := ws }))) else d

/-- A presentation joins the first window that lacks its string, or opens one. -/
def joinWindow (s : Nat) (w : StringWrite) : List (List (Nat × StringWrite)) → List (List (Nat × StringWrite))
  | [] => [[(s, w)]]
  | x :: xs => if x.any (fun p => p.1 = s) then x :: joinWindow s w xs else (x ++ [(s, w)]) :: xs

/-- STRING_WRITE_PRESENTED. -/
def stringPresents (s : Nat) (w : StringWrite) (d : Dev) : Dev :=
  if !d.courseRuns ∨ (d.string s).st ≠ .inCourse then d
  else
    let d := d.onCourse (fun c => { c with windows := joinWindow s w c.windows })
    settleWindows d.course.windows.length d

def execStringWritePresented (string : Nat) (write : StringWrite) (s : State) : Host.Outcome State Fault Refusal :=
  .next (s.onDev (stringPresents string write))

/-- VOTE_WINDOW_EXPIRY: the oldest window closes with a string missing. -/
def windowExpiry (d : Dev) : Dev :=
  match d.course.windows with
  | [] => d
  | w :: ws =>
    let d := decideWindow w (d.onCourse (fun c => { c with windows := ws }))
    settleWindows d.course.windows.length d

def execVoteWindowExpiry (s : State) : Host.Outcome State Fault Refusal := .next (s.onDev windowExpiry)

/-- A string disagrees by a fault of its own (15 R451). -/
def stringFault (s : Nat) (d : Dev) : Dev :=
  if (d.string s).st ≠ .inCourse then d
  else if d.course.mode = .triple then
    let d := fence s d
    settleWindows d.course.windows.length d
  else if d.course.mode = .duplex then courseHalt d
  else d

/-- STRING_FAULT_REPORT. -/
def execStringFaultReport (string : Nat) (s : State) : Host.Outcome State Fault Refusal :=
  .next (s.onDev (stringFault string))

/-- STRING_WATCHDOG_EXPIRY. -/
def execStringWatchdogExpiry (string : Nat) (s : State) : Host.Outcome State Fault Refusal :=
  .next (s.onDev (stringFault string))

/-- STRING_BIST_DONE: the string waits to resynchronise, or is retired (15 R455). -/
def stringBistDone (s : Nat) (pass : Bool) (d : Dev) : Dev :=
  if (d.string s).st ≠ .bist ∨ d.course.mode ≠ .duplex then d
  else onString s (fun x => { x with st := if pass then .ready else .retired }) d

def execStringBistDone (string : Nat) (pass : Bool) (s : State) : Host.Outcome State Fault Refusal :=
  .next (s.onDev (stringBistDone string pass))

/-- Leave for the BIST of a fenced string is granted. -/
def bistGranted (s : Nat) (d : Dev) : Dev :=
  if (d.string s).st = .fenced then onString s (fun x => { x with st := .bist }) d else d

/-! ### Resynchronisation (15 R456, R457) -/

/-- The string that is ready to resynchronise. -/
def Dev.readyString (d : Dev) : Option Nat :=
  if d.course.mode = .duplex ∧ d.course.resync.isNone then [0, 1, 2].find? (fun s => decide ((d.string s).st = .ready))
  else none

/-- A resynchronisation starts: open vote windows close, and nothing leaves the course until it ends. -/
def resyncStart (s : Nat) (d : Dev) : Dev := d.onCourse (fun c => { c with resync := some s, windows := [] })

/-- The lead and the succession order after a rejoin: REJOIN_RULE NATIVE or VRX0820. -/
def rejoinLead (vrx0820 : Bool) (s lead : Nat) (order : List Nat) : Nat × List Nat :=
  if vrx0820 ∧ s = 0 then (0, [0, 1, 2]) else (lead, order.erase s ++ [s])

/-- RESYNC_COMPLETE: the string rejoins, and the completions that waited are posted; two source copies that differ halt
the course. -/
def resyncDone (equal : Bool) (d : Dev) : Dev :=
  match d.course.resync with
  | none => d
  | some s =>
    if !equal then courseHalt d
    else
      let l := rejoinLead ((d.obj cFret 0).b 2) s d.course.lead d.course.succession
      let fins := d.course.heldFin
      let d := onString s (fun x => { x with st := .inCourse }) d
      let d := d.onCourse (fun c => { c with
        mode := .triple, resync := none, heldFin := [], lead := l.1, succession := l.2 })
      takeEvents (forEach fins (fun f d => finish f.1 f.2 d) (courseEvent s 2 d))

/-! ### Restart (15 R452, R460, R462) -/

/-- COURSE_RESTART_TIMER: 10 ms after entry to HALTED a restart begins; the BIST of all its strings runs under one grant of
leave (15 R460). -/
def restartTimer (d : Dev) : Dev :=
  match d.course.restartAt with
  | none => d
  | some t =>
    if d.course.mode ≠ .halted then d
    else
      let d := advanceTo t d
      askLeave (.courseRestart 0) (d.onCourse (fun c => { c with
        mode := .restart, restartAt := none, restarts := recent d.now c.restarts ++ [d.now] }))

def execCourseRestartTimer (s : State) : Host.Outcome State Fault Refusal := .next (s.onDev restartTimer)

/-- The strings after BIST: those that passed are in the course; with exactly two, the other is retired. -/
def bistOutcome (pass : List Bool) (d : Dev) : Dev :=
  let ok (s : Nat) : Bool := pass.getD s false && decide ((d.string s).st ≠ .retired)
  let n := ([0, 1, 2].filter ok).length
  forEach [0, 1, 2] (fun s d =>
    if ok s ∧ 2 ≤ n then onString s (fun x => { x with st := .inCourse }) d
    else if n = 2 then onString s (fun x => { x with st := .retired }) d
    else onString s (fun x => { x with st := if x.st = .retired then .retired else .bist }) d) d

/-- The course leaves RESTART with the strings that passed (15 R452, R453). -/
def courseUp (pass : List Bool) (d : Dev) : Dev :=
  let d := bistOutcome pass d
  let us := d.unfenced
  if us.length < 2 then enterHalt 3 4 d
  else
    let d := d.onCourse (fun c => { c with
      mode := (if us.length = 3 then .triple else .duplex)
      afterHalt := false
      lead := us.headD 0
      succession := [0, 1, 2]
      windows := []
      resync := none
      withdraw := c.failClosed })
    courseEvent 3 4 d

/-- The reply of a command that a halt cut off (15 R462). -/
def haltReply : Reply := { status := eState, detail := 0xFFFE, flags := 2 }

/-- A queued write without the command that it completes. -/
def QueuedWrite.unowned : QueuedWrite → QueuedWrite
  | .macInsert _ s f m p q x => .macInsert none s f m p q x
  | w => w

/-- The work that commands have left with the governor is dropped. -/
def dropGoverned (d : Dev) : Dev :=
  let mine (l : Leave) : Bool := match l with
    | .rollScan _ | .flushScan | .mram 6 _ | .mram 8 _ | .mram 10 _ => true
    | _ => false
  let d := withdraw mine (d.onKeys (fun k => { k with rolls := [] }))
  let d := (d.onMac (fun m => { m with flushes := [] })).onFw (fun w => { w with blocks := [] })
  (d.onCfg (fun c => { c with saves := [], saveMark := 0 })).onTamper (fun t => { t with supCmd := none })

/-- The operations and the hashing of a firmware verification are given up: an operation that runs ends without effect. -/
def forgetFw (d : Dev) : Dev :=
  (dropInternal IntWork.isFw d).onLk (fun k => { k with
    pkQueue := without (fun o => decide (o.class = 1)) k.pkQueue
    pk := k.pk.map (fun o => match o with
      | .fw s _ => .fw s 0
      | o => o) })

/-- Commands taken and not completed end with E_STATE; lookaside jobs are lost without a completion (10 R330). Whether the effect of one that waits (a queued table write, work
that waits for leave) still holds is unknown: a free value decides it for all. -/
def restartCommands (d : Dev) : Dev :=
  let d := forEach (List.range 33) (fun k d =>
    forEach ((d.dom k).inProg.filter (fun ip => !isLkOp ip.cmd.op)) (fun ip d => finish ip.cmd haltReply d) d) d
  let keep := decide (Config.freeBits 1 d.freeCtr = 1)
  let d := d.nextFree
  let d := if keep then d else dropGoverned d
  let left (q : List QueuedWrite) : List QueuedWrite :=
    if keep then q.map QueuedWrite.unowned else q.filter (fun w => match w with | .rewrite _ _ => true | _ => false)
  let d := d.onFret (fun f => { f with queue := left f.queue })
  let d := d.onHost (fun h => { h with doms := h.doms.map (fun D => { D with works := [] }) })
  let d := (d.onKeys (fun k => { k with frozen := [] })).onFw (fun w => { w with verifying := none })
  let d := forgetFw d
  lkStop (forEach (List.range 33) (fun k d => setStaging k (fun _ => []) d) d)

/-- What a restart does beyond the commands: servos in HOLDOVER, pairing exchanges back to IDLE, the parse graph of a
reverted activation two frets on (15 R462, 17 R513). -/
def restartRest (d : Dev) : Dev :=
  let d := forEach (List.range 8) (fun i d =>
    if d.servoOwns i then servoState i 3 d else d) d
  let d := forEach [0, 1] (fun sl d =>
    let st := (d.group sl).pair.st
    if st = .hello ∨ st = .kem ∨ st = .auth ∨ st = .finish then
      pairCheck sl (onPair sl (fun p => { st := .idle, since := d.now, fails := p.fails, noted := p.noted,
                                          lastSwitch := p.lastSwitch }) (forgetPair sl d))
    else pairCheck sl d) d
  d.onFw (fun w => { w with pgRevert := w.pgRevert.map (fun _ => d.fret.index + 2) })

/-- The leave for a restart has not come. -/
def Dev.restartWaits (d : Dev) : Bool := d.power.gov.queue.contains (.courseRestart 0)

/-- COURSE_RESTART_DONE, once its leave has been granted. -/
def restartDone (pass : List Bool) (d : Dev) : Dev :=
  if d.course.mode ≠ .restart ∨ !d.course.afterHalt ∨ d.restartWaits then d
  else
    let d := courseUp pass d
    if d.halted then d else takeEvents (restartRest (restartCommands d))

/-- CTL_LOSS_HOLD_REACHED (15 R461). -/
def holdReached (d : Dev) : Dev :=
  if d.halted ∧ !d.course.applied ∧ d.lossHold ≤ d.course.haltBoundaries then applyFallback d else d

def execCtlLossHoldReached (s : State) : Host.Outcome State Fault Refusal := .next (s.onDev holdReached)

/-! ### Memory errors (15 R464, R465) -/

/-- A frame that met an error is dropped, or ends inverted if it has started (07 R229). -/
def loseFrame (id : Nat) (d : Dev) : Dev :=
  match d.frame id with
  | some f => if f.stage = .sending then stompNow id d else dropFrame id d
  | none => d

/-- The words of an SA do not agree (07 R214): its frame is lost as the rule has it, a transmit SA is EXHAUSTED and a receive
SA RETIRED. -/
def pnWordBad (sa : Nat) (reader : Option Nat) (d : Dev) : Dev :=
  let tx := decide ((d.obj cSa sa).n 1 = 0)
  let d := match reader.bind d.frame with
    | some f => dropAs (if tx then 0x0A6 else 0x0AC) sa f d
    | none => d
  if tx then raiseAlarm pnAlarm 0 (setSa sa { d.sa sa with state := 3 } d) else rxPnBad sa d

/-- A command whose read of MRAM failed ends with E_INTEGRITY: the one in progress on a ring with a tag (15 R464). -/
def mramReadFails (dom ring : Nat) (tag : BitVec 32) (d : Dev) : Dev :=
  match (d.dom dom).inProg.find? (fun ip => ip.cmd.ring = ring && ip.cmd.tag = tag) with
  | none => d
  | some ip =>
    match d.fw.verifying with
    | some (c, slot) =>
      if c = ip.cmd then fwReject c slot 2 eIntegrity (forgetFw (d.onFw (fun w => { w with verifying := none })))
      else finish ip.cmd (fail eIntegrity) (dropWork ip.cmd d)
    | none => finish ip.cmd (fail eIntegrity) (dropWork ip.cmd d)

/-- What an uncorrectable word does, by its memory: `obj` names the frame, class × 2^40 + key, position, slot, SA,
string, 16 × domain + ring, or domain × 2^40 + ring × 2^32 + tag of the command that reads. -/
def memConsequence (e : MemError) (d : Dev) : Dev :=
  let obj := e.obj
  match e.cls with
  | 0 => loseFrame obj d
  | 1 => queueWrite (.rewrite (obj / 2 ^ 40) (obj % 2 ^ 40)) ((e.reader.map (fun i => loseFrame i d)).getD d)
  | 2 => dropBoth obj d
  | 3 => keyMismatch obj d
  | 4 => pnWordBad obj e.reader d
  | 5 => stringFault obj d
  | 6 => ringError (obj / 16) (obj % 16) d
  | 7 => mramReadFails (obj / 2 ^ 40) (obj / 2 ^ 32 % 2 ^ 8) (BitVec.ofNat 32 obj) d
  | 8 => d.onVault (fun v => { v with check := 0 })
  | 9 => raiseAlarm 12 0 d
  | _ => d

/-- A word that a read finds in error: corrected and written back, or poisoned (15 R464). -/
def memError (e : MemError) (d : Dev) : Dev :=
  match eccDecode e.flips with
  | .clean => d
  | .corrected => bump 0x131 e.cls d
  | .uncorrectable =>
    let d := memConsequence e (bump 0x132 e.cls d)
    if e.cls = 5 ∨ e.cls = 9 then d else raiseAlarm 8 0 d

/-- Words of a burst. -/
def scrubWords : Nat := 4096

/-- The tick by which the next burst of a memory of `words` words is due, if its period of `span` ticks is spread evenly. -/
def burstDue (start pos words span : Nat) : Nat := start + span * min words (pos + scrubWords) / max 1 words

/-- The position and the start of the period after a burst: past the last word a new period begins with the first. -/
def afterBurst (now start pos words : Nat) : Nat × Nat :=
  if words ≤ pos + scrubWords then (0, now) else (pos + scrubWords, start)

/-- A burst has run: of SRAM, every word of which is read in 10 s, or of MRAM, every word in 24 h, whichever falls due first
(15 R465). -/
def scrubRan (now : Nat) (s : Scrub) : Scrub :=
  let sram := burstDue s.start s.pos Config.sramWords (5 * 10 ^ 9)
  let mram := burstDue s.nvStart s.nvPos Config.mramWords (24 * 3600 * 5 * 10 ^ 8)
  if sram ≤ mram then
    let x := afterBurst now s.start s.pos Config.sramWords
    { s with pos := x.1, start := x.2, ready := false }
  else
    let x := afterBurst now s.nvStart s.nvPos Config.mramWords
    { s with nvPos := x.1, nvStart := x.2, ready := false }

/-- SCRUB_BURST: words that reads find in error; under the leave granted 4,096 words are read and corrected, and the next burst
asks for leave. Without it only functional reads find words. -/
def scrubBurst (found : List MemError) (d : Dev) : Dev :=
  if !d.power.up then d
  else
    let d := forEach found memError d
    if !d.course.scrub.ready then d
    else askLeave .scrub (d.onCourse (fun c => { c with scrub := scrubRan d.now c.scrub }))

/-- Leave for a burst is granted. -/
def scrubLeave (d : Dev) : Dev := d.onCourse (fun c => { c with scrub := { c.scrub with ready := true } })

def execScrubBurst (found : List MemError) (s : State) : Host.Outcome State Fault Refusal :=
  .next (s.onDev (scrubBurst found))

/-- The codes of the state registers (15 R468). -/
def stateCodes : List (BitVec 8) := [0x0F, 0x33, 0x3C, 0x55, 0x5A, 0x66, 0x69, 0x96, 0x99, 0xA5, 0xAA, 0xC3, 0xCC, 0xF0]

/-- SHADOW_MISMATCH: the fail-safe value of a policy register applies, and STATE_INTEGRITY is raised (15 R467); a state register
found to hold no code raises it too (15 R468). -/
def shadowMismatch (r : ShadowReg) (d : Dev) : Dev :=
  match r with
  | .stateCode machine code =>
    let d := d.onTamper (fun t => { t with codes := t.codes.set machine code })
    if stateCodes.contains code then d else raiseAlarm 9 0 d
  | r =>
    let d := d.onCourse (fun c => { c with failSafe := if c.failSafe.contains r then c.failSafe else r :: c.failSafe })
    raiseAlarm 9 0 d

def execShadowMismatch (reg : ShadowReg) (s : State) : Host.Outcome State Fault Refusal :=
  .next (s.onDev (shadowMismatch reg))

end Sys2Proof.Machine
end

