-- ==== Sys2Proof/Machine/Tamper.lean ====
section
/-! DEFINITION. The tamper monitors, the backup domain, the `TAMPER_*` and `LC_*` commands, the life-cycle journal and the
reset (16, 19). -/

namespace Sys2Proof.Machine

/-! ### The steps of the journal (16 R496) -/

/-- The regions that a transition erases, in the order of 16 R496; the two firmware slots and the two standing copies
each for itself. -/
inductive Region where
  | trim
  | certs
  | fwSlot (s : Nat)
  | root
  | domains
  | provisioning
  | standing (copy : Nat)
  | classes
  | log
deriving DecidableEq, Repr

/-- How a region is erased: written as zeros, set to its state at the first start of a root, or scrubbed. -/
inductive Erasure where
  | zeros
  | fresh
  | scrubbed
deriving DecidableEq, Repr

/-- One step of a journalled operation. -/
inductive JnlStep where
  | journal
  | counter
  | copyLog
  | cryptoErase
  | erase (r : Region) (how : Erasure)
  | debugAuth (w : BitVec 64)
  | tamperWord (w : BitVec 64)
  | lcState (w : BitVec 64)
  | idle
deriving DecidableEq, Repr

/-- The steps of an operation; none for an operation and target that name nothing. -/
def jnlSteps (op target : Nat) : List JnlStep :=
  let standing : List JnlStep := [.erase (.standing 0) .zeros, .erase (.standing 1) .zeros]
  match op, target with
  | 1, 2 => [.journal, .counter, .lcState wd69, .idle]
  | 1, 3 =>
    [.journal, .counter, .cryptoErase, .erase .root .fresh, .erase .domains .fresh, .erase .provisioning .zeros] ++
      standing ++ [.erase .classes .fresh, .erase .log .zeros, .debugAuth wd66, .lcState wd96, .idle]
  | 1, 4 =>
    [.journal, .counter, .cryptoErase, .erase .trim .zeros, .erase .certs .zeros, .erase (.fwSlot 0) .zeros,
      .erase (.fwSlot 1) .zeros, .erase .root .zeros, .erase .domains .zeros, .erase .provisioning .zeros] ++
      standing ++ [.erase .classes .zeros, .erase .log .zeros, .lcState wd99, .idle]
  | 2, 3 =>
    [.journal, .counter, .cryptoErase, .erase .root .scrubbed, .erase .domains .zeros, .erase .provisioning .zeros] ++
      standing ++ [.debugAuth wd33, .lcState wd96, .idle]
  | 3, 3 =>
    [.journal, .counter, .copyLog, .cryptoErase, .erase .root .fresh, .erase .domains .fresh, .debugAuth wd66,
      .tamperWord wd55, .lcState wd96, .idle]
  | _, _ => []

def onBlock (f : LcBlock → LcBlock) (d : Dev) : Dev := d.onMram (fun m => { m with block := f m.block })

/-- The step in progress. -/
def Dev.jnlStep (d : Dev) : Option JnlStep := (jnlSteps d.mram.block.op d.mram.block.target)[d.mram.block.step - 1]?

/-- A wide-distance word whose write ended between its halves, of which the low one is first (15 R469). -/
def halfWritten (old new : BitVec 64) : BitVec 64 := old.extractLsb' 32 32 ++ new.extractLsb' 0 32

/-- A word and its complement as an interrupted write leaves them; `v` is how many of the four halves it had begun on. -/
def tornPair (v : Nat) (old oldN new : BitVec 64) : BitVec 64 × BitVec 64 :=
  match v with
  | 0 => (old, oldN)
  | 1 => (halfWritten old new, oldN)
  | 2 => (new, oldN)
  | 3 => (new, halfWritten oldN (~~~new))
  | _ => (new, ~~~new)

/-- The life-cycle block as a loss of power in a granted burst leaves it; how far the burst came is free. -/
def LcBlock.torn (b : LcBlock) (plan : Option (Nat × Nat)) (step : Option JnlStep) (v : Nat) : LcBlock :=
  match plan, step with
  | some _, _ => { b with jnl := if v = 0 then b.jnl else halfWritten b.jnl wd69 }
  | none, some .counter => { b with
      counter := if v = 0 then b.counter else b.jnlCounter, counterN := if v ≤ 1 then b.counterN else ~~~b.jnlCounter }
  | none, some (.debugAuth w) => { b with debug := (tornPair v b.debug b.debugN w).1, debugN := (tornPair v b.debug b.debugN w).2 }
  | none, some (.tamperWord w) => { b with tamper := (tornPair v b.tamper b.tamperN w).1, tamperN := (tornPair v b.tamper b.tamperN w).2 }
  | none, some (.lcState w) => { b with lc := (tornPair v b.lc b.lcN w).1, lcN := (tornPair v b.lc b.lcN w).2 }
  | none, some .idle => { b with jnl := if v = 0 then b.jnl else halfWritten b.jnl wd3C }
  | none, _ => b

/-- A reset that falls into a granted burst of the journal interrupts the word being written (15 R469, 16 R498). -/
def tearWord (d : Dev) : Dev :=
  if !d.tamper.jnlReady then d
  else (onBlock (fun b => b.torn d.tamper.lcPlan d.jnlStep (Config.freeBits 3 d.freeCtr).toNat) d).nextFree

/-! ### Resets (19 R544, 16 R499) -/

/-- Power-on reset: MRAM, the vault and the backup clock stay; everything else returns to its reset state. `rails` tells
whether the main rails stay up, `keep` whether the next start keeps the straps. The warning levels return to their reset values
(R473, R474). -/
def powerReset (rails keep : Bool) (d : Dev) : Dev :=
  let d := tearWord d
  { mram := { d.mram with tempWarn := (-40, 110), voltWarn := (-30, 30) }
    vault := d.vault
    fw := { d.fw with verifying := none, blocks := [], pgRevert := none, pgArmed := false }
    time := { bkTicks := d.bkClock }
    tamper := { zeroized := d.tamper.zeroized }
    power := { straps := d.power.straps, rails := rails, keepStraps := keep, sup := d.power.sup, down := d.power.down }
    freeCtr := d.freeCtr
    wire := d.wire }

/-- POWER_ON_RESET: RST_N falls. -/
def execPowerOnReset (s : State) : Host.Outcome State Fault Refusal := .next (s.onDev (powerReset true false))

/-- PWRDN_N_FALL: as RST_N low, with the PLLs, the SerDes bias and the main monitors off. -/
def pwrdnFall (d : Dev) : Dev := (powerReset true false d).onPower (fun p => { p with down := true })

def execPwrdnNFall (s : State) : Host.Outcome State Fault Refusal := .next (s.onDev pwrdnFall)

/-- LC_RESET_TIMER: 10 ms after a transition completes, the device resets itself; the straps and the backup domain are
exempt. -/
def lcReset (d : Dev) : Dev :=
  match d.tamper.resetAt with
  | none => d
  | some t => powerReset true true (advanceTo t d)

def execLcResetTimer (s : State) : Host.Outcome State Fault Refusal := .next (s.onDev lcReset)

/-! ### Limits (16 R473 to R475) -/

/-- Alarm limits of a rail in mV. -/
def railLimits (rail : Nat) : Nat × Nat :=
  [(650, 880), (720, 880), (770, 940), (1080, 1320), (1620, 1980), (1620, 1980)].getD rail (0, 0)

/-- Nominal voltage of a rail in mV: of VDD_CORE the set point. -/
def Dev.nominal (d : Dev) (rail : Nat) : Nat := [700 + d.power.avs, 800, 850, 1200, 1800, 1800].getD rail 0

def Dev.railMv (d : Dev) (rail : Nat) : Nat := d.tamper.railMv.getD rail 0

/-- A voltage lies inside a rail's warning levels. -/
def Dev.railInside (d : Dev) (rail mv : Nat) : Bool :=
  let n : Int := d.nominal rail
  decide (n + d.mram.voltWarn.1 ≤ mv) && decide (mv ≤ n + d.mram.voltWarn.2)

/-- VDD_NV is inside its warning levels. -/
def Dev.nvOk (d : Dev) : Bool := d.railInside 5 (d.railMv 5)

/-- A temperature at or beyond the alarm levels. -/
def tempBad (c : Int) : Bool := decide (c ≤ -45 ∨ 125 ≤ c)

/-- The die is at or above the high warning level (19 R556). -/
def Dev.hot (d : Dev) : Bool := decide (d.mram.tempWarn.2 ≤ d.tamper.temp)

/-- A voltage beyond a rail's alarm limits. -/
def railBad (rail mv : Nat) : Bool := decide (mv < (railLimits rail).1 ∨ (railLimits rail).2 < mv)

/-- Whether the condition of an alarm still holds (16 R481). -/
def Dev.condHolds (d : Dev) (a : Nat) : Bool :=
  match a with
  | 2 => tempBad d.tamper.temp
  | 3 => (List.range 6).any (fun r => railBad r (d.railMv r))
  | 4 => !d.tamper.clocksBad.isEmpty
  | 9 => d.tamper.codes.any (fun c => !stateCodes.contains c)
  | _ => d.tamper.cond.getD (a - 2) false

def setCond (a : Nat) (on : Bool) (d : Dev) : Dev := d.onTamper (fun t => { t with cond := t.cond.set (a - 2) on })
def setRail (rail mv : Nat) (d : Dev) : Dev := d.onTamper (fun t => { t with railMv := t.railMv.set rail mv })

/-- EV_ENV_WARN. -/
def envWarn (quantity rail : Nat) (value : Int) (cleared : Bool) (d : Dev) : Dev :=
  raise d.sup (d.event 0x0902 [(16, 1, quantity), (17, 1, rail), (18, 2, ofSigned 16 value)] cleared) d

/-! ### Monitors while the main monitors run (16 R472 to R477) -/

/-- One warning level of the temperature: beyond it warns; four samples 3 °C inside clear. -/
def warnSide (high : Bool) (c : Int) (d : Dev) : Dev :=
  let lvl := if high then d.mram.tempWarn.2 else d.mram.tempWarn.1
  let beyond := if high then decide (lvl < c) else decide (c < lvl)
  let inside := if high then decide (c ≤ lvl - 3) else decide (lvl + 3 ≤ c)
  let on := if high then d.tamper.warnHigh else d.tamper.warnLow
  let run := if high then d.tamper.warnRun.2 else d.tamper.warnRun.1
  let put (on : Bool) (n : Nat) (d : Dev) : Dev := d.onTamper (fun t =>
    if high then { t with warnHigh := on, warnRun := (t.warnRun.1, n) }
    else { t with warnLow := on, warnRun := (n, t.warnRun.2) })
  if !on then (if beyond then envWarn 1 0 c false (put true 0 d) else d)
  else if !inside then put true 0 d
  else if run + 1 < 4 then put true (run + 1) d
  else envWarn 1 0 c true (put false 0 d)

/-- The AVS set point follows die temperature: 5 mV at a time, at most once in 100 µs, from 720 to 800 mV (19 R536). -/
def avsStep (d : Dev) : Dev :=
  let goal := max 20 (min 100 (Config.avsAt d.tamper.temp).toNat)
  let a := d.power.avs
  if d.now < d.power.avsTick + 50000 then d
  else if a + 5 ≤ goal then d.onPower (fun p => { p with avs := a + 5, avsTick := d.now })
  else if goal + 5 ≤ a then d.onPower (fun p => { p with avs := a - 5, avsTick := d.now })
  else d

/-- TEMP_SAMPLE. -/
def tempSample (c : Int) (d : Dev) : Dev :=
  if !d.power.up then d
  else
    let run := if tempBad c then d.tamper.tempRun + 1 else 0
    let d := d.onTamper (fun t => { t with temp := c, tempRun := run })
    let d := warnSide true c (warnSide false c (avsStep d))
    if run = 4 then raiseAlarm 2 c d else d

def execTempSample (celsius : Int) (s : State) : Host.Outcome State Fault Refusal := .next (s.onDev (tempSample celsius))

/-- RAIL_HIGH: a rail above its high limit raises VOLT at once. -/
def railHigh (rail mv : Nat) (d : Dev) : Dev :=
  if !d.power.up ∨ mv ≤ (railLimits rail).2 then d else raiseAlarm 3 mv (setRail rail mv d)

def execRailHigh (rail mv : Nat) (s : State) : Host.Outcome State Fault Refusal := .next (s.onDev (railHigh rail mv))

/-- RAIL_LOW: the provisional freeze; VDD_CORE below 0.55 V is power-on reset at once (19 R541). -/
def railLow (rail mv : Nat) (d : Dev) : Dev :=
  if !d.power.up ∨ (railLimits rail).1 ≤ mv then d
  else if rail = 0 ∧ mv < 550 then powerReset false false d
  else holdFrames ((setRail rail mv d).onTamper (fun t => { t with freeze := t.freeze.set rail true }))

def execRailLow (rail mv : Nat) (s : State) : Host.Outcome State Fault Refusal := .next (s.onDev (railLow rail mv))

/-- A rail returns above its low limit: the freeze ends, and VOLT's class applies. One that was above its high limit is back
inside it. -/
def railBack (rail mv : Nat) (d : Dev) : Dev :=
  if mv < (railLimits rail).1 then d
  else if !d.tamper.freeze.getD rail false then (if d.power.up then setRail rail mv d else d)
  else raiseAlarm 3 mv (flushVault ((setRail rail mv d).onTamper (fun t => { t with freeze := t.freeze.set rail false })))

/-- RAIL_LOW_TIMEOUT: 20 µs below the low limit is a loss of power. -/
def railTimeout (rail : Nat) (d : Dev) : Dev := if d.tamper.freeze.getD rail false then powerReset false false d else d

def execRailLowTimeout (rail : Nat) (s : State) : Host.Outcome State Fault Refusal := .next (s.onDev (railTimeout rail))

/-- RAIL_WARNING_TIMER: a rail has been beyond a warning level for 10 µs, or inside both for 100 µs. -/
def railWarning (rail mv : Nat) (d : Dev) : Dev :=
  if !d.power.up ∨ 6 ≤ rail then d
  else
    let d := setRail rail mv d
    let on := d.tamper.railWarn.getD rail false
    let inside := d.railInside rail mv
    if on ≠ inside then d
    else envWarn 2 rail mv on (d.onTamper (fun t => { t with railWarn := t.railWarn.set rail (!on) }))

def execRailWarningTimer (rail mv : Nat) (s : State) : Host.Outcome State Fault Refusal :=
  .next (s.onDev (railWarning rail mv))

/-- The main clocks of 01 R29 that SMCLK watches, in MHz, in the table's order: DCLK, CCLK, KCLK, PCLK0 to PCLK3, LTCLK, LRCLKA,
LRCLKB, HTCLK, HRCLKA, HRCLKB, TCLK, MGCLK, NVCLK. -/
def clockMhz : List Nat := [1350, 800, 1000, 1000, 1000, 1000, 1000, 1125, 1125, 1125, 1125, 1125, 1125, 500, 125, 200]

/-- A clock out of its limits, by the cycles that its window saw: of a main clock the 256 cycles of SMCLK, 6.4 µs, with 5 % to
either side; of BKCLK 64 µs without an edge (R475). -/
def clockOut (clock cycles : Nat) : Bool :=
  match clockMhz[clock]? with
  | some f => decide (100 * cycles < 95 * (f * 64 / 10) ∨ 105 * (f * 64 / 10) < 100 * cycles)
  | none => decide (clock = 17) && decide (cycles = 0)

/-- CLOCK_CHECK_WINDOW: the window of a clock ends, and CLOCK is raised where the clock leaves its limits. -/
def clockCheck (clock cycles : Nat) (d : Dev) : Dev :=
  if !d.power.up then d
  else
    let out := clockOut clock cycles
    let was := d.tamper.clocksBad.contains clock
    let d := d.onTamper (fun t => { t with
      clocksBad := if out then (if was then t.clocksBad else clock :: t.clocksBad) else t.clocksBad.erase clock })
    if out && !was then raiseAlarm 4 0 d else d

def execClockCheckWindow (clock cycles : Nat) (s : State) : Host.Outcome State Fault Refusal :=
  .next (s.onDev (clockCheck clock cycles))

/-- The readings of a sample of an enclosure loop differ from its drives: 1, 0 and the next bit of the loop's sequence (R476). -/
def Dev.loopBad (d : Dev) (loop : Nat) (r : LoopReads) : Bool :=
  !r.afterOne || r.afterZero || r.afterBit != Config.loopBit loop (d.tamper.loopLfsr.getD loop 0)

/-- The sequence of a loop steps on. -/
def loopStep (loop : Nat) (d : Dev) : Dev :=
  d.onTamper (fun t => { t with loopLfsr := modAt t.loopLfsr loop (Config.loopNext loop) })

/-- LOOP_SAMPLE: two consecutive mismatches. -/
def loopSample (loop : Nat) (reads : LoopReads) (d : Dev) : Dev :=
  if !d.power.up ∨ 2 ≤ loop then d
  else
    let bad := d.loopBad loop reads
    let run := if bad then d.tamper.loopRun.getD loop 0 + 1 else 0
    let d := setCond (5 + loop) bad ((loopStep loop d).onTamper (fun t => { t with loopRun := t.loopRun.set loop run }))
    if run = 2 then raiseAlarm (5 + loop) 0 d else d

def execLoopSample (loop : Nat) (reads : LoopReads) (s : State) : Host.Outcome State Fault Refusal :=
  .next (s.onDev (loopSample loop reads))

/-- VBAT beyond its limits. -/
def vbatBad (mv : Nat) : Bool := decide (mv < 2300 ∨ 3900 < mv)

/-- VBAT_SAMPLE: four consecutive samples. -/
def vbatSample (mv : Nat) (d : Dev) : Dev :=
  if !d.power.up then d
  else
    let bad := vbatBad mv
    let run := if bad then d.tamper.vbatRun + 1 else 0
    let d := setCond 7 bad (d.onTamper (fun t => { t with vbatRun := run }))
    if run = 4 then raiseAlarm 7 mv d else d

def execVbatSample (mv : Nat) (s : State) : Host.Outcome State Fault Refusal := .next (s.onDev (vbatSample mv))

/-! ### The backup domain (16 R475, R485) -/

/-- Class of an alarm as the backup domain handles it: that of its record, where the record is valid and no ZEROIZE is
pending; in phase VBAT a low VBAT is ZEROIZE. -/
def Dev.backupClass (d : Dev) (vbatLow : Bool) (a : Nat) : Nat :=
  let v := d.vault
  if !d.power.rails ∧ a = 7 ∧ vbatLow then 3
  else if !v.bkValid ∨ v.pendClass = 3 then 0
  else v.bkClasses.getD (a - 2) 0

/-- Alarms raised by the backup domain in one sample: the log entry, and what the class asks. -/
def backupAlarm (alarms : List Nat) (vbatLow : Bool) (value : Int) (d : Dev) : Dev :=
  if alarms = [] then d
  else
    let cls := (alarms.map (d.backupClass vbatLow)).foldl max 0
    let e := d.entryNow alarms cls (if d.power.rails then 2 else 4) value
    let m := alarmMask alarms
    if cls = 3 then newRecord e (d.vault.head - d.vault.copied) 3 m (cryptoErase d)
    else
      let d := vaultLog e d
      if cls = 0 then d
      else d.onVault (fun v => { v with pendClass := max v.pendClass cls, pendMask := Nat.lor v.pendMask m })

/-- SMCLK leaves 10 % of its 40 MHz over 32 ticks of BKCLK, which are 39,062.5 of its cycles (R475). -/
def smclkOut (cycles : Nat) : Bool := decide (20 * cycles < 9 * 78125 ∨ 11 * 78125 < 20 * cycles)

/-- BACKUP_SAMPLE: 32 ticks of BKCLK pass, and the backup domain looks at its sources. -/
def backupSample (b : BackupSample) (d : Dev) : Dev :=
  if d.power.up then d
  else
    let t := d.tamper
    let next (bad : Bool) (n : Nat) : Nat := if bad then n + 1 else 0
    let l0 := next (d.loopBad 0 b.loop0) (t.bkLoopRun.getD 0 0)
    let l1 := next (d.loopBad 1 b.loop1) (t.bkLoopRun.getD 1 0)
    let tr := next (tempBad b.coarseTemp) t.bkTempRun
    let vr := next (vbatBad b.vbatMv) t.vbatRun
    let d := ((loopStep 1 (loopStep 0 d)).onTime (fun x => { x with bkTicks := x.bkTicks + 32 })).onTamper (fun t => { t with
      bkLoopRun := [l0, l1], bkTempRun := tr, vbatRun := vr, codes := t.codes.set 1 b.vaultCode })
    let when_ (p : Bool) (a : Nat) : List Nat := if p then [a] else []
    let temp := decide (tr = 2)
    let alarms := when_ temp 2 ++ when_ (smclkOut b.smclkCycles && d.power.rails) 4 ++ when_ (decide (l0 = 2)) 5 ++
      when_ (decide (l1 = 2)) 6 ++ when_ (decide (vr = 4)) 7 ++ when_ (!stateCodes.contains b.vaultCode) 9
    backupAlarm alarms (decide (b.vbatMv < 2300)) (if temp then b.coarseTemp else if vr = 4 then b.vbatMv else 0) d

def execBackupSample (b : BackupSample) (s : State) : Host.Outcome State Fault Refusal := .next (s.onDev (backupSample b))

/-- BKCLK_STOPPED: the backup domain's own oscillator raises CLOCK while the main monitors are not running. -/
def bkclkStopped (d : Dev) : Dev := if d.power.up then d else backupAlarm [4] false 0 d

def execBkclkStopped (s : State) : Host.Outcome State Fault Refusal := .next (s.onDev bkclkStopped)

/-! ### The tamper log (16 R488) -/

/-- The oldest vault entry not copied goes to the MRAM log, with its EV_TAMPER. -/
def copyEntry (d : Dev) : Dev :=
  let v := d.vault
  let next := max v.copied (v.head - v.entries.length)
  if v.head ≤ next then d
  else
    let d := d.onVault (fun v => { v with copied := next + 1 })
    match v.entries.find? (fun e => e.seq = next) with
    | some e => raise d.sup (tamperEvent d e) (mramLog e d)
    | none => d

/-- TAMPER_LOG_COPY. -/
def execTamperLogCopy (s : State) : Host.Outcome State Fault Refusal :=
  .next (s.onDev (fun d => if d.power.up then copyEntry d else d))

/-- Every entry not copied is copied. -/
def copyEntries (d : Dev) : Dev := iter copyEntry d.vault.entries.length d

/-- The image of a log entry. -/
def logImage (e : LogEntry) : Bytes :=
  leBytes e.secs 4 ++ leBytes e.ticks 2 ++ leBytes e.alarms 2 ++ leBytes e.cls 1 ++ leBytes e.phase 1 ++
    leBytes (ofSigned 16 e.value) 2 ++ leBytes e.seq 4

/-- TAMPER_LOG_READ. -/
def tamperLogReadBody (c : Cmd) (first count iova : Nat) (d : Dev) : Answer :=
  checked [(!d.grant c.dom 3, ePerm)] d (fun d =>
    let one (i : Nat) : Bytes := ((d.mram.log.find? (fun e => e.seq = (first + i) % 2 ^ 32)).map logImage).getD (zeros 16)
    answer { outs := [(iova, (List.range count).flatMap one)] } d)

/-! ### TAMPER_CONFIG and TAMPER_CLEAR (16 R480, R481) -/

/-- Lowest classes in PRODUCTION of alarms 2 to 12. -/
def classFloors : List Nat := [1, 1, 1, 0, 0, 0, 0, 2, 1, 0, 0]

/-- The warning levels that an alarm takes. -/
def levelsOk (alarm : Nat) (low high : Int) : Bool :=
  match alarm with
  | 2 => decide (-45 ≤ low ∧ low < high ∧ high ≤ 125)
  | 3 => decide (-69 ≤ low ∧ low ≤ -5 ∧ 5 ≤ high ∧ high ≤ 79)
  | _ => decide (low = 0 ∧ high = 0)

/-- TAMPER_CONFIG. -/
def tamperConfigBody (c : Cmd) (alarm cls : Nat) (low high : Int) (d : Dev) : Answer :=
  let i := alarm - 2
  checked [(decide (alarm < 2 ∨ 12 < alarm ∨ 3 < cls) || !levelsOk alarm low high, eRange), (!d.grant c.dom 3, ePerm),
      (decide (d.lc = 4), eState), (decide (d.lc = 3 ∧ cls < classFloors.getD i 0), eRange),
      (d.tamper.bits.getD i false && decide (cls < d.mram.classes.getD i 0), eBusy)] d (fun d =>
    let d := d.onMram (fun m => { m with
      classes := m.classes.set i cls
      tempWarn := (if alarm = 2 then (low, high) else m.tempWarn)
      voltWarn := (if alarm = 3 then (low, high) else m.voltWarn) })
    answer {} (d.onVault (fun v => { v with bkClasses := if v.bkValid then v.bkClasses.set i cls else v.bkClasses })))

/-- DWKs are derived once no response forbids it, where a root is held (16 R484, 09 R284). -/
def deriveKeys (d : Dev) : Dev :=
  if d.keys.root = 2 ∨ d.keys.rs = [] then d else forEach (List.range 33) loadDwk d

/-- LOCKDOWN ends: TAMPERED is cleared, groups pair again, the cluster runs. -/
def endLockdown (d : Dev) : Dev :=
  lkDispatch (pairCheck 1 (pairCheck 0 (deriveKeys (setTamperWord wd55 d))))

/-- The named bits whose condition no longer holds are cleared; a LOCKDOWN response that no set bit asks for ends. -/
def tamperClear (mask : Nat) (d : Dev) : Nat × Dev :=
  let named := (List.range 11).filter (fun i => mask.testBit i && d.tamper.bits.getD i false)
  let left := named.filter (fun i => d.condHolds (i + 2))
  let gone := named.filter (fun i => !left.contains i)
  let d := forEach gone (fun i d => d.onTamper (fun t => { t with bits := t.bits.set i false, carried := t.carried.set i 0 })) d
  let d := if d.strongest < 2 ∧ d.tampered ∧ !d.tamper.zeroized then endLockdown d else d
  ((left.map (2 ^ ·)).sum, d)

/-- TAMPER_CLEAR. -/
def tamperClearBody (c : Cmd) (mask : Nat) (d : Dev) : Answer :=
  checked [(decide (2 ^ 11 ≤ mask), eRange), (!d.grant c.dom 3, ePerm)] d (fun d =>
    let r := tamperClear mask d
    answer { value := r.1 } r.2)

/-! ### Life-cycle status (16 R489 to R492, R501) -/

/-- A journal is ACTIVE, or waits to be written down. -/
def Dev.jnlActive (d : Dev) : Bool := d.mram.block.jnl = wd69 || d.tamper.lcPlan.isSome

/-- DEBUG_AUTH holds a valid word with its complement. -/
def LcBlock.debugOk (b : LcBlock) : Bool := (b.debug = wd66 || b.debug = wd33) && b.debugN = ~~~b.debug

/-- Whether the block makes the device LOCKED at a start. -/
def Dev.undecodable (d : Dev) : Bool :=
  let b := d.mram.block
  d.lc = 7 || !b.debugOk || decide (b.counterN ≠ ~~~b.counter)

/-- The debug port is open (16 R489, R491). -/
def Dev.debugOpen (d : Dev) : Bool :=
  d.lc = 1 || d.lc = 2 || d.lc = 4 || (d.lc = 3 && d.mram.block.debugOk && decide (d.mram.block.debug = wd33))

/-- The LC_STATUS record. -/
def lcRecord (d : Dev) : Bytes :=
  let b := d.mram.block
  let m := d.mram
  padTo 128 (leBytes d.lc 1 ++
    leBytes (b2n d.tamper.locked + b2n d.tampered * 2 + b2n d.debugOpen * 4 + b2n d.tamper.scrubPending * 8 +
      b2n (b.jnl = wd69) * 16) 1 ++
    leBytes d.keys.root 1 ++ leBytes b.op 1 ++ leBytes b.counter.toNat 4 ++ leBytes b.step 2 ++ [0, 0] ++
    leBytes b.mark 4 ++ deviceId ++ m.classes.flatMap (fun n => leBytes n 1) ++ [0] ++
    classFloors.flatMap (fun n => leBytes n 1) ++ [0] ++ leBytes m.logHead 4 ++ leBytes (m.logLost + d.vault.lost) 4 ++
    leBytes (ofSigned 16 m.tempWarn.1) 2 ++ leBytes (ofSigned 16 m.tempWarn.2) 2 ++
    leBytes (ofSigned 16 m.voltWarn.1) 2 ++ leBytes (ofSigned 16 m.voltWarn.2) 2)

/-- LC_STATUS. -/
def lcStatusBody (c : Cmd) (iova : Nat) (d : Dev) : Answer :=
  checked [(!d.grant c.dom 3, ePerm)] d (fun d => answer { outs := [(iova, lcRecord d)] } d)

/-! ### Authorisation and acceptance (16 R493 to R495) -/

/-- The checks of an authorisation record, in order: `kind` is the one required. -/
def authFails (d : Dev) (b : Bytes) (len action target kind : Nat) : List (Bool × Nat) :=
  let k := leAt b 1 1
  let n := if k = 1 then [32] else if k = 2 then [4755] else [32, 4755]
  let signed := k = 1 || (ecdsaVerify ((List.range 97).map (Config.lemrexEcdsaByte 1)) (sha384 (b.take 32)) (bytesAt b 32 96) &&
    mldsaVerify ((List.range 2592).map (Config.lemrexMldsaByte 1)) (b.take 32) (bytesAt b 128 4627))
  [(!(n.contains len && decide (len ≤ b.length)), eLen),
   (decide (leAt b 0 1 ≠ 1 ∨ k < 1 ∨ 2 < k ∨ leAt b 2 1 ≠ action ∨ leAt b 3 1 ≠ target) || !allZero (bytesAt b 24 8), eRange),
   (decide (k < kind), ePerm),
   (decide (bytesAt b 8 16 ≠ deviceId ∨ leAt b 4 4 ≠ d.mram.block.counter.toNat), eIntegrity),
   (!signed, eIntegrity)]

/-- What an LC_TRANSITION to a state is from the present one: operation, kind of authorisation, whether no GLB_TAMPER bit
may be set. -/
def Dev.lcMove (d : Dev) (target : Nat) : Option (Nat × Nat × Bool) :=
  if d.tamper.locked then (if target = 4 then some (1, 2, false) else none)
  else
    match d.lc, target with
    | 1, 2 => some (1, 2, true)
    | 2, 3 => some (1, 2, true)
    | 1, 4 => some (1, 2, false)
    | 2, 4 => some (1, 2, false)
    | 3, 4 => some (1, 1, false)
    | 3, 3 => if d.tampered || d.keys.root = 2 || d.debugOpen then some (3, 1, true) else none
    | _, _ => none

/-- A journalled operation is accepted: it waits for leave. -/
def lcAccept (c : Cmd) (op target : Nat) (d : Dev) : Answer :=
  (askLeave (.mram op 0) (d.onTamper (fun t => { t with lcCmd := some c, lcPlan := some (op, target), lcOld := d.lc })), none)

/-- LC_TRANSITION. -/
def lcTransitionBody (c : Cmd) (target len : Nat) (data : Bytes) (d : Dev) : Answer :=
  let m := d.lcMove target
  let x := m.getD (1, 1, false)
  checked ([(decide (target < 1 ∨ 4 < target), eRange), (!d.grant c.dom 3, ePerm), (m.isNone, eState),
      (x.2.2 && d.tamper.bits.any id, eBusy), (d.jnlActive, eBusy)] ++ authFails d data len 1 target x.2.1) d
    (lcAccept c x.1 target)

/-- LC_DEBUG_SCRUB. -/
def lcDebugScrubBody (c : Cmd) (len : Nat) (data : Bytes) (d : Dev) : Answer :=
  checked ([(!d.grant c.dom 3, ePerm), (decide (d.lc ≠ 3) || d.tamper.locked || d.debugOpen, eState), (d.jnlActive, eBusy)] ++
      authFails d data len 2 0 2) d (lcAccept c 2 3)

/-- LC_SET_SUPERVISOR: a journalled operation of one step (16 R500). -/
def lcSetSupervisorBody (c : Cmd) (target : Nat) (d : Dev) : Answer :=
  checked [(decide (32 < target), eRange), (decide (c.dom ≠ d.sup), ePerm), (decide (d.lc = 4) || d.tamper.locked, eState),
      (d.jnlActive || d.tamper.supCmd.isSome, eBusy)] d (fun d =>
    (askLeave (.mram 10 0) (d.onTamper (fun t => { t with supCmd := some (c, target) })), none))

/-- Leave for the provisioning record is granted; the change takes effect at the next start (13 R389). -/
def supGranted (d : Dev) : Dev :=
  match d.tamper.supCmd with
  | none => d
  | some (c, k) =>
    finish c {} ((d.onMram (fun m => { m with supervisor := k })).onTamper (fun t => { t with supCmd := none }))

/-! ### The journal (16 R496 to R499) -/

/-- Bursts of 4,096 words that a region takes (17 R503, 19 R551). -/
def regionBursts : Region → Nat
  | .fwSlot _ => 64
  | .standing _ => 48
  | _ => 1

/-- A root record of a state, its secret zero. -/
def rootZeroed (w : BitVec 64) : RootRecord := { state := w }

/-- Factory state of the classes and levels (16 R473, R474, R480). -/
def freshClasses (m : Mram) : Mram :=
  { m with classes := [1, 2, 2, 3, 3, 0, 0, 2, 2, 0, 0], tempWarn := (-40, 110), voltWarn := (-30, 30) }

/-- A region is erased. -/
def eraseRegion (r : Region) (how : Erasure) (d : Dev) : Dev :=
  match r with
  | .trim => d.onMram (fun m => { m with trim := false })
  | .certs => d.onMram (fun m => { m with certs := false })
  | .fwSlot s => onFwSlot s (fun _ => {}) d
  | .root => d.onMram (fun m => { m with root := rootZeroed (match how with | .zeros => 0 | .fresh => wd0F | .scrubbed => wd55) })
  | .domains =>
    if how = .fresh then
      d.onMram (fun m => { m with domGen := List.replicate 33 1, parentGen := [], sealEnd := List.replicate 33 0 })
    else
      d.onMram (fun m => { m with domGen := List.replicate 33 0, parentGen := (List.range 1024).map (fun i => (i, 0)),
                                  sealEnd := List.replicate 33 0 })
  | .provisioning => d.onMram (fun m => { m with supervisor := 0 })
  | .standing c => d.onMram (fun m => if c = 0 then { m with standA := {} } else { m with standB := {} })
  | .classes =>
    if how = .fresh then d.onMram freshClasses
    else d.onMram (fun m => { m with classes := List.replicate 11 0, tempWarn := (0, 0), voltWarn := (0, 0) })
  | .log => d.onMram (fun m => { m with log := [], logHead := 0, logLost := 0 })

/-- The vault log is appended to the MRAM log (16 R496). -/
def appendLog (d : Dev) : Dev :=
  let v := d.vault
  let left := v.entries.filter (fun e => decide (v.copied ≤ e.seq))
  (forEach left mramLog d).onVault (fun v => { v with copied := v.head })

/-- What a step writes once its last burst has run. -/
def jnlWrite (j : JnlStep) (d : Dev) : Dev :=
  match j with
  | .journal | .idle => d
  | .counter => onBlock (fun b => { b with counter := b.jnlCounter, counterN := ~~~b.jnlCounter }) d
  | .copyLog => appendLog d
  | .cryptoErase => cryptoErase d
  | .erase r how => eraseRegion r how d
  | .debugAuth w => onBlock (fun b => { b with debug := w, debugN := ~~~w }) d
  | .tamperWord w => (setTamperWord w d).onTamper (fun t => { t with zeroized := false })
  | .lcState w => onBlock (fun b => { b with lc := w, lcN := ~~~w }) d

/-- EV_LC_STATE. -/
def lcEvent (old new step cause : Nat) (d : Dev) : Dev :=
  raise d.sup (d.event 0x0903 [(16, 1, old), (17, 1, new), (18, 1, step), (19, 1, cause)]) d

/-- JNL_STATE becomes IDLE: the operation is over. -/
def jnlEnd (d : Dev) : Dev :=
  let b := d.mram.block
  let d := onBlock (fun b => { b with jnl := wd3C }) d
  match d.tamper.lcCmd with
  | none => lcEvent d.tamper.lcOld d.lc b.step 2 d
  | some c =>
    let d := lcEvent d.tamper.lcOld d.lc b.step (if b.op = 2 then 4 else if b.op = 3 then 5 else 1) d
    let d := finish c { value := b.counter.toNat } d
    d.onTamper (fun t => { t with lcCmd := none, resetAt := some (d.now + 5000000) })

/-- One burst of the active operation: a region of several bursts moves its mark, a step that ends takes effect. -/
def jnlBurst (d : Dev) : Dev :=
  match d.jnlStep with
  | none => d
  | some .idle => jnlEnd d
  | some j =>
    let n := match j with
      | .erase r _ => regionBursts r
      | _ => 1
    let mark := d.mram.block.mark + 4096
    if mark < n * 4096 then onBlock (fun b => { b with mark := mark }) d
    else onBlock (fun b => { b with step := b.step + 1, mark := 0 }) (jnlWrite j d)

/-- Step 1: the journal fields, then ACTIVE. -/
def jnlOpen (op target : Nat) (d : Dev) : Dev :=
  (onBlock (fun b => { b with op := op, target := target, step := 2, mark := 0, jnlCounter := b.counter + 1, jnl := wd69 }) d).onTamper
    (fun t => { t with lcPlan := none })

/-- LC_JOURNAL_STEP: a granted burst runs while VDD_NV is inside its warning levels, and the next asks for leave. -/
def journalStep (d : Dev) : Dev :=
  if !d.power.up ∨ !d.tamper.jnlReady ∨ !d.nvOk then d
  else
    let d := d.onTamper (fun t => { t with jnlReady := false })
    let d := match d.tamper.lcPlan with
      | some (op, target) => jnlOpen op target d
      | none => if d.mram.block.jnl = wd69 then jnlBurst d else d
    if d.mram.block.jnl = wd69 then askLeave (.mram d.mram.block.op 0) d else d

def execLcJournalStep (s : State) : Host.Outcome State Fault Refusal := .next (s.onDev journalStep)

/-- A start resumes an ACTIVE journal to its end (16 R498). -/
def resumeJournal (d : Dev) : Dev :=
  if d.mram.block.jnl ≠ wd69 ∨ d.jnlStep.isNone then d
  else
    let d := d.onTamper (fun t => { t with lcOld := d.lc, lcCmd := none, lcPlan := none })
    iter (fun d => if d.mram.block.jnl = wd69 then jnlBurst d else d) 512 d

/-! ### The deferred scrub (16 R486) -/

/-- The root record of a root that cannot be recovered is zeroed, RECORD_STATE SCRUBBED. -/
def rootScrub (d : Dev) : Dev :=
  let d := onBlock (fun b => { b with op := 4, target := d.lc, step := 1, mark := 0, jnlCounter := b.counter }) d
  (eraseRegion .root .scrubbed d).onTamper (fun t => { t with scrubPending := false })

/-- Leave for the deferred scrub is granted; it waits for an active journal, and for VDD_NV inside its warning levels. -/
def scrubGranted (d : Dev) : Dev :=
  if d.mram.root.state ≠ wd33 then d.onTamper (fun t => { t with scrubPending := false })
  else if d.jnlActive || !d.nvOk then askLeave (.mram 4 0) d
  else rootScrub d

end Sys2Proof.Machine
end

