-- ==== Sys2Proof/Machine/Fret.lean ====
section
/-! DEFINITION. Frets (02): the bank swap and what it changes in the live state, the fret boundary with its duties, the
time-base application edge, the release of old banks, and the gate engines' instants (12). -/

namespace Sys2Proof.Machine

/-! ### The bank swap (02 R54, R56, R58, R60) -/

/-- 4 µs: how long an old bank is held. -/
def holdTicks : Nat := 2000

/-- The tables of a list flip to their inactive bank under the new epoch and keep the old bank for the old epoch; every
other table maps both epochs to its active bank. -/
def flipBanks (ts : List Nat) (d : Dev) : Dev :=
  let e := d.cfg.epoch
  d.onCfg (fun c => { c with
    epoch := !e
    banks := c.banks.zipIdx.map (fun x =>
      let b := x.1
      let cur := if e then b.e1 else b.e0
      if ts.contains x.2 then
        { b with e0 := (if e then !cur else cur), e1 := (if e then cur else !cur), hold := d.now + holdTicks }
      else { b with e0 := cur, e1 := cur }) })

/-- The keys of a class whose objects differ between two devices. -/
def changedKeys (o d : Dev) (cls : Nat) : List Nat :=
  (((o.table cls).map Prod.fst ++ (d.table cls).map Prod.fst).eraseDups).filter (fun k => decide (o.obj cls k ≠ d.obj cls k))

/-- The object that a shadowed register belongs to; `DTU_CTL.MODE` to none (15 R467). -/
def shadowObj : ShadowReg → Option (Nat × Nat)
  | .secMode p => some (cMacsecPort, p)
  | .rxForward p => some (cMacsecPort, p)
  | .tcamAction s e => some (cTcam, sliceIdx s e)
  | .defaultAction p => some (cClsPort, p)
  | .recircAction s => some (cRecirc, s)
  | .smvPayload s => some (cSmvGroup, s)
  | .keyMode s => some (cSmvGroup, s)
  | .grants k => some (cQuota, k)
  | .quota k => some (cQuota, k)
  | .dtuMode _ | .stateCode _ _ => none

/-- The commit writes shadowed registers: their fail-safe values end. -/
def writeShadows (cs : List Staged) (d : Dev) : Dev :=
  let hit (r : ShadowReg) : Bool := match shadowObj r with
    | some (c, k) => cs.any (fun s => s.cls = c && s.key = k)
    | none => false
  d.onCourse (fun c => { c with failSafe := without hit c.failSafe })

/-- The codes of the counters kept per SA. -/
def saCodes : List Nat := [0x0A1, 0x0A2, 0x0A6, 0x0AB, 0x0AC, 0x0AD]

/-- SAs whose key-defining policy changed enter EMPTY with their counters cleared; ENC_AN of a transmit SC created or
removed is cleared (07 R203). -/
def swapSas (o d : Dev) : Dev :=
  let keys := ((o.table cSa).map Prod.fst ++ (d.table cSa).map Prod.fst).eraseDups
  let hit := keys.filter (fun i => decide (o.saKey i ≠ d.saKey i))
  let d := forEach hit (fun i d => forEach saCodes (fun c d => clearCounter (cntId c i) d) (setSa i {} d)) d
  let scs := (changedKeys o d cTxSc).filter (fun k => decide ((o.obj cTxSc k).b 0 ≠ (d.obj cTxSc k).b 0))
  d.onMsec (fun m => { m with encAn := scs.foldl (fun t k => t.drop k) m.encAn })

/-- Meters newly enabled, or of a new ALGORITHM, are full; any other keeps its levels, capped (12 R379). -/
def swapMeters (o d : Dev) : Dev :=
  forEach (changedKeys o d cMeter) (fun k d =>
    let a := o.obj cMeter k
    let b := d.obj cMeter k
    let l := o.meterLive (k / 2 ^ 31) (k % 2 ^ 31)
    let kept : MeterLive := {
      c := l.c.cap (b.n 5)
      p := l.p.cap (b.n 7) }
    d.onEg (fun e => { e with meters :=
      if (!a.b 0 && b.b 0) || decide (a.n 1 ≠ b.n 1) then e.meters.drop k else e.meters.put k kept })) d

/-- A shaper across a swap: full where newly enabled, else its level capped at the new burst (12 R362). -/
def swapBucket (now oldRate oldBurst burst : Nat) (x : Bucket) : Bucket :=
  if oldRate = 0 then { level := burst * bucketUnit, at_ := now } else (x.refill now (oldRate * 1000) oldBurst).cap burst

def swapShapers (o d : Dev) : Dev :=
  let d := forEach (changedKeys o d cQueue) (fun k d =>
    let a := o.obj cQueue k
    let b := d.obj cQueue k
    d.onQueue (k / 8) (k % 8) (fun q => { q with shaper := swapBucket d.now (a.n 3) (a.n 4) (b.n 4) q.shaper })) d
  forEach (changedKeys o d cEgressPort) (fun p d =>
    let a := o.egSet p
    let b := d.egSet p
    d.onPort p (fun e => { e with shaper := swapBucket d.now (a.n 1) (a.n 2) (b.n 2) e.shaper })) d

/-- The switch instant of a list from the instant of the swap (12 R368). -/
def switchInstant (l : Obj) (t : Nat) : Nat :=
  let b := gateBase l
  if t ≤ b then b else b + ceilDiv (t - b) (max 1 (l.n 4)) * max 1 (l.n 4)

/-- A port's gate list begins to wait for its switch instant; a disabled list opens all gates. -/
def gateSwap (old : Option Obj) (p : Nat) (d : Dev) : Dev :=
  let l := d.obj cGateList p
  let wait (g : GateSt) : GateSt := { g with pending := some (switchInstant l (d.tbNs (l.n 1))), old := old }
  d.onPort p (fun e => { e with gate := (if l.b 0 then wait e.gate else {}) })

def swapGates (o d : Dev) : Dev := forEach (changedKeys o d cGateList) (fun p d => gateSwap (o.gateList p) p d) d

/-- A punt policer first applied is full; a changed one has refilled at its old rate up to now, and keeps its tokens, capped at
its burst (05 R149). -/
def swapPunts (o d : Dev) : Dev :=
  forEach (changedKeys o d cPunt) (fun k d =>
    let level : Int := min ((d.obj cPunt k).n 1 * puntToken : Nat) (d.puntLevel (o.obj cPunt k) k)
    d.onEg (fun e => { e with punt :=
      if ((o.table cPunt).find k).isNone then e.punt.drop k else e.punt.put k { level := level, at_ := d.now } })) d

/-- Servos whose source changed take their time base over (11 R339). -/
def swapServos (o d : Dev) : Dev := servoTake o.servoSource d

/-- Groups whose lanes, channel identifier or KEY_MODE changed become unkeyed (08 R249). -/
def swapGroups (o d : Dev) : Dev :=
  forEach [0, 1] (fun s d =>
    let a := o.obj cSmvGroup s
    let b := d.obj cSmvGroup s
    if o.groupLanes s ≠ d.groupLanes s ∨ a.n 1 ≠ b.n 1 ∨ a.n 17 ≠ b.n 17 then
      let d := onPair s (fun p => { st := .off, noted := p.noted, lastSwitch := p.lastSwitch }) (forgetPair s (unkeyGroup s d))
      pairCheck s d
    else pairCheck s d) d

/-- Cells that each reservation takes: parking of slices 0 and 1, then the minima of the queues. -/
def Dev.reservations (d : Dev) : List Nat :=
  [d.parkTaken 0, d.parkTaken 1] ++ (List.range 256).map (fun i => max ((d.obj cQueue i).n 7) (d.queue (i / 8) (i % 8)).minUsed)

/-- Reservations that the swap has enlarged beyond the free shared cells lack what they have grown by (12 R374). -/
def swapReservations (o d : Dev) : Dev :=
  if o.parkSize = d.parkSize ∧ changedKeys o d cQueue = [] then d
  else
    let before := o.lacks
    let needs := (List.zipWith (fun (a b : Nat) => (a, b)) o.reservations d.reservations).zipIdx.map
      (fun x => before.getD x.2 0 + x.1.2 - x.1.1)
    d.onEg (fun e => { e with lacks := if d.cellsShort = 0 then [] else needs })

/-- Whether a staged object, or the object that a REMOVE names, leaves the quota of a domain at a swap. -/
def Dev.losesObj (o d : Dev) (k : Nat) (s : Staged) : Bool :=
  let ob := s.obj.getD (o.obj s.cls s.key)
  covers o (o.quota k) s.cls (keyIdx s.cls s.key) ob && !covers d (d.quota k) s.cls (keyIdx s.cls s.key) ob

/-- A quota takes pinned slots and parent entries from a domain: they are handled as orphaned from the swap (09 R303), and
every entry that moves starts a generation (09 R300).
An armed commit of the domain that names a removed object is cancelled with cause 2 (13 R393). -/
def swapQuota (o : Dev) (k : Nat) (d : Dev) : Dev :=
  let a := o.quota k
  let b := d.quota k
  let lostParent (p : Nat) : Bool := quotaParent a p && !quotaParent b p
  let ps := (List.range 1024).filter lostParent
  let live := ps.filter (fun p => (d.keys.parents.find p).isSome ||
    d.keys.slots.any (fun e => e.2.dom = k && e.2.parent = p && decide (e.2.state ≠ .free)))
  let d := forEach (ps.filter (fun p => !live.contains p)) (fun p d => (revokeOne p d).2) d
  let r := orphan (fun n s => s.dom = k && quotaPinned a n && !quotaPinned b n) d
  let x := revokeAll 4 (live ++ (r.2.boundTo r.1)).eraseDups r.2
  let slots := r.1 ++ x.2.1
  let d := if slots = [] ∧ live = [] then x.2.2
    else addTeardown { dom := k, first := 0xFFFF, entries := x.1, slots := slots, cmd := none } x.2.2
  match (d.domCfg k).armed with
  | some f => if (d.domCfg k).staging.any (Dev.losesObj o d k) then cancelEvent k f 2 0 0 (disarmShared k d) else d
  | none => d

def swapQuotas (o d : Dev) : Dev :=
  if (changedKeys o d cQuota).isEmpty then d
  else forEach ((List.range 33).filter (fun k => decide (o.quota k ≠ d.quota k))) (swapQuota o) d

/-- Domains that change slot are reset (13 R388). -/
def swapMap (o d : Dev) : Dev :=
  forEach ((List.range 32).filter (fun k => decide (o.place k ≠ d.place k))) domainReset d

/-- A change of the fret source: the next boundary is one of the new derivation (02 R41). -/
def swapSource (o d : Dev) : Dev :=
  if o.fretTb = d.fretTb ∧ o.fretRate = d.fretRate then d
  else d.onFret (fun f => { f with change := some (f.index, d.now), seen := d.derivedIndex })

/-- The commits due at the present boundary: domain, target, changes. -/
def Dev.dueCommits (d : Dev) : List (Nat × Nat × List Staged) := d.armedSets.filter (fun a => decide (a.2.1 ≤ d.fret.index))

/-- EV_COMMIT_APPLIED. -/
def commitApplied (dom target : Nat) (d : Dev) : Dev :=
  raise dom (d.event 0x0101 [(16, 8, target), (24, 1, b2n d.cfg.epoch)]) d

/-- What a swap changes in the live state, from the device before it. -/
def swapEffects (o : Dev) (cs : List Staged) (d : Dev) : Dev :=
  let d := writeShadows cs d
  let d := swapSas o d
  let d := swapMeters o d
  let d := swapReservations o d
  let d := swapShapers o d
  let d := swapGates o d
  let d := swapPunts o d
  let d := swapServos o d
  let d := swapQuotas o d
  let d := swapMap o d
  let d := swapGroups o (applyLanes d)
  swapSource o d

/-- The parse graph that a revert has ordered is due: it returns as the running slot holds it (17 R513). -/
def Dev.pgDue (d : Dev) : List Staged :=
  match d.fw.pgRevert with
  | some f => if f = 0 ∨ d.fret.index < f ∨ d.halted then [] else d.pgChanges (d.runSlot 4)
  | none => []

/-- Of the commits due, those that share a table with ones that are cancelled, one round for each commit (02 R55). -/
def sharersClosure : Nat → List (Nat × Nat × List Staged) → List (Nat × Nat × List Staged) → List (Nat × Nat × List Staged)
  | 0, _, gone => gone
  | n + 1, due, gone =>
    let more := due.filter (fun a => !gone.contains a && gone.any (fun g => shares g.2.2 a.2.2))
    if more = [] then gone else sharersClosure n due (gone ++ more)

/-- A commit that takes objects with FORCE is due together with a commit that names one of them: that one is cancelled with
cause 2, and with cause 4 every commit due that shares a table with it, for no rewrite can end before the fret that has begun
(13 R393, 02 R55). DESIGN CHOICE: the commit that takes applies (log 99). -/
def cancelLosers (d : Dev) : Dev :=
  let due := d.dueCommits
  let taking := due.filter (fun a => a.2.2.any (fun s => decide (s.cls = cQuota)))
  if taking = [] then d
  else
    let e := d.withChanges (due.map (fun a => a.2.2))
    let rest := due.filter (fun a => !taking.contains a)
    let lose := rest.filter (fun a => decide (a.1 ≠ 64) && (d.domCfg a.1).staging.any (Dev.losesObj d e a.1))
    let gone := sharersClosure 34 rest lose
    forEach gone (fun a d =>
      if a.1 = 64 then cancelActivation 4 d
      else cancelEvent a.1 a.2.1 (if lose.contains a then 2 else 4) 0 0 (disarm a.1 d)) d

/-- BANK_SWAP: the commits due, and the parse graph of a reverted activation, apply together, and the configuration epoch
toggles once. What applies is the active configuration with just these changes (02 R52, R54): a parse graph that returns
comes into the inactive banks at the swap. -/
def bankSwap (d : Dev) : Dev :=
  let d := cancelLosers d
  let due := d.dueCommits
  let pg := d.pgDue
  if due = [] ∧ pg = [] then d
  else
    let cs := due.flatMap (fun a => a.2.2)
    let ts := affected (cs ++ pg)
    let e := writeBanks [cs, pg] ts d
    let e := flipBanks ts (if pg = [] then e else e.onFw (fun w => { w with pgRevert := none }))
    let e := forEach due (fun a e =>
      if a.1 = 64 then e.onFw (fun w => { w with pgArmed := false })
      else e.onDomCfg a.1 (fun c => { c with staging := [], armed := none })) e
    let e := swapEffects d cs e
    forEach (due.filter (fun a => decide (a.1 ≠ 64))) (fun a e => commitApplied a.1 a.2.1 e) e

/-! ### Deferrable duties (02 R43 to R46) -/

/-- The fret budget in CCLK cycles (02 R38). -/
def Dev.fretBudget (d : Dev) : Nat := 400000000 / max 1 d.fretRate

def Dev.deferred (d : Dev) (rank : Nat) : Nat := d.fret.deferrals.getD (rank - 1) 0
def setDeferred (rank n : Nat) (d : Dev) : Dev := d.onFret (fun f => { f with deferrals := f.deferrals.set (rank - 1) n })

/-- A duty is deferred: EV_FRET_OVERRUN with its count. -/
def deferDuty (rank : Nat) (d : Dev) : Dev :=
  let n := d.deferred rank + 1
  progEvent 0x131 2 0 1 (raise d.sup (d.event 0x0103 [(16, 1, rank), (20, 4, n)]) (setDeferred rank n d))

/-- The status of a table write applied, and its completion. -/
def closeWrite (c : Cmd) (r : Nat × Dev) : Dev := finish c (if r.1 = 0 then {} else fail r.1) r.2

/-- A queued SA command: an SA that does not exist first (07 R218), then one whose key-defining policy a commit armed or
copying changes (07 R203; log 80). -/
def saWrite (sa : Nat) (f : Dev → Nat × Dev) (d : Dev) : Nat × Dev :=
  if (d.saPolicy sa).isSome && d.saBusy sa then (eBusy, d) else f d

/-- A write to an SA that a swap has given to another domain meanwhile is refused. -/
def ownSa (c : Cmd) (sa : Nat) (go : Dev → Nat × Dev) (d : Dev) : Nat × Dev := if quotaSa (d.quota c.dom) sa then go d else (ePerm, d)

/-- QUEUED_WRITE_APPLY. A write to an object that a swap has given to another domain meanwhile is refused (06 R173). -/
def applyWrite (w : QueuedWrite) (d : Dev) : Dev :=
  match w with
  | .macInsert cmd s f m p q st =>
    let d := scanAdvance (bridgeAll d)
    let r := if cmd.all (fun c => d.ownsService c.dom s) then hostInsert { service := s, fid := f, mac := m } p q st d else (ePerm, d)
    match cmd with
    | some c => closeWrite c r
    | none => r.2
  | .macDelete c s f m =>
    let d := scanAdvance (bridgeAll d)
    if !d.ownsService c.dom s then finish c (fail ePerm) d
    else
      let r := hostDelete { service := s, fid := f, mac := m } d
      finish c { flags := if r.1 then flagFound else 0 } r.2
  | .saInit c sa pn thr => closeWrite c (ownSa c sa (saWrite sa (applySaInit sa pn thr)) d)
  | .saEnable c sa => closeWrite c (ownSa c sa (saWrite sa (applySaEnable sa)) d)
  | .saDisable c sa => closeWrite c (ownSa c sa (saWrite sa (applySaDisable sa)) d)
  | .saSetLowest c sa pn => closeWrite c (ownSa c sa (saWrite sa (applySaLowest sa pn)) d)
  | .rewrite cls _ => if cls = cSa then d.onCfg CfgSt.withPolicies else d

/-- Whether a duty of a rank waits. The ageing step waits at every boundary. -/
def Dev.dutyWaits (d : Dev) (rank : Nat) : Bool :=
  match rank with
  | 1 => !d.fret.queue.isEmpty
  | 2 => true
  | 3 => !d.dumpsWaiting.isEmpty
  | 4 => decide ((d.obj cTimeGlobal 0).n 0 < 8)
  | _ => d.readyString.isSome

/-- The ageing steps that the next step stands for. -/
def Dev.ageSteps (d : Dev) : Nat := d.deferred 2 + 1

/-- Units of a duty, and the charge of each. -/
def Dev.dutyCharge (d : Dev) (rank : Nat) : Nat × Nat :=
  match rank with
  | 1 => (d.fret.queue.length, 24)
  | 2 => (1, 6000 + 12 * d.ageDue d.mac.steps (d.mac.steps + d.ageSteps))
  | 3 => (d.dumpsWaiting.length, 1500)
  | 4 => (1, 200)
  | _ => (1, 32000)

/-- `n` units of a duty run. -/
def runDuty (rank n : Nat) (d : Dev) : Dev :=
  match rank with
  | 1 =>
    let ws := d.fret.queue.take n
    forEach ws applyWrite (d.onFret (fun f => { f with queue := f.queue.drop n }))
  | 2 => if n = 0 then d else startScan d.ageSteps d
  | 3 => forEach (d.dumpsWaiting.take n) writeDump d
  | 4 => if n = 0 then d else loadBackup d
  | _ =>
    match d.readyString with
    | some s => if n = 0 then d else resyncStart s d
    | none => d

/-- Duties in rank order; `left` is the budget, none once a duty has been deferred. The deferrals of a duty that no longer
waits end, for they are counted over consecutive boundaries. -/
def runDuties : List Nat → Option Nat → Dev → Dev
  | [], _, d => d
  | r :: rs, left, d =>
    if !d.dutyWaits r then runDuties rs left (setDeferred r 0 d)
    else
      let c := d.dutyCharge r
      let n := match left with
        | some b => min c.1 (b / max 1 c.2)
        | none => 0
      let e := runDuty r n d
      if n = c.1 then runDuties rs (left.map (· - n * c.2)) (setDeferred r 0 e)
      else runDuties rs none (deferDuty r e)

/-- Frets that a resynchronisation started now spans beyond the present one. -/
def Dev.spanned (d : Dev) : Nat := 40 * d.fretRate / 1000000

/-- Nothing is scheduled in the frets that a resynchronisation spans, of which the fret that opens is one (02 R46). -/
def Dev.spanClear (d : Dev) : Bool :=
  let last := d.fret.index + d.spanned
  d.armedSets.all (fun a => decide (last < a.2.1)) &&
    d.smv.all (fun g => g.armed.all (fun a => decide (last < a.2.2.2))) && d.fw.act.all (fun a => a.running || decide (last < a.target))

/-- Every duty that waits is deferred without an event, while the course is HALTED (02 R44). -/
def countDeferrals (d : Dev) : Dev :=
  forEach [1, 2, 3, 4, 5] (fun r d => setDeferred r (if d.dutyWaits r then d.deferred r + 1 else 0) d) d

/-- The course's duties at a boundary. A resynchronisation or a TC step defers them all; above 12,500 frets per second a
resynchronisation starts before them where nothing was scheduled (`clear`), and is no duty of the budget (02 R46; log 77). -/
def courseDuties (clear : Bool) (d : Dev) : Dev :=
  if d.halted then countDeferrals d
  else if !d.courseRuns || d.tcStep then runDuties [1, 2, 3, 4, 5] none d
  else if d.now ≤ d.fret.spanEnd then runDuties [1, 2, 3, 4] none d
  else
    match d.readyString with
    | some s =>
      if 12500 < d.fretRate then
        if clear then
          runDuties [1, 2, 3, 4] none ((resyncStart s (setDeferred 5 0 d)).onFret (fun f => { f with spanEnd := d.now + 20000 }))
        else runDuties [1, 2, 3, 4] (some d.fretBudget) d
      else runDuties [1, 2, 3, 4, 5] (some d.fretBudget) d
    | none => runDuties [1, 2, 3, 4] (some d.fretBudget) d

/-! ### The cache region's ages (09 R297) -/

/-- Every slot of the cache region takes a new LAST_FRET from its age. -/
def sweepAges (f : Nat → Slot → Nat) (d : Dev) : Dev :=
  d.onKeys (fun k => { k with slots := k.slots.map (fun e =>
    if cacheBase ≤ e.1 ∧ e.2.state ≠ .free then (e.1, { e.2 with lastFret := f (d.slotAge e.2) e.2 }) else e) })

/-- The sweep at boundaries whose index is a multiple of 4,096. -/
def clampAges (d : Dev) : Dev :=
  if d.fret.index % 4096 ≠ 0 then d
  else sweepAges (fun age s => if 32768 < age then (d.fret.index % 65536 + 32768) % 65536 else s.lastFret) d

/-- Ages restart at the first boundary of a new derivation. -/
def restartAges (d : Dev) : Dev := sweepAges (fun _ _ => d.fret.index % 65536) d

/-! ### The fret boundary (02 R37, R39, R41, R42) -/

/-- The index of the next boundary under the present derivation. After a change of source, a boundary less than half a new
period after the change boundary is skipped (02 R41). -/
def Dev.nextIndex (d : Dev) : Nat :=
  let i := d.fret.seen + 1
  match d.fret.change with
  | none => i
  | some (_, at_) => if (d.boundaryTick i - at_) * 4 * d.fretRate < 10 ^ 9 then i + 1 else i

/-- The clock moves to the next boundary: one edge on where the time base has already passed it. -/
def toBoundary (d : Dev) : Dev := advanceTo (max (d.now + 1) (d.boundaryTick d.nextIndex)) d

/-- EV_FRET_STEP: to every domain. -/
def fretStepEvent (old derived : Nat) (d : Dev) : Dev := raiseAll (d.event 0x0104 [(16, 8, old), (24, 8, derived)]) d

/-- A failed handle stays listed for the rest of its fret and the next one (07 R237). -/
def ageFailed (d : Dev) : Dev :=
  d.onMsec (fun m => { m with failed := m.failed.map (fun l =>
    (l.map (fun k => { k with left := k.left - 1 })).filter (fun k => decide (k.left ≠ 0))) })

/-- The new index is in force; the first boundary of a new derivation raises EV_FRET_STEP unless it is the next index, and
the ages of the cache region restart. -/
def openFret (d : Dev) : Dev :=
  let f := d.derivedIndex
  let d := ageFailed (d.onFret (fun x => { x with index := f, seen := f }))
  match d.fret.change with
  | none => clampAges d
  | some (old, _) =>
    let d := restartAges (d.onFret (fun x => { x with change := none }))
    if f = old + 1 then d else fretStepEvent old f d

/-- The domain that owns an object of the configuration; the supervisor for a global one. -/
def Dev.ownerOf (d : Dev) (cls key : Nat) (o : Obj) : Nat :=
  if cls = cPunt ∨ cls = cBlobTable then key
  else if unowned cls ∨ baseEntry cls key then d.sup
  else (d.ownerBy (fun q => covers d q cls (keyIdx cls key) o)).getD d.sup

/-- The first boundary after a start with a standing set: gate lists take their switch instants, and each domain whose
objects the set holds has its EV_COMMIT_APPLIED (19 R552). -/
def standingBoundary (d : Dev) : Dev :=
  if !d.fret.stdEvents then d
  else
    let d := d.onFret (fun f => { f with stdEvents := false })
    let d := forEach (List.range 32) (fun p d => if (d.obj cGateList p).b 0 then gateSwap none p d else d) d
    let owners := (((List.range 38).flatMap (fun c => (d.table c).map (fun e => d.ownerOf c e.1 e.2)))).eraseDups
    forEach (d.doms.filter owners.contains) (fun k d => commitApplied k d.fret.index d) d

/-- FAIL_CLOSED is withdrawn at the first boundary after the course has recovered (15 R461). -/
def withdrawFallback (d : Dev) : Dev :=
  if d.course.withdraw ∧ !d.halted then d.onCourse (fun c => { c with withdraw := false, failClosed := false }) else d

/-- While the course is down, boundaries count toward CTL_LOSS_HOLD. -/
def countHalt (d : Dev) : Dev :=
  if d.halted then d.onCourse (fun c => { c with haltBoundaries := c.haltBoundaries + 1 }) else d

/-- The hardware duties. -/
def hardwareDuties (ended : Nat) (d : Dev) : Dev :=
  let torn := d.keys.teardowns.length
  let d := standingBoundary (llDropEvents ended (macEvictEvents ended (fretPins (withdrawFallback (countHalt d)))))
  let d := fwStart d.fret.index (bankSwap d)
  let d := smvBoundary 1 (smvBoundary 0 d)
  let d := teardownBoundary torn (captureDumps d)
  forEach (List.range 32) poll d

/-- FRET_BOUNDARY. -/
def fretBoundary (d : Dev) : Dev :=
  if !d.fret.running then d
  else
    let ended := d.fret.index
    let d := openFret (toBoundary d)
    fwStepBegin (courseDuties d.spanClear (hardwareDuties ended d))

def execFretBoundary (s : State) : Host.Outcome State Fault Refusal := .next (s.onDev fretBoundary)

/-! ### TB_APPLY (11 R338, 02 R39, R40) -/

/-- A forced re-derivation: every armed commit, key-epoch switch and activation is cancelled with cause 1. -/
def cancelAll (d : Dev) : Dev :=
  let d := forEach (List.range 33) (fun k d => match (d.domCfg k).armed with
    | some f => cancelEvent k f 1 0 0 (disarm k d)
    | none => d) d
  let d := forEach [0, 1] (fun s d => match (d.group s).armed with
    | some (_, _, _, f) => cancelEvent ((d.groupOwner s).getD d.sup) f 1 1 s (disarmSwitch s d)
    | none => d) d
  cancelActivation 1 d

/-- What a step of the fret time base, backward (`back`) or forward, does to the index (02 R39, R40; log 34): a forward one
past a boundary is told; a forced backward one derives the index anew and cancels; any other backward one holds the index,
and is told where the derived index is now lower. -/
def fretStep (back force : Bool) (d : Dev) : Dev :=
  let old := d.fret.index
  let new := d.derivedIndex
  if !d.fret.running then d
  else if d.fret.seen < new then
    raiseAll { (d.event 0x0104 [(16, 8, old), (24, 8, new)]) with head := new } d
  else if !back then d
  else if force then
    let d := d.onFret (fun f => { f with index := new, seen := new })
    fretStepEvent old new (cancelAll d)
  else if new = d.fret.seen then d
  else fretStepEvent old new d

/-! ### Gates under a time base (12 R366) -/

/-- A frame that is being sent, on a Smivia group as an element, when the gate of its queue closes is counted once (12 R366). -/
def countOverrun (p before after_ : Nat) (d : Dev) : Dev :=
  let closes (q : Nat) : Bool := before.testBit q && !after_.testBit q
  if d.isGroup p then
    match (d.group (p / 8)).txFrame with
    | some (q, ends) =>
      if closes q && decide (d.now < ends) then bump 0x106 p (d.onGroup (p / 8) (fun g => { g with txFrame := none })) else d
    | none => d
  else
    match (d.egress p).sending.bind d.frame with
    | some f => if closes f.res.tc && !f.overran then bump 0x106 p (setFrame { f with overran := true } d) else d
    | none => d

/-- The gates of a port now. -/
def Dev.gatesNow (d : Dev) (p : Nat) : Nat :=
  match d.gateList p with
  | some o => gatesAt o (d.egress p).gate.since (d.tbNs (o.n 1))
  | none => 255

/-- The waiting list of a port begins with entry 0, after gates `before`; the event names how many queues close (12 R368,
R382). -/
def switchGates (p s before : Nat) (d : Dev) : Dev :=
  let l := d.obj cGateList p
  let new := gatesAt l s s
  let closed := (List.range 8).filter (fun q => before.testBit q && !new.testBit q)
  let d := countOverrun p before new (d.onPort p (fun e => { e with gate := { since := s } }))
  refreshActive p (raiseFrom (portSlice p) (d.portOwner p)
    (d.event 0x0604 [(16, 1, p), (17, 1, closed.length), (18, 6, s / 10 ^ 9), (24, 4, s % 10 ^ 9)]) d)

/-- A time base has moved: a waiting list whose switch instant it has passed begins, and the operational lists stand at the
entry of the new reading (12 R366, R370). -/
def stepGates (i : Nat) (o d : Dev) : Dev :=
  forEach (List.range 32) (fun p d =>
    let late (s : Nat) : Bool := (d.obj cGateList p).n 1 = i && decide (s * 2 ^ 32 ≤ (d.tb i).frac)
    match (d.egress p).gate.pending.filter late with
    | some s => switchGates p s (o.gatesNow p) d
    | none =>
      match d.gateList p with
      | none => d
      | some l =>
        if l.n 1 ≠ i then d
        else
          let e := gateEntryAt (gateSegs l) (gatePhase l (d.egress p).gate.since (d.tbNs i)) 0
          refreshActive p (countOverrun p (o.gatesNow p) (d.gatesNow p)
            (d.onPort p (fun x => { x with gate := { x.gate with entry := e.1 } })))) d

/-- The change of a time base that waits longest takes effect at its edge. -/
def tbApply (i : Nat) (d : Dev) : Dev :=
  match (d.tb i).pending with
  | [] => d
  | p :: ps =>
    let d := advanceTo p.edge d
    let before := (d.tb i).frac
    let after_ := moveFrac before p.offset
    let d := stepGates i d (onTb i (fun b => { b with
      frac := after_, inc := p.inc.getD b.inc, pending := ps, fromBackup := b.fromBackup && !p.step }) d)
    let d := if p.step ∧ i = d.fretTb then fretStep (decide (p.offset < 0)) p.force d else d
    match p.cmd with
    | none => d
    | some c =>
      let outs := if p.step ∧ p.iova ≠ 0 then [(p.iova, readingBytes before)] else []
      deliver finish c { result := readingBytes after_, outs := outs } d

/-- TB_APPLY. -/
def execTbApply (tb : Nat) (s : State) : Host.Outcome State Fault Refusal := .next (s.onDev (tbApply tb))

/-! ### BANK_RELEASE (02 R60) -/

/-- Parked frames whose epoch maps to a released bank, of one of the tables given, are dropped. -/
def dropOldEpoch (ts : List Nat) (d : Dev) : Dev :=
  let old (f : Frame) : Bool := ts.any (fun t =>
    let b := d.banks t
    decide ((if f.epoch then b.e1 else b.e0) ≠ (if d.cfg.epoch then b.e1 else b.e0)))
  forEach (d.framesWith (fun f => decide (f.stage = .parked) && old f)) (fun f d => dropFrame f.id (bump 0x04F f.slice d)) d

/-- The old banks whose hold ends first are released. -/
def bankRelease (d : Dev) : Dev :=
  let held := (List.range 76).filter (fun t => decide ((d.banks t).hold ≠ 0))
  match held.map d.heldUntil with
  | [] => d
  | x :: xs =>
    let d := advanceTo (xs.foldl min x) d
    let over_ := held.filter (fun t => decide (d.heldUntil t ≤ d.now))
    let d := d.onCfg (fun c => { c with banks := over_.foldl (fun bs t => modAt bs t (fun b => { b with hold := 0 })) c.banks })
    dropOldEpoch over_ d

def execBankRelease (s : State) : Host.Outcome State Fault Refusal := .next (s.onDev bankRelease)

/-! ### Gate instants (12 R365 to R368) -/

/-- The gates of a port just before its switch instant, once the clock has come to it: the old list's, at its own reading one
unit before that instant (12 R368). -/
def Dev.gatesBefore (d : Dev) (p s : Nat) : Nat :=
  match d.gateList p with
  | none => 255
  | some o =>
    let past := (d.tb ((d.obj cGateList p).n 1)).frac - s * 2 ^ 32
    gatesAt o (d.egress p).gate.since (((d.tb (o.n 1)).frac - past - 1) / 2 ^ 32)

/-- GATE_SWITCH: the waiting list begins with entry 0 at its switch instant. -/
def gateSwitch (p : Nat) (d : Dev) : Dev :=
  match (d.egress p).gate.pending with
  | none => d
  | some s =>
    let d := advanceTo (d.tickOf ((d.obj cGateList p).n 1) (s * 2 ^ 32)) d
    switchGates p s (d.gatesBefore p s) d

def execGateSwitch (port : Nat) (s : State) : Host.Outcome State Fault Refusal := .next (s.onDev (gateSwitch port))

/-- GATE_ENTRY_CHANGE: the operational list moves to its next entry. -/
def gateEntryChange (p : Nat) (d : Dev) : Dev :=
  match d.gateList p with
  | none => d
  | some o =>
    let segs := gateSegs o
    let since := (d.egress p).gate.since
    let t := d.tbNs (o.n 1)
    let e := gateEntryAt segs (gatePhase o since t) 0
    let next := (e.1 + 1) % max 1 segs.length
    let before := (segs.getD e.1 (255, 0)).1
    let after_ := (segs.getD next (255, 0)).1
    let d := advanceTo (d.tickOf (o.n 1) ((t + e.2) * 2 ^ 32)) d
    refreshActive p (countOverrun p before after_ (d.onPort p (fun x => { x with gate := { x.gate with entry := next } })))

def execGateEntryChange (port : Nat) (s : State) : Host.Outcome State Fault Refusal := .next (s.onDev (gateEntryChange port))

end Sys2Proof.Machine
end

