-- ==== Sys2Proof/Machine/Power.lean ====
section
/-! DEFINITION. The power governor, the standing set and the start (19; 09 R279 to R284; 16 R484). -/

namespace Sys2Proof.Machine

/-! ### The standing set (19 R550, R551) -/

/-- Classes whose reset objects depend on the straps or on the supervisor. -/
def strapClasses : List Nat := [4, 5, 6, 7, 9, 18, 33]

/-- An object of the parse-graph part (05 R157): it belongs to the firmware slot. -/
def isBaseImage (cls key : Nat) : Bool :=
  (cls = cParseNode && decide (key % 2 ^ 31 < 16)) || (cls = cParseTrans && decide (key % 2 ^ 31 < 64))

/-- The keys of a class that a standing set holds. -/
def Dev.saveKeys (d : Dev) (cls : Nat) : List Nat :=
  (((if strapClasses.contains cls then List.range (classSize cls) else []) ++ (d.table cls).map Prod.fst).eraseDups).filter
    (fun k => !isBaseImage cls k)

/-- The active configuration and the static MAC entries, as a standing set holds them. -/
def Dev.saveSet (d : Dev) : SaveSet :=
  { objs := (List.range 38).flatMap (fun c => (d.saveKeys c).map (fun k => (c, k, d.obj c k)))
    statics := ((d.rep 0).entries.filter (fun e => e.2.static_)).map (fun e =>
      (e.2.key.service, e.2.key.fid, e.2.key.mac, e.2.peer, e.2.port)) }

/-- Bytes of a set: its images, and 16 for a static entry. -/
def SaveSet.size (s : SaveSet) : Nat := (s.objs.map (fun x => imageLen x.1 x.2.2)).sum + 16 * s.statics.length

/-- Bytes of one copy. -/
def standingMax : Nat := 1536 * 1024

/-- Conditions under which neither command runs. -/
def standFails (d : Dev) (dom size : Nat) : List (Bool × Nat) :=
  [(decide (dom ≠ d.sup), ePerm), (decide (d.lc = 1 ∨ d.lc = 4) || d.tamper.locked, eState),
    (decide (standingMax < size), eQuota), (d.jnlActive, eBusy)]

/-- STANDING_SAVE: the configuration of this moment waits for its MRAM burst. -/
def standingSaveBody (c : Cmd) (d : Dev) : Answer :=
  let s := d.saveSet
  checked (standFails d c.dom s.size) d (fun d =>
    (askLeave (.mram 8 0) (d.onCfg (fun k => { k with saves := k.saves ++ [(c, some s)] })), none))

/-- STANDING_CLEAR. -/
def standingClearBody (c : Cmd) (d : Dev) : Answer :=
  checked (standFails d c.dom 0) d (fun d =>
    (askLeave (.mram 8 0) (d.onCfg (fun k => { k with saves := k.saves ++ [(c, none)] })), none))

/-- A copy of the standing set is valid: its mark is WD_96. -/
def Standing.valid (x : Standing) : Bool := decide (x.mark = fwMark)

/-- The valid copy with the higher sequence number: whether it is the second, and the copy. -/
def Mram.standing (m : Mram) : Option (Bool × Standing) :=
  if m.standA.valid ∧ (!m.standB.valid ∨ m.standB.seq ≤ m.standA.seq) then some (false, m.standA)
  else if m.standB.valid then some (true, m.standB)
  else none

/-- What a save or a clear writes. -/
def writeStanding (s : Option SaveSet) (m : Mram) : Mram :=
  match s with
  | none => { m with standA := { m.standA with mark := 0 }, standB := { m.standB with mark := 0 } }
  | some x =>
    match m.standing with
    | some (false, c) => { m with standB := { mark := fwMark, seq := c.seq + 1, set := x } }
    | some (true, c) => { m with standA := { mark := fwMark, seq := c.seq + 1, set := x } }
    | none => { m with standA := { mark := fwMark, seq := 1, set := x } }

/-- MRAM bursts of 4,096 words that a save or a clear takes. -/
def saveBursts (s : Option SaveSet) : Nat := max 1 (ceilDiv ((s.map SaveSet.size).getD 0) 32768)

/-- The copy that a save writes is invalid until its valid mark, which is written last. -/
def openStanding (m : Mram) : Mram :=
  match m.standing with
  | some (false, _) => { m with standB := { m.standB with mark := 0 } }
  | _ => { m with standA := { m.standA with mark := 0 } }

/-- Leave for a burst of the first save that waits is granted. -/
def saveGranted (d : Dev) : Dev :=
  match d.cfg.saves with
  | [] => d
  | (c, s) :: rest =>
    if d.cfg.saveMark + 1 < saveBursts s then
      askLeave (.mram 8 0) ((d.onCfg (fun k => { k with saveMark := k.saveMark + 1 })).onMram openStanding)
    else
      let d := finish c {} ((d.onCfg (fun k => { k with saves := rest, saveMark := 0 })).onMram (writeStanding s))
      if rest = [] then d else askLeave (.mram 8 0) d

/-! ### The power governor (19 R554 to R557) -/

/-- Ticks of 1 µs and of 20 µs. -/
def govWindow : Nat := 500
def govSpan : Nat := 10000

/-- The head of the queue: by priority, then by arrival. -/
def GovSt.head (g : GovSt) : Option Leave :=
  (List.range 8).findSome? (fun p => g.queue.find? (fun l => decide (l.prio = p)))

/-- The current granted in the last `w` ticks, in ampere. -/
def GovSt.granted (g : GovSt) (now w : Nat) : Nat :=
  ((g.grants.filter (fun x => decide (now < x.1 + w))).map Prod.snd).sum

/-- Highest of the last 20 samples, in mA. -/
def GovSt.peak (g : GovSt) : Nat := g.samples.foldl max 0

/-- Grants of a priority are withheld (19 R556). -/
def Dev.withheld (d : Dev) (p : Nat) : Bool := (decide (5 ≤ p) && d.hot) || (decide (p = 3) && !d.nvOk)

/-- The governor may grant a request now. -/
def Dev.mayGrant (d : Dev) (l : Leave) : Bool :=
  let g := d.power.gov
  decide (g.holdUntil ≤ d.now) && !d.withheld l.prio &&
    decide (g.peak + 1000 * (g.granted d.now govSpan + l.amps) ≤ 165000) &&
    decide (g.granted d.now govWindow + l.amps ≤ 20)

/-- What begins under a grant. -/
def granted (l : Leave) (d : Dev) : Dev :=
  match l with
  | .zeroSlots => zeroGranted d
  | .rollScan k => doRoll k d
  | .stringBist s => bistGranted s d
  | .courseRestart _ | .tcLoad _ => d
  | .scrub => scrubLeave d
  | .mram w k =>
    match w with
    | 1 | 2 | 3 => d.onTamper (fun t => { t with jnlReady := true })
    | 4 => scrubGranted d
    | 6 => fwBlockGranted k d
    | 8 => saveGranted d
    | 10 => supGranted d
    | _ => d
  | .lane l => laneGranted l d
  | .core c => lkGranted c d
  | .flushScan => flushGranted d

/-- LEAVE_GRANT: the head of the queue is granted if it fits. -/
def leaveGrant (d : Dev) : Dev :=
  match d.power.gov.head with
  | none => d
  | some l =>
    if !d.mayGrant l then d
    else granted l (d.onGov (fun g => { g with
      queue := g.queue.erase l
      grants := (d.now, l.amps) :: g.grants.filter (fun x => decide (d.now < x.1 + govSpan)) }))

def execLeaveGrant (s : State) : Host.Outcome State Fault Refusal := .next (s.onDev leaveGrant)

/-- GOVERNOR_SAMPLE: the current of VDD_CORE in mA. -/
def governorSample (ma : Nat) (d : Dev) : Dev := d.onGov (fun g => { g with samples := (ma :: g.samples).take 20 })

def execGovernorSample (ma : Nat) (s : State) : Host.Outcome State Fault Refusal := .next (s.onDev (governorSample ma))

/-! ### Start: pending responses and MRAM (16 R484, 19 R547 steps 1 to 5) -/

/-- A pending response is applied before any key is loaded. -/
def applyPending (d : Dev) : Dev :=
  let v := d.vault
  if !v.bkValid ∨ v.pendClass = 0 then d
  else
    let d := forEach ((List.range 11).filter (fun i => v.pendMask.testBit i)) (fun i d =>
      d.onTamper (fun t => { t with bits := t.bits.set i true, carried := t.carried.set i v.pendClass })) d
    let d := if 2 ≤ v.pendClass then setTamperWord wd0F (prioZero d) else d
    let d := if v.pendClass = 3 then d.onTamper (fun t => { t with zeroized := true }) else d
    d.onVault (fun v => { v with pendClass := 0, pendMask := 0 })

/-- A backup-domain record is begun where none is valid, with the classes in force (16 R487). -/
def beginRecord (d : Dev) : Dev :=
  if d.vault.bkValid then d
  else d.onVault (fun v => { v with bkValid := true, bkClasses := d.mram.classes, head := 0, lost := 0, pendClass := 0,
                                    pendMask := 0, entries := [], copied := 0 })

/-- VAULT_CHECK of a valid vault (09 R282). -/
def vaultWord : BitVec 64 := 0x96C35A0FF05A3C69

/-- The root that the record and the vault give. -/
def Dev.rootOf (d : Dev) : Bytes := xorBytes d.mram.root.masked d.vault.mask

/-- The check that a WRITTEN root fails, numbered as in EV_KEY_ROOT (09 R281). -/
def Dev.rootFails (d : Dev) : Option Nat :=
  let r := d.mram.root
  let v := d.vault
  if r.state ≠ wd33 then some 1
  else if v.check ≠ vaultWord then some 2
  else if r.maskedN ≠ invBytes r.masked ∨ v.maskN ≠ invBytes v.mask then some 3
  else if rootKcv d.rootOf ≠ r.kcv then some 4
  else none

/-- The backup time base that a start loads: the one of the valid standing set, else the reset one (11 R341). -/
def Dev.startBackup (d : Dev) : Nat :=
  let saved := d.mram.standing.bind (fun x => x.2.set.objs.find? (fun o => decide (o.1 = cTimeGlobal)))
  ((saved.map (fun o => o.2.2)).getD (d.obj cTimeGlobal 0)).n 0

/-- Steps 4 and 5: pending response, backup clock, vault log, journal, life-cycle block, deferred scrub of a root that the
check noted has found lost (16 R488). -/
def startMram (d : Dev) : Dev :=
  let d := resumeJournal (beginRecord (copyEntries (loadFromBackup d.startBackup (applyPending d))))
  let d := if d.undecodable then
      lcEvent d.lc d.lc 0 3 (d.onTamper (fun t => { t with locked := true }))
    else d
  let lost := if d.lc = 3 ∧ !d.tamper.locked ∧ d.mram.root.state = wd33 then d.rootFails else none
  let d := d.onKeys (fun k => { k with lostBy := lost })
  if lost.isSome then rootScrub d else d

/-! ### Start: root and keys (09 R279 to R284) -/

/-- EV_KEY_ROOT. -/
def rootEvent (cause check : Nat) (d : Dev) : Dev := raise d.sup (d.event 0x0403 [(16, 1, cause), (17, 1, check)]) d

/-- ROOT_NEW: RS and M are drawn, and the vault and the record written; every generation is 1 (09 R285, R300), and the seal
counters start anew (09 R286). -/
def generateRoot (d : Dev) : Dev :=
  let a := draw 32 d
  let b := draw 32 a.2
  let masked := xorBytes a.1 b.1
  let d := b.2.onVault (fun v => { v with check := vaultWord, mask := b.1, maskN := invBytes b.1 })
  let d := d.onMram (fun m => { m with
    root := { masked := masked, maskedN := invBytes masked, kcv := rootKcv a.1, state := wd33 }
    domGen := List.replicate 33 1
    parentGen := []
    sealEnd := List.replicate 33 0
    block := { m.block with op := 5, target := 3, step := 1, mark := 0, jnlCounter := m.block.counter } })
  rootEvent 1 0 (d.onKeys (fun k => { k with root := 1, rs := a.1 }))

/-- Step 8: the root state, the seal counters and the DWKs. While a response stronger than HOLD is in force no root is
drawn and no DWK derived. -/
def rootStart (d : Dev) : Dev :=
  let d :=
    if d.lc = 1 ∨ d.lc = 2 then
      let a := draw 32 d
      a.2.onKeys (fun k => { k with root := 0, rs := a.1 })
    else if d.mram.root.state = wd0F then
      if d.lockdown then d else generateRoot d
    else
      match d.keys.lostBy.or d.rootFails with
      | none => d.onKeys (fun k => { k with root := 1, rs := d.rootOf })
      | some n => rootEvent 2 n d
  let d := d.onKeys (fun k => { k with sealCtr := d.mram.sealEnd })
  if d.lockdown then d else deriveKeys d

/-! ### Start: configuration (19 R552) -/

/-- An object enters both banks of its table. -/
def bothBanks (s : Staged) (d : Dev) : Dev :=
  d.onCfg (fun c =>
    let c := { c with banks := modAt c.banks s.table (fun b =>
      { b with b0 := applyOne b.b0 s, b1 := applyOne b.b1 s }) }
    if s.cls = cSa then c.withPolicies else c)

/-- Objects of a domain that does not exist are not loaded. -/
def Dev.loads (d : Dev) (cls key : Nat) (o : Obj) : Bool :=
  if cls = cPunt ∨ cls = cBlobTable then d.domExists key
  else unowned cls || d.domExists (d.ownerOf cls key o)

/-- A static MAC entry enters both replicas. -/
def loadStatic (x : Nat × Nat × Nat × Nat × Nat) (d : Dev) : Dev :=
  let k : MacKey := { service := x.1, fid := x.2.1, mac := x.2.2.1 }
  let d := (insertEntry (macHome k) { key := k, peer := x.2.2.2.1, port := x.2.2.2.2, static_ := true } false d).2
  let d := match (d.rep (macHome k)).find k with
    | some (p, e) => putEntry (1 - macHome k) p e false d
    | none => d
  d.onMac (fun m => { m with inbox := [[], []] })

/-- A standing set enters both banks of every table, and the replicas. -/
def loadStanding (st : SaveSet) (d : Dev) : Dev :=
  let put (x : Nat × Nat × Obj) (d : Dev) : Dev :=
    bothBanks { cls := x.1, key := x.2.1, idx := keyIdx x.1 x.2.1, obj := some x.2.2 } d
  let early (x : Nat × Nat × Obj) : Bool := [cDomainMap, cQuota, cPortLayout].contains x.1
  let o := d
  let d := d.onPower (fun p => { p with standing := true })
  let d := forEach (st.objs.filter early) put d
  let d := forEach (st.objs.filter (fun x => !early x && d.loads x.1 x.2.1 x.2.2)) put d
  let d := forEach (st.statics.filter (fun x => d.domExists (d.svcDom x.1))) loadStatic d
  let d := swapGroups o (swapServos o (swapShapers o d))
  let d := d.onPower (fun p => { p with mgMacs := [0, 1].map (fun k => (d.obj cMgmtPort k).n 4) })
  d.onFret (fun f => { f with stdEvents := true })

/-- Gate lists of a standing set wait for the switch instant that the first boundary gives them. -/
def gatesWait (d : Dev) : Dev :=
  forEach (List.range 32) (fun p d =>
    let l := d.obj cGateList p
    if l.b 0 then
      let s := switchInstant l (d.openNs (l.n 1) (d.fret.index + 1))
      d.onPort p (fun e => { e with gate := { e.gate with pending := some s, old := none } })
    else d) d

/-- Steps 8 to 10. -/
def startRest (d : Dev) : Dev :=
  let d := d.onPower (fun p => { p with halfUp := false })
  let d := if d.tamper.locked then d else rootStart d
  let d := match d.mram.standing with
    | some (_, c) => loadStanding c.set d
    | none => d
  let d := d.onFret (fun f => { f with running := true, index := d.derivedIndex, seen := d.derivedIndex })
  let d := if d.power.standing then gatesWait d else d
  let d := if d.tamper.locked ∨ d.power.noFw then d else pairCheck 1 (pairCheck 0 (applyLanes d))
  askLeave .scrub (d.onPower (fun p => { p with ready := true }))

/-- The parse graph of the running slot enters both banks (05 R157). -/
def loadGraph (d : Dev) : Dev := forEach (d.pgChanges (d.runSlot 4)) bothBanks d

/-- Steps 1 to 3: straps, AVS set point from the trim values, monitors. -/
def startRails (o : StartOps) (d : Dev) : Dev :=
  let d := if d.mram.trim then d else d.nextFree
  let avs := if d.mram.trim then Config.avsTrim.toNat else (Config.freeBits 8 d.freeCtr).toNat
  d.onPower (fun p => { p with
    straps := (if p.keepStraps then p.straps
      else { portmap0 := o.portmap0, portmap1 := o.portmap1, pcieBif := o.pcieBif })
    up := true, down := false, rails := true, keepStraps := false, standing := false, mgMacs := [0, 0]
    sup := d.mram.supervisor, avs := max 20 (min 100 avs), avsTick := d.now, gov := {} })
    |>.onTime (fun t => { t with bkAt := t.tclk })

/-- The start of an END_OF_LIFE device: it answers LC_STATUS only (16 R489). -/
def startEol (d : Dev) : Dev :=
  (d.onCourse (fun c => { c with mode := .triple, strings := c.strings.map (fun x => { x with st := .inCourse }) })).onPower
    (fun p => { p with ready := true })

/-- START_UP: RST_N, or PWRDN_N, rises. -/
def startUp (o : StartOps) (d : Dev) : Dev :=
  if d.power.up then d
  else
    let d := startMram (newSession (startRails o d))
    if d.lc = 4 then startEol d
    else
      let d := fwBoot o.bootFwOk d
      let d := if d.power.noFw then d else loadGraph d
      let d := courseUp o.bist d
      if d.halted then d.onPower (fun p => { p with halfUp := true }) else startRest d

def execStartUp (op : StartOps) (s : State) : Host.Outcome State Fault Refusal := .next (s.onDev (startUp op))

end Sys2Proof.Machine
end

