-- ==== Sys2Proof/Machine/Commands.lean ====
section
/-! DEFINITION. The command processor: how a command is taken, its checks and duplicate suppression, its effect by opcode,
its data transfers, and the events that bring commands in or let them go on (13 R414 to R423, 14 R429 to R446). -/

namespace Sys2Proof.Machine

/-! ### What each command does -/

/-- An SA command: its checks, then its place in the queue of table writes (07 R218, 02 R43). -/
def saBody (c : Cmd) (sa : Nat) (w : QueuedWrite) (d : Dev) : Answer :=
  match saChecks c sa d with
  | some e => answer (fail e) d
  | none => (queueWrite w d, none)

/-- Completion of a command whose output has been written: the slot it fills is installed first (09 R305). While the key
manager moves no key, a key command waits (16 R474). -/
def finishWork (c : Cmd) (r : Reply) (d : Dev) : Dev :=
  if d.frozen ∧ isKeyOp c.op then putWork { instr := none, cmd := c, todo := [], reply := some r } d
  else
    if r.install.any (fun e => !e.2.pairOk) then finish c (fail eIntegrity) (raiseAlarm 10 0 d)
    else finish c r (installProduct r d)

/-- The suspended work of a ring and tag. -/
def Dev.suspendedWork (d : Dev) (dom ring : Nat) (tag : BitVec 32) : Option Work :=
  (d.dom dom).works.find? (fun w => w.cmd.ring = ring && w.cmd.tag = tag &&
    (match w.state with | .suspended _ _ => true | .walking => false))

/-- RESUME of suspended work: the faulting access is tried again with a fresh walk (13 R416). -/
def resumeWork (w : Work) (c : Cmd) (d : Dev) : Dev :=
  let a := w.todo.headD (0, 0, false)
  match xlat d c.dom a.1 a.2.2 with
  | .ok _ => workGo finishWork w (finish c {} d)
  | .dead => suspendWork w 6 (badRead c.dom (finish c (fail eFault) d))
  | .fault cause =>
    if cause = 3 then putWork { w with state := .walking, resumer := some c } d
    else suspendWork w cause (finish c (fail eFault) d)
  | .walk => putWork { w with state := .walking, resumer := some c } d

/-- The end of suspended work: E_FAULT with its progress mark (13 R416). -/
def abortWork (w : Work) (flags : Nat) (d : Dev) : Dev :=
  finish w.cmd { status := eFault, value := w.progress, flags := flags } (dropWork w.cmd d)

/-- The operands of RESUME and ABORT. -/
def resumeShape (kind unit : Nat) (what : BitVec 32) : Bool :=
  (kind = 0 && hostRings.contains unit) || (kind = 1 && decide (unit < 2) && decide (what.toNat < 256))

/-- RESUME of a suspended fetch: its read is tried again, with a fresh walk where the mode of the domain asks for one (13
R416, 07 R238). -/
def resumeFetch (c : Cmd) (slice r : Nat) (m : MissRec) (d : Dev) : Dev :=
  let walk := setRec slice r { m with fetch := .walking, resumer := some c } d
  match xlat d m.dom (d.fetchIova m.dom m.handle) false with
  | .walk | .fault 3 => walk
  | .fault _ => finish c (fail eFault) (startFetch slice r d)
  | .ok _ | .dead => finish c {} (startFetch slice r d)

/-- RESUME (13 R416, 07 R238, 10 R329). -/
def resumeBody (c : Cmd) (kind unit : Nat) (what : BitVec 32) (d : Dev) : Answer :=
  checked [(!resumeShape kind unit what, eRange)] d (fun d =>
    if kind = 1 then
      match d.suspendedFetch c.dom unit what.toNat with
      | some m => (resumeFetch c unit what.toNat m d, none)
      | none => answer (fail eState) d
    else
      match d.suspendedWork c.dom unit what, d.lkSuspended c.dom unit what with
      | some w, _ => (resumeWork w c d, none)
      | none, some r => (lkResume r c d, none)
      | none, none => answer (fail eState) d)

/-- ABORT (13 R416, 07 R238, 10 R329). -/
def abortBody (c : Cmd) (kind unit : Nat) (what : BitVec 32) (d : Dev) : Answer :=
  checked [(!resumeShape kind unit what, eRange)] d (fun d =>
    if kind = 1 then
      match d.suspendedFetch c.dom unit what.toNat with
      | some _ => answer {} (failFetch unit what.toNat 6 d)
      | none => answer (fail eState) d
    else
      match d.suspendedWork c.dom unit what, d.lkSuspended c.dom unit what with
      | some w, _ => answer {} (abortWork w 0 d)
      | none, some r => answer {} (lkAbort r 0 d)
      | none, none => answer (fail eState) d)

/-- DUMP_CONFIG; DM has no dump ring (14 R446). -/
def dumpBody (c : Cmd) (period mask : Nat) (d : Dev) : Answer :=
  checked [(decide (1048576 < period), eRange), (decide (c.dom = dmCode), ePerm)] d (dumpConfigBody c period mask)

/-- What a taken command does (14). -/
def effectOf (i : Instr) (c : Cmd) (d : Dev) : Answer :=
  match i with
  | .stageDiscard _ o => stageDiscardBody c o d
  | .stageFret _ o => stageBody c cFret o d
  | .stageDomainMap _ o => stageBody c cDomainMap o d
  | .stageQuota _ o => stageBody c cQuota o d
  | .stagePortLayout _ o => stageBody c cPortLayout o d
  | .stageLane _ o => stageBody c cLane o d
  | .stageFaultMirror _ o => stageBody c cFaultMirror o d
  | .stageMgmtPort _ o => stageBody c cMgmtPort o d
  | .stageSmvGroup _ o => stageBody c cSmvGroup o d
  | .stageParseNode _ o => stageBody c cParseNode o d
  | .stageParseTrans _ o => stageBody c cParseTrans o d
  | .stageParsePattern _ o => stageBody c cParsePattern o d
  | .stageParsePort _ o => stageBody c cParsePort o d
  | .stageRecirc _ o => stageBody c cRecirc o d
  | .stagePunt _ o => stageBody c cPunt o d
  | .stageKeyProfile _ o => stageBody c cKeyProfile o d
  | .stageTcam _ o => stageBody c cTcam o d
  | .stageClsPort _ o => stageBody c cClsPort o d
  | .stageService _ o => stageBody c cService o d
  | .stageLpm _ o => stageBody c cLpm o d
  | .stageChannel _ o => stageBody c cChannel o d
  | .stageMacsecPort _ o => stageBody c cMacsecPort o d
  | .stageSecy _ o => stageBody c cSecy o d
  | .stageTxSc _ o => stageBody c cTxSc o d
  | .stageRxSc _ o => stageBody c cRxSc o d
  | .stageSa _ o => stageBody c cSa o d
  | .stageLlPair _ o => stageBody c cLlPair o d
  | .stageBlobTable _ o => stageBody c cBlobTable o d
  | .stagePark _ o => stageBody c cPark o d
  | .stageStampPort _ o => stageBody c cStampPort o d
  | .stageTimePin _ o => stageBody c cTimePin o d
  | .stageTimeGlobal _ o => stageBody c cTimeGlobal o d
  | .stageEgressPort _ o => stageBody c cEgressPort o d
  | .stageQueue _ o => stageBody c cQueue o d
  | .stageGateList _ o => stageBody c cGateList o d
  | .stageMeter _ o => stageBody c cMeter o d
  | .stageTrustMap _ o => stageBody c cTrustMap o d
  | .check _ => checkBody c d
  | .armCommit _ t a => armCommitBody c t a d
  | .cancelCommit _ => cancelBody c d
  | .standingSave _ => standingSaveBody c d
  | .standingClear _ => standingClearBody c d
  | .tblInsert _ s f m p q z => tblInsertBody c s f m p q z d
  | .tblDelete _ s f m => tblDeleteBody c s f m d
  | .tblSearch _ o => tblSearchBody c o d
  | .tblNext _ o => tblNextBody c o d
  | .tblFlushPort _ p z => tblFlushPortBody c p z d
  | .keyGenerate _ k => keyGenerateBody c k d
  | .keyImport _ k kek f _ l b => keyImportBody c k kek f l b d
  | .keyDerive _ k q _ l m b => keyDeriveBody c k q l m b d
  | .keyWriteClear _ k z _ b => keyWriteClearBody c k z b d
  | .keyPin _ x n a b => keyPinBody c x n a b d
  | .keyUnpin _ n => keyUnpinBody c n d
  | .keyEvict _ x => keyEvictBody c x d
  | .keyExport _ x kek f a => keyExportBody c x kek f a d
  | .keyParentBind _ e n => keyParentBindBody c e n d
  | .keyRevoke _ e => keyRevokeBody c e d
  | .keyDomainRoll _ t => keyDomainRollBody c t d
  | .keyStatus _ k n => keyStatusBody c k n d
  | .keyMgmtSet _ n f kek _ l b => keyMgmtSetBody c n f kek l b d
  | .saInit _ n p t => saBody c n (.saInit c n p t) d
  | .saEnable _ n => saBody c n (.saEnable c n) d
  | .saDisable _ n => saBody c n (.saDisable c n) d
  | .saSetLowestPn _ n p => saBody c n (.saSetLowest c n p) d
  | .saRead _ n a => saReadBody c n a d
  | .saSmvArm _ s e tx rx t => smvArmBody c s e tx rx t d
  | .saSmvCancel _ s => smvCancelBody c s d
  | .saSmvRead _ s a => smvReadBody c s a d
  | .saSmvStop _ s => smvStopBody c s d
  | .tbInc _ t w f => tbIncBody c t w f d
  | .tbStep _ o => tbStepBody c o d
  | .tbRead _ t a => tbReadBody c t a d
  | .cntRead _ n q z a => cntReadBody c n q z a d
  | .cntLaneRead _ l z => cntLaneReadBody c l z d
  | .cntSelect _ n e q => cntSelectBody c n e q d
  | .dumpConfig _ p m => dumpBody c p m d
  | .fwBegin _ n l => fwBeginBody c n l d
  | .fwBlock _ n o _ l b => fwBlockBody c n o l b d
  | .fwVerify _ n => fwVerifyBody c n d
  | .fwSchedule _ n t => fwScheduleBody c n t d
  | .fwCancel _ n => fwCancelBody c n d
  | .fwStatus _ a => fwStatusBody c a d
  | .fwRevert _ => fwRevertBody c d
  | .lcStatus _ a => lcStatusBody c a d
  | .lcTransition _ t _ l b => lcTransitionBody c t l b d
  | .lcSetSupervisor _ t => lcSetSupervisorBody c t d
  | .lcDebugScrub _ _ l b => lcDebugScrubBody c l b d
  | .tamperConfig _ n x lo hi => tamperConfigBody c n x lo hi d
  | .tamperClear _ m => tamperClearBody c m d
  | .tamperLogRead _ n q a => tamperLogReadBody c n q a d
  | .resume _ k u w => resumeBody c k u w d
  | .abort _ k u w => abortBody c k u w d
  | .lkCbc _ j => lkBody 1 j c d
  | .lkCtr _ j => lkBody 2 j c d
  | .lkCfb _ j => lkBody 3 j c d
  | .lkGcm _ j => lkBody 4 j c d
  | .lkCmac _ j => lkBody 5 j c d
  | .lkWrap _ j => lkBody 6 j c d
  | .lkUnwrap _ j => lkBody 7 j c d
  | .lkKdf _ j => lkBody 8 j c d
  | .lkHash _ j => lkBody 9 j c d
  | .lkVerify _ j => lkBody 10 j c d
  | _ => answer (fail eRange) d

/-! ### The checks before a command's own (14 R434) -/

/-- States of the whole device in which a command completes with E_STATE: LOCKED (16 R492), END_OF_LIFE (16 R489), no
firmware (17 R516), LOCKDOWN for key commands (16 R478). -/
def Dev.denies (d : Dev) (op : Nat) (i : Instr) : Bool :=
  let ending := match i with
    | .lcTransition _ t _ _ _ => decide (t = 4)
    | _ => false
  let fw := decide (0x0801 ≤ op ∧ op ≤ 0x0807)
  (d.tamper.locked && !(decide (op = 0x0901 ∨ op = 0x0912) || ending)) ||
    (!d.tamper.locked && decide (d.lc = 4) && decide (op ≠ 0x0901)) ||
    (d.power.noFw && !(fw || decide (op = 0x0901))) ||
    (d.lockdown && isKeyOp op && decide (op ≠ 0x040C))

/-- A command of class ONCE, as far as it has output (14 R435). -/
def onceOp : Instr → Bool
  | .cntRead _ _ _ clear _ => clear
  | .keyGenerate _ _ => true
  | .keyImport _ _ _ _ _ _ _ => true
  | .keyDerive _ _ _ _ _ _ _ => true
  | .keyWriteClear _ _ sealed _ _ => sealed
  | .tbStep _ _ => true
  | _ => false

/-- The limits of a DM command's output (13 R423, 14 R438); one that passes them has no effect. -/
def dmLimit (i : Instr) (d : Dev) (a : Answer) : Answer :=
  match a.2 with
  | some r =>
    let n := (r.outs.map (fun o => o.2.length)).sum
    if 1024 < n ∨ (onceOp i ∧ 128 < n) then answer (fail eLen) d else a
  | none => a

/-- What a command answers. -/
def answerOf (i : Instr) (c : Cmd) (d : Dev) : Answer :=
  let a := effectOf i c d
  if c.dom = dmCode then dmLimit i d a else a

/-- The key commands whose cipher work runs on the lookaside cores (10 R313): KEY_IMPORT, KEY_DERIVE, KEY_EXPORT. -/
def isCipherOp (op : Nat) : Bool := decide (op = 0x0402 ∨ op = 0x0403 ∨ op = 0x0408)

/-- The answer of a command takes effect; one that needs cipher work answers once a core has done it. -/
def carryOut (c : Cmd) (a : Answer) : Dev :=
  match a.2 with
  | some r => if isCipherOp c.op ∧ r.status = 0 then lkInternal (.key c r) a.1 else deliver finishWork c r a.1
  | none => a.1

/-- Where a command reads its input: `KEY_PIN` names its blob, or takes it from the domain's table (09 R298). -/
def inputOf (i : Instr) (dom : Nat) (d : Dev) : Option (Nat × Nat) :=
  match i with
  | .keyPin _ x _ a _ => some (d.blobAddr dom x a, 96)
  | _ => i.input.filter (fun x => decide (x.2 ≠ 0))

/-- A command whose authorisation record has not been read. -/
def unread : Instr → Instr
  | .lcTransition h t a l _ => .lcTransition h t a l []
  | .lcDebugScrub h a l _ => .lcDebugScrub h a l []
  | i => i

/-- The reply of the checks that need no input, orders 1 and 2 of 14 R434, where one fails: E_RANGE or E_PERM. The prefix that
`STAGE_LPM` names lies in its input; `CHECK`, `ARM_COMMIT`, `KEY_PIN` and `KEY_PARENT_BIND` give those statuses in checks of
their own too. -/
def earlyFail (i : Instr) (c : Cmd) (d : Dev) : Option Reply :=
  let own (cs : List (Bool × Nat)) : Option Reply := (firstFail cs).map (fun e => fail e)
  match i with
  | .stageLpm _ _ | .check _ | .armCommit _ _ _ => none
  | .keyPin _ x n a _ => own ((pinFails d c.dom x n a).take 3)
  | .keyParentBind _ e n => own [(decide (1023 < e ∨ 16384 ≤ n), eRange),
      (!quotaParent (d.quota c.dom) e || !d.ownsSlot c.dom n, ePerm)]
  | _ => (effectOf (unread i) c d).2.filter (fun r => decide (r.status = eRange ∨ r.status = ePerm))

/-- A command that writes the vault: a key command, or `TAMPER_CONFIG`. -/
def touchesVault (op : Nat) : Bool := isKeyOp op || decide (op = 0x0910)

/-- A command that has passed the conditions of the device: a key command waits while the key manager moves no key, and
`TAMPER_CONFIG` while the vault accepts no write (16 R474); a domain's command reads its input first. -/
def beginCmd (i : Instr) (c : Cmd) (d : Dev) : Dev :=
  if d.frozen ∧ touchesVault c.op then d.onKeys (fun k => { k with frozen := k.frozen ++ [(c, i)] })
  else
    match inputOf i c.dom d with
    | none => carryOut c (answerOf i c d)
    | some x =>
      if c.dom = dmCode ∨ (earlyFail i c d).isSome then carryOut c (answerOf i c d)
      else workGo finishWork { instr := some i, cmd := c, todo := (pagesOf x.1 x.2).map (fun p => (p.1, p.2, false)) } d

/-- A job that ends before its own checks counts among those in error (10 R334). -/
def lkRefused (c : Cmd) (d : Dev) : Dev := if isLkOp c.op then bump 0x0E1 c.dom d else d

/-- A command that is no duplicate is executed; none stands for a descriptor that spells no command (14 R434). -/
def startCmd (oi : Option Instr) (c : Cmd) (d : Dev) : Dev :=
  match oi with
  | none => finish c (fail eRange) (lkRefused c d)
  | some i =>
    if isLkOp c.op ≠ decide (3 ≤ c.ring) then finish c (fail eRange) (lkRefused c d)
    else if d.denies c.op i then finish c ((earlyFail i c d).getD (fail eState)) (lkRefused c d)
    else beginCmd i c d

/-! ### Taking a command (14 R437) -/

/-- The answer to a tag that is in use with another command. -/
def conflictOf (c : Cmd) : Completion :=
  { opcode := c.op, ring := if c.dom = dmCode then 0 else c.ring, flags := 0, tag := c.tag, status := eConflict,
    detail := 0xFFFF, value := 0, result := [] }

/-- A command taken is in progress. -/
def enter (c : Cmd) (d : Dev) : Dev := d.onDom c.dom (fun D => { D with inProg := D.inProg ++ [{ cmd := c }] })

/-- A command is taken: its tag is compared with the history of its ring and with the commands in progress. -/
def runCmd (oi : Option Instr) (c : Cmd) (d : Dev) : Dev :=
  let d := progEvent 0x110 2 c.dom 1 d
  let go (d : Dev) : Dev := startCmd oi c (enter c d)
  if c.tag = 0 then go d
  else
    match (d.ring c.dom c.ring).history.find? (fun x => x.tag = c.tag) with
    | some x =>
      if x.crc = c.crc then post c { x.comp with flags := x.comp.flags ||| 1 } x.data d else post c (conflictOf c) [] (lkRefused c d)
    | none =>
      let mine (p : InProg) : Bool := p.cmd.ring = c.ring && p.cmd.tag = c.tag
      match (d.dom c.dom).inProg.find? mine with
      | some p =>
        if p.cmd.crc = c.crc then
          d.onDom c.dom (fun D => { D with inProg := modFirst mine (fun x => { x with dups := x.dups ++ [c.port] }) D.inProg })
        else post c (conflictOf c) [] (lkRefused c d)
      | none => go d

/-- Whether the device takes commands of a domain: it exists, is not in reset, and a LOCKED device or one without
firmware hears D0 on E0, the latter DM too (16 R492, 17 R516). -/
def Dev.admits (d : Dev) (dom : Nat) : Bool :=
  let first := decide (dom = 0) && (d.place 0).any (fun x => decide (x.1 = 0))
  d.power.ready && d.domExists dom && !(d.page dom).resetBusy && (!d.tamper.locked || first) &&
    (!d.power.noFw || first || decide (dom = dmCode))

/-- Completions that DM's queue holds (13 R424). -/
def dmQueue : Nat := 256

/-- DM's completion queue has room for the completions of its commands in progress, those of their duplicates included, and of
one more. -/
def Dev.dmRoom (d : Dev) : Bool :=
  decide (d.host.hem.comps.length + ((d.dom dmCode).inProg.map (fun p => 1 + p.dups.length)).sum < dmQueue)

/-- Work of a ring is suspended: the device takes no later command from it (13 R415). DM's commands are taken only where its
completion queue has room (13 R424). While LOCKDOWN is in force no lookaside
job is taken, because none may start and no completion of one be posted (10 R330). -/
def Dev.ringBlocked (d : Dev) (dom ring : Nat) : Bool :=
  (d.dom dom).works.any (fun w => w.cmd.ring = ring && (match w.state with | .suspended _ _ => true | .walking => false)) ||
    d.lk.runs.any (fun r => r.cmd.dom = dom && r.cmd.ring = ring &&
      (match r.at_ with | .suspended _ _ => true | _ => false)) ||
    (d.lockdown && decide (3 ≤ ring)) || (decide (dom = dmCode) && !d.dmRoom)

/-- The commands of a ring that wait are taken, in order, as long as nothing blocks the ring. -/
def drain (dom ring : Nat) : Nat → Dev → Dev
  | 0, d => d
  | n + 1, d =>
    match (d.ring dom ring).waiting with
    | [] => d
    | (c, oi) :: rest =>
      if !d.serves || !d.admits dom || d.ringBlocked dom ring then d
      else drain dom ring n (runCmd oi c (d.onRing dom ring (fun r => { r with waiting := rest })))

/-- Every ring of a domain goes on. -/
def drainDom (dom : Nat) (d : Dev) : Dev :=
  forEach hostRings (fun r d => drain dom r (d.ring dom r).waiting.length d) d

/-- The command processor has a command: it takes it, or keeps it in order behind those that wait. RESUME and ABORT are
executed at once on a blocked ring (13 R415). DM's lookaside jobs are never taken (14 R446). -/
def take (c : Cmd) (oi : Option Instr) (d : Dev) : Dev :=
  if !d.admits c.dom ∨ (c.dom = dmCode ∧ isLkOp c.op) then d
  else
    let unblocks := decide (c.op = 0x0A01 ∨ c.op = 0x0A02) && decide (c.dom ≠ dmCode)
    let waits := !d.serves || (!unblocks && (d.ringBlocked c.dom c.ring || !(d.ring c.dom c.ring).waiting.isEmpty))
    if waits then d.onRing c.dom c.ring (fun r => { r with waiting := r.waiting ++ [(c, oi)] })
    else drainDom c.dom (runCmd oi c d)

/-- The taken command of a header and an opcode; DM's comes on the management port of the present frame. -/
def commandOf (h : Hdr) (op : Nat) (d : Dev) : Cmd :=
  { dom := h.dom, port := d.host.hem.curPort, ring := h.ring, tag := h.tag, crc := h.crc, op := op }

/-- A host command comes to the command processor. -/
def command (i : Instr) (d : Dev) : Dev :=
  match i.hdr with
  | none => d
  | some h => take (commandOf h i.opcode d) (if h.bad then none else some i) d

/-! ### Descriptors and frames that bring commands (13 R402, R403, R418 to R423) -/

/-- A descriptor of a ring is being read: since when. -/
def Ring.reads (r : Ring) : Option Nat :=
  match r.fetch with
  | .reading t => some t
  | _ => none

/-- The read of a descriptor has failed: the descriptor is fetched again at the next poll (13 R402). -/
def descriptorLost (dom ring : Nat) (d : Dev) : Dev :=
  badRead dom ((endFetch dom ring d).onRing dom ring (fun r => { r with fetched := fetchLimit }))

/-- DESCRIPTOR_FETCH_DONE: DEV_INDEX moves past a descriptor that was read whole. One that arrives for a ring no longer in use,
or while the course takes none, is dropped, and a later poll fetches it again. -/
def descriptorFetchDone (dom ring : Nat) (ok : Bool) (desc data aux state : Bytes) (d : Dev) : Dev :=
  if (d.ring dom ring).reads.isNone then d
  else if !ok then descriptorLost dom ring d
  else if !d.ringUp dom ring || !d.serves || !d.admits dom then endFetch dom ring d
  else
    let c : Cmd := { dom := dom, ring := ring, tag := BitVec.ofNat 32 (leAt desc 4 4), crc := crc32c desc, op := leAt desc 0 2 }
    let d := d.onRing dom ring (fun r => { r with devIndex := r.devIndex + 1, fetched := r.fetched + 1, fetch := .none })
    let d := ringPut dom ring (.dump []) d
    issueFetch dom ring (take c (decodeDesc dom ring desc data aux state) d)

def execDescriptorFetchDone (dom ring : Nat) (ok : Bool) (desc data aux stateRec : Bytes) (s : State) :
    Host.Outcome State Fault Refusal := .next (s.onDev (descriptorFetchDone dom ring ok desc data aux stateRec))

/-- The command of a descriptor in a frame; an input range outside the data area is an error of format (13 R423). -/
def dmDecode (desc area : Bytes) : Option Instr :=
  (decodeDesc dmCode 0 desc [] [] []).bind (fun i =>
    match i, i.input with
    | .keyPin _ _ _ 0 _, _ => some i
    | _, none => some i
    | _, some x => if area.length < x.1 + x.2 then none else decodeDesc dmCode 0 desc (bytesAt area x.1 x.2) [] [])

/-- The commands of an accepted frame are taken, in order. -/
def hemCommands (port : Nat) (f : Bytes) (d : Dev) : Dev :=
  let n := leAt f 40 1
  let area := bytesAt f (48 + 64 * n) (beAt f 46 2)
  let d := d.onHem (fun h => { h with curPort := port })
  forEach (List.range n) (fun k d =>
    let desc := bytesAt f (48 + 64 * k) 64
    let c : Cmd := { dom := dmCode, port := port, ring := 0, tag := BitVec.ofNat 32 (leAt desc 4 4), crc := crc32c desc,
                     op := leAt desc 0 2 }
    take c (dmDecode desc area) d) d

/-- HEMUNER_COMMAND_FRAME. -/
def hemunerCommand (port : Nat) (f : Bytes) (d : Dev) : Dev :=
  if leAt f 15 1 = 5 then d else hemArrive port f (hemCommands port f) d

def execHemunerCommandFrame (port : Nat) (frame : Bytes) (s : State) : Host.Outcome State Fault Refusal :=
  .next (s.onDev (hemunerCommand port frame))

/-! ### Data transfers of commands (13 R386, R408, R414 to R416) -/

/-- A walk, or the read of a command's input, ends. -/
def workRead (w : Work) (es : List (BitVec 64)) (ok : Bool) (d : Dev) : Dev :=
  let c := w.cmd
  let d := if ok then d else badRead c.dom d
  match w.todo, w.instr with
  | a :: _, _ =>
    let resumed (r : Reply) (d : Dev) : Dev := match w.resumer with
      | some by_ => finish by_ r d
      | none => d
    (match (if ok then walk a.1 a.2.2 es else .error 6) with
     | .ok leaf => workGo finishWork w (resumed {} (tlbInsert c.dom a.1 leaf d))
     | .error cause => suspendWork w cause (resumed (fail eFault) d))
  | [], some i =>
    let d := dropWork c d
    if ok then carryOut c (answerOf i c d) else finish c (fail (Config.readFailStatus d.freeCtr)) d.nextFree
  | [], none => d

/-- A read of a running lookaside job ends unsuccessfully: the job ends. -/
def lkReadFailed (r : LkRun) (d : Dev) : Dev :=
  let d := freeCoreOf r.id (badRead r.cmd.dom d)
  lkDispatch (lkEnd r (fail (Config.readFailStatus d.freeCtr)) d.nextFree)

/-- Internal work ends: the key command answers, the verification or the pairing step goes on. While the course is HALTED it
is lost, and the restart ends what waited for it (15 R462). -/
def intDone (w : IntWork) (d : Dev) : Dev :=
  if d.halted then d
  else
    match w with
    | .key c r => drainDom c.dom (deliver finishWork c r d)
    | .fw => fwVerified d
    | .pair slice => pairStepDone slice d

/-- A core ends its segment, of a job or of internal work. -/
def coreEnd (c : Nat) (d : Dev) : Dev :=
  let core := d.lk.cores.getD c {}
  match core.job.bind d.intRun with
  | some w => if core.waits then d else lkRefill c (intDone w.work (dropInt w.id (freeCore c d)))
  | none => lkSegmentEnd c d

/-- LK_SEGMENT_END. -/
def execLkSegmentEnd (core : Nat) (s : State) : Host.Outcome State Fault Refusal := .next (s.onDev (coreEnd core))

/-- A read for a ring's command returns: of its walk, or of its data. -/
def commandRead (dom ring : Nat) (tag : BitVec 32) (es : List (BitVec 64)) (ok : Bool) (d : Dev) : Dev :=
  let mine (w : Work) : Bool := w.cmd.ring = ring && w.cmd.tag = tag && decide (w.state = .walking)
  match (d.dom dom).works.find? mine, d.lkWalking dom ring tag with
  | some w, _ => workRead w es ok d
  | none, some r => lkWalked r es ok (if ok then d else badRead dom d)
  | none, none =>
    match d.lk.runs.find? (fun r => r.cmd.dom = dom && r.cmd.ring = ring && r.cmd.tag = tag && decide (r.at_ = .running) &&
        r.out.isNone) with
    | some r => if ok then d else lkReadFailed r d
    | none => d

/-- The walk that a target waits for: the class of its access and its IOVA. The walks of key-miss fetches are read with their
blobs. -/
def Dev.walkOf (d : Dev) (dom : Nat) (t : DmaTarget) : Option (Nat × Nat) :=
  match t with
  | .work ring tag =>
    match (d.dom dom).works.find? (fun w => w.cmd.ring = ring && w.cmd.tag = tag && decide (w.state = .walking)) with
    | some w => w.todo.head?.map (fun a => (ringClass ring, a.1))
    | none => (d.lkWalking dom ring tag).bind (fun r => (lkBlocked d r).map (fun b => (3, b.1.1)))
  | .keyMiss _ _ | .descriptor _ => none
  | .ringStructure => (d.structWaits dom).map (fun w => (if entryFault w.2.1 w.1 ∧ w.2.1 = 8 then 1 else 2, w.2.2.1))

/-- DMA_READ_COMPLETION, and DMA_COMPLETION_TIMEOUT as an unsuccessful one. -/
def readDone (dom : Nat) (t : DmaTarget) (es : List (BitVec 64)) (ok : Bool) (d : Dev) : Dev :=
  let d := if es = [] then d else progEvent 0x102 2 dom 1 d
  let d := match d.walkOf dom t with
    | some (cls, iova) => tableReads dom cls iova es d
    | none => d
  drainDom dom (match t with
    | .work ring tag => commandRead dom ring tag es ok d
    | .keyMiss slice r =>
      if (d.missRec slice r).any (fun m => m.dom = dom && (decide (m.fetch = .walking) || !ok)) then
        blobReadCompletion slice r es ok [] d
      else d
    | .descriptor ring => if ok || (d.ring dom ring).reads.isNone then d else descriptorLost dom ring d
    | .ringStructure => structWalked dom es ok d)

def execDmaReadCompletion (dom : Nat) (target : DmaTarget) (walk : List (BitVec 64)) (ok : Bool) (s : State) :
    Host.Outcome State Fault Refusal := .next (s.onDev (readDone dom target walk ok))

/-- When the read was issued that a target waits for; the present moment for one whose time the device does not keep. -/
def Dev.readSince (d : Dev) (dom : Nat) (t : DmaTarget) : Nat :=
  match t with
  | .work ring tag =>
    ((((d.dom dom).works.find? (fun w => w.cmd.ring = ring && w.cmd.tag = tag && decide (w.state = .walking))).map
      Work.since).or ((d.lk.runs.find? (fun r => r.cmd.dom = dom && r.cmd.ring = ring && r.cmd.tag = tag &&
        decide (r.at_ = .running ∨ r.at_ = .walking))).map LkRun.since)).getD d.now
  | .keyMiss slice r => ((d.missRec slice r).map MissRec.since).getD d.now
  | .descriptor ring => ((d.ring dom ring).reads).getD d.now
  | .ringStructure =>
    match d.structWaits dom with
    | none | some (1, _, _, _) => if (d.dom dom).pollOut then (d.dom dom).pollSince else d.now
    | some (3, ring, _, _) => ((d.ring dom ring).walks.map Prod.fst).getD d.now
    | some _ => (d.dom dom).heldSince

/-- The completion timeout of a read of a domain, in ns: of a key-miss fetch the shorter of Device Control's and 50 µs (13
R386). -/
def Dev.readTimeout (d : Dev) (dom : Nat) (t : DmaTarget) : Nat :=
  let set := (d.ep (((d.place dom).map Prod.fst).getD 0)).timeoutNs
  match t with
  | .keyMiss _ _ => min set 50000
  | _ => set

/-- DMA_COMPLETION_TIMEOUT: an unsuccessful completion once the timeout has passed. -/
def readTimedOut (dom : Nat) (t : DmaTarget) (d : Dev) : Dev :=
  readDone dom t [] false (advanceTo (d.readSince dom t + nsTicks (d.readTimeout dom t)) d)

def execDmaCompletionTimeout (dom : Nat) (target : DmaTarget) (s : State) : Host.Outcome State Fault Refusal :=
  .next (s.onDev (readTimedOut dom target))

/-- COMMAND_SUSPEND_TIMEOUT: 1 s after its fault the device aborts the command itself (13 R415). -/
def suspendTimeout (dom ring : Nat) (tag : BitVec 32) (d : Dev) : Dev :=
  if d.halted then d
  else
    match d.suspendedWork dom ring tag, d.lkSuspended dom ring tag with
    | some w, _ =>
      (match w.state with
       | .suspended _ t => drainDom dom (abortWork w 2 (advanceTo (t + 500000000) d))
       | .walking => d)
    | none, some r =>
      (match r.at_ with
       | .suspended _ t => drainDom dom (lkAbort r 2 (advanceTo (t + 500000000) d))
       | _ => d)
    | none, none => d

def execCommandSuspendTimeout (dom ring : Nat) (tag : BitVec 32) (s : State) : Host.Outcome State Fault Refusal :=
  .next (s.onDev (suspendTimeout dom ring tag))

/-! ### The command processor goes on -/

/-- A frame that waits in the buffer of its port is taken in. -/
def takeBuffered (port : Nat) (d : Dev) : Dev :=
  match d.host.hem.buffer.getD port none with
  | none => d
  | some f =>
    let d := d.onHem (fun h => { h with buffer := h.buffer.set port none })
    hemArrive port f (if leAt f 15 1 = 5 then hemAck f else hemCommands port f) d

/-- What a provisional freeze has held: key commands taken, outputs written whose key waits for its slot, blobs fetched, and
jobs whose cores get no key. -/
def thaw (d : Dev) : Dev :=
  if d.frozen then d
  else
    let cs := d.keys.frozen
    let d := forEach cs (fun x d =>
      if d.denies x.1.op x.2 then finish x.1 (fail eState) d else beginCmd x.2 x.1 d) (d.onKeys (fun k => { k with frozen := [] }))
    let d := forEach (d.host.doms.flatMap (fun D => D.works.filter (fun w => w.todo.isEmpty && w.reply.isSome)))
      (fun w d => workGo finishWork w d) d
    lkDispatch (openArrived d)

/-- Whatever waited for the command processor goes on, where it serves again. -/
def wake (d : Dev) : Dev :=
  if !d.serves then d
  else forEach d.doms drainDom (takeBuffered 1 (takeBuffered 0 (thaw d)))

/-- MG_SYNC_ACQUIRED: the completions that waited for the port leave. -/
def execMgSyncAcquired (port : Nat) (s : State) : Host.Outcome State Fault Refusal :=
  .next (s.onDev (fun d => wake (hemFlush (mgSyncAcquired port d))))

/-- DOORBELL_RECORD_READ. -/
def execDoorbellRecordRead (dom : Nat) (recs : List DbRec) (s : State) : Host.Outcome State Fault Refusal :=
  .next (s.onDev (fun d => recordRead dom recs (wake d)))

/-- FW_STEP_DONE. -/
def execFwStepDone (s : State) : Host.Outcome State Fault Refusal := .next (s.onDev (fun d => wake (fwStepDone d)))

/-- RESYNC_COMPLETE. -/
def execResyncComplete (copiesEqual : Bool) (s : State) : Host.Outcome State Fault Refusal :=
  .next (s.onDev (fun d => wake (resyncDone copiesEqual d)))

/-- COURSE_RESTART_DONE; a start that waited for the course goes on with its steps 8 to 10 (19 R549). -/
def courseRestart (pass : List Bool) (d : Dev) : Dev :=
  let d := restartDone pass d
  wake (if d.power.halfUp ∧ !d.halted then startRest d else d)

def execCourseRestartDone (pass : List Bool) (s : State) : Host.Outcome State Fault Refusal :=
  .next (s.onDev (courseRestart pass))

/-- RAIL_RECOVERED. -/
def execRailRecovered (rail mv : Nat) (s : State) : Host.Outcome State Fault Refusal :=
  .next (s.onDev (fun d => wake (railBack rail mv d)))

/-! ### The command rows (14) -/

/-- STAGE_DISCARD. -/
def execStageDiscard (h : Hdr) (op : StageOps) (s : State) : Host.Outcome State Fault Refusal :=
  .next (s.onDev (command (.stageDiscard h op)))

/-- STAGE_FRET. -/
def execStageFret (h : Hdr) (op : StageOps) (s : State) : Host.Outcome State Fault Refusal :=
  .next (s.onDev (command (.stageFret h op)))

/-- STAGE_DOMAIN_MAP. -/
def execStageDomainMap (h : Hdr) (op : StageOps) (s : State) : Host.Outcome State Fault Refusal :=
  .next (s.onDev (command (.stageDomainMap h op)))

/-- STAGE_QUOTA. -/
def execStageQuota (h : Hdr) (op : StageOps) (s : State) : Host.Outcome State Fault Refusal :=
  .next (s.onDev (command (.stageQuota h op)))

/-- STAGE_PORT_LAYOUT. -/
def execStagePortLayout (h : Hdr) (op : StageOps) (s : State) : Host.Outcome State Fault Refusal :=
  .next (s.onDev (command (.stagePortLayout h op)))

/-- STAGE_LANE. -/
def execStageLane (h : Hdr) (op : StageOps) (s : State) : Host.Outcome State Fault Refusal :=
  .next (s.onDev (command (.stageLane h op)))

/-- STAGE_FAULT_MIRROR. -/
def execStageFaultMirror (h : Hdr) (op : StageOps) (s : State) : Host.Outcome State Fault Refusal :=
  .next (s.onDev (command (.stageFaultMirror h op)))

/-- STAGE_MGMT_PORT. -/
def execStageMgmtPort (h : Hdr) (op : StageOps) (s : State) : Host.Outcome State Fault Refusal :=
  .next (s.onDev (command (.stageMgmtPort h op)))

/-- STAGE_SMV_GROUP. -/
def execStageSmvGroup (h : Hdr) (op : StageOps) (s : State) : Host.Outcome State Fault Refusal :=
  .next (s.onDev (command (.stageSmvGroup h op)))

/-- STAGE_PARSE_NODE. -/
def execStageParseNode (h : Hdr) (op : StageOps) (s : State) : Host.Outcome State Fault Refusal :=
  .next (s.onDev (command (.stageParseNode h op)))

/-- STAGE_PARSE_TRANS. -/
def execStageParseTrans (h : Hdr) (op : StageOps) (s : State) : Host.Outcome State Fault Refusal :=
  .next (s.onDev (command (.stageParseTrans h op)))

/-- STAGE_PARSE_PATTERN. -/
def execStageParsePattern (h : Hdr) (op : StageOps) (s : State) : Host.Outcome State Fault Refusal :=
  .next (s.onDev (command (.stageParsePattern h op)))

/-- STAGE_PARSE_PORT. -/
def execStageParsePort (h : Hdr) (op : StageOps) (s : State) : Host.Outcome State Fault Refusal :=
  .next (s.onDev (command (.stageParsePort h op)))

/-- STAGE_RECIRC. -/
def execStageRecirc (h : Hdr) (op : StageOps) (s : State) : Host.Outcome State Fault Refusal :=
  .next (s.onDev (command (.stageRecirc h op)))

/-- STAGE_PUNT. -/
def execStagePunt (h : Hdr) (op : StageOps) (s : State) : Host.Outcome State Fault Refusal :=
  .next (s.onDev (command (.stagePunt h op)))

/-- STAGE_KEY_PROFILE. -/
def execStageKeyProfile (h : Hdr) (op : StageOps) (s : State) : Host.Outcome State Fault Refusal :=
  .next (s.onDev (command (.stageKeyProfile h op)))

/-- STAGE_TCAM. -/
def execStageTcam (h : Hdr) (op : StageOps) (s : State) : Host.Outcome State Fault Refusal :=
  .next (s.onDev (command (.stageTcam h op)))

/-- STAGE_CLS_PORT. -/
def execStageClsPort (h : Hdr) (op : StageOps) (s : State) : Host.Outcome State Fault Refusal :=
  .next (s.onDev (command (.stageClsPort h op)))

/-- STAGE_SERVICE. -/
def execStageService (h : Hdr) (op : StageOps) (s : State) : Host.Outcome State Fault Refusal :=
  .next (s.onDev (command (.stageService h op)))

/-- STAGE_LPM. -/
def execStageLpm (h : Hdr) (op : StageOps) (s : State) : Host.Outcome State Fault Refusal :=
  .next (s.onDev (command (.stageLpm h op)))

/-- STAGE_CHANNEL. -/
def execStageChannel (h : Hdr) (op : StageOps) (s : State) : Host.Outcome State Fault Refusal :=
  .next (s.onDev (command (.stageChannel h op)))

/-- STAGE_MACSEC_PORT. -/
def execStageMacsecPort (h : Hdr) (op : StageOps) (s : State) : Host.Outcome State Fault Refusal :=
  .next (s.onDev (command (.stageMacsecPort h op)))

/-- STAGE_SECY. -/
def execStageSecy (h : Hdr) (op : StageOps) (s : State) : Host.Outcome State Fault Refusal :=
  .next (s.onDev (command (.stageSecy h op)))

/-- STAGE_TX_SC. -/
def execStageTxSc (h : Hdr) (op : StageOps) (s : State) : Host.Outcome State Fault Refusal :=
  .next (s.onDev (command (.stageTxSc h op)))

/-- STAGE_RX_SC. -/
def execStageRxSc (h : Hdr) (op : StageOps) (s : State) : Host.Outcome State Fault Refusal :=
  .next (s.onDev (command (.stageRxSc h op)))

/-- STAGE_SA. -/
def execStageSa (h : Hdr) (op : StageOps) (s : State) : Host.Outcome State Fault Refusal :=
  .next (s.onDev (command (.stageSa h op)))

/-- STAGE_LL_PAIR. -/
def execStageLlPair (h : Hdr) (op : StageOps) (s : State) : Host.Outcome State Fault Refusal :=
  .next (s.onDev (command (.stageLlPair h op)))

/-- STAGE_BLOB_TABLE. -/
def execStageBlobTable (h : Hdr) (op : StageOps) (s : State) : Host.Outcome State Fault Refusal :=
  .next (s.onDev (command (.stageBlobTable h op)))

/-- STAGE_PARK. -/
def execStagePark (h : Hdr) (op : StageOps) (s : State) : Host.Outcome State Fault Refusal :=
  .next (s.onDev (command (.stagePark h op)))

/-- STAGE_STAMP_PORT. -/
def execStageStampPort (h : Hdr) (op : StageOps) (s : State) : Host.Outcome State Fault Refusal :=
  .next (s.onDev (command (.stageStampPort h op)))

/-- STAGE_TIME_PIN. -/
def execStageTimePin (h : Hdr) (op : StageOps) (s : State) : Host.Outcome State Fault Refusal :=
  .next (s.onDev (command (.stageTimePin h op)))

/-- STAGE_TIME_GLOBAL. -/
def execStageTimeGlobal (h : Hdr) (op : StageOps) (s : State) : Host.Outcome State Fault Refusal :=
  .next (s.onDev (command (.stageTimeGlobal h op)))

/-- STAGE_EGRESS_PORT. -/
def execStageEgressPort (h : Hdr) (op : StageOps) (s : State) : Host.Outcome State Fault Refusal :=
  .next (s.onDev (command (.stageEgressPort h op)))

/-- STAGE_QUEUE. -/
def execStageQueue (h : Hdr) (op : StageOps) (s : State) : Host.Outcome State Fault Refusal :=
  .next (s.onDev (command (.stageQueue h op)))

/-- STAGE_GATE_LIST. -/
def execStageGateList (h : Hdr) (op : StageOps) (s : State) : Host.Outcome State Fault Refusal :=
  .next (s.onDev (command (.stageGateList h op)))

/-- STAGE_METER. -/
def execStageMeter (h : Hdr) (op : StageOps) (s : State) : Host.Outcome State Fault Refusal :=
  .next (s.onDev (command (.stageMeter h op)))

/-- STAGE_TRUST_MAP. -/
def execStageTrustMap (h : Hdr) (op : StageOps) (s : State) : Host.Outcome State Fault Refusal :=
  .next (s.onDev (command (.stageTrustMap h op)))

/-- CHECK. -/
def execCheck (h : Hdr) (s : State) : Host.Outcome State Fault Refusal := .next (s.onDev (command (.check h)))

/-- ARM_COMMIT. -/
def execArmCommit (h : Hdr) (target : Nat) (asap : Bool) (s : State) : Host.Outcome State Fault Refusal :=
  .next (s.onDev (command (.armCommit h target asap)))

/-- CANCEL_COMMIT. -/
def execCancelCommit (h : Hdr) (s : State) : Host.Outcome State Fault Refusal :=
  .next (s.onDev (command (.cancelCommit h)))

/-- STANDING_SAVE. -/
def execStandingSave (h : Hdr) (s : State) : Host.Outcome State Fault Refusal :=
  .next (s.onDev (command (.standingSave h)))

/-- STANDING_CLEAR. -/
def execStandingClear (h : Hdr) (s : State) : Host.Outcome State Fault Refusal :=
  .next (s.onDev (command (.standingClear h)))

/-- TBL_INSERT. -/
def execTblInsert (h : Hdr) (service fid mac peer port : Nat) (isStatic : Bool)
    (s : State) : Host.Outcome State Fault Refusal :=
  .next (s.onDev (command (.tblInsert h service fid mac peer port isStatic)))

/-- TBL_DELETE. -/
def execTblDelete (h : Hdr) (service fid mac : Nat) (s : State) : Host.Outcome State Fault Refusal :=
  .next (s.onDev (command (.tblDelete h service fid mac)))

/-- TBL_SEARCH. -/
def execTblSearch (h : Hdr) (op : SearchOp) (s : State) : Host.Outcome State Fault Refusal :=
  .next (s.onDev (command (.tblSearch h op)))

/-- TBL_NEXT. -/
def execTblNext (h : Hdr) (op : NextOps) (s : State) : Host.Outcome State Fault Refusal :=
  .next (s.onDev (command (.tblNext h op)))

/-- TBL_FLUSH_PORT. -/
def execTblFlushPort (h : Hdr) (port : Nat) (statics : Bool) (s : State) : Host.Outcome State Fault Refusal :=
  .next (s.onDev (command (.tblFlushPort h port statics)))

/-- KEY_GENERATE. -/
def execKeyGenerate (h : Hdr) (k : KeyOps) (s : State) : Host.Outcome State Fault Refusal :=
  .next (s.onDev (command (.keyGenerate h k)))

/-- KEY_IMPORT. -/
def execKeyImport (h : Hdr) (k : KeyOps) (kek form iova length : Nat) (data : Bytes)
    (s : State) : Host.Outcome State Fault Refusal :=
  .next (s.onDev (command (.keyImport h k kek form iova length data)))

/-- KEY_DERIVE. -/
def execKeyDerive (h : Hdr) (k : KeyOps) (source iova labelLen contextLen : Nat) (data : Bytes)
    (s : State) : Host.Outcome State Fault Refusal :=
  .next (s.onDev (command (.keyDerive h k source iova labelLen contextLen data)))

/-- KEY_WRITE_CLEAR. -/
def execKeyWriteClear (h : Hdr) (k : KeyOps) (sealed : Bool) (iova : Nat) (data : Bytes)
    (s : State) : Host.Outcome State Fault Refusal :=
  .next (s.onDev (command (.keyWriteClear h k sealed iova data)))

/-- KEY_PIN. -/
def execKeyPin (h : Hdr) (handle slot blobIova : Nat) (blob : Bytes) (s : State) : Host.Outcome State Fault Refusal :=
  .next (s.onDev (command (.keyPin h handle slot blobIova blob)))

/-- KEY_UNPIN. -/
def execKeyUnpin (h : Hdr) (slot : Nat) (s : State) : Host.Outcome State Fault Refusal :=
  .next (s.onDev (command (.keyUnpin h slot)))

/-- KEY_EVICT. -/
def execKeyEvict (h : Hdr) (handle : Nat) (s : State) : Host.Outcome State Fault Refusal :=
  .next (s.onDev (command (.keyEvict h handle)))

/-- KEY_EXPORT. -/
def execKeyExport (h : Hdr) (handle kek form iova : Nat) (s : State) : Host.Outcome State Fault Refusal :=
  .next (s.onDev (command (.keyExport h handle kek form iova)))

/-- KEY_PARENT_BIND. -/
def execKeyParentBind (h : Hdr) (entry slot : Nat) (s : State) : Host.Outcome State Fault Refusal :=
  .next (s.onDev (command (.keyParentBind h entry slot)))

/-- KEY_REVOKE. -/
def execKeyRevoke (h : Hdr) (entry : Nat) (s : State) : Host.Outcome State Fault Refusal :=
  .next (s.onDev (command (.keyRevoke h entry)))

/-- KEY_DOMAIN_ROLL. -/
def execKeyDomainRoll (h : Hdr) (target : Nat) (s : State) : Host.Outcome State Fault Refusal :=
  .next (s.onDev (command (.keyDomainRoll h target)))

/-- KEY_STATUS. -/
def execKeyStatus (h : Hdr) (kind ident : Nat) (s : State) : Host.Outcome State Fault Refusal :=
  .next (s.onDev (command (.keyStatus h kind ident)))

/-- KEY_MGMT_SET. -/
def execKeyMgmtSet (h : Hdr) (keyId form kek iova length : Nat) (data : Bytes)
    (s : State) : Host.Outcome State Fault Refusal :=
  .next (s.onDev (command (.keyMgmtSet h keyId form kek iova length data)))

/-- SA_INIT. -/
def execSaInit (h : Hdr) (sa pn threshold : Nat) (s : State) : Host.Outcome State Fault Refusal :=
  .next (s.onDev (command (.saInit h sa pn threshold)))

/-- SA_ENABLE. -/
def execSaEnable (h : Hdr) (sa : Nat) (s : State) : Host.Outcome State Fault Refusal :=
  .next (s.onDev (command (.saEnable h sa)))

/-- SA_DISABLE. -/
def execSaDisable (h : Hdr) (sa : Nat) (s : State) : Host.Outcome State Fault Refusal :=
  .next (s.onDev (command (.saDisable h sa)))

/-- SA_SET_LOWEST_PN. -/
def execSaSetLowestPn (h : Hdr) (sa pn : Nat) (s : State) : Host.Outcome State Fault Refusal :=
  .next (s.onDev (command (.saSetLowestPn h sa pn)))

/-- SA_READ. -/
def execSaRead (h : Hdr) (sa iova : Nat) (s : State) : Host.Outcome State Fault Refusal :=
  .next (s.onDev (command (.saRead h sa iova)))

/-- SA_SMV_ARM. -/
def execSaSmvArm (h : Hdr) (slice epoch txHandle rxHandle target : Nat)
    (s : State) : Host.Outcome State Fault Refusal :=
  .next (s.onDev (command (.saSmvArm h slice epoch txHandle rxHandle target)))

/-- SA_SMV_CANCEL. -/
def execSaSmvCancel (h : Hdr) (slice : Nat) (s : State) : Host.Outcome State Fault Refusal :=
  .next (s.onDev (command (.saSmvCancel h slice)))

/-- SA_SMV_READ. -/
def execSaSmvRead (h : Hdr) (slice iova : Nat) (s : State) : Host.Outcome State Fault Refusal :=
  .next (s.onDev (command (.saSmvRead h slice iova)))

/-- SA_SMV_STOP. -/
def execSaSmvStop (h : Hdr) (slice : Nat) (s : State) : Host.Outcome State Fault Refusal :=
  .next (s.onDev (command (.saSmvStop h slice)))

/-- TB_INC. -/
def execTbInc (h : Hdr) (tb whole fraction : Nat) (s : State) : Host.Outcome State Fault Refusal :=
  .next (s.onDev (command (.tbInc h tb whole fraction)))

/-- TB_STEP. -/
def execTbStep (h : Hdr) (op : StepOps) (s : State) : Host.Outcome State Fault Refusal :=
  .next (s.onDev (command (.tbStep h op)))

/-- TB_READ. -/
def execTbRead (h : Hdr) (tb iova : Nat) (s : State) : Host.Outcome State Fault Refusal :=
  .next (s.onDev (command (.tbRead h tb iova)))

/-- CNT_READ. -/
def execCntRead (h : Hdr) (first count : Nat) (clear : Bool) (iova : Nat)
    (s : State) : Host.Outcome State Fault Refusal :=
  .next (s.onDev (command (.cntRead h first count clear iova)))

/-- CNT_LANE_READ. -/
def execCntLaneRead (h : Hdr) (lane : Nat) (clear : Bool) (s : State) : Host.Outcome State Fault Refusal :=
  .next (s.onDev (command (.cntLaneRead h lane clear)))

/-- CNT_SELECT. -/
def execCntSelect (h : Hdr) (counter event qualifier : Nat) (s : State) : Host.Outcome State Fault Refusal :=
  .next (s.onDev (command (.cntSelect h counter event qualifier)))

/-- DUMP_CONFIG. -/
def execDumpConfig (h : Hdr) (period mask : Nat) (s : State) : Host.Outcome State Fault Refusal :=
  .next (s.onDev (command (.dumpConfig h period mask)))

/-- FW_BEGIN. -/
def execFwBegin (h : Hdr) (slot length : Nat) (s : State) : Host.Outcome State Fault Refusal :=
  .next (s.onDev (command (.fwBegin h slot length)))

/-- FW_BLOCK. -/
def execFwBlock (h : Hdr) (slot offset iova length : Nat) (data : Bytes)
    (s : State) : Host.Outcome State Fault Refusal :=
  .next (s.onDev (command (.fwBlock h slot offset iova length data)))

/-- FW_VERIFY. -/
def execFwVerify (h : Hdr) (slot : Nat) (s : State) : Host.Outcome State Fault Refusal :=
  .next (s.onDev (command (.fwVerify h slot)))

/-- FW_SCHEDULE. -/
def execFwSchedule (h : Hdr) (slot target : Nat) (s : State) : Host.Outcome State Fault Refusal :=
  .next (s.onDev (command (.fwSchedule h slot target)))

/-- FW_CANCEL. -/
def execFwCancel (h : Hdr) (slot : Nat) (s : State) : Host.Outcome State Fault Refusal :=
  .next (s.onDev (command (.fwCancel h slot)))

/-- FW_STATUS. -/
def execFwStatus (h : Hdr) (iova : Nat) (s : State) : Host.Outcome State Fault Refusal :=
  .next (s.onDev (command (.fwStatus h iova)))

/-- FW_REVERT. -/
def execFwRevert (h : Hdr) (s : State) : Host.Outcome State Fault Refusal := .next (s.onDev (command (.fwRevert h)))

/-- LC_STATUS. -/
def execLcStatus (h : Hdr) (iova : Nat) (s : State) : Host.Outcome State Fault Refusal :=
  .next (s.onDev (command (.lcStatus h iova)))

/-- LC_TRANSITION. -/
def execLcTransition (h : Hdr) (target iova length : Nat) (data : Bytes)
    (s : State) : Host.Outcome State Fault Refusal :=
  .next (s.onDev (command (.lcTransition h target iova length data)))

/-- LC_SET_SUPERVISOR. -/
def execLcSetSupervisor (h : Hdr) (target : Nat) (s : State) : Host.Outcome State Fault Refusal :=
  .next (s.onDev (command (.lcSetSupervisor h target)))

/-- LC_DEBUG_SCRUB. -/
def execLcDebugScrub (h : Hdr) (iova length : Nat) (data : Bytes) (s : State) : Host.Outcome State Fault Refusal :=
  .next (s.onDev (command (.lcDebugScrub h iova length data)))

/-- TAMPER_CONFIG. -/
def execTamperConfig (h : Hdr) (alarm cls : Nat) (low high : Int) (s : State) : Host.Outcome State Fault Refusal :=
  .next (s.onDev (command (.tamperConfig h alarm cls low high)))

/-- TAMPER_CLEAR. -/
def execTamperClear (h : Hdr) (mask : Nat) (s : State) : Host.Outcome State Fault Refusal :=
  .next (s.onDev (command (.tamperClear h mask)))

/-- TAMPER_LOG_READ. -/
def execTamperLogRead (h : Hdr) (first count iova : Nat) (s : State) : Host.Outcome State Fault Refusal :=
  .next (s.onDev (command (.tamperLogRead h first count iova)))

/-- RESUME. -/
def execResume (h : Hdr) (kind unit : Nat) (what : BitVec 32) (s : State) : Host.Outcome State Fault Refusal :=
  .next (s.onDev (command (.resume h kind unit what)))

/-- ABORT. -/
def execAbort (h : Hdr) (kind unit : Nat) (what : BitVec 32) (s : State) : Host.Outcome State Fault Refusal :=
  .next (s.onDev (command (.abort h kind unit what)))

/-- LK_CBC. -/
def execLkCbc (h : Hdr) (j : LkJob) (s : State) : Host.Outcome State Fault Refusal :=
  .next (s.onDev (command (.lkCbc h j)))

/-- LK_CTR. -/
def execLkCtr (h : Hdr) (j : LkJob) (s : State) : Host.Outcome State Fault Refusal :=
  .next (s.onDev (command (.lkCtr h j)))

/-- LK_CFB. -/
def execLkCfb (h : Hdr) (j : LkJob) (s : State) : Host.Outcome State Fault Refusal :=
  .next (s.onDev (command (.lkCfb h j)))

/-- LK_GCM. -/
def execLkGcm (h : Hdr) (j : LkJob) (s : State) : Host.Outcome State Fault Refusal :=
  .next (s.onDev (command (.lkGcm h j)))

/-- LK_CMAC. -/
def execLkCmac (h : Hdr) (j : LkJob) (s : State) : Host.Outcome State Fault Refusal :=
  .next (s.onDev (command (.lkCmac h j)))

/-- LK_WRAP. -/
def execLkWrap (h : Hdr) (j : LkJob) (s : State) : Host.Outcome State Fault Refusal :=
  .next (s.onDev (command (.lkWrap h j)))

/-- LK_UNWRAP. -/
def execLkUnwrap (h : Hdr) (j : LkJob) (s : State) : Host.Outcome State Fault Refusal :=
  .next (s.onDev (command (.lkUnwrap h j)))

/-- LK_KDF. -/
def execLkKdf (h : Hdr) (j : LkJob) (s : State) : Host.Outcome State Fault Refusal :=
  .next (s.onDev (command (.lkKdf h j)))

/-- LK_HASH. -/
def execLkHash (h : Hdr) (j : LkJob) (s : State) : Host.Outcome State Fault Refusal :=
  .next (s.onDev (command (.lkHash h j)))

/-- LK_VERIFY. -/
def execLkVerify (h : Hdr) (j : LkJob) (s : State) : Host.Outcome State Fault Refusal :=
  .next (s.onDev (command (.lkVerify h j)))

end Sys2Proof.Machine
end

