-- ==== Sys2Proof/Machine/Dispatch.lean ====
section
/-! DEFINITION. The dispatch: one arm per command, one meaning per arm. -/

namespace Sys2Proof.Machine

def exec (i : Instr) (s : State) : Host.Outcome State Fault Refusal :=
  match i with
  | .stageDiscard h op => Sys2Proof.Machine.execStageDiscard h op s
  | .stageFret h op => Sys2Proof.Machine.execStageFret h op s
  | .stageDomainMap h op => Sys2Proof.Machine.execStageDomainMap h op s
  | .stageQuota h op => Sys2Proof.Machine.execStageQuota h op s
  | .stagePortLayout h op => Sys2Proof.Machine.execStagePortLayout h op s
  | .stageLane h op => Sys2Proof.Machine.execStageLane h op s
  | .stageFaultMirror h op => Sys2Proof.Machine.execStageFaultMirror h op s
  | .stageMgmtPort h op => Sys2Proof.Machine.execStageMgmtPort h op s
  | .stageSmvGroup h op => Sys2Proof.Machine.execStageSmvGroup h op s
  | .stageParseNode h op => Sys2Proof.Machine.execStageParseNode h op s
  | .stageParseTrans h op => Sys2Proof.Machine.execStageParseTrans h op s
  | .stageParsePattern h op => Sys2Proof.Machine.execStageParsePattern h op s
  | .stageParsePort h op => Sys2Proof.Machine.execStageParsePort h op s
  | .stageRecirc h op => Sys2Proof.Machine.execStageRecirc h op s
  | .stagePunt h op => Sys2Proof.Machine.execStagePunt h op s
  | .stageKeyProfile h op => Sys2Proof.Machine.execStageKeyProfile h op s
  | .stageTcam h op => Sys2Proof.Machine.execStageTcam h op s
  | .stageClsPort h op => Sys2Proof.Machine.execStageClsPort h op s
  | .stageService h op => Sys2Proof.Machine.execStageService h op s
  | .stageLpm h op => Sys2Proof.Machine.execStageLpm h op s
  | .stageChannel h op => Sys2Proof.Machine.execStageChannel h op s
  | .stageMacsecPort h op => Sys2Proof.Machine.execStageMacsecPort h op s
  | .stageSecy h op => Sys2Proof.Machine.execStageSecy h op s
  | .stageTxSc h op => Sys2Proof.Machine.execStageTxSc h op s
  | .stageRxSc h op => Sys2Proof.Machine.execStageRxSc h op s
  | .stageSa h op => Sys2Proof.Machine.execStageSa h op s
  | .stageLlPair h op => Sys2Proof.Machine.execStageLlPair h op s
  | .stageBlobTable h op => Sys2Proof.Machine.execStageBlobTable h op s
  | .stagePark h op => Sys2Proof.Machine.execStagePark h op s
  | .stageStampPort h op => Sys2Proof.Machine.execStageStampPort h op s
  | .stageTimePin h op => Sys2Proof.Machine.execStageTimePin h op s
  | .stageTimeGlobal h op => Sys2Proof.Machine.execStageTimeGlobal h op s
  | .stageEgressPort h op => Sys2Proof.Machine.execStageEgressPort h op s
  | .stageQueue h op => Sys2Proof.Machine.execStageQueue h op s
  | .stageGateList h op => Sys2Proof.Machine.execStageGateList h op s
  | .stageMeter h op => Sys2Proof.Machine.execStageMeter h op s
  | .stageTrustMap h op => Sys2Proof.Machine.execStageTrustMap h op s
  | .check h => Sys2Proof.Machine.execCheck h s
  | .armCommit h target asap => Sys2Proof.Machine.execArmCommit h target asap s
  | .armCopyDone dom => Sys2Proof.Machine.execArmCopyDone dom s
  | .cancelCommit h => Sys2Proof.Machine.execCancelCommit h s
  | .cancelRewriteDone dom => Sys2Proof.Machine.execCancelRewriteDone dom s
  | .standingSave h => Sys2Proof.Machine.execStandingSave h s
  | .standingClear h => Sys2Proof.Machine.execStandingClear h s
  | .tblInsert h service fid mac peer port isStatic => Sys2Proof.Machine.execTblInsert h service fid mac peer port isStatic s
  | .tblDelete h service fid mac => Sys2Proof.Machine.execTblDelete h service fid mac s
  | .tblSearch h op => Sys2Proof.Machine.execTblSearch h op s
  | .tblNext h op => Sys2Proof.Machine.execTblNext h op s
  | .tblFlushPort h port statics => Sys2Proof.Machine.execTblFlushPort h port statics s
  | .keyGenerate h k => Sys2Proof.Machine.execKeyGenerate h k s
  | .keyImport h k kek form iova length data => Sys2Proof.Machine.execKeyImport h k kek form iova length data s
  | .keyDerive h k source iova labelLen contextLen data => Sys2Proof.Machine.execKeyDerive h k source iova labelLen contextLen data s
  | .keyWriteClear h k sealed iova data => Sys2Proof.Machine.execKeyWriteClear h k sealed iova data s
  | .keyPin h handle slot blobIova blob => Sys2Proof.Machine.execKeyPin h handle slot blobIova blob s
  | .keyUnpin h slot => Sys2Proof.Machine.execKeyUnpin h slot s
  | .keyEvict h handle => Sys2Proof.Machine.execKeyEvict h handle s
  | .keyExport h handle kek form iova => Sys2Proof.Machine.execKeyExport h handle kek form iova s
  | .keyParentBind h entry slot => Sys2Proof.Machine.execKeyParentBind h entry slot s
  | .keyRevoke h entry => Sys2Proof.Machine.execKeyRevoke h entry s
  | .keyDomainRoll h target => Sys2Proof.Machine.execKeyDomainRoll h target s
  | .keyStatus h kind ident => Sys2Proof.Machine.execKeyStatus h kind ident s
  | .keyMgmtSet h keyId form kek iova length data => Sys2Proof.Machine.execKeyMgmtSet h keyId form kek iova length data s
  | .saInit h sa pn threshold => Sys2Proof.Machine.execSaInit h sa pn threshold s
  | .saEnable h sa => Sys2Proof.Machine.execSaEnable h sa s
  | .saDisable h sa => Sys2Proof.Machine.execSaDisable h sa s
  | .saSetLowestPn h sa pn => Sys2Proof.Machine.execSaSetLowestPn h sa pn s
  | .saRead h sa iova => Sys2Proof.Machine.execSaRead h sa iova s
  | .saSmvArm h slice epoch txHandle rxHandle target => Sys2Proof.Machine.execSaSmvArm h slice epoch txHandle rxHandle target s
  | .saSmvCancel h slice => Sys2Proof.Machine.execSaSmvCancel h slice s
  | .saSmvRead h slice iova => Sys2Proof.Machine.execSaSmvRead h slice iova s
  | .saSmvStop h slice => Sys2Proof.Machine.execSaSmvStop h slice s
  | .tbInc h tb whole fraction => Sys2Proof.Machine.execTbInc h tb whole fraction s
  | .tbStep h op => Sys2Proof.Machine.execTbStep h op s
  | .tbRead h tb iova => Sys2Proof.Machine.execTbRead h tb iova s
  | .tbApply tb => Sys2Proof.Machine.execTbApply tb s
  | .cntRead h first count clear iova => Sys2Proof.Machine.execCntRead h first count clear iova s
  | .cntLaneRead h lane clear => Sys2Proof.Machine.execCntLaneRead h lane clear s
  | .cntSelect h counter event qualifier => Sys2Proof.Machine.execCntSelect h counter event qualifier s
  | .dumpConfig h period mask => Sys2Proof.Machine.execDumpConfig h period mask s
  | .fwBegin h slot length => Sys2Proof.Machine.execFwBegin h slot length s
  | .fwBlock h slot offset iova length data => Sys2Proof.Machine.execFwBlock h slot offset iova length data s
  | .fwVerify h slot => Sys2Proof.Machine.execFwVerify h slot s
  | .fwSchedule h slot target => Sys2Proof.Machine.execFwSchedule h slot target s
  | .fwCancel h slot => Sys2Proof.Machine.execFwCancel h slot s
  | .fwStatus h iova => Sys2Proof.Machine.execFwStatus h iova s
  | .fwRevert h => Sys2Proof.Machine.execFwRevert h s
  | .lcStatus h iova => Sys2Proof.Machine.execLcStatus h iova s
  | .lcTransition h target iova length data => Sys2Proof.Machine.execLcTransition h target iova length data s
  | .lcSetSupervisor h target => Sys2Proof.Machine.execLcSetSupervisor h target s
  | .lcDebugScrub h iova length data => Sys2Proof.Machine.execLcDebugScrub h iova length data s
  | .tamperConfig h alarm cls low high => Sys2Proof.Machine.execTamperConfig h alarm cls low high s
  | .tamperClear h mask => Sys2Proof.Machine.execTamperClear h mask s
  | .tamperLogRead h first count iova => Sys2Proof.Machine.execTamperLogRead h first count iova s
  | .resume h kind unit what => Sys2Proof.Machine.execResume h kind unit what s
  | .abort h kind unit what => Sys2Proof.Machine.execAbort h kind unit what s
  | .lkCbc h j => Sys2Proof.Machine.execLkCbc h j s
  | .lkCtr h j => Sys2Proof.Machine.execLkCtr h j s
  | .lkCfb h j => Sys2Proof.Machine.execLkCfb h j s
  | .lkGcm h j => Sys2Proof.Machine.execLkGcm h j s
  | .lkCmac h j => Sys2Proof.Machine.execLkCmac h j s
  | .lkWrap h j => Sys2Proof.Machine.execLkWrap h j s
  | .lkUnwrap h j => Sys2Proof.Machine.execLkUnwrap h j s
  | .lkKdf h j => Sys2Proof.Machine.execLkKdf h j s
  | .lkHash h j => Sys2Proof.Machine.execLkHash h j s
  | .lkVerify h j => Sys2Proof.Machine.execLkVerify h j s
  | .lkSegmentEnd core => Sys2Proof.Machine.execLkSegmentEnd core s
  | .pkOpDone => Sys2Proof.Machine.execPkOpDone s
  | .registerWrite ep slot offset width value => Sys2Proof.Machine.execRegisterWrite ep slot offset width value s
  | .domainReset ep slot => Sys2Proof.Machine.execDomainReset ep slot s
  | .domainResetDone dom => Sys2Proof.Machine.execDomainResetDone dom s
  | .ringEnable ep slot ring => Sys2Proof.Machine.execRingEnable ep slot ring s
  | .ringDisable ep slot ring => Sys2Proof.Machine.execRingDisable ep slot ring s
  | .dtuModeWrite ep slot mode => Sys2Proof.Machine.execDtuModeWrite ep slot mode s
  | .dtuInval ep slot all page => Sys2Proof.Machine.execDtuInval ep slot all page s
  | .dtuInvalDone dom => Sys2Proof.Machine.execDtuInvalDone dom s
  | .dtuErrClear ep slot => Sys2Proof.Machine.execDtuErrClear ep slot s
  | .msixVectorUnmask ep vector => Sys2Proof.Machine.execMsixVectorUnmask ep vector s
  | .msixHoldoffExpiry dom source => Sys2Proof.Machine.execMsixHoldoffExpiry dom source s
  | .doorbellPoll dom => Sys2Proof.Machine.execDoorbellPoll dom s
  | .doorbellRecordRead dom recs => Sys2Proof.Machine.execDoorbellRecordRead dom recs s
  | .descriptorFetchDone dom ring ok desc data aux stateRec => Sys2Proof.Machine.execDescriptorFetchDone dom ring ok desc data aux stateRec s
  | .dmaReadCompletion dom target walk ok => Sys2Proof.Machine.execDmaReadCompletion dom target walk ok s
  | .dmaCompletionTimeout dom target => Sys2Proof.Machine.execDmaCompletionTimeout dom target s
  | .commandSuspendTimeout dom ring tag => Sys2Proof.Machine.execCommandSuspendTimeout dom ring tag s
  | .pcieFlr ep => Sys2Proof.Machine.execPcieFlr ep s
  | .pcieLinkDown ep => Sys2Proof.Machine.execPcieLinkDown ep s
  | .perstNAssert ep => Sys2Proof.Machine.execPerstNAssert ep s
  | .hemunerCommandFrame port frame => Sys2Proof.Machine.execHemunerCommandFrame port frame s
  | .hemunerAckFrame port frame => Sys2Proof.Machine.execHemunerAckFrame port frame s
  | .hemunerOtherFrame port frame => Sys2Proof.Machine.execHemunerOtherFrame port frame s
  | .announceTimer => Sys2Proof.Machine.execAnnounceTimer s
  | .dmEventResend index => Sys2Proof.Machine.execDmEventResend index s
  | .mgSyncLoss port receiving => Sys2Proof.Machine.execMgSyncLoss port receiving s
  | .mgSyncAcquired port => Sys2Proof.Machine.execMgSyncAcquired port s
  | .fretBoundary => Sys2Proof.Machine.execFretBoundary s
  | .ctlLossHoldReached => Sys2Proof.Machine.execCtlLossHoldReached s
  | .bankRelease => Sys2Proof.Machine.execBankRelease s
  | .gateSwitch port => Sys2Proof.Machine.execGateSwitch port s
  | .gateEntryChange port => Sys2Proof.Machine.execGateEntryChange port s
  | .ageScanEnd => Sys2Proof.Machine.execAgeScanEnd s
  | .frameIngress id => Sys2Proof.Machine.execFrameIngress id s
  | .portRxFrame port frame fcsOk stamp errs => Sys2Proof.Machine.execPortRxFrame port frame fcsOk stamp errs s
  | .parseComplete id => Sys2Proof.Machine.execParseComplete id s
  | .puntEntryWrite slice => Sys2Proof.Machine.execPuntEntryWrite slice s
  | .classifyComplete id => Sys2Proof.Machine.execClassifyComplete id s
  | .cipherStageEntry id => Sys2Proof.Machine.execCipherStageEntry id s
  | .cipherStageExit id => Sys2Proof.Machine.execCipherStageExit id s
  | .frameEndArrival id => Sys2Proof.Machine.execFrameEndArrival id s
  | .rxConfirmation id => Sys2Proof.Machine.execRxConfirmation id s
  | .recircTimeout id => Sys2Proof.Machine.execRecircTimeout id s
  | .transmissionSelection port => Sys2Proof.Machine.execTransmissionSelection port s
  | .frameTxDone port => Sys2Proof.Machine.execFrameTxDone port s
  | .egressUnderrun port => Sys2Proof.Machine.execEgressUnderrun port s
  | .llRelease id => Sys2Proof.Machine.execLlRelease id s
  | .onestepLaunch id => Sys2Proof.Machine.execOnestepLaunch id s
  | .blobReadCompletion slice record walk ok blob => Sys2Proof.Machine.execBlobReadCompletion slice record walk ok blob s
  | .keyInstall slice record => Sys2Proof.Machine.execKeyInstall slice record s
  | .missRecordRelease slice record => Sys2Proof.Machine.execMissRecordRelease slice record s
  | .parkTimeout id => Sys2Proof.Machine.execParkTimeout id s
  | .suspendedFetchAbort slice record => Sys2Proof.Machine.execSuspendedFetchAbort slice record s
  | .zeroingDone slot => Sys2Proof.Machine.execZeroingDone slot s
  | .bridgeMessageRx slice uncorrectable => Sys2Proof.Machine.execBridgeMessageRx slice uncorrectable s
  | .learnProposalProcess slice => Sys2Proof.Machine.execLearnProposalProcess slice s
  | .orderCacheRetire slice => Sys2Proof.Machine.execOrderCacheRetire slice s
  | .smvFrameTx tx => Sys2Proof.Machine.execSmvFrameTx tx s
  | .smvFrameRx slice frame badBlocks fasUncorrectable position errs => Sys2Proof.Machine.execSmvFrameRx slice frame badBlocks fasUncorrectable position errs s
  | .smvFrameConfirm slice => Sys2Proof.Machine.execSmvFrameConfirm slice s
  | .smvDefectDeclare slice defect => Sys2Proof.Machine.execSmvDefectDeclare slice defect s
  | .smvDefectHoldoffExpiry slice defect => Sys2Proof.Machine.execSmvDefectHoldoffExpiry slice defect s
  | .smvDefectClear slice defect => Sys2Proof.Machine.execSmvDefectClear slice defect s
  | .pairMessageAssembled slice => Sys2Proof.Machine.execPairMessageAssembled slice s
  | .pairTimeout slice => Sys2Proof.Machine.execPairTimeout slice s
  | .pairBackoffExpiry slice => Sys2Proof.Machine.execPairBackoffExpiry slice s
  | .rekeyIntervalExpiry slice => Sys2Proof.Machine.execRekeyIntervalExpiry slice s
  | .laneAcquired lane => Sys2Proof.Machine.execLaneAcquired lane s
  | .laneAdaptDone lane gearboxPs => Sys2Proof.Machine.execLaneAdaptDone lane gearboxPs s
  | .laneAligned lane inverted position groupTag laneCount skewNs => Sys2Proof.Machine.execLaneAligned lane inverted position groupTag laneCount skewNs s
  | .laneAlignTimeout lane => Sys2Proof.Machine.execLaneAlignTimeout lane s
  | .laneRetryTimer lane => Sys2Proof.Machine.execLaneRetryTimer lane s
  | .laneLockLoss lane cause => Sys2Proof.Machine.execLaneLockLoss lane cause s
  | .laneRelocked lane => Sys2Proof.Machine.execLaneRelocked lane s
  | .laneRelockTimeout lane => Sys2Proof.Machine.execLaneRelockTimeout lane s
  | .faultMirrorTimer port => Sys2Proof.Machine.execFaultMirrorTimer port s
  | .prbsCheckerLock lane gained inverted errors => Sys2Proof.Machine.execPrbsCheckerLock lane gained inverted errors s
  | .timePinEdge pin rising pulse => Sys2Proof.Machine.execTimePinEdge pin rising pulse s
  | .timePinOutput pin => Sys2Proof.Machine.execTimePinOutput pin s
  | .servoEvent tb phase => Sys2Proof.Machine.execServoEvent tb phase s
  | .servoHoldover tb => Sys2Proof.Machine.execServoHoldover tb s
  | .stringWritePresented string write => Sys2Proof.Machine.execStringWritePresented string write s
  | .voteWindowExpiry => Sys2Proof.Machine.execVoteWindowExpiry s
  | .stringFaultReport string => Sys2Proof.Machine.execStringFaultReport string s
  | .stringWatchdogExpiry string => Sys2Proof.Machine.execStringWatchdogExpiry string s
  | .stringBistDone string pass => Sys2Proof.Machine.execStringBistDone string pass s
  | .resyncComplete copiesEqual => Sys2Proof.Machine.execResyncComplete copiesEqual s
  | .courseRestartTimer => Sys2Proof.Machine.execCourseRestartTimer s
  | .courseRestartDone pass => Sys2Proof.Machine.execCourseRestartDone pass s
  | .fwStepDone => Sys2Proof.Machine.execFwStepDone s
  | .fwTrialEnd => Sys2Proof.Machine.execFwTrialEnd s
  | .scrubBurst found => Sys2Proof.Machine.execScrubBurst found s
  | .shadowMismatch reg => Sys2Proof.Machine.execShadowMismatch reg s
  | .tempSample celsius => Sys2Proof.Machine.execTempSample celsius s
  | .railHigh rail mv => Sys2Proof.Machine.execRailHigh rail mv s
  | .railLow rail mv => Sys2Proof.Machine.execRailLow rail mv s
  | .railRecovered rail mv => Sys2Proof.Machine.execRailRecovered rail mv s
  | .railLowTimeout rail => Sys2Proof.Machine.execRailLowTimeout rail s
  | .railWarningTimer rail mv => Sys2Proof.Machine.execRailWarningTimer rail mv s
  | .clockCheckWindow clock cycles => Sys2Proof.Machine.execClockCheckWindow clock cycles s
  | .loopSample loop reads => Sys2Proof.Machine.execLoopSample loop reads s
  | .vbatSample mv => Sys2Proof.Machine.execVbatSample mv s
  | .backupSample b => Sys2Proof.Machine.execBackupSample b s
  | .tamperLogCopy => Sys2Proof.Machine.execTamperLogCopy s
  | .leaveGrant => Sys2Proof.Machine.execLeaveGrant s
  | .governorSample ma => Sys2Proof.Machine.execGovernorSample ma s
  | .lcJournalStep => Sys2Proof.Machine.execLcJournalStep s
  | .lcResetTimer => Sys2Proof.Machine.execLcResetTimer s
  | .powerOnReset => Sys2Proof.Machine.execPowerOnReset s
  | .pwrdnNFall => Sys2Proof.Machine.execPwrdnNFall s
  | .startUp op => Sys2Proof.Machine.execStartUp op s
  | .pcieLinkUp ep => Sys2Proof.Machine.execPcieLinkUp ep s
  | .pcieConfigWrite ep w => Sys2Proof.Machine.execPcieConfigWrite ep w s
  | .bkclkStopped => Sys2Proof.Machine.execBkclkStopped s

end Sys2Proof.Machine
end

