-- ==== Sys2Proof/Safety.lean ====
section
/-! DEFINITION. The terms in which claims speak of the block: what a step leaves, which commands the command processor
executes at once, when a command has its input, how it ends, and what it leaves as it was. -/

namespace Sys2Proof.Machine

/-- A step, or a command, answers a state: the block goes on. -/
def GoesOn (o : Host.Outcome State Fault Refusal) : Prop := ∃ t, o = .next t

/-! ### Commands that are executed at once -/

/-- A tag that duplicate suppression does not catch: zero, or in no entry of the ring's history and of no command of the
ring in progress (14 R437). -/
def Dev.freshTag (d : Dev) (c : Cmd) : Prop :=
  c.tag = 0 ∨
    ((d.ring c.dom c.ring).history.find? (fun x => x.tag = c.tag) = none ∧
      (d.dom c.dom).inProg.find? (fun p => p.cmd.ring = c.ring && p.cmd.tag = c.tag) = none)

/-- A command is next on its ring: nothing of the ring waits or blocks it. A domain's RESUME and ABORT pass a blocked
ring (13 R415). -/
def Dev.inTurn (d : Dev) (c : Cmd) : Prop :=
  (c.dom ≠ dmCode ∧ (c.op = 0x0A01 ∨ c.op = 0x0A02)) ∨ (d.ringBlocked c.dom c.ring = false ∧ (d.ring c.dom c.ring).waiting = [])

/-- The command processor hears a command: it serves, and takes commands of the domain, and the command is next on its
ring. -/
structure Heard (d : Dev) (c : Cmd) : Prop where
  admitted : d.admits c.dom = true
  serves : d.serves = true
  served : ¬(c.dom = dmCode ∧ isLkOp c.op = true)
  inTurn : d.inTurn c

/-- The command processor executes a command at once: it hears it, its tag is fresh, its opcode belongs on its ring, and no
condition of the whole device denies it. -/
structure Accepts (d : Dev) (c : Cmd) (i : Instr) : Prop extends Heard d c where
  fresh : d.freshTag c
  onRing : isLkOp c.op = decide (3 ≤ c.ring)
  allowed : d.denies c.op i = false
  moves : ¬(d.frozen = true ∧ touchesVault c.op = true)

/-- The taken command that a row of the table brings. -/
def cmdIn (i : Instr) (s : State) : Cmd := commandOf (i.hdr.getD { dom := 0, ring := 0, tag := 0, crc := 0, bad := false }) i.opcode s.dev

/-- A row of the table is a host command, its encoding is valid, and it is executed at once. -/
structure TakesNow (i : Instr) (s : State) : Prop where
  host : ∃ h, i.hdr = some h ∧ h.bad = false
  accepts : Accepts s.dev (cmdIn i s) i

/-- The device once a command is taken, and before it acts: the command is counted and in progress. -/
def Dev.entered (d : Dev) (c : Cmd) : Dev := enter c (progEvent 0x110 2 c.dom 1 d)

/-- The input of a command has been asked for, and the command waits for it. -/
def AwaitsInput (i : Instr) (s : State) (c : Cmd) : Prop :=
  ∃ w, (s.dev.dom c.dom).works.find? (fun w => w.cmd.ring = c.ring && w.cmd.tag = c.tag && decide (w.state = .walking)) =
    some w ∧ w.instr = some i ∧ w.cmd = c ∧ w.todo = []

/-- A command comes to its effect: at once where it has no input to read, or is DM's, or fails without it; or,
`afterRead`, when the input it waits for has been read. -/
def Comes (afterRead : Bool) (i : Instr) (s : State) (c : Cmd) : Prop :=
  if afterRead then AwaitsInput i s c
  else TakesNow i s ∧ c = cmdIn i s ∧ (inputOf i c.dom (s.dev.entered c) = none ∨ c.dom = dmCode ∨
      (earlyFail i c (s.dev.entered c)).isSome = true)

/-- The row of the table at which a command comes to its effect: itself, or the read that brings its input. -/
def bringer (afterRead : Bool) (i : Instr) (c : Cmd) : Instr :=
  if afterRead then .dmaReadCompletion c.dom (.work c.ring c.tag) [] true else i

/-- The device at which a command acts. -/
def Dev.had (d : Dev) (afterRead : Bool) (c : Cmd) : Dev := if afterRead then dropWork c d else d.entered c

/-- A row's outcome: the device as `f` leaves it, after which the rings of the domain go on. -/
def Leaves (x : Instr) (s : State) (dom : Nat) (f : Dev → Dev) : Prop :=
  exec x s = .next (s.onDev (fun d => drainDom dom (f d)))

/-- A row's whole effect: the device as `f` makes it; the queue is untouched. -/
def Does (x : Instr) (s : State) (f : Dev → Dev) : Prop := exec x s = .next (s.onDev f)

/-- A row that finds nothing to act on leaves the block as it was. -/
def Idles (x : Instr) (s : State) : Prop := exec x s = .next s

/-- A command comes to its effect and completes with a reply: at once, or, where a core of the lookaside cluster does its
cipher work, when that is done (10 R313). -/
def Completes (a : Bool) (i : Instr) (s : State) (c : Cmd) (r : Reply) (effect : Dev → Dev) : Prop :=
  Leaves (bringer a i c) s c.dom (fun d => carryOut c (effect (d.had a c), some r))

/-- A command comes to its effect and completes later. -/
def Starts (a : Bool) (i : Instr) (s : State) (c : Cmd) (effect : Dev → Dev) : Prop :=
  Leaves (bringer a i c) s c.dom (fun d => effect (d.had a c))

/-- Whenever a command comes to its effect at a device that meets `need`, it completes with the reply `r` after the effect
`f`. -/
def Runs (i : Instr) (need : Dev → Cmd → Prop) (r : Dev → Cmd → Reply) (f : Cmd → Dev → Dev) : Prop :=
  ∀ a s c, Comes a i s c → need (s.dev.had a c) c → Completes a i s c (r (s.dev.had a c) c) (f c)

/-- Whenever a command comes to its effect at a device that meets `need`, it has the effect `f`, and completes later. -/
def Begins (i : Instr) (need : Dev → Cmd → Prop) (f : Cmd → Dev → Dev) : Prop :=
  ∀ a s c, Comes a i s c → need (s.dev.had a c) c → Starts a i s c (f c)

/-- Whenever a command comes to its effect at a device that meets `need`, it completes with a status and does nothing
else. -/
def Fails (i : Instr) (need : Dev → Cmd → Prop) (status : Nat) : Prop :=
  Runs i need (fun _ _ => fail status) (fun _ d => d)

/-- Every check of a list is passed. -/
abbrev Passes (l : List (Bool × Nat)) : Prop := ∀ x ∈ l, x.1 = false

/-- Every slot of a list equals its complement. -/
abbrev Whole (l : List (Nat × Slot)) : Prop := ∀ e ∈ l, e.2.pairOk = true

/-- No command of a domain's rings waits. -/
def Dev.noneWaits (d : Dev) (dom : Nat) : Prop := ∀ r ∈ hostRings, (d.ring dom r).waiting = []

/-- The `STAGE_*` rows: class, header and operands. -/
def stageOf : Instr → Option (Nat × Hdr × StageOps)
  | .stageFret h o => some (cFret, h, o)
  | .stageDomainMap h o => some (cDomainMap, h, o)
  | .stageQuota h o => some (cQuota, h, o)
  | .stagePortLayout h o => some (cPortLayout, h, o)
  | .stageLane h o => some (cLane, h, o)
  | .stageFaultMirror h o => some (cFaultMirror, h, o)
  | .stageMgmtPort h o => some (cMgmtPort, h, o)
  | .stageSmvGroup h o => some (cSmvGroup, h, o)
  | .stageParseNode h o => some (cParseNode, h, o)
  | .stageParseTrans h o => some (cParseTrans, h, o)
  | .stageParsePattern h o => some (cParsePattern, h, o)
  | .stageParsePort h o => some (cParsePort, h, o)
  | .stageRecirc h o => some (cRecirc, h, o)
  | .stagePunt h o => some (cPunt, h, o)
  | .stageKeyProfile h o => some (cKeyProfile, h, o)
  | .stageTcam h o => some (cTcam, h, o)
  | .stageClsPort h o => some (cClsPort, h, o)
  | .stageService h o => some (cService, h, o)
  | .stageLpm h o => some (cLpm, h, o)
  | .stageChannel h o => some (cChannel, h, o)
  | .stageMacsecPort h o => some (cMacsecPort, h, o)
  | .stageSecy h o => some (cSecy, h, o)
  | .stageTxSc h o => some (cTxSc, h, o)
  | .stageRxSc h o => some (cRxSc, h, o)
  | .stageSa h o => some (cSa, h, o)
  | .stageLlPair h o => some (cLlPair, h, o)
  | .stageBlobTable h o => some (cBlobTable, h, o)
  | .stagePark h o => some (cPark, h, o)
  | .stageStampPort h o => some (cStampPort, h, o)
  | .stageTimePin h o => some (cTimePin, h, o)
  | .stageTimeGlobal h o => some (cTimeGlobal, h, o)
  | .stageEgressPort h o => some (cEgressPort, h, o)
  | .stageQueue h o => some (cQueue, h, o)
  | .stageGateList h o => some (cGateList, h, o)
  | .stageMeter h o => some (cMeter, h, o)
  | .stageTrustMap h o => some (cTrustMap, h, o)
  | _ => none

/-- The lookaside rows: operation, header and job. -/
def lookOf : Instr → Option (Nat × Hdr × LkJob)
  | .lkCbc h j => some (1, h, j)
  | .lkCtr h j => some (2, h, j)
  | .lkCfb h j => some (3, h, j)
  | .lkGcm h j => some (4, h, j)
  | .lkCmac h j => some (5, h, j)
  | .lkWrap h j => some (6, h, j)
  | .lkUnwrap h j => some (7, h, j)
  | .lkKdf h j => some (8, h, j)
  | .lkHash h j => some (9, h, j)
  | .lkVerify h j => some (10, h, j)
  | _ => none

/-! ### What a row leaves as it was -/

/-- The parts of the device. -/
inductive Part where
  | host | cfg | fret | time | cnt | course | tamper | mram | vault | keys | fw | power | msec | fr | eg | lk | smv | mac
  | lanes | freeCtr | wire
deriving DecidableEq, Repr

/-- Two devices agree in a part. -/
def Part.same (p : Part) (d e : Dev) : Prop :=
  match p with
  | .host => e.host = d.host
  | .cfg => e.cfg = d.cfg
  | .fret => e.fret = d.fret
  | .time => e.time = d.time
  | .cnt => e.cnt = d.cnt
  | .course => e.course = d.course
  | .tamper => e.tamper = d.tamper
  | .mram => e.mram = d.mram
  | .vault => e.vault = d.vault
  | .keys => e.keys = d.keys
  | .fw => e.fw = d.fw
  | .power => e.power = d.power
  | .msec => e.msec = d.msec
  | .fr => e.fr = d.fr
  | .eg => e.eg = d.eg
  | .lk => e.lk = d.lk
  | .smv => e.smv = d.smv
  | .mac => e.mac = d.mac
  | .lanes => e.lanes = d.lanes
  | .freeCtr => e.freeCtr = d.freeCtr
  | .wire => e.wire = d.wire

/-- Nothing but the named parts changes. -/
def OnlyParts (ps : List Part) (d e : Dev) : Prop := ∀ p, p ∉ ps → p.same d e

/-! ### The parts that a row may change -/

/-- The rows of registers, interrupts, PCIe, management ports, lanes, time and commits: the parts each may change. -/
def hostRowParts : Instr → Option (List Part)
  | .domainResetDone _ | .ringDisable _ _ _ | .dtuInvalDone _ | .pcieLinkUp _ | .pcieConfigWrite _ _
   | .dtuInval _ _ _ _ =>
    some [.host]
  | .dtuModeWrite _ _ _ =>
    some [.host, .course]
  | .ringEnable _ _ _ | .msixVectorUnmask _ _ =>
    some [.host, .cnt, .wire]
  | .dtuErrClear _ _ =>
    some [.host, .time, .cnt, .course, .keys, .msec, .fr, .eg, .wire]
  | .msixHoldoffExpiry _ _ | .doorbellPoll _ | .dmEventResend _ =>
    some [.host, .time, .cnt, .wire]
  | .announceTimer | .hemunerAckFrame _ _ =>
    some [.host, .time, .cnt, .course, .tamper, .mram, .vault, .keys, .power, .msec, .fr, .eg, .lk, .smv, .wire]
  | .hemunerOtherFrame _ _ =>
    some [.cnt]
  | .servoEvent _ _ | .servoHoldover _ | .timePinEdge _ _ _ =>
    some [.host, .time, .cnt, .course, .wire]
  | .timePinOutput _ =>
    some [.time, .cnt, .wire]
  | .registerWrite _ _ _ _ _ | .domainReset _ _ | .pcieFlr _ | .pcieLinkDown _ | .perstNAssert _ =>
    some [.host, .cfg, .time, .cnt, .course, .keys, .fw, .msec, .fr, .eg, .lk, .wire]
  | .mgSyncLoss _ _ =>
    some [.cnt, .lanes]
  | .mgSyncAcquired _ =>
    some [.host, .cfg, .fret, .time, .cnt, .course, .tamper, .mram, .vault, .keys, .fw, .power, .msec, .fr, .eg, .lk, .smv, .mac,
      .lanes, .freeCtr, .wire]
  | .prbsCheckerLock _ _ _ _ =>
    some [.lanes]
  | .laneAcquired _ | .laneAdaptDone _ _ =>
    some [.power, .lanes, .freeCtr]
  | .laneRetryTimer _ | .laneRelockTimeout _ =>
    some [.time, .cnt, .lanes]
  | .faultMirrorTimer _ =>
    some [.time, .cnt, .lanes, .wire]
  | .laneAlignTimeout _ =>
    some [.host, .time, .cnt, .course, .lanes, .wire]
  | .laneAligned _ _ _ _ _ _ | .laneLockLoss _ _ | .laneRelocked _ =>
    some [.host, .time, .cnt, .course, .keys, .msec, .fr, .eg, .smv, .lanes, .wire]
  | .armCopyDone _ | .cancelRewriteDone _ =>
    some [.host, .cfg, .time, .cnt, .course, .wire]
  | _ => none

/-- The rows of frames, egress, key misses, the MAC table, Smivia and pairing: the parts each may change. -/
def frameRowParts : Instr → Option (List Part)
  | .frameIngress _ =>
    some [.host, .cnt, .fr]
  | .portRxFrame _ _ _ _ _ =>
    some [.cnt, .fr]
  | .parseComplete _ | .recircTimeout _ | .parkTimeout _ =>
    some [.time, .cnt, .keys, .msec, .fr, .eg]
  | .puntEntryWrite _ | .suspendedFetchAbort _ _ =>
    some [.host, .time, .cnt, .course, .keys, .msec, .fr, .eg, .wire]
  | .cipherStageExit _ | .bankRelease =>
    some [.cfg, .time, .cnt, .keys, .msec, .fr, .eg]
  | .frameEndArrival _ =>
    some [.host, .cfg, .time, .cnt, .course, .keys, .msec, .fr, .eg, .wire]
  | .transmissionSelection _ =>
    some [.cfg, .time, .cnt, .keys, .msec, .fr, .eg, .freeCtr]
  | .frameTxDone _ | .egressUnderrun _ | .llRelease _ | .onestepLaunch _ =>
    some [.host, .cfg, .time, .cnt, .course, .tamper, .mram, .vault, .keys, .power, .msec, .fr, .eg, .lk, .smv, .wire]
  | .gateSwitch _ =>
    some [.host, .cfg, .time, .cnt, .course, .fr, .eg, .smv, .wire]
  | .gateEntryChange _ =>
    some [.cfg, .time, .cnt, .fr, .eg, .smv]
  | .blobReadCompletion _ _ _ _ _ =>
    some [.host, .time, .cnt, .course, .tamper, .mram, .vault, .keys, .power, .msec, .fr, .eg, .lk, .smv, .wire]
  | .zeroingDone _ =>
    some [.keys, .lk]
  | .learnProposalProcess _ =>
    some [.host, .cnt, .course, .mac, .freeCtr, .wire]
  | .orderCacheRetire _ =>
    some [.time, .cnt, .mac]
  | .smvFrameRx _ _ _ _ _ _ | .pairMessageAssembled _ =>
    some [.host, .time, .cnt, .course, .tamper, .mram, .vault, .keys, .power, .msec, .fr, .eg, .lk, .smv, .freeCtr, .wire]
  | .smvDefectDeclare _ _ | .smvDefectHoldoffExpiry _ _ | .smvDefectClear _ _ =>
    some [.host, .time, .cnt, .course, .keys, .msec, .fr, .eg, .smv, .lanes, .wire]
  | .pairTimeout _ =>
    some [.host, .time, .cnt, .course, .keys, .msec, .lk, .smv, .wire]
  | .pairBackoffExpiry _ =>
    some [.host, .time, .cnt, .course, .lk, .smv, .freeCtr, .wire]
  | .rekeyIntervalExpiry _ =>
    some [.time, .cnt, .lk, .smv, .freeCtr]
  | _ => none

/-- The rows of the course, firmware, tamper and life cycle: the parts each may change. -/
def sysRowParts : Instr → Option (List Part)
  | .ctlLossHoldReached =>
    some [.host, .time, .cnt, .course, .keys, .power, .msec, .fr, .eg, .wire]
  | .stringWritePresented _ _ | .voteWindowExpiry | .stringFaultReport _ | .stringWatchdogExpiry _ =>
    some [.host, .cfg, .time, .cnt, .course, .keys, .fw, .power, .msec, .fr, .eg, .lk, .wire]
  | .stringBistDone _ _ =>
    some [.course]
  | .courseRestartTimer =>
    some [.time, .cnt, .course, .power]
  | .fwTrialEnd =>
    some [.host, .time, .cnt, .course, .fw, .wire]
  | .railWarningTimer _ _ =>
    some [.host, .cnt, .course, .tamper, .wire]
  | .backupSample _ =>
    some [.time, .tamper, .vault, .keys, .msec]
  | .tamperLogCopy =>
    some [.host, .cnt, .course, .mram, .vault, .wire]
  | .governorSample _ =>
    some [.power]
  | .lcJournalStep =>
    some [.host, .cnt, .course, .tamper, .mram, .vault, .keys, .fw, .power, .msec, .wire]
  | .bkclkStopped =>
    some [.vault, .keys, .msec]
  | .tbApply _ =>
    some [.host, .cfg, .fret, .time, .cnt, .course, .fw, .fr, .eg, .smv, .freeCtr, .wire]
  | _ => none

/-- A row changes no part of the device but these, and not the queue. -/
def KeepsTo (ps : List Part) (x : Instr) : Prop := ∀ s t, exec x s = .next t → OnlyParts ps s.dev t.dev ∧ t.pending = s.pending

/-! ### What a command brings from host memory -/

/-- What a host command carries of its input, auxiliary and state buffers. -/
def carried : Instr → Bytes × Bytes × Bytes
  | .stageDiscard _ o | .stageFret _ o | .stageDomainMap _ o | .stageQuota _ o | .stagePortLayout _ o
   | .stageLane _ o | .stageFaultMirror _ o | .stageMgmtPort _ o | .stageSmvGroup _ o | .stageParseNode _ o
   | .stageParseTrans _ o | .stageParsePattern _ o | .stageParsePort _ o | .stageRecirc _ o | .stagePunt _ o
   | .stageKeyProfile _ o | .stageTcam _ o | .stageClsPort _ o | .stageService _ o | .stageLpm _ o
   | .stageChannel _ o | .stageMacsecPort _ o | .stageSecy _ o | .stageTxSc _ o | .stageRxSc _ o | .stageSa _ o
   | .stageLlPair _ o | .stageBlobTable _ o | .stagePark _ o | .stageStampPort _ o | .stageTimePin _ o
   | .stageTimeGlobal _ o | .stageEgressPort _ o | .stageQueue _ o | .stageGateList _ o | .stageMeter _ o
   | .stageTrustMap _ o => (o.image, [], [])
  | .keyImport _ _ _ _ _ _ b | .keyDerive _ _ _ _ _ _ b | .keyWriteClear _ _ _ _ b | .keyPin _ _ _ _ b
   | .keyMgmtSet _ _ _ _ _ _ b | .fwBlock _ _ _ _ _ b | .lcTransition _ _ _ _ b | .lcDebugScrub _ _ _ b => (b, [], [])
  | .lkCbc _ j | .lkCtr _ j | .lkCfb _ j | .lkGcm _ j | .lkCmac _ j | .lkWrap _ j | .lkUnwrap _ j | .lkKdf _ j
   | .lkHash _ j | .lkVerify _ j => (j.srcData, j.auxData, j.stateData)
  | _ => ([], [], [])

end Sys2Proof.Machine
end

