-- ==== Sys2Proof/WellFormed.lean ====
section
/-! DEFINITION. Well-formed commands: every operand is in the range that the spec gives it, so that a command of the
spec is spelled by exactly one term. -/

namespace Sys2Proof

/-- A number of `w` bits. -/
def fits (w n : Nat) : Bool := decide (n < 2 ^ w)

/-- A signed number of 16 bits. -/
def signed16 (z : Int) : Bool := decide (-32768 ≤ z) && decide (z < 32768)

/-- An issuing domain: 0 to 31, or 32 for DM. -/
def domOk (n : Nat) : Bool := decide (n ≤ 32)

/-- A port as C0 codes it: 0 to 15 line side, 16 to 31 host side. -/
def portOk (n : Nat) : Bool := decide (n < 32)

/-- A slice. -/
def sliceOk (n : Nat) : Bool := decide (n < 2)

/-- A slot of an endpoint, and an endpoint. -/
def placeOk (ep slot : Nat) : Bool := decide (ep < 4) && decide (slot < 8)

/-- The header of a host command: DM's commands come on no ring, a domain's on the command ring or a lookaside
ring. -/
def Hdr.wf (h : Hdr) : Bool :=
  domOk h.dom && (if h.dom = 32 then h.ring = 0 else h.ring = 0 || (decide (3 ≤ h.ring) && decide (h.ring ≤ 6)))

/-- A management command does not come on a lookaside ring. -/
def Hdr.mgmt (h : Hdr) : Bool := h.wf && h.ring = 0

/-- A lookaside job comes on a lookaside ring. -/
def Hdr.look (h : Hdr) : Bool := h.wf && decide (3 ≤ h.ring)

def StageOps.wf (o : StageOps) : Bool :=
  fits 32 o.index && fits 8 o.action && fits 16 o.length && fits 48 o.imageIova && decide (o.image.length = o.length) &&
    (!o.isInline || decide (o.length ≤ 40))

def KeyOps.wf (k : KeyOps) : Bool :=
  fits 24 k.handle && fits 16 k.parent && fits 16 k.slot && decide (k.ownerTag.length = 12) && fits 48 k.blobIova

def LkJob.wf (j : LkJob) : Bool :=
  fits 24 j.handle && fits 8 j.paramA && fits 32 j.length && fits 48 j.src && fits 48 j.dst && fits 48 j.aux &&
    fits 32 j.auxLen && fits 48 j.stateIova && fits 16 j.paramB && decide (j.iv.length = 16)

def SearchOp.wf : SearchOp → Bool
  | .mac s f m => fits 16 s && fits 16 f && fits 48 m
  | .lpm s f a => fits 16 s && decide (f < 2) && fits 128 a
  | .channel i => fits 16 i

def LaneErrs.wf (e : LaneErrs) : Bool :=
  portOk e.lane && fits 32 e.corrected && fits 32 e.uncorrectable && fits 32 e.symbols && fits 32 e.bip && fits 32 e.markers

def CbrBlocks.wf (x : CbrBlocks) : Bool := portOk x.port && decide (x.blocks.length % 9 = 0 ∧ x.blocks.length ≤ 9216)

/-- Whether every operand of a command is in its range. -/
def Instr.wf : Instr → Bool
  | .stageDiscard h o | .stageFret h o | .stageDomainMap h o | .stageQuota h o | .stagePortLayout h o
  | .stageLane h o | .stageFaultMirror h o | .stageMgmtPort h o | .stageSmvGroup h o | .stageParseNode h o
  | .stageParseTrans h o | .stageParsePattern h o | .stageParsePort h o | .stageRecirc h o | .stagePunt h o
  | .stageKeyProfile h o | .stageTcam h o | .stageClsPort h o | .stageService h o | .stageLpm h o
  | .stageChannel h o | .stageMacsecPort h o | .stageSecy h o | .stageTxSc h o | .stageRxSc h o | .stageSa h o
  | .stageLlPair h o | .stageBlobTable h o | .stagePark h o | .stageStampPort h o | .stageTimePin h o
  | .stageTimeGlobal h o | .stageEgressPort h o | .stageQueue h o | .stageGateList h o | .stageMeter h o
  | .stageTrustMap h o => h.mgmt && o.wf
  | .check h | .cancelCommit h | .standingSave h | .standingClear h | .fwRevert h => h.mgmt
  | .armCommit h t _ => h.mgmt && fits 64 t
  | .armCopyDone k | .cancelRewriteDone k | .domainResetDone k | .dtuInvalDone k | .doorbellPoll k => domOk k
  | .tblInsert h s f m pe po _ => h.mgmt && fits 16 s && fits 16 f && fits 48 m && fits 16 pe && fits 8 po
  | .tblDelete h s f m => h.mgmt && fits 16 s && fits 16 f && fits 48 m
  | .tblSearch h o => h.mgmt && o.wf
  | .tblNext h o => h.mgmt && fits 32 o.cursor && fits 16 o.service && fits 8 o.port && fits 48 o.iova && fits 2 o.select
  | .tblFlushPort h p _ => h.mgmt && fits 8 p
  | .keyGenerate h k => h.mgmt && k.wf
  | .keyImport h k kek form iova len _ =>
    h.mgmt && k.wf && fits 24 kek && fits 8 form && fits 48 iova && fits 16 len
  | .keyDerive h k src iova l c _ => h.mgmt && k.wf && fits 24 src && fits 48 iova && fits 8 l && fits 8 c
  | .keyWriteClear h k _ iova _ => h.mgmt && k.wf && fits 48 iova
  | .keyPin h x s iova _ => h.mgmt && fits 24 x && fits 16 s && fits 48 iova
  | .keyUnpin h s => h.mgmt && fits 16 s
  | .keyEvict h x => h.mgmt && fits 24 x
  | .keyExport h x kek form iova => h.mgmt && fits 24 x && fits 24 kek && fits 8 form && fits 48 iova
  | .keyParentBind h e s => h.mgmt && fits 16 e && fits 16 s
  | .keyRevoke h e => h.mgmt && fits 16 e
  | .keyDomainRoll h t => h.mgmt && fits 8 t
  | .keyStatus h k i => h.mgmt && fits 8 k && fits 24 i
  | .keyMgmtSet h i form kek iova len _ =>
    h.mgmt && fits 64 i && fits 8 form && fits 24 kek && fits 48 iova && fits 16 len
  | .saInit h sa pn t => h.mgmt && fits 32 sa && fits 64 pn && fits 64 t
  | .saEnable h sa | .saDisable h sa => h.mgmt && fits 32 sa
  | .saSetLowestPn h sa pn => h.mgmt && fits 32 sa && fits 64 pn
  | .saRead h sa iova => h.mgmt && fits 32 sa && fits 48 iova
  | .saSmvArm h s e tx rx t => h.mgmt && fits 8 s && fits 16 e && fits 24 tx && fits 24 rx && fits 64 t
  | .saSmvCancel h s | .saSmvStop h s => h.mgmt && fits 8 s
  | .saSmvRead h s iova => h.mgmt && fits 8 s && fits 48 iova
  | .tbInc h t w f => h.mgmt && fits 8 t && fits 8 w && fits 32 f
  | .tbStep h o => h.mgmt && fits 8 o.tb && fits 48 o.seconds && fits 32 o.nanos && fits 32 o.fraction &&
      fits 8 o.incWhole && fits 32 o.incFrac && fits 48 o.iova
  | .tbRead h t iova => h.mgmt && fits 8 t && fits 48 iova
  | .tbApply t | .servoHoldover t => decide (t < 8)
  | .servoEvent t phase => decide (t < 8) && decide (phase < 32)
  | .cntRead h f c _ iova => h.mgmt && fits 32 f && fits 16 c && fits 48 iova
  | .cntLaneRead h l _ => h.mgmt && fits 8 l
  | .cntSelect h c e q => h.mgmt && fits 8 c && fits 16 e && fits 32 q
  | .dumpConfig h p m => h.mgmt && fits 32 p && fits 32 m
  | .fwBegin h s l => h.mgmt && fits 8 s && fits 32 l
  | .fwBlock h s o iova l _ => h.mgmt && fits 8 s && fits 32 o && fits 48 iova && fits 16 l
  | .fwVerify h s | .fwCancel h s => h.mgmt && fits 8 s
  | .fwSchedule h s t => h.mgmt && fits 8 s && fits 64 t
  | .fwStatus h iova | .lcStatus h iova => h.mgmt && fits 48 iova
  | .lcTransition h t iova l _ => h.mgmt && fits 8 t && fits 48 iova && fits 16 l
  | .lcSetSupervisor h t => h.mgmt && fits 8 t
  | .lcDebugScrub h iova l _ => h.mgmt && fits 48 iova && fits 16 l
  | .tamperConfig h a c lo hi => h.mgmt && fits 8 a && fits 8 c && signed16 lo && signed16 hi
  | .tamperClear h m => h.mgmt && fits 16 m
  | .tamperLogRead h f c iova => h.mgmt && fits 32 f && fits 16 c && fits 48 iova
  | .resume h k u _ | .abort h k u _ => h.mgmt && fits 8 k && fits 8 u
  | .lkCbc h j | .lkCtr h j | .lkCfb h j | .lkGcm h j | .lkCmac h j | .lkWrap h j | .lkUnwrap h j | .lkKdf h j
  | .lkHash h j | .lkVerify h j => h.look && j.wf
  | .lkSegmentEnd c => decide (c < 8)
  | .registerWrite e s o w _ =>
    decide (e < 4) && decide (s ≤ 14) && fits 12 o && (w = 4 || w = 8) && decide (o % w = 0)
  | .domainReset e s | .dtuErrClear e s => placeOk e s
  | .ringEnable e s r | .ringDisable e s r => placeOk e s && decide (r ≤ 8)
  | .dtuModeWrite e s m => placeOk e s && decide (m < 4)
  | .dtuInval e s _ p => placeOk e s && fits 36 p
  | .msixVectorUnmask e v => decide (e < 4) && decide (v < 64)
  | .msixHoldoffExpiry k s => decide (k < 32) && decide (s < 5)
  | .doorbellRecordRead k rs => decide (k < 32) && decide (rs.length = 9)
  | .descriptorFetchDone k r _ desc _ _ _ =>
    decide (k < 32) && (r = 0 || (decide (3 ≤ r) && decide (r ≤ 6))) && decide (desc.length = 64)
  | .dmaReadCompletion k _ w _ => decide (k < 32) && decide (w.length ≤ 4)
  | .dmaCompletionTimeout k _ => decide (k < 32)
  | .commandSuspendTimeout k r _ => decide (k < 32) && decide (r ≤ 6)
  | .pcieFlr e | .pcieLinkDown e | .perstNAssert e | .pcieLinkUp e | .pcieConfigWrite e _ => decide (e < 4)
  | .hemunerCommandFrame p _ | .hemunerAckFrame p _ | .hemunerOtherFrame p _ | .mgSyncLoss p _ | .mgSyncAcquired p =>
    decide (p < 2)
  | .announceTimer | .dmEventResend _ | .fretBoundary | .ctlLossHoldReached | .bankRelease | .ageScanEnd | .pkOpDone
  | .voteWindowExpiry | .courseRestartTimer | .fwStepDone | .fwTrialEnd | .tamperLogCopy | .leaveGrant
  | .governorSample _ | .lcJournalStep | .lcResetTimer | .powerOnReset | .pwrdnNFall | .bkclkStopped | .shadowMismatch _
  | .tempSample _ | .vbatSample _ | .backupSample _ | .resyncComplete _ => true
  | .gateSwitch p | .gateEntryChange p | .transmissionSelection p | .frameTxDone p | .egressUnderrun p
  | .faultMirrorTimer p => portOk p
  | .frameIngress _ | .parseComplete _ | .classifyComplete _ | .cipherStageEntry _ | .cipherStageExit _
  | .frameEndArrival _ | .rxConfirmation _ | .recircTimeout _ | .llRelease _ | .onestepLaunch _ | .parkTimeout _ => true
  | .portRxFrame p f _ x es => portOk p && decide (f.length ≤ 16384) && decide (x.phase < 32) && decide (x.lane < 8) && es.all LaneErrs.wf
  | .puntEntryWrite s | .learnProposalProcess s | .orderCacheRetire s | .bridgeMessageRx s _
  | .smvFrameConfirm s | .pairMessageAssembled s | .pairTimeout s | .pairBackoffExpiry s | .rekeyIntervalExpiry s =>
    sliceOk s
  | .blobReadCompletion s r w _ b => sliceOk s && decide (r < 256) && decide (w.length ≤ 4) && decide (b.length ≤ 96)
  | .keyInstall s r | .missRecordRelease s r | .suspendedFetchAbort s r => sliceOk s && decide (r < 256)
  | .zeroingDone n => decide (n < 16384)
  | .smvFrameTx x => sliceOk x.slice && x.cbr.all CbrBlocks.wf
  | .smvFrameRx s _ _ _ _ es => sliceOk s && es.all LaneErrs.wf
  | .smvDefectDeclare s k | .smvDefectHoldoffExpiry s k | .smvDefectClear s k => sliceOk s && decide (k < 16)
  | .laneAcquired l | .laneAlignTimeout l | .laneRetryTimer l | .laneLockLoss l _ | .laneRelocked l
  | .laneRelockTimeout l | .laneAdaptDone l _ | .laneAligned l _ _ _ _ _ | .prbsCheckerLock l _ _ _ => portOk l
  | .timePinEdge p _ x => decide (p < 4) && decide (x.phase < 32)
  | .timePinOutput p => decide (p < 4)
  | .stringWritePresented s _ | .stringFaultReport s | .stringWatchdogExpiry s | .stringBistDone s _ => decide (s < 3)
  | .courseRestartDone p => decide (p.length = 3)
  | .scrubBurst f => decide (f.length ≤ 4096)
  | .railHigh r _ | .railLow r _ | .railRecovered r _ | .railLowTimeout r | .railWarningTimer r _ => decide (r < 6)
  | .clockCheckWindow c _ => decide (c < 18)
  | .loopSample l _ => decide (l < 2)
  | .startUp o => decide (o.portmap0 < 8) && decide (o.portmap1 < 8) && decide (o.pcieBif < 4) &&
      decide (o.bist.length = 3) && decide (o.bootFwOk.length = 2)

end Sys2Proof
end

