-- ==== Sys2Proof/Certificates/Slice0/Obligations.lean ====
section
/-! DEFINITION. The statements for the provers. -/

open Sys2Proof Sys2Proof.Machine

/-! ### The block: its queue, its step, its reset -/

/-- One step of a block: the command at the front of the queue runs on the state with the queue's rest. -/
def Obligations.StepRunsFront : Prop := ∀ c rest s, s.pending = c :: rest → step s = exec c { s with pending := rest }

/-- Every command leaves the queue of commands alone, and none stops the block. -/
def Obligations.CommandsGoOn : Prop := ∀ c s, ∃ t, exec c s = .next t ∧ t.pending = s.pending

/-- With no command waiting, one TCLK edge passes: every time base takes its increment (11 R335). That a step on an empty
queue is one edge is this model's choice (log entry 3). -/
def Obligations.IdleEdge : Prop := ∀ s, s.pending = [] → ∃ t, step s = .next t ∧ t.pending = [] ∧
  t.dev.time.tclk = s.dev.time.tclk + 1 ∧
  (∀ k, t.dev.tb k = if k < s.dev.time.tbs.length then
      { s.dev.tb k with frac := ((s.dev.tb k).frac + (s.dev.tb k).inc) % (2 ^ 80 * 10 ^ 9) } else s.dev.tb k) ∧
  OnlyParts [.time, .cnt] s.dev t.dev

/-- What power-on reset leaves, as the spec gives it: time bases at zero, the fret generator stopped, every lane OFF, PRODUCTION
in the life-cycle block, no tamper bit, no command taken and none waiting (11 R335, 19 R544, 16 R490). -/
def Obligations.ResetState : Prop :=
  State.reset.pending = [] ∧ State.reset.dev.power.ready = false ∧ State.reset.dev.power.up = false ∧
  (∀ k < 8, (State.reset.dev.tb k).frac = 0) ∧ State.reset.dev.fret.running = false ∧
  (∀ l < 32, (State.reset.dev.lane l).phase = .off) ∧ State.reset.dev.lc = 3 ∧ State.reset.dev.response = 0 ∧
  (∀ k < 33, (State.reset.dev.dom k).inProg = [] ∧ (State.reset.dev.dom k).works = [] ∧
    (State.reset.dev.page k).enable = false ∧ (State.reset.dev.page k).interval = 2000) ∧
  (∀ slice < 2, ((State.reset.dev.smv.getD slice {}).align = .noStream)) ∧ State.reset.dev.wire = []

/-! ### The command processor (13 R402 to R417, 14 R434 to R438) -/

/-- A command that is heard, with a tag that the ring's history holds or that a command in progress has: it is not executed.
An equal one is answered by the stored completion with REPLAY, or waits as a duplicate of the command in progress; another
completes with E_CONFLICT and DETAIL 0xFFFF, a lookaside job so refused counting among those in error (14 R437, 10 R334). -/
def Obligations.DuplicateTags : Prop := ∀ i s h, i.hdr = some h → Heard s.dev (cmdIn i s) → h.tag ≠ 0 →
  let c := cmdIn i s
  let d0 := progEvent 0x110 2 c.dom 1
  (∀ x, (s.dev.ring c.dom c.ring).history.find? (fun x => x.tag = c.tag) = some x → x.crc = c.crc →
    Leaves i s c.dom (fun d => post c { x.comp with flags := x.comp.flags ||| 1 } x.data (d0 d))) ∧
  (∀ x, (s.dev.ring c.dom c.ring).history.find? (fun x => x.tag = c.tag) = some x → x.crc ≠ c.crc →
    Leaves i s c.dom (fun d => post c (conflictOf c) [] (lkRefused c (d0 d)))) ∧
  ((s.dev.ring c.dom c.ring).history.find? (fun x => x.tag = c.tag) = none →
    ∀ p, (s.dev.dom c.dom).inProg.find? (fun p => p.cmd.ring = c.ring && p.cmd.tag = c.tag) = some p →
      (p.cmd.crc = c.crc → Leaves i s c.dom (fun d => (d0 d).onDom c.dom (fun D => { D with
        inProg := modFirst (fun p => p.cmd.ring = c.ring && p.cmd.tag = c.tag) (fun x => { x with dups := x.dups ++ [c.port] }) D.inProg }))) ∧
      (p.cmd.crc ≠ c.crc → Leaves i s c.dom (fun d => post c (conflictOf c) [] (lkRefused c (d0 d)))))

/-- A heard command with a fresh tag: a reserved byte or an invalid operand encoding, or an opcode that does not belong on its
ring, completes with E_RANGE; a state of the whole device that denies the command with E_STATE, unless an operand's range or a
privilege fails first (14 R434, 10 R311, 16 R478, R489, R492, 17 R516). A lookaside job so refused counts among those in error (10
R334). -/
def Obligations.FirstChecks : Prop := ∀ i s h, i.hdr = some h → Heard s.dev (cmdIn i s) → s.dev.freshTag (cmdIn i s) →
  let c := cmdIn i s
  (h.bad = true ∨ isLkOp c.op ≠ decide (3 ≤ c.ring) →
    Leaves i s c.dom (fun d => finish c (fail eRange) (lkRefused c (d.entered c)))) ∧
  (h.bad = false → isLkOp c.op = decide (3 ≤ c.ring) → s.dev.denies c.op i = true →
    Leaves i s c.dom (fun d => finish c ((earlyFail i c (d.entered c)).getD (fail eState)) (lkRefused c (d.entered c))))

/-- While the command processor does not serve, a command waits in order on its ring; commands of a domain that the device does
not hear are not taken at all (15 R459, 16 R492). -/
def Claims.CommandsWait : Prop := ∀ i s h, i.hdr = some h →
  let c := cmdIn i s
  (s.dev.admits c.dom = false → exec i s = .next s) ∧
  (s.dev.admits c.dom = true → ¬(c.dom = dmCode ∧ isLkOp c.op = true) → s.dev.serves = false →
    exec i s = .next (s.onDev (fun d => d.onRing c.dom c.ring (fun r => { r with
      waiting := r.waiting ++ [(c, if h.bad then none else some i)] }))))

/-- A ring with suspended work is blocked: a later command waits behind it, but a domain's RESUME and ABORT are executed at
once (13 R415). DM's commands, which suspend nothing, all wait where its completion queue has no room (13 R424). -/
def Claims.BlockedRing : Prop := ∀ i s h, i.hdr = some h →
  let c := cmdIn i s
  s.dev.admits c.dom = true → ¬(c.dom = dmCode ∧ isLkOp c.op = true) → s.dev.serves = true →
  s.dev.ringBlocked c.dom c.ring = true →
  (c.dom = dmCode ∨ (c.op ≠ 0x0A01 ∧ c.op ≠ 0x0A02) → exec i s = .next (s.onDev (fun d => d.onRing c.dom c.ring (fun r => { r with
    waiting := r.waiting ++ [(c, if h.bad then none else some i)] })))) ∧
  (c.dom ≠ dmCode → c.op = 0x0A01 ∨ c.op = 0x0A02 → Leaves i s c.dom (runCmd (if h.bad then none else some i) c))

/-- Commands wait in order while the course does not serve or their ring is blocked. -/
def Obligations.RingOrder : Prop := Claims.CommandsWait ∧ Claims.BlockedRing

/-- A domain's command with an input reads it first: it takes no effect until the read has returned (14 R430, R434). -/
def Obligations.InputIsRead : Prop := ∀ i s x, TakesNow i s →
  inputOf i (cmdIn i s).dom (s.dev.entered (cmdIn i s)) = some x → (cmdIn i s).dom ≠ dmCode →
  earlyFail i (cmdIn i s) (s.dev.entered (cmdIn i s)) = none →
  Leaves i s (cmdIn i s).dom (fun d => workGo finishWork
    { instr := some i, cmd := cmdIn i s, todo := (pagesOf x.1 x.2).map (fun p => (p.1, p.2, false)) } (d.entered (cmdIn i s)))

/-- An output inside one page that translates is written in the commands class before the command completes (14 R430). -/
def Obligations.OutputBeforeCompletion : Prop := ∀ (c : Cmd) (r : Reply) (d : Dev) iova data bus,
  c.dom ≠ dmCode → r.outs = [(iova, data)] → data ≠ [] → iova % 4096 + data.length ≤ 4096 → xlat d c.dom iova true = .ok bus →
  deliver finishWork c r d = finishWork c r (dropWork c
    (countDma c.dom (ringClass c.ring) data.length (emit (.write c.dom bus data) (tlbTouch c.dom iova d))))

/-- A command in progress that ends posts its completion on its domain's completion ring and is no longer in progress; the
completion has the layout of 14 R431 (13 R403, R404). -/
def Claims.CompletionPosted : Prop := ∀ (c : Cmd) (r : Reply) (d : Dev) bus,
  d.halted = false → d.course.resync = none → c.dom < 32 → c.dom < d.host.doms.length →
  (d.dom c.dom).inProg = [{ cmd := c }] → d.ringUp c.dom 1 = true → (d.page c.dom).dtuErr = false → (d.dom c.dom).held = [] →
  d.ringBlock c.dom 1 1 = none →
  xlat d c.dom ((d.ring c.dom 1).base + (d.ring c.dom 1).devIndex.toNat % 2 ^ (d.ring c.dom 1).log2 * 32) true = .ok bus →
  ((finish c r d).dom c.dom).inProg = [] ∧
  ∃ later, (finish c r d).wire = later ++ [.entry c.dom 1 bus (.completion
    { opcode := c.op, ring := c.ring, flags := r.flags, tag := c.tag, status := r.status, detail := r.detail,
      value := r.value, result := r.result })] ++ d.wire

/-- A completed command enters its ring's history, newest first, 256 at most; one with tag zero does not (14 R436). -/
def Claims.HistoryKeeps : Prop := ∀ c comp data d, c.dom < d.host.doms.length → c.ring < (d.dom c.dom).rings.length →
  (c.tag = 0 → recordTag c comp data d = d) ∧
  (c.tag ≠ 0 → ((recordTag c comp data d).ring c.dom c.ring).history =
      (⟨c.tag, c.crc, comp, if data.length ≤ 128 then data else []⟩ :: (d.ring c.dom c.ring).history).take 256 ∧
    ∀ k r, (k, r) ≠ (c.dom, c.ring) → (recordTag c comp data d).ring k r = d.ring k r)

/-- A completion is posted, and its tag is remembered. -/
def Obligations.CompletionAndHistory : Prop := Claims.CompletionPosted ∧ Claims.HistoryKeeps

/-- The tick at which the read that a command waits for times out. -/
def timeoutOf (s : State) (dom ring : Nat) (tag : BitVec 32) : Nat :=
  s.dev.readSince dom (.work ring tag) + nsTicks (s.dev.readTimeout dom (.work ring tag))

/-- The rows that end a read for a command: the walk it needed, whose table reads are issued and counted, has ended well and the
work goes on; the walk has found a fault and the work is suspended; the read has failed, at its completion timeout (13 R386, R408,
R414, R415). -/
def Obligations.ReadsReturn : Prop := ∀ s dom ring tag es w,
  (s.dev.dom dom).works.find? (fun w => w.cmd.ring = ring && w.cmd.tag = tag && decide (w.state = .walking)) = some w →
  w.resumer = none → es ≠ [] →
  (∀ iova len write rest leaf, w.todo = (iova, len, write) :: rest → walk iova write es = .ok leaf →
    Leaves (.dmaReadCompletion dom (.work ring tag) es true) s dom (fun d =>
      workGo finishWork w (tlbInsert w.cmd.dom iova leaf
        (tableReads dom (ringClass ring) iova es (progEvent 0x102 2 dom 1 d))))) ∧
  (∀ iova len write rest cause, w.todo = (iova, len, write) :: rest → walk iova write es = .error cause →
    Leaves (.dmaReadCompletion dom (.work ring tag) es true) s dom (fun d =>
      suspendWork w cause (tableReads dom (ringClass ring) iova es (progEvent 0x102 2 dom 1 d)))) ∧
  (∀ iova len write rest, w.todo = (iova, len, write) :: rest →
    Leaves (.dmaCompletionTimeout dom (.work ring tag)) s dom (fun d => suspendWork w 6 (badRead w.cmd.dom
      (tableReads dom (ringClass ring) iova [] (advanceTo (timeoutOf s dom ring tag) d))))) ∧
  (∀ i, w.todo = [] → w.instr = some i →
    Leaves (.dmaCompletionTimeout dom (.work ring tag)) s dom (fun d =>
      let e := dropWork w.cmd (badRead w.cmd.dom (advanceTo (timeoutOf s dom ring tag) d))
      finish w.cmd (fail (Config.readFailStatus e.freeCtr)) e.nextFree))

/-- Suspended work raises EV_DMA_FAULT with what 13 R415 lists, and waits for RESUME or ABORT. Work of a domain in reset is
discarded instead (13 R394). -/
def Claims.FaultSuspends : Prop := ∀ (w : Work) cause (d : Dev), w.cmd.dom < d.host.doms.length →
  ((d.page w.cmd.dom).resetBusy = true → suspendWork w cause d = dropWork w.cmd d) ∧
  ((d.page w.cmd.dom).resetBusy = false →
  let a := w.todo.headD (0, 0, false)
  let e := suspendWork w cause d
  { w with state := .suspended cause d.now, resumer := none } ∈ (e.dom w.cmd.dom).works ∧
  e.ringBlocked w.cmd.dom w.cmd.ring = true ∧
  (∀ x ∈ (e.dom w.cmd.dom).works, x.cmd = w.cmd → x = { w with state := .suspended cause d.now, resumer := none }) ∧
  e = putWork { w with state := .suspended cause d.now, resumer := none } (raise w.cmd.dom
    (d.event 0x0A01 [(16, 1, ringClass w.cmd.ring * 64 + (if a.2.2 then 32 else 0) + cause), (17, 1, w.cmd.ring),
      (18, 4, w.cmd.tag.toNat), (22, 6, a.1), (28, 4, w.progress)]) d))

/-- One second after its fault the device aborts suspended work itself: E_FAULT with the progress mark, marked AUTO (13 R415,
14 R431). -/
def Claims.SuspensionEnds : Prop := ∀ s dom ring tag, s.dev.halted = false →
  (∀ w cause since, s.dev.suspendedWork dom ring tag = some w → w.state = .suspended cause since →
    Leaves (.commandSuspendTimeout dom ring tag) s dom (fun d =>
      finish w.cmd { status := eFault, value := w.progress, flags := 2 } (dropWork w.cmd (advanceTo (since + 500000000) d)))) ∧
  (∀ r cause since, s.dev.suspendedWork dom ring tag = none → s.dev.lkSuspended dom ring tag = some r →
    r.at_ = .suspended cause since → Leaves (.commandSuspendTimeout dom ring tag) s dom (fun d =>
      lkDispatch (lkEnd r { status := eFault, value := r.mark, flags := 2 } (advanceTo (since + 500000000) d))))

/-- A DM command of class ONCE whose output would exceed 128 bytes, and any DM command whose output exceeds 1,024, completes
with E_LEN and has no effect (13 R423, 14 R438). -/
def Obligations.DmOutputLimit : Prop := ∀ i s c r, Comes false i s c → c.dom = dmCode →
  (effectOf i c (s.dev.entered c)).2 = some r →
  (1024 < (r.outs.map (fun o => o.2.length)).sum ∨ (onceOp i = true ∧ 128 < (r.outs.map (fun o => o.2.length)).sum)) →
  Completes false i s c (fail eLen) (fun d => d)

/-! ### Staging and commits (02 R47 to R55, 14 R442) -/

/-- Every `STAGE_*` command: the first failing check of 14 R434 decides the status and nothing is staged; where every check
is passed, the command completes with OK and the domain's staging set takes the object. -/
def Claims.StagedSet : Prop := ∀ i cls h o, stageOf i = some (cls, h, o) →
  Runs i (fun d c => Passes (stageFails d c.dom cls o)) (fun _ _ => {}) (fun c => setStaging c.dom (stagedBy c.dom cls o)) ∧
  ∀ e, Fails i (fun d c => firstFail (stageFails d c.dom cls o) = some e) e

/-- A later SET, REMOVE or WITHDRAW of the same object replaces the earlier one, and no other object of the set moves (14
R442). -/
def Claims.StageReplaces : Prop := ∀ dom cls o l,
  (∀ x ∈ stagedBy dom cls o l, x.cls = cls → x.key = stageKey dom cls o →
    o.action ≠ 2 ∧ x.obj = (if o.action = 0 then stageImage cls o else none) ∧ x.force = o.force) ∧
  (o.action ≠ 2 → ∃ x ∈ stagedBy dom cls o l, x.cls = cls ∧ x.key = stageKey dom cls o) ∧
  (∀ x, ¬(x.cls = cls ∧ x.key = stageKey dom cls o) → (x ∈ stagedBy dom cls o l ↔ x ∈ l)) ∧
  stagedBy dom cls o (stagedBy dom cls o l) = stagedBy dom cls o l

/-- Every STAGE command: its checks, and what the staging set holds after it. -/
def Obligations.StageCommands : Prop := Claims.StagedSet ∧ Claims.StageReplaces

/-- STAGE_DISCARD empties the staging set, but not one that is frozen. -/
def Claims.DiscardStaged : Prop := ∀ h o,
  Runs (.stageDiscard h o) (fun d c => noOperands o = true ∧ d.frozenSet c.dom = false) (fun _ _ => {})
    (fun c => setStaging c.dom (fun _ => [])) ∧
  Fails (.stageDiscard h o) (fun d c => noOperands o = true ∧ d.frozenSet c.dom = true) eBusy ∧
  Fails (.stageDiscard h o) (fun _ _ => noOperands o = false) eRange

/-- CHECK, ARM_COMMIT, CANCEL_COMMIT, STANDING_SAVE and STANDING_CLEAR (02 R50 to R55, R561, 19 R551). -/
def Claims.CommitRows : Prop := ∀ h target asap,
  Runs (.check h) (fun _ _ => True)
    (fun d c => (d.checkFail c.dom).getD
      { result := leBytes (d.copyWords (affected (d.changesOf c.dom)) (d.armedBut [c.dom] ++ [d.changesOf c.dom])).1 2 ++
          leBytes (d.copyWords (affected (d.changesOf c.dom)) (d.armedBut [c.dom] ++ [d.changesOf c.dom])).2 2 })
    (fun _ d => d) ∧
  Begins (.armCommit h target asap)
    (fun d c => Passes (armFails d c.dom target asap) ∧ d.checkFail c.dom = none ∧
      (asap = true ∨ d.baseTooLate (d.changesOf c.dom) target = false) ∧ d.copyLate c target asap = false)
    (fun c d => d.onDomCfg c.dom (fun x => { x with copying := some (d.copyOf c target asap) })) ∧
  (∀ e, Fails (.armCommit h target asap) (fun d c => firstFail (armFails d c.dom target asap) = some e) e) ∧
  (∀ y, Begins (.cancelCommit h) (fun d c => (d.domCfg c.dom).copying = some y)
    (fun c d => d.onDomCfg c.dom (fun x => { x with copying := some { y with cancels := y.cancels ++ [c] } }))) ∧
  Runs (.cancelCommit h)
    (fun d c => (d.domCfg c.dom).copying = none ∧
      ∃ f, (d.domCfg c.dom).armed = some f ∧ d.fret.index + 2 ≤ f ∧ d.sharers c.dom f = [])
    (fun _ _ => {}) (fun c => disarm c.dom) ∧
  Fails (.cancelCommit h)
    (fun d c => (d.domCfg c.dom).copying = none ∧ ∃ f, (d.domCfg c.dom).armed = some f ∧ f < d.fret.index + 2) eLate ∧
  Fails (.cancelCommit h) (fun d c => (d.domCfg c.dom).copying = none ∧ (d.domCfg c.dom).armed = none) eState ∧
  Begins (.standingSave h) (fun d c => Passes (standFails d c.dom d.saveSet.size))
    (fun c d => askLeave (.mram 8 0) (d.onCfg (fun k => { k with saves := k.saves ++ [(c, some d.saveSet)] }))) ∧
  Begins (.standingClear h) (fun d c => Passes (standFails d c.dom 0))
    (fun c d => askLeave (.mram 8 0) (d.onCfg (fun k => { k with saves := k.saves ++ [(c, none)] })))

/-- Discarding, checking, arming, cancelling, and saving the standing set. -/
def Obligations.CommitCommands : Prop := Claims.DiscardStaged ∧ Claims.CommitRows

/-! ### Tables (06, 14) -/

/-- The table commands: inserts and deletes join the queue of table writes, searches answer what the table holds once an
ageing scan in progress has come to the position it has reached, a flush asks for leave (02 R43, 06 R183, R190 to R193). -/
def Obligations.TableCommands : Prop := ∀ h service fid mac peer port isStatic,
  Begins (.tblInsert h service fid mac peer port isStatic)
    (fun d c => macKeyOk service fid mac = true ∧ peer < 16384 ∧ port < 32 ∧ d.ownsService c.dom service = true ∧
      quotaPort (d.quota c.dom) port = true)
    (fun c => queueWrite (.macInsert (some c) service fid mac peer port isStatic)) ∧
  Begins (.tblDelete h service fid mac) (fun d c => macKeyOk service fid mac = true ∧ d.ownsService c.dom service = true)
    (fun c => queueWrite (.macDelete c service fid mac)) ∧
  Fails (.tblInsert h service fid mac peer port isStatic)
    (fun d c => macKeyOk service fid mac = true ∧ peer < 16384 ∧ port < 32 ∧
      (d.ownsService c.dom service = false ∨ quotaPort (d.quota c.dom) port = false)) ePerm ∧
  Runs (.tblSearch h (.mac service fid mac)) (fun d c => macKeyOk service fid mac = true ∧ d.ownsService c.dom service = true)
    (fun d _ => match ((scanAdvance d).rep 0).find { service := service, fid := fid, mac := mac } with
      | none => {}
      | some (pos, e) => { flags := flagFound, result := macImage e (((scanAdvance d).rep 0).hits.contains pos) })
    (fun _ => scanAdvance) ∧
  (∀ family addr, Runs (.tblSearch h (.lpm service family addr))
    (fun d c => service < 1024 ∧ family < 2 ∧ d.ownsService c.dom service = true)
    (fun d _ => match lpmLookup (d.table cLpm) service family addr with
      | (none, n) => { detail := n }
      | (some o, n) => { flags := flagFound, detail := o.n 2 * 256 + n, value := o.n 4, result := beBytes (o.n 3) 16 })
    (fun _ d => d)) ∧
  (∀ index, Runs (.tblSearch h (.channel index)) (fun d c => index < 4096 ∧ quotaChannel (d.quota c.dom) index = true)
    (fun d _ => if (d.obj cChannel index).b 0 then
        { flags := flagFound, result := padTo 16 (writeImage cChannel (d.obj cChannel index)) } else {}) (fun _ d => d)) ∧
  (∀ o : NextOps, Runs (.tblNext h o)
    (fun d c => o.cursor ≤ lastPosition ∧ 1 ≤ o.select ∧ o.select ≤ 3 ∧ (o.allPorts = true ∨ o.port < 32) ∧
      (o.allServices = true ∨ (o.service < 1024 ∧ d.ownsService c.dom o.service = true)) ∧
      (o.allPorts = true ∨ quotaPort (d.quota c.dom) o.port = true))
    (fun d c => nextReply o (scanAdvance d) c.dom) (fun _ => scanAdvance)) ∧
  Begins (.tblFlushPort h port isStatic) (fun d c => port < 32 ∧ quotaPort (d.quota c.dom) port = true)
    (fun c d => askLeave .flushScan (d.onMac (fun m => { m with
      flushes := m.flushes ++ [{ cmd := c, port := port, statics := isStatic }] })))

/-! ### Keys (09) -/

/-- A key that a command makes is sealed under the domain's key, its blob written to host memory, and its named slot
installed once the blob has been written (09 R305). A DWK that no longer equals its complement raises alarm 10, and the
command fails (09 R293). -/
def Obligations.KeyMaking : Prop := ∀ h k,
  Runs (.keyGenerate h k) (fun d c => Passes (makeFails d c.dom k false) ∧ Whole (d.slotAt k.slot) ∧
      Passes ([rootFail d] ++ slotFails d c.dom k) ∧ (draw (makeLen k) d).2.dwkOk c.dom = true)
    (fun d c => keyReply c.dom k (draw (makeLen k) d).1 (draw (makeLen k) d).2)
    (fun c d => (sealBlob k.attr c.dom k.handle k.parent k.ownerTag (draw (makeLen k) d).1 (draw (makeLen k) d).2).2) ∧
  Runs (.keyGenerate h k)
    (fun d c => Passes (makeFails d c.dom k false) ∧ Whole (d.slotAt k.slot) ∧
      Passes ([rootFail d] ++ slotFails d c.dom k) ∧ (draw (makeLen k) d).2.dwkOk c.dom = false)
    (fun _ _ => fail eIntegrity) (fun _ d => raiseAlarm 10 0 (draw (makeLen k) d).2) ∧
  (∀ kek form iova len data,
    let wrapped (d : Dev) (c : Cmd) := (unwrapKey form (d.keyOf c.dom kek).2.keyBytes (bytesAt data 0 len)).filter (fun key =>
      key.length = makeLen k)
    Runs (.keyImport h k kek form iova len data)
      (fun d c => Passes (makeFails d c.dom k (!d.handleOk c.dom kek || decide (1 < form))) ∧
        Whole ((d.findPinned c.dom kek).toList ++ d.slotAt k.slot) ∧ Passes (importFails d c.dom k kek len) ∧ d.dwkOk c.dom = true)
      (fun d c => match wrapped d c with
        | some key => keyReply c.dom k key d
        | none => fail eIntegrity)
      (fun c d => match wrapped d c with
        | some key => (sealBlob k.attr c.dom k.handle k.parent k.ownerTag key d).2
        | none => d)) ∧
  (∀ source iova n m data, Runs (.keyDerive h k source iova n m data)
    (fun d c => Passes (makeFails d c.dom k (!d.handleOk c.dom source)) ∧
      Whole ((d.findPinned c.dom source).toList ++ d.slotAt k.slot) ∧ Passes (deriveFails d c.dom k source n m) ∧
      d.dwkOk c.dom = true)
    (fun d c => keyReply c.dom k (kdfCmac (d.keyOf c.dom source).2.keyBytes (bytesAt data 0 n) (bytesAt data n m) (makeLen k)) d)
    (fun c d => (sealBlob k.attr c.dom k.handle k.parent k.ownerTag
      (kdfCmac (d.keyOf c.dom source).2.keyBytes (bytesAt data 0 n) (bytesAt data n m) (makeLen k)) d).2)) ∧
  (∀ iova data, Runs (.keyWriteClear h k true iova data)
    (fun d c => Passes (clearFails d c.dom k true) ∧ Whole (d.slotAt k.slot) ∧
      Passes (slotFails d c.dom k ++ complementFails data) ∧ d.dwkOk c.dom = true)
    (fun d c => keyReply c.dom k (clearKey k data) d)
    (fun c d => (sealBlob k.attr c.dom k.handle k.parent k.ownerTag (clearKey k data) d).2)) ∧
  (∀ iova data, Runs (.keyWriteClear h k false iova data)
    (fun d c => Passes (clearFails d c.dom k false) ∧ Whole (d.slotAt k.slot) ∧
      { d.slot k.slot with binds := 0 } ≠ keySlot d c.dom k (clearKey k data) ∧
      Passes (slotFails d c.dom k ++ complementFails data))
    (fun _ _ => {}) (fun c d => installPinned k.slot (keySlot d c.dom k (clearKey k data)) d)) ∧
  (∀ iova data, Runs (.keyWriteClear h k false iova data)
    (fun d c => Passes (clearFails d c.dom k false ++ complementFails data) ∧ Whole (d.slotAt k.slot) ∧
      { d.slot k.slot with binds := 0 } = keySlot d c.dom k (clearKey k data)) (fun _ _ => {}) (fun _ d => d))

/-- Pinning, unpinning, evicting and exporting (09 R298, R299, R306). Every slot that a command reads equals its complement
(09 R291). -/
def Claims.KeySlots : Prop := ∀ h handle slot iova blob kek form,
  Runs (.keyPin h handle slot iova blob)
    (fun d c => Passes (pinFails d c.dom handle slot iova) ∧ Whole (d.slotAt slot) ∧
      ¬((d.slot slot).state = .valid ∧ (d.slot slot).dom = c.dom ∧ (d.slot slot).handle = handle) ∧
      Passes (slotFails d c.dom (pinOps handle slot iova)))
    (fun d c => match openBlob d c.dom handle blob none with
      | .ok _ => {}
      | .error cause => fail (openStatus cause))
    (fun c d => match openBlob d c.dom handle blob none with
      | .ok s => installPinned slot s d
      | .error cause => dwkAlarm cause d) ∧
  Runs (.keyPin h handle slot iova blob)
    (fun d c => Passes (pinFails d c.dom handle slot iova) ∧ Whole (d.slotAt slot) ∧
      (d.slot slot).state = .valid ∧ (d.slot slot).dom = c.dom ∧ (d.slot slot).handle = handle) (fun _ _ => {}) (fun _ d => d) ∧
  Runs (.keyUnpin h slot)
    (fun d c => slot < 16384 ∧ d.ownsSlot c.dom slot = true ∧ (d.slot slot).pairOk = true ∧
      ((d.slot slot).state = .valid ∨ (d.slot slot).state = .loading) ∧ d.pinUsed slot = false)
    (fun _ _ => {}) (fun _ => retireSlot false slot) ∧
  Fails (.keyUnpin h slot)
    (fun d c => slot < 16384 ∧ d.ownsSlot c.dom slot = true ∧ (d.slot slot).pairOk = true ∧
      ((d.slot slot).state = .valid ∨ (d.slot slot).state = .loading) ∧ d.pinUsed slot = true) eConflict ∧
  Runs (.keyEvict h handle)
    (fun d c => d.handleOk c.dom handle = true ∧ d.findPinned c.dom handle = none ∧
      ∃ n s, d.findCached c.dom handle = some (n, s) ∧ s.pairOk = true ∧ s.state ≠ .retiring ∧ s.state ≠ .zeroing)
    (fun _ _ => { flags := 4 })
    (fun c d => match d.findCached c.dom handle with
      | some (n, _) => retireSlot false n d
      | none => d) ∧
  Runs (.keyEvict h handle)
    (fun d c => d.handleOk c.dom handle = true ∧ d.findPinned c.dom handle = none ∧ d.findCached c.dom handle = none)
    (fun _ _ => {}) (fun _ d => d) ∧
  Fails (.keyEvict h handle)
    (fun d c => d.handleOk c.dom handle = true ∧ (d.findPinned c.dom handle).isSome = true ∧
      Whole ((d.findPinned c.dom handle).toList ++ (d.findCached c.dom handle).toList)) eState ∧
  Runs (.keyExport h handle kek form iova)
    (fun d c => d.handleOk c.dom handle = true ∧ d.handleOk c.dom kek = true ∧ form ≤ 1 ∧
      Whole ((d.anySlot c.dom handle).toList ++ (d.findPinned c.dom kek).toList) ∧ Passes (exportFails d c.dom handle kek))
    (fun d c => let out := wrapKey form (d.keyOf c.dom kek).2.keyBytes ((d.anySlot c.dom handle).getD (0, {})).2.keyBytes
      { value := out.length, outs := [(iova, out)] }) (fun _ d => d)

/-- Parent entries, revocation, domain rolls, key status and the management key (09 R300 to R303, 13 R426, 14 R435). -/
def Claims.KeyParents : Prop := ∀ h entry slot target,
  Runs (.keyParentBind h entry slot)
    (fun d c => entry ≤ 1023 ∧ slot < 16384 ∧ quotaParent (d.quota c.dom) entry = true ∧ d.ownsSlot c.dom slot = true ∧
      (d.slot slot).pairOk = true ∧
      d.keys.parents.find entry = none ∧ (∀ e ∈ d.keys.parents, e.2.slot ≠ slot) ∧ (d.slot slot).state = .valid ∧
      ∃ n, d.depthOf (d.slot slot) = some n ∧ n ≤ 3)
    (fun _ _ => {})
    (fun _ d => d.onKeys (fun k => { k with
      parents := k.parents.put entry { slot := slot, depth := (d.depthOf (d.slot slot)).getD 1 } })) ∧
  Begins (.keyRevoke h entry)
    (fun d c => entry ≤ 1023 ∧ quotaParent (d.quota c.dom) entry = true ∧ d.parentGen entry ≠ 2 ^ 32 - 1)
    (fun c d => addTeardown
      { dom := c.dom, first := entry, entries := (revokeAll 4 [entry] d).1, slots := (revokeAll 4 [entry] d).2.1, cmd := some c }
      (revokeAll 4 [entry] d).2.2) ∧
  Fails (.keyRevoke h entry)
    (fun d c => entry ≤ 1023 ∧ quotaParent (d.quota c.dom) entry = true ∧ d.parentGen entry = 2 ^ 32 - 1) eWrap ∧
  Begins (.keyDomainRoll h target) (fun d c => target ≤ 32 ∧ c.dom = d.sup ∧ d.domGen target ≠ 2 ^ 32 - 1)
    (fun c d => askLeave (.rollScan target) (d.onKeys (fun k => { k with rolls := k.rolls ++ [(c, target)] }))) ∧
  Runs (.keyStatus h 2 entry) (fun d c => entry ≤ 1023 ∧ quotaParent (d.quota c.dom) entry = true)
    (fun d c =>
      { result := leBytes c.dom 1 ++ leBytes (((d.keys.parents.find entry).map ParentBind.depth).getD 0) 1 ++
          leBytes (((d.keys.parents.find entry).map ParentBind.slot).getD 0xFFFF) 2 ++ leBytes (d.parentGen entry) 4 })
    (fun _ d => d) ∧
  Runs (.keyStatus h 1 slot) (fun d c => slot < 16384 ∧ (d.slot slot).pairOk = true ∧
      ((d.slot slot).state = .free ∨ (d.slot slot).dom = c.dom))
    (fun d _ => slotReply d (some slot) (d.slot slot)) (fun _ d => d) ∧
  Runs (.keyStatus h 0 slot) (fun d c => d.handleOk c.dom slot = true ∧ Whole (d.anySlot c.dom slot).toList)
    (fun d c => match d.anySlot c.dom slot with
      | some (n, s) => slotReply d (some n) s
      | none => slotReply d none {}) (fun _ d => d) ∧
  (∀ ident kek iova data, Begins (.keyMgmtSet h ident 1 kek iova 32 data)
    (fun d c => ident ≠ 0 ∧ c.dom = d.sup ∧ d.grant c.dom 0 = true ∧ c.dom ≠ dmCode ∧
      ¬(d.vault.mgmtId.toNat = ident ∧ d.vault.mgmtKey = bytesAt data 0 32 ∧ d.mgmtOk = true))
    (fun c d => newSession (setMgmtKey ident (bytesAt data 0 32) (hemSeal (finish c {} d))))) ∧
  (∀ ident kek iova data, Runs (.keyMgmtSet h ident 1 kek iova 32 data)
    (fun d c => ident ≠ 0 ∧ c.dom = d.sup ∧ d.grant c.dom 0 = true ∧ c.dom ≠ dmCode ∧
      d.vault.mgmtId.toNat = ident ∧ d.vault.mgmtKey = bytesAt data 0 32 ∧ d.mgmtOk = true) (fun _ _ => {}) (fun _ d => d)) ∧
  (∀ ident kek iova data, Begins (.keyMgmtSet h ident 0 kek iova 40 data)
    (fun d c => ident ≠ 0 ∧ c.dom = d.sup ∧ d.handleOk c.dom kek = true ∧ Whole (d.findPinned c.dom kek).toList ∧
      Passes (keyFails d c.dom kek 5) ∧
      ¬(d.vault.mgmtId.toNat = ident ∧ kwOpen (d.keyOf c.dom kek).2.keyBytes (bytesAt data 0 40) = some d.vault.mgmtKey ∧ d.mgmtOk = true))
    (fun c d => match kwOpen (d.keyOf c.dom kek).2.keyBytes (bytesAt data 0 40) with
      | some key => newSession (setMgmtKey ident key (hemSeal (finish c {} d)))
      | none => carryOut c (d, some (fail eIntegrity))))

/-- Pinning, evicting, exporting, binding, revoking and reading the state of keys. -/
def Obligations.KeyCommands : Prop := Claims.KeySlots ∧ Claims.KeyParents

/-! ### Security associations and Smivia epochs (07, 08) -/

/-- The SA commands join the queue of table writes once their checks pass; SA_READ answers the record of the SA (07 R218, 02
R43). -/
def Claims.SaQueue : Prop := ∀ h sa pn thr iova,
  Begins (.saInit h sa pn thr) (fun d c => saChecks c sa d = none) (fun c => queueWrite (.saInit c sa pn thr)) ∧
  Begins (.saEnable h sa) (fun d c => saChecks c sa d = none) (fun c => queueWrite (.saEnable c sa)) ∧
  Begins (.saDisable h sa) (fun d c => saChecks c sa d = none) (fun c => queueWrite (.saDisable c sa)) ∧
  Begins (.saSetLowestPn h sa pn) (fun d c => saChecks c sa d = none)
    (fun c => queueWrite (.saSetLowest c sa pn)) ∧
  Runs (.saRead h sa iova) (fun d c => saChecks c sa d = none) (fun d _ => { outs := [(iova, saRecord d sa)] })
    (fun _ d => d) ∧
  ∀ e, Fails (.saEnable h sa) (fun d c => saChecks c sa d = some e) e

/-- The epoch commands of a Smivia group (08 R260 to R262). -/
def Claims.SmvEpochs : Prop := ∀ h slice epoch tx rx target iova,
  Runs (.saSmvArm h slice epoch tx rx target)
    (fun d c => Passes (groupFails d c.dom slice) ∧
      (d.group slice).armed ≠ some (epoch, tx, rx, target) ∧ Passes (smvArmFails d c.dom slice epoch tx rx target))
    (fun _ _ => {})
    (fun c d => (setRx slice (epoch % 2) { epoch := epoch, slot := d.smvSlot c.dom rx 2 } d).onGroup slice (fun g => { g with
      nextEpoch := epoch, nextSlot := d.smvSlot c.dom tx 1, armed := some (epoch, tx, rx, target),
      releaseRx := if g.releaseRx = some (epoch % 2) then none else g.releaseRx })) ∧
  Runs (.saSmvArm h slice epoch tx rx target)
    (fun d c => Passes (groupFails d c.dom slice) ∧
      (d.group slice).armed = some (epoch, tx, rx, target)) (fun _ _ => {}) (fun _ d => d) ∧
  Runs (.saSmvCancel h slice)
    (fun d c => Passes (groupFails d c.dom slice) ∧
      ∃ x, (d.group slice).armed = some x ∧ d.fret.index + 1 < x.2.2.2) (fun _ _ => {}) (fun _ => disarmSwitch slice) ∧
  Fails (.saSmvCancel h slice)
    (fun d c => Passes (groupFails d c.dom slice) ∧
      ∃ x, (d.group slice).armed = some x ∧ x.2.2.2 ≤ d.fret.index + 1) eLate ∧
  Runs (.saSmvRead h slice iova) (fun d c => Passes (groupFails d c.dom slice))
    (fun d _ => { outs := [(iova, smvRecord (d.group slice))] }) (fun _ d => d) ∧
  Runs (.saSmvStop h slice)
    (fun d c => Passes (groupFails d c.dom slice) ∧ (d.group slice).stopDue = false ∧
      ((d.group slice).txEpoch ≠ 0 ∨ ∃ r ∈ (d.group slice).rx, r.epoch ≠ 0))
    (fun _ _ => {}) (fun _ d => d.onGroup slice (fun g => { g with stopDue := true })) ∧
  Fails (.saSmvStop h slice)
    (fun d c => Passes (groupFails d c.dom slice) ∧ (d.group slice).txEpoch = 0 ∧ ∀ r ∈ (d.group slice).rx, r.epoch = 0)
    eState

/-- Security associations and the epochs of a Smivia group. -/
def Obligations.SaCommands : Prop := Claims.SaQueue ∧ Claims.SmvEpochs

/-! ### Time (11) -/

/-- TB_INC and TB_STEP wait for their application edge; TB_READ answers readings of one edge (11 R337, R338). -/
def Obligations.TimeCommands : Prop := ∀ h tb whole fraction iova (o : StepOps),
  Begins (.tbInc h tb whole fraction)
    (fun d c => tb < 8 ∧ incOk whole fraction = true ∧ quotaTb (d.quota c.dom) tb = true ∧ d.servoOwns tb = false)
    (fun c => schedule tb (some c) false 0 (some (whole * 2 ^ 32 + fraction)) false 0) ∧
  Fails (.tbInc h tb whole fraction)
    (fun d c => tb < 8 ∧ incOk whole fraction = true ∧ quotaTb (d.quota c.dom) tb = true ∧ d.servoOwns tb = true) eState ∧
  Fails (.tbInc h tb whole fraction) (fun _ _ => 8 ≤ tb ∨ incOk whole fraction = false) eRange ∧
  Begins (.tbStep h o)
    (fun d c => o.tb < 8 ∧ o.nanos < 10 ^ 9 ∧ (o.newInc = true → incOk o.incWhole o.incFrac = true) ∧
      quotaTb (d.quota c.dom) o.tb = true ∧ d.servoOwns o.tb = false ∧
      0 ≤ (d.tbAt o.tb (d.applyEdge o.tb) : Int) + stepOffset o ∧ d.stepTooFar o.tb (stepOffset o) o.force = false)
    (fun c => schedule o.tb (some c) true (stepOffset o)
      (if o.newInc then some (o.incWhole * 2 ^ 32 + o.incFrac) else none) o.force o.iova) ∧
  Runs (.tbRead h tb iova) (fun d c => (tb < 8 ∨ tb = 255) ∧ ∃ i < 8, d.readsTb c.dom tb i = true)
    (fun d c => { outs := [(iova, tbRecord d c.dom tb)] }) (fun _ d => d) ∧
  Fails (.tbRead h tb iova) (fun d c => (tb < 8 ∨ tb = 255) ∧ ∀ i < 8, d.readsTb c.dom tb i = false) ePerm

/-! ### Counters and dumps (18) -/

/-- CNT_READ, CNT_LANE_READ, CNT_SELECT and DUMP_CONFIG. CNT_READ with CLEAR is of class ONCE: of DM it gives at most 16
counters (14 R438, 18 R520 to R524). -/
def Obligations.CounterCommands : Prop := ∀ h first count clear iova lane counter event qualifier period mask,
  Runs (.cntRead h first count clear iova)
    (fun d c => 1 ≤ count ∧ count ≤ 128 ∧ (∀ i < count, cntOk (first + i) = true ∧ d.ownsCounter c.dom (first + i) = true) ∧
      (c.dom = dmCode → clear = true → count ≤ 16))
    (fun d _ => { outs := [(iova, ((List.range count).map (fun i => leBytes ((scanAdvance d).cntValue (first + i)) 8)).flatten)] })
    (fun _ d => if clear then forEach ((List.range count).map (first + ·)) clearCounter (scanAdvance d) else scanAdvance d) ∧
  Fails (.cntRead h first count true iova)
    (fun d c => 16 < count ∧ count ≤ 128 ∧ (∀ i < count, cntOk (first + i) = true ∧ d.ownsCounter c.dom (first + i) = true) ∧
      c.dom = dmCode) eLen ∧
  Runs (.cntLaneRead h lane clear)
    (fun d c => lane < 32 ∧ ∃ u, (d.lane lane).use = some u ∧ quotaPort (d.quota c.dom) u.1 = true)
    (fun d _ => { result := laneRecord (d.lane lane).prbs }) (fun _ d => if clear then clearLane lane d else d) ∧
  Runs (.cntSelect h counter event qualifier)
    (fun d c => counter ≤ 95 ∧ c.dom = d.sup ∧ (∃ w, eventQual event (decide (64 ≤ counter)) = some w ∧ qualifier < 2 ^ w) ∧
      Tbl.get (0, 0) counter d.cnt.sel = (event, qualifier)) (fun _ _ => {}) (fun _ d => d) ∧
  Runs (.cntSelect h counter event qualifier)
    (fun d c => counter ≤ 95 ∧ c.dom = d.sup ∧ (∃ w, eventQual event (decide (64 ≤ counter)) = some w ∧ qualifier < 2 ^ w) ∧
      Tbl.get (0, 0) counter d.cnt.sel ≠ (event, qualifier))
    (fun _ _ => {})
    (fun _ d => (clearCounter counter d).onCnt (fun x => { x with sel := Tbl.set (0, 0) counter (event, qualifier) x.sel })) ∧
  Runs (.dumpConfig h period mask) (fun _ c => period ≤ 1048576 ∧ c.dom ≠ dmCode) (fun _ _ => {})
    (fun c => onDump c.dom (fun x => { x with period := period, mask := mask })) ∧
  Fails (.dumpConfig h period mask) (fun _ c => period ≤ 1048576 ∧ c.dom = dmCode) ePerm

/-! ### Firmware (17) -/

/-- The firmware commands (17 R506 to R511, R515). -/
def Obligations.FirmwareCommands : Prop := ∀ h slot len offset iova data target,
  Runs (.fwBegin h slot len)
    (fun d c => slot ≤ 1 ∧ d.grant c.dom 2 = true ∧ d.fw.run.contains slot = false ∧ (∀ a, d.fw.act = some a → a.slot ≠ slot) ∧
      d.fwVerifies slot = false ∧ imageMin ≤ len ∧ len ≤ imageMax)
    (fun _ _ => {}) (fun _ => onFwSlot slot (fun _ => { state := fwRECEIVING, len := len })) ∧
  Begins (.fwBlock h slot offset iova len data)
    (fun d c => slot ≤ 1 ∧ d.grant c.dom 2 = true ∧ offset % blockUnit c.dom = 0 ∧
      ((d.fwSlot slot).state = fwRECEIVING ∨ (d.fwSlot slot).state = fwRECEIVED) ∧ offset < (d.fwSlot slot).len ∧
      len = min (blockUnit c.dom) ((d.fwSlot slot).len - offset))
    (fun c d => askLeave (.mram 6 c.dom) (d.onFw (fun w => { w with
      blocks := w.blocks ++ [(c, slot, offset, bytesAt data 0 len)] }))) ∧
  Begins (.fwVerify h slot)
    (fun d c => slot ≤ 1 ∧ d.grant c.dom 2 = true ∧
      (d.fwSlot slot).state ∈ [fwRECEIVED, fwVERIFIED, fwREJECTED, fwFAILED] ∧ d.fw.verifying = none ∧
      imageFormatOk (d.fwSlot slot).image (d.fwSlot slot).len = true)
    (fun c d => pkAsk (.fw slot 2) (d.onFw (fun w => { w with verifying := some (c, slot) }))) ∧
  Begins (.fwVerify h slot)
    (fun d c => slot ≤ 1 ∧ d.grant c.dom 2 = true ∧
      (d.fwSlot slot).state ∈ [fwRECEIVED, fwVERIFIED, fwREJECTED, fwFAILED] ∧ d.fw.verifying = none ∧
      imageFormatOk (d.fwSlot slot).image (d.fwSlot slot).len = false)
    (fun c => fwReject c slot 1 eRange) ∧
  Runs (.fwSchedule h slot target)
    (fun d c => slot ≤ 1 ∧ d.grant c.dom 2 = true ∧ (d.fwSlot slot).state = fwVERIFIED ∧ d.fw.act = none ∧
      d.fw.trialEnd = none ∧ d.sourceArmed = false ∧ d.fret.index + 2 ≤ target ∧ target ≤ d.fret.index + 16777216 ∧
      ∃ o, d.fwOrder slot = some o ∧ (4 ∈ o → d.pgTaken slot target = false))
    (fun _ _ => {})
    (fun c d =>
      let e := setFwState slot fwSCHEDULED (setActivation slot target ((d.fwOrder slot).getD []) false c.dom d)
      fwEvent slot 0 4 0 (e.fwSlot slot).version e) ∧
  Runs (.fwCancel h slot)
    (fun d c => slot ≤ 1 ∧ d.grant c.dom 2 = true ∧ (d.fwSlot slot).state = fwSCHEDULED ∧
      ∀ a, d.fw.act = some a → a.running = false ∧ d.fret.index + 2 ≤ a.target)
    (fun _ _ => {}) (fun _ => dropActivation) ∧
  Runs (.fwStatus h iova) (fun d c => d.grant c.dom 2 = true) (fun d _ => { outs := [(iova, fwRecord d)] }) (fun _ d => d) ∧
  Runs (.fwRevert h)
    (fun d c => d.grant c.dom 2 = true ∧ d.fw.act = none ∧ ∃ p o, d.previous = some p ∧
      (∀ ty ∈ [1, 2, 3, 4], d.fw.floors.getD (ty - 1) 0 ≤ ((d.fwSlot p).part ty).svn) ∧ d.fwOrder p = some o ∧
      (4 ∈ o → d.pgTaken p (d.fret.index + 2) = false))
    (fun _ _ => {})
    (fun c d => setActivation (d.previous.getD 0) (d.fret.index + 2) ((d.fwOrder (d.previous.getD 0)).getD []) true c.dom d)

/-! ### Life cycle and tamper (16) -/

/-- The life-cycle commands: status, and the journalled operations, which wait for leave (16 R493 to R501). -/
def Claims.LifeCycleCommands : Prop := ∀ h iova target len data,
  Runs (.lcStatus h iova) (fun d c => d.grant c.dom 3 = true) (fun d _ => { outs := [(iova, lcRecord d)] }) (fun _ d => d) ∧
  Begins (.lcTransition h target iova len data)
    (fun d c => 1 ≤ target ∧ target ≤ 4 ∧ d.grant c.dom 3 = true ∧ d.jnlActive = false ∧
      ∃ m, d.lcMove target = some m ∧ (m.2.2 = true → ∀ b ∈ d.tamper.bits, b = false))
    (fun c d =>
      let m := (d.lcMove target).getD (1, 1, false)
      match firstFail (authFails d data len 1 target m.2.1) with
      | none => askLeave (.mram m.1 0) (d.onTamper (fun t => { t with
          lcCmd := some c, lcPlan := some (m.1, target), lcOld := d.lc }))
      | some e => deliver finishWork c (fail e) d) ∧
  Fails (.lcTransition h target iova len data)
    (fun d c => 1 ≤ target ∧ target ≤ 4 ∧ d.grant c.dom 3 = true ∧ d.lcMove target = none) eState ∧
  Begins (.lcSetSupervisor h target)
    (fun d c => target ≤ 32 ∧ c.dom = d.sup ∧ d.lc ≠ 4 ∧ d.tamper.locked = false ∧ d.jnlActive = false ∧ d.tamper.supCmd = none)
    (fun c d => askLeave (.mram 10 0) (d.onTamper (fun t => { t with supCmd := some (c, target) }))) ∧
  Begins (.lcDebugScrub h iova len data)
    (fun d c => d.grant c.dom 3 = true ∧ d.lc = 3 ∧ d.tamper.locked = false ∧ d.debugOpen = false ∧ d.jnlActive = false)
    (fun c d => match firstFail (authFails d data len 2 0 2) with
      | none => askLeave (.mram 2 0) (d.onTamper (fun t => { t with lcCmd := some c, lcPlan := some (2, 3), lcOld := d.lc }))
      | some e => deliver finishWork c (fail e) d)

/-- TAMPER_CONFIG, TAMPER_CLEAR and TAMPER_LOG_READ (16 R480, R481, R488). -/
def Claims.TamperCommands : Prop := ∀ h alarm cls low high mask first count iova,
  Runs (.tamperConfig h alarm cls low high)
    (fun d c => 2 ≤ alarm ∧ alarm ≤ 12 ∧ cls ≤ 3 ∧ levelsOk alarm low high = true ∧ d.grant c.dom 3 = true ∧ d.lc ≠ 4 ∧
      (d.lc = 3 → classFloors.getD (alarm - 2) 0 ≤ cls) ∧
      (d.tamper.bits.getD (alarm - 2) false = true → d.mram.classes.getD (alarm - 2) 0 ≤ cls))
    (fun _ _ => {})
    (fun _ d => (d.onMram (fun m => { m with
      classes := m.classes.set (alarm - 2) cls
      tempWarn := if alarm = 2 then (low, high) else m.tempWarn
      voltWarn := if alarm = 3 then (low, high) else m.voltWarn })).onVault (fun v => { v with
        bkClasses := if v.bkValid then v.bkClasses.set (alarm - 2) cls else v.bkClasses })) ∧
  Fails (.tamperConfig h alarm cls low high)
    (fun d c => 2 ≤ alarm ∧ alarm ≤ 12 ∧ cls ≤ 3 ∧ levelsOk alarm low high = true ∧ d.grant c.dom 3 = true ∧ d.lc = 3 ∧
      cls < classFloors.getD (alarm - 2) 0) eRange ∧
  Runs (.tamperClear h mask) (fun d c => mask < 2 ^ 11 ∧ d.grant c.dom 3 = true) (fun d _ => { value := (tamperClear mask d).1 })
    (fun _ d => (tamperClear mask d).2) ∧
  Runs (.tamperLogRead h first count iova) (fun d c => d.grant c.dom 3 = true ∧ (c.dom = dmCode → count ≤ 64))
    (fun d _ => { outs := [(iova, (List.range count).flatMap (fun i =>
      ((d.mram.log.find? (fun e => e.seq = (first + i) % 2 ^ 32)).map logImage).getD (zeros 16)))] }) (fun _ d => d)

/-- The life-cycle and tamper commands. -/
def Obligations.LifeCycleAndTamper : Prop := Claims.LifeCycleCommands ∧ Claims.TamperCommands

/-! ### Resumption (13 R415, R416) -/

/-- RESUME and ABORT of suspended work: RESUME tries the faulting access again, with a fresh walk where one is needed, ABORT ends the work with
E_FAULT and its progress mark. -/
def Claims.ResumeAbort : Prop := ∀ h unit what,
  (∀ w, Begins (.resume h 0 unit what)
    (fun d c => unit ∈ hostRings ∧ d.suspendedWork c.dom unit what = some w ∧
      xlat d c.dom (w.todo.headD (0, 0, false)).1 (w.todo.headD (0, 0, false)).2.2 = .walk)
    (fun c => putWork { w with state := .walking, resumer := some c })) ∧
  (∀ r, Begins (.resume h 0 unit what)
    (fun d c => unit ∈ hostRings ∧ d.suspendedWork c.dom unit what = none ∧ d.lkSuspended c.dom unit what = some r)
    (fun c => lkResume r c)) ∧
  (∀ m, Begins (.resume h 1 unit what)
    (fun d c => unit < 2 ∧ what.toNat < 256 ∧ d.suspendedFetch c.dom unit what.toNat = some m ∧
      xlat d m.dom (d.fetchIova m.dom m.handle) false = .walk)
    (fun c => setRec unit what.toNat { m with fetch := .walking, resumer := some c })) ∧
  (∀ m bus, Begins (.resume h 1 unit what)
    (fun d c => unit < 2 ∧ what.toNat < 256 ∧ d.suspendedFetch c.dom unit what.toNat = some m ∧
      xlat d m.dom (d.fetchIova m.dom m.handle) false = .ok bus)
    (fun c d => finish c {} (startFetch unit what.toNat d))) ∧
  Fails (.resume h 0 unit what)
    (fun d c => unit ∈ hostRings ∧ d.suspendedWork c.dom unit what = none ∧ d.lkSuspended c.dom unit what = none) eState ∧
  (∀ w, Runs (.abort h 0 unit what)
    (fun d c => unit ∈ hostRings ∧ d.suspendedWork c.dom unit what = some w) (fun _ _ => {})
    (fun _ d => finish w.cmd { status := eFault, value := w.progress } (dropWork w.cmd d))) ∧
  (∀ r, Runs (.abort h 0 unit what)
    (fun d c => unit ∈ hostRings ∧ d.suspendedWork c.dom unit what = none ∧ d.lkSuspended c.dom unit what = some r)
    (fun _ _ => {}) (fun _ d => lkDispatch (lkEnd r { status := eFault, value := r.mark } d))) ∧
  (∀ m, Runs (.abort h 1 unit what)
    (fun d c => unit < 2 ∧ what.toNat < 256 ∧ d.suspendedFetch c.dom unit what.toNat = some m) (fun _ _ => {})
    (fun _ => failFetch unit what.toNat 6)) ∧
  Fails (.abort h 0 unit what)
    (fun d c => unit ∈ hostRings ∧ d.suspendedWork c.dom unit what = none ∧ d.lkSuspended c.dom unit what = none) eState

/-- Work is suspended on a fault, resumed, aborted, or ended by the device after 1 s. -/
def Obligations.Suspension : Prop := Claims.FaultSuspends ∧ Claims.SuspensionEnds ∧ Claims.ResumeAbort

/-! ### Lookaside (10) -/

/-- Every lookaside job: a job that passes the checks of 10 R328 enters the cluster; one that fails completes with the
status of the first failing check and is counted. -/
def Obligations.LookasideCommands : Prop := ∀ i op h j, lookOf i = some (op, h, j) →
  Begins i (fun d c => d.lkBadPair op c.dom j = none ∧ lkCheck op c.dom j d = none) (fun c => lkAccept c j) ∧
  (∀ e, Runs i (fun d c => d.lkBadPair op c.dom j = none ∧ lkCheck op c.dom j d = some e) (fun _ _ => fail e)
    (fun c => bump 0x0E1 c.dom)) ∧
  (∀ n, Runs i (fun d c => d.lkBadPair op c.dom j = some n) (fun _ _ => fail eIntegrity)
    (fun c d => keyMismatch n (bump 0x0E1 c.dom d)))

/-! ### Register pages, rings and interrupts (13 R394 to R406, R417) -/

/-- The rows that act on the page of a slot, or end what they began, run for every domain that the slot shows, and a slot that
shows none takes nothing. Writes of a page's registers take the fields that 13 R396 gives them; BASE and SIZE of an enabled
ring are ignored, a read-only register and a place with no register take nothing, and the halves of a wide register take
effect with the upper one. Behind the slots lies the MSI-X table, whose vectors take address, data and mask, and what lies behind
it takes nothing (13 R384). -/
def Obligations.RegisterWrites : Prop := ∀ s ep slot k (v : BitVec 64), slot < 8 → s.dev.pageDom ep slot = some k →
  Does (.domainReset ep slot) s (domainReset k) ∧ (∀ j, Does (.domainResetDone j) s (domainResetDone j)) ∧
  (∀ r, Does (.ringEnable ep slot r) s (ringEnable k r) ∧ Does (.ringDisable ep slot r) s (ringDisable k r)) ∧
  (∀ mode, Does (.dtuModeWrite ep slot mode) s (dtuModeWrite k mode)) ∧
  (∀ all page, Does (.dtuInval ep slot all page) s (dtuInval k all page)) ∧ (∀ j, Does (.dtuInvalDone j) s (dtuInvalDone j)) ∧
  Does (.dtuErrClear ep slot) s (dtuErrClear k) ∧
  (∀ ep' slot' off width, slot' < 8 → s.dev.pageDom ep' slot' = none → Idles (.registerWrite ep' slot' off width v) s) ∧
  let narrow := fun off => Does (.registerWrite ep slot off 4 v) s
  let wide := fun off => Does (.registerWrite ep slot off 8 v) s
  let low := v.toNat % 2 ^ 32
  let addr := v.toNat / 2 ^ 12 % 2 ^ 40 * 2 ^ 12
  narrow 0x00C (fun d => d.onPage k (fun p => { p with
    fretOnly := low.testBit 31, interval := max 250 (min 100000 (low % 2 ^ 17)) })) ∧
  narrow 0x01C (fun d => dueSources k (d.onPage k (fun p => { p with msixMap := BitVec.ofNat 32 (low % 2 ^ 20) }))) ∧
  narrow 0x03C (fun d => d.onPage k (fun p => { p with holdoff := low % 2 ^ 16 })) ∧
  exec (.registerWrite ep slot 0x018 4 v) s = exec (.dtuModeWrite ep slot (low % 4)) s ∧
  (low.testBit 11 = false → narrow 0x008 (fun d => d.onPage k (fun p => { p with
    evtOverflow := p.evtOverflow && !low.testBit 12, ringErr := p.ringErr &&& ~~~(BitVec.ofNat 9 (low / 4)) }))) ∧
  (low = 2 ^ 11 → exec (.registerWrite ep slot 0x008 4 v) s = exec (.dtuErrClear ep slot) s) ∧
  (low = 2 → (s.dev.page k).enable = false → (s.dev.page k).ringEn = 0 → k < s.dev.host.doms.length →
    (∀ r, (s.dev.ring k r).fetch = .none) →
    exec (.registerWrite ep slot 0x004 4 v) s = exec (.domainReset ep slot) s) ∧
  wide 0x010 (fun d => d.onPage k (fun p => { p with dbrec := addr })) ∧
  wide 0x020 (fun d => d.onPage k (fun p => { p with dtuRoot := addr })) ∧
  exec (.registerWrite ep slot 0x028 8 v) s = exec (.dtuInval ep slot (v.getLsbD 63) (v.toNat / 2 ^ 12 % 2 ^ 36)) s ∧
  (∀ r < 9, (s.dev.page k).ringEn.getLsbD r = true →
    Idles (.registerWrite ep slot (0x40 + 16 * r) 8 v) s ∧ Idles (.registerWrite ep slot (0x48 + 16 * r) 4 v) s) ∧
  (∀ r < 9, (s.dev.page k).ringEn.getLsbD r = false →
    wide (0x40 + 16 * r) (fun d => d.onRing k r (fun x => { x with base := addr })) ∧
    narrow (0x48 + 16 * r) (fun d => d.onRing k r (fun x => { x with gen := low / 2 ^ 16, log2 := low % 32 }))) ∧
  (∀ off ∈ [0x000, 0x038, 0x0D0, 0xFFC], Idles (.registerWrite ep slot off 4 v) s) ∧
  Idles (.registerWrite ep slot 0x030 8 v) s ∧
  narrow 0x010 (fun d => d.onPage k (fun p => { p with half := some (0x010, BitVec.ofNat 32 v.toNat) })) ∧
  (∀ l : BitVec 32, (s.dev.page k).half = some (0x010, l) → narrow 0x014 (fun d => d.onPage k (fun p => { p with
    half := none, dbrec := (low * 2 ^ 32 + l.toNat) / 2 ^ 12 % 2 ^ 40 * 2 ^ 12 }))) ∧
  (∀ vec < 64,
    let entry := fun off f => Does (.registerWrite ep 8 (16 * vec + off) 4 v) s (fun d => d.onEp ep (fun p => { p with
      msix := modAt p.msix vec f }))
    entry 0 (fun x => { x with addr := BitVec.ofNat 64 (x.addr.toNat / 2 ^ 32 * 2 ^ 32 + low / 4 * 4) }) ∧
    entry 4 (fun x => { x with addr := BitVec.ofNat 64 (low * 2 ^ 32 + x.addr.toNat % 2 ^ 32) }) ∧
    entry 8 (fun x => { x with data := BitVec.ofNat 32 low }) ∧
    (low.testBit 0 = true → Does (.registerWrite ep 8 (16 * vec + 12) 4 v) s (fun d => d.onEp ep (fun p => { p with
      masked := p.masked ||| (1 <<< vec) }))) ∧
    (low.testBit 0 = false → exec (.registerWrite ep 8 (16 * vec + 12) 4 v) s = exec (.msixVectorUnmask ep vec) s)) ∧
  (∀ off width, 0x400 ≤ off → Idles (.registerWrite ep 8 off width v) s)

/-- Setting a ring's enable bit: its indexes are 0, its history is empty, DEV_INDEX 0 and the DEV_EPOCH of 13 R399 go to its
record; clearing it clears the bit and ends a fetch. A ring whose LOG2 is outside its range stops with its error bit set (13 R401, R405). -/
def Claims.RingRows : Prop := ∀ s ep slot k ring bus, s.dev.pageDom ep slot = some k → k < s.dev.host.doms.length →
  ring < 9 → (s.dev.dom k).rings.length = 9 →
  Does (.ringDisable ep slot ring) s (fun d => (endFetch k ring d).onPage k (fun p => { p with
    ringEn := p.ringEn &&& ~~~((1 : BitVec 9) <<< ring) })) ∧
  ((s.dev.page k).ringEn.getLsbD ring = true → Idles (.ringEnable ep slot ring) s) ∧
  ((s.dev.page k).ringEn.getLsbD ring = false → (s.dev.page k).dtuErr = false → (s.dev.dom k).held = [] →
    xlat s.dev k ((s.dev.page k).dbrec + 64 * ring + 8) true = .ok bus →
    ∃ t, exec (.ringEnable ep slot ring) s = .next t ∧ OnlyParts [.host, .wire, .cnt] s.dev t.dev ∧
      (t.dev.page k).ringEn = (s.dev.page k).ringEn ||| (1 <<< ring) ∧
      (t.dev.ring k ring).devIndex = 0 ∧ (t.dev.ring k ring).hostIndex = 0 ∧ (t.dev.ring k ring).history = [] ∧
      (∀ r, r ≠ ring → t.dev.ring k r = s.dev.ring k r) ∧ (∀ j, j ≠ k → t.dev.dom j = s.dev.dom j) ∧
      (ring = 2 → (t.dev.dom k).evtIndex = 0) ∧
      (log2Ok ring (s.dev.ring k ring).log2 = true →
        (t.dev.ring k ring).stopped = false ∧ (t.dev.page k).ringErr = (s.dev.page k).ringErr ∧
        t.dev.wire = .devIndex k ring bus ([0, 0, 0, 0, 0xFF, 0xFF] ++ leBytes (s.dev.ring k ring).gen 2) :: s.dev.wire) ∧
      (log2Ok ring (s.dev.ring k ring).log2 = false →
        (t.dev.ring k ring).stopped = true ∧ (t.dev.page k).ringErr = (s.dev.page k).ringErr ||| (1 <<< ring)))

/-- A domain reset: the punt entries that wait to be written go, with the snapshot not yet written; the page returns to its
reset values with RESET_BUSY set, the rings, their histories and the commands that wait on them empty, no command of the domain
completes any more, its suspended transfers and key-miss fetches end, its lookaside jobs are ended, and its commit is cancelled.
RESET_BUSY stays until its DMA has ended (13 R394, 18 R529). -/
def Claims.DomainReset : Prop :=
  (∀ s ep slot k, s.dev.pageDom ep slot = some k → Does (.domainReset ep slot) s (fun d =>
    resetCommit k (lkKill k (abortFetches k (resetHost k (dropPunts k d)))))) ∧
  (∀ (d : Dev) k, k < d.host.doms.length →
    OnlyParts [.host] d (resetHost k d) ∧ (∀ j, j ≠ k → (resetHost k d).dom j = d.dom j) ∧
    (resetHost k d).page k = { resetBusy := true, invalBusy := (d.page k).invalBusy } ∧
    (∀ r, (resetHost k d).ring k r = {}) ∧ ((resetHost k d).dom k).inProg = [] ∧
    (∀ w, w ∈ ((resetHost k d).dom k).works ↔ w ∈ (d.dom k).works ∧ w.isSuspended = false)) ∧
  (∀ (d : Dev) k, (d.dom k).held = [] → k < d.cnt.dumps.length →
    ((dropPunts k d).dump k).waiting = none ∧
    ((dropPunts k d).dump k).skipped = (d.dump k).skipped + (if (d.dump k).waiting = none then 0 else 1) ∧
    ∀ j, j ≠ k → (dropPunts k d).dump j = d.dump j) ∧
  (∀ (d : Dev) k x, (d.domCfg k).copying = none → (d.domCfg k).armed = some x → x < d.fret.index + 2 → resetCommit k d = d) ∧
  (∀ (d : Dev) k, (d.domCfg k).copying = none → (d.domCfg k).armed = none →
    resetCommit k d = setStaging k (fun _ => []) d) ∧
  (∀ s k, s.dev.dmaRuns k = false → Does (.domainResetDone k) s (fun d => d.onPage k (fun p => { p with resetBusy := false }))) ∧
  (∀ s k, s.dev.dmaRuns k = true → Idles (.domainResetDone k) s)

/-- Translation rows: PASSTHROUGH needs its grant and the reserved mode is ignored; an accepted mode is taken. An
invalidation removes the entries of its scope, every one of them and no other, and is busy until it is done (13 R407,
R409). -/
def Claims.TranslationRows : Prop := ∀ s ep slot k, s.dev.pageDom ep slot = some k →
  (∀ mode, 3 ≤ mode ∨ (mode = 2 ∧ s.dev.grant k 1 = false) → Idles (.dtuModeWrite ep slot mode) s) ∧
  (∀ mode, mode < 3 → (mode = 2 → s.dev.grant k 1 = true) → k < s.dev.host.doms.length →
    ∃ t, exec (.dtuModeWrite ep slot mode) s = .next t ∧ OnlyParts [.host, .course] s.dev t.dev ∧
      (t.dev.page k).dtuMode = mode ∧ t.dev.dtuMode k = mode ∧ ∀ j, j ≠ k → t.dev.dom j = s.dev.dom j) ∧
  (∀ all page, (s.dev.page k).invalBusy = true → Idles (.dtuInval ep slot all page) s) ∧
  (∀ all page, (s.dev.page k).invalBusy = false → k < s.dev.host.doms.length →
    ∃ t, exec (.dtuInval ep slot all page) s = .next t ∧ OnlyParts [.host] s.dev t.dev ∧
      t.dev.page k = { s.dev.page k with invalBusy := true } ∧
      ∀ set e, e ∈ t.dev.host.iotlb.getD set [] ↔ e ∈ s.dev.host.iotlb.getD set [] ∧
        ¬(e.dom = k ∧ (all = true ∨ e.vpn = page * 4096 / 2 ^ leafBits e.lvl))) ∧
  Does (.dtuInvalDone k) s (fun d => d.onPage k (fun p => { p with invalBusy := false })) ∧
  ((s.dev.page k).dtuErr = false → Idles (.dtuErrClear ep slot) s) ∧
  ((s.dev.page k).dtuErr = true → k < s.dev.host.doms.length → (s.dev.dom k).held = [] → (s.dev.page k).enable = false →
    Does (.dtuErrClear ep slot) s (fun d => d.onPage k (fun p => { p with dtuErr := false, faultAddr := 0, faultInfo := 0 })))

/-- Ring enables, domain resets and the translation unit. -/
def Obligations.RingRegisters : Prop := Claims.RingRows ∧ Claims.DomainReset ∧ Claims.TranslationRows

/-- A vector that is unmasked sends its pending message, and the HOLDOFF of the sources that waited for it counts from then; a
source whose HOLDOFF has run out sends one message for its new entries. A message is the write that the vector's entry of the
MSI-X table names (13 R384, R406). -/
def Claims.InterruptRows : Prop := ∀ s,
  (∀ ep vector k, vector < 64 → ep < s.dev.host.eps.length → (s.dev.ep ep).linkUp = true →
    s.dev.domAt ep (vector / 8) = some k → k < s.dev.host.doms.length →
    let open_ := (s.dev.ep ep).masked &&& ~~~((1 : BitVec 64) <<< vector)
    let x := (s.dev.ep ep).msix.getD vector {}
    ((s.dev.ep ep).pending.getLsbD vector = false ∨ (s.dev.ep ep).busMaster = false ∨ (s.dev.ep ep).d3hot = true →
      Does (.msixVectorUnmask ep vector) s (fun d => d.onEp ep (fun p => { p with masked := open_ }))) ∧
    ((s.dev.ep ep).pending.getLsbD vector = true → (s.dev.ep ep).busMaster = true → (s.dev.ep ep).d3hot = false →
      ∃ t, exec (.msixVectorUnmask ep vector) s = .next t ∧ OnlyParts [.host, .wire, .cnt] s.dev t.dev ∧
        t.dev.ep ep = { s.dev.ep ep with
          masked := open_, pending := (s.dev.ep ep).pending &&& ~~~((1 : BitVec 64) <<< vector) } ∧
        (∀ e, e ≠ ep → t.dev.ep e = s.dev.ep e) ∧ (∀ j, j ≠ k → t.dev.dom j = s.dev.dom j) ∧
        (t.dev.dom k).sources = (s.dev.dom k).sources.map (fun y =>
          if y.pend = some vector then { y with last := some s.dev.now, pend := none } else y) ∧
        t.dev.wire = .msix ep vector x.addr x.data :: s.dev.wire)) ∧
  (∀ dom src e slot, dom < s.dev.host.doms.length → src < ((s.dev.dom dom).sources).length →
    ((s.dev.dom dom).sources.getD src {}).due = true → (s.dev.page dom).msixMap.getLsbD (4 * src + 3) = true →
    s.dev.place dom = some (e, slot) → s.dev.dmaAlive dom = true →
    let v := 8 * slot + (s.dev.page dom).msixMap.toNat / 2 ^ (4 * src) % 8
    let x := (s.dev.ep e).msix.getD v {}
    (s.dev.ep e).masked.getLsbD v = false →
    ∃ t, exec (.msixHoldoffExpiry dom src) s = .next t ∧ OnlyParts [.host, .wire, .time, .cnt] s.dev t.dev ∧
      (t.dev.dom dom).sources.getD src {} = { last := some t.dev.now } ∧
      t.dev.wire = .msix e v x.addr x.data :: s.dev.wire) ∧
  (∀ dom src, ((s.dev.dom dom).sources.getD src {}).due = false → Idles (.msixHoldoffExpiry dom src) s)

/-- A poll reads the doorbell records, and gives every host-produced ring its fetches anew; a valid record moves HOST_INDEX, an
invalid one is counted and leaves its ring as it was; a fetched descriptor leaves the ring (13 R399 to R402). -/
def Claims.PollRows : Prop := ∀ s dom,
  ((s.dev.page dom).fretOnly = false → s.dev.pollable dom = true → (s.dev.dom dom).pollOut = false →
    ∀ bus, xlat s.dev dom (s.dev.page dom).dbrec false = .ok bus → dom < s.dev.host.doms.length →
    ∃ t, exec (.doorbellPoll dom) s = .next t ∧ OnlyParts [.host, .wire, .time, .cnt] s.dev t.dev ∧
      t.dev.wire = .read dom bus 576 :: s.dev.wire ∧ (t.dev.dom dom).pollOut = true ∧
      (t.dev.dom dom).lastPoll = t.dev.time.tclk ∧
      t.dev.time.tclk = max s.dev.time.tclk ((s.dev.dom dom).lastPoll + ((s.dev.page dom).interval + 1) / 2)) ∧
  ((s.dev.page dom).fretOnly = true ∨ s.dev.pollable dom = false ∨ (s.dev.dom dom).pollOut = true →
    Idles (.doorbellPoll dom) s) ∧
  (∀ recs, wake s.dev = s.dev → (s.dev.dom dom).pollOut = true → (s.dev.dom dom).pollWalk = none → s.dev.pollable dom = true →
    Does (.doorbellRecordRead dom recs) s (fun d => issueFetches dom (forEach recs.zipIdx (fun x d => takeRecord dom x.2 x.1 d)
      (freshFetches dom (d.onDom dom (fun D => { D with pollOut := false })))))) ∧
  (∀ recs, wake s.dev = s.dev → (s.dev.dom dom).pollOut = false → Idles (.doorbellRecordRead dom recs) s) ∧
  (∀ x : DbRec, ∀ ring, s.dev.ringUp dom ring = true → ring < (s.dev.dom dom).rings.length → dom < s.dev.host.doms.length →
    let used := if ring ∈ hostRings then x.hostIndex - (s.dev.ring dom ring).devIndex
      else (s.dev.ring dom ring).devIndex - x.hostIndex
    (recOk x (s.dev.ring dom ring).gen = false → takeRecord dom ring x s.dev = bump 0x121 dom s.dev) ∧
    (recOk x (s.dev.ring dom ring).gen = true → used.toNat ≤ 2 ^ (s.dev.ring dom ring).log2 →
      (takeRecord dom ring x s.dev).ring dom ring = { s.dev.ring dom ring with hostIndex := x.hostIndex }) ∧
    (recOk x (s.dev.ring dom ring).gen = true → 2 ^ (s.dev.ring dom ring).log2 < used.toNat →
      ((takeRecord dom ring x s.dev).ring dom ring).stopped = true ∧
      (ring < 9 → ((takeRecord dom ring x s.dev).page dom).ringErr.getLsbD ring = true))) ∧
  (∀ ring desc data aux st, (s.dev.ring dom ring).reads.isSome = true →
    (s.dev.ringUp dom ring = true → s.dev.serves = true → s.dev.admits dom = true →
      Does (.descriptorFetchDone dom ring true desc data aux st) s (fun d => issueFetch dom ring (take
        { dom := dom, ring := ring, tag := BitVec.ofNat 32 (leAt desc 4 4), crc := crc32c desc, op := leAt desc 0 2 }
        (decodeDesc dom ring desc data aux st)
        (ringPut dom ring (.dump []) (d.onRing dom ring (fun r => { r with
          devIndex := r.devIndex + 1, fetched := r.fetched + 1, fetch := .none })))))) ∧
    Does (.descriptorFetchDone dom ring false desc data aux st) s (fun d =>
      badRead dom ((endFetch dom ring d).onRing dom ring (fun r => { r with fetched := 64 }))))

/-- Interrupt messages, doorbell polls and descriptor fetches. -/
def Obligations.InterruptsAndPolls : Prop := Claims.InterruptRows ∧ Claims.PollRows

/-! ### PCIe endpoints and the management ports (13 R385 to R387, R418 to R425, 19 R544, R549) -/

/-- A function-level reset keeps the link and returns the function to its reset state; DL_Down and PERST_N take the link
down; each resets every domain of the endpoint. A link trains, and a configuration write reaches a function whose link is
up. That the configuration of a function returns to its reset values is the PCIe family's behaviour (log entry 30). -/
def Obligations.PcieRows : Prop := ∀ s ep, ep < s.dev.host.eps.length → s.dev.host.doms.length = 33 →
  (∃ t, exec (.pcieFlr ep) s = .next t ∧ t.dev.ep ep = { linkUp := (s.dev.ep ep).linkUp } ∧
    ∀ k slot, s.dev.place k = some (ep, slot) → (t.dev.page k).resetBusy = true ∧ (t.dev.page k).enable = false) ∧
  (∀ x ∈ [Instr.pcieLinkDown ep, Instr.perstNAssert ep], ∃ t, exec x s = .next t ∧ t.dev.ep ep = {} ∧
    ∀ k slot, s.dev.place k = some (ep, slot) → (t.dev.page k).resetBusy = true ∧ (t.dev.page k).enable = false) ∧
  (s.dev.power.up = true → ep < s.dev.epCount → Does (.pcieLinkUp ep) s (fun d => d.onEp ep (fun p => { p with linkUp := true }))) ∧
  ((s.dev.ep ep).linkUp = true → s.dev.power.ready = true →
    (∀ on, Does (.pcieConfigWrite ep (.busMaster on)) s (fun d => d.onEp ep (fun p => { p with busMaster := on }))) ∧
    (∀ z, Does (.pcieConfigWrite ep (.powerState z)) s (fun d => d.onEp ep (fun p => { p with d3hot := z }))) ∧
    (∀ ns, Does (.pcieConfigWrite ep (.completionTimeout ns)) s
      (fun d => d.onEp ep (fun p => { p with timeoutNs := if ns = 0 then 10000000 else ns }))) ∧
    (∀ n ∈ [128, 256, 512], Does (.pcieConfigWrite ep (.maxPayload n)) s (fun d => d.onEp ep (fun p => { p with maxPayload := n }))) ∧
    (∀ g c, Does (.pcieConfigWrite ep (.ecrc g c)) s (fun d => d.onEp ep (fun p => { p with ecrcGen := g, ecrcCheck := c }))))

/-- A frame of the channel that passes every check of 13 R421 is taken: its sequence number enters the window, an ACK frame
acknowledges the events below its index, a COMMAND frame's commands are taken in order. One that fails a check is dropped at
the first that fails and counted there; a frame that is not for the channel is counted apart. A management key that no longer
equals its complement raises alarm 10 (15 R466). -/
def Claims.ManagementFrames : Prop := ∀ s port f, s.dev.lanes.mgSync.getD port false = true →
  let src := beAt f 6 6
  let q := beAt f 32 8
  let h := s.dev.host.hem
  (s.dev.hemFor port f = false → ∀ x ∈ [Instr.hemunerAckFrame port f, Instr.hemunerCommandFrame port f,
      Instr.hemunerOtherFrame port f], (x = .hemunerAckFrame port f → leAt f 15 1 ≠ 2) →
      (x = .hemunerCommandFrame port f → leAt f 15 1 ≠ 5) → Does x s (bump 0x123 port)) ∧
  (s.dev.hemFor port f = true → s.dev.serves = true →
    let accepts := fun (go : Dev → Dev) (d : Dev) =>
      if hemFormatOk f = false then bump 0x124 port d
      else if s.dev.vault.mgmtId = 0 ∨ s.dev.vault.mgmtId.toNat ≠ beAt f 16 8 then bump 0x125 port d
      else if s.dev.mgmtOk = false then raiseAlarm 10 0 (bump 0x125 port d)
      else if hemMacOk s.dev f = false then bump 0x125 port d
      else if h.session.toNat ≠ beAt f 24 8 then announceTo port src (bump 0x126 port d)
      else if h.passes q = false then bump 0x127 port d
      else go (d.onHem (fun h => { h.accept q with announce := h.announce.set port (some src) }))
    (leAt f 15 1 = 5 → Does (.hemunerAckFrame port f) s (accepts (fun d => d.onHem (fun h => { h with
      events := without (fun e => decide (e.index < beAt f 42 4)) h.events })))) ∧
    (leAt f 15 1 = 2 → Does (.hemunerCommandFrame port f) s (accepts (hemCommands port f))))

/-- One second after the one before, an ANNOUNCE goes out on each synchronised port; an event not acknowledged for 100 ms is sent again on both ports with the
same index; a management port that loses or gains its synchronisation says so, and where it gains it the completions that
waited for the port leave (13 R420, R424, R425, 03 R83). -/
def Claims.ManagementTimers : Prop := ∀ s,
  (s.dev.vault.mgmtId ≠ 0 → s.dev.mgmtOk = true → s.dev.lanes.mgSync = [true, true] → ∃ t f0 f1,
    exec .announceTimer s = .next t ∧ OnlyParts [.host, .wire, .time, .cnt] s.dev t.dev ∧
    t.dev.time.tclk = max s.dev.time.tclk (s.dev.host.hem.announced + 500000000) ∧
    t.dev.host.hem = { s.dev.host.hem with seq := s.dev.host.hem.seq + 2, announced := t.dev.time.tclk } ∧
    t.dev.wire = .hemuner 1 f1 :: .hemuner 0 f0 :: s.dev.wire ∧ leAt f0 15 1 = 1 ∧ leAt f1 15 1 = 1) ∧
  (∀ (index : BitVec 32) e, s.dev.host.hem.events.filter (fun e => e.index = index.toNat) = [e] → s.dev.vault.mgmtId ≠ 0 →
    s.dev.mgmtOk = true → s.dev.lanes.mgSync = [true, true] →
    ∃ t f0 f1, exec (.dmEventResend index) s = .next t ∧ OnlyParts [.host, .wire, .time, .cnt] s.dev t.dev ∧
      t.dev.time.tclk = max s.dev.time.tclk (e.sent + 50000000) ∧
      t.dev.host.hem.events.length = s.dev.host.hem.events.length ∧
      t.dev.wire = .hemuner 1 f1 :: .hemuner 0 f0 :: s.dev.wire) ∧
  (∀ index : BitVec 32, s.dev.host.hem.events.find? (fun e => e.index = index.toNat) = none →
    Idles (.dmEventResend index) s) ∧
  (∀ port < 2, s.dev.lanes.mgSync.length = 2 →
    Does (.mgSyncAcquired port) s (fun d => wake (hemFlush (mgSyncAcquired port d))) ∧
    OnlyParts [.lanes] s.dev (mgSyncAcquired port s.dev) ∧
    (mgSyncAcquired port s.dev).lanes = { s.dev.lanes with mgSync := s.dev.lanes.mgSync.set port true }) ∧
  (∀ d : Dev, (hemFlush d).host.hem.comps = d.host.hem.comps.filter (fun x => !d.hemUp x.port)) ∧
  (∀ port receiving, s.dev.lanes.mgSync.getD port false = true → ∃ t, exec (.mgSyncLoss port receiving) s = .next t ∧
    OnlyParts [.lanes, .cnt] s.dev t.dev ∧ t.dev.lanes.mgSync.getD port false = false ∧
    t.dev.lanes.lanes = s.dev.lanes.lanes ∧ t.dev.lanes.links = s.dev.lanes.links ∧
    t.dev.cnt = if receiving then (bump 0x129 port s.dev).cnt else s.dev.cnt) ∧
  (∀ port receiving, s.dev.lanes.mgSync.getD port false = false → Idles (.mgSyncLoss port receiving) s)

/-- The management ports: frames, announcements and resends. -/
def Obligations.ManagementPorts : Prop := Claims.ManagementFrames ∧ Claims.ManagementTimers

/-! ### Lanes (03) -/

/-- The bring-up of a lane goes from phase to phase as 03 R70 lists: two lanes adapt without leave and a third waits for
leave; in FIXED mode ADAPT completes at once, with the staged coefficients (03 R79); the place an adapted lane frees goes to
the lane that has waited longest; the third failed alignment holds the lane
for 100 ms; an UP lane that loses its lock relocks, and goes back to ACQUIRE when the relock takes too long. -/
def Claims.LaneRows : Prop := ∀ s l, l < s.dev.lanes.lanes.length →
  let x := s.dev.lane l
  let now := s.dev.now
  (x.phase = .acquire → x.held = none → s.dev.adapting < 2 → ∃ t, exec (.laneAcquired l) s = .next t ∧
    (s.dev.eqFixed l = false → t.dev.lane l = { x with phase := .adapt, since := now }) ∧
    (s.dev.eqFixed l = true → ∃ depth < 2 ^ 32, t.dev.lane l =
      { x with phase := .align, since := now, gearbox := depth, eq := s.dev.eqStaged l, eqSince := if s.dev.eqAuto l then some now else none }) ∧
    Leave.lane l ∉ t.dev.power.gov.queue) ∧
  (x.phase = .acquire → x.held = none → 2 ≤ s.dev.adapting → ∃ t, exec (.laneAcquired l) s = .next t ∧
    t.dev.lane l = { x with phase := .waitLeave, since := now } ∧ Leave.lane l ∈ t.dev.power.gov.queue) ∧
  (∀ ps, x.phase = .adapt → (∀ m, s.dev.firstWaiting = some m → s.dev.eqFixed m = false) →
    ∃ t, exec (.laneAdaptDone l ps) s = .next t ∧
    t.dev.lane l = { x with
      phase := .align, since := now, gearbox := ps % 2 ^ 32, eq := s.dev.eqFound l, eqSince := if s.dev.eqAuto l then some now else none } ∧
    (∀ m, s.dev.firstWaiting = some m → (t.dev.lane m).phase = .adapt ∧ Leave.lane m ∉ t.dev.power.gov.queue) ∧
    (∀ m, m ≠ l → s.dev.firstWaiting ≠ some m → t.dev.lane m = s.dev.lane m)) ∧
  (∀ inv pos tag n skew p code, x.phase = .align → x.use = some (p, code) → s.dev.isGroup p = false →
    ∃ t, exec (.laneAligned l inv pos tag n skew) s = .next t ∧
      t.dev.lane l = { x with phase := .up, since := now, fails := 0, inverted := inv, position := pos, skew := skew } ∧
      ∀ m, m ≠ l → t.dev.lane m = s.dev.lane m) ∧
  (∀ inv pos tag n skew p code, x.phase = .align → x.use = some (p, code) → s.dev.isGroup p = true →
    s.dev.groupAdmits (p / 8) l pos tag n = false →
    Does (.laneAligned l inv pos tag n skew) s (laneOrder p 1)) ∧
  (x.phase = .align → x.fails + 1 < 3 → ∃ t, exec (.laneAlignTimeout l) s = .next t ∧
    t.dev.time.tclk = max now (x.since + nsTicks (laneBound x.use)) ∧
    t.dev.lane l = { x with phase := .acquire, since := t.dev.time.tclk, fails := x.fails + 1 }) ∧
  (x.phase = .align → 3 ≤ x.fails + 1 → ∃ t, exec (.laneAlignTimeout l) s = .next t ∧
    t.dev.lane l = { x with phase := .acquire, since := t.dev.time.tclk, fails := 0, held := some (t.dev.time.tclk + 50000000) }) ∧
  (∀ u, x.held = some u → ∃ t, exec (.laneRetryTimer l) s = .next t ∧ t.dev.lane l = { x with held := none } ∧
    t.dev.time.tclk = max now u) ∧
  (∀ cause, x.phase = .up → 2 ≤ cause → cause ≤ 6 → ∃ t, exec (.laneLockLoss l cause) s = .next t ∧
    t.dev.lane l = { x with phase := .relock, since := now } ∧ ∀ m, m ≠ l → t.dev.lane m = s.dev.lane m) ∧
  (x.phase = .relock → ∃ t, exec (.laneRelocked l) s = .next t ∧ t.dev.lane l = { x with phase := .up, since := now } ∧
    ∀ m, m ≠ l → t.dev.lane m = s.dev.lane m) ∧
  (x.phase = .relock → ∃ t, exec (.laneRelockTimeout l) s = .next t ∧
    t.dev.lane l = { x with phase := .acquire, since := t.dev.time.tclk } ∧
    t.dev.time.tclk = max now (x.since + nsTicks (laneBound x.use))) ∧
  (∀ inverted errors, x.phase = .test → x.prbs.locked = false → ∃ t, exec (.prbsCheckerLock l true inverted errors) s = .next t ∧
    t.dev.lane l = { x with prbs := { x.prbs with
      locked := true, inverted := inverted, errors := some (x.prbs.errors.getD 0) } }) ∧
  (∀ inverted errors e, x.phase = .test → x.prbs.locked = true → x.prbs.errors = some e →
    ∃ t, exec (.prbsCheckerLock l true inverted errors) s = .next t ∧ t.dev.lane l = { x with prbs := { x.prbs with
      errors := some (min (2 ^ 48 - 1) (e + errors)) } }) ∧
  (∀ inverted errors e, x.phase = .test → x.prbs.locked = true → x.prbs.errors = some e →
    ∃ t, exec (.prbsCheckerLock l false inverted errors) s = .next t ∧ t.dev.lane l = { x with prbs := { x.prbs with
      locked := false, losses := min (2 ^ 16 - 1) (x.prbs.losses + 1), errors := some (min (2 ^ 48 - 1) (e + errors)) } })

/-- A port that has been down, or up, for 1 ms makes its mirror send Local Fault, or no longer makes it; the mirror sends it
while any port makes it (03 R80). -/
def Claims.FaultMirror : Prop := ∀ s p q, s.dev.mirrorOf p = some q → p < s.dev.lanes.links.length →
  q < s.dev.lanes.links.length →
  let on := (s.dev.link p).bad || (List.range s.dev.lanes.links.length).any (fun k => k != p && decide ((s.dev.link k).mirror = some q))
  ∃ t, exec (.faultMirrorTimer p) s = .next t ∧ t.dev.time.tclk = max s.dev.now ((s.dev.link p).since + 500000) ∧
    (t.dev.link p).mirror = (if (s.dev.link p).bad then some q else none) ∧ (t.dev.link q).localFault = on ∧
    t.dev.wire = (if (s.dev.link q).localFault = on then [] else [.localFault q on]) ++ s.dev.wire

/-- The bring-up of a lane, its loss, PRBS lock and the fault mirror. -/
def Obligations.Lanes : Prop := Claims.LaneRows ∧ Claims.FaultMirror

/-! ### Time bases and time pins (11) -/

/-- TB_APPLY: the change of a time base that waits longest takes effect at its application edge: every other time base runs
on to that edge, the named one takes its offset and its increment, a step of the fret time base has its effect on the frets (FretStep), and the command completes
with the reading after the edge, and the one before it where it was asked for (11 R338); a frame being sent whose gate the change
closes is counted (12 R366). A time base with no change waiting is left as it is. -/
def Claims.TbApply : Prop := ∀ s i, i < s.dev.time.tbs.length →
  ((s.dev.tb i).pending = [] → Idles (.tbApply i) s) ∧
  (∀ p ps, (s.dev.tb i).pending = p :: ps →
    let b := s.dev.tb i
    let before := (b.frac + (p.edge - s.dev.now) * b.inc) % (2 ^ 80 * 10 ^ 9)
    let after_ := moveFrac before p.offset
    let moved := fun d => stepGates i (advanceTo p.edge d) (onTb i (fun x => { x with
      frac := after_, inc := p.inc.getD x.inc, pending := ps, fromBackup := x.fromBackup && !p.step }) (advanceTo p.edge d))
    let put := fun d => if p.step = true ∧ i = (moved d).fretTb then fretStep (decide (p.offset < 0)) p.force (moved d) else moved d
    (p.cmd = none → Does (.tbApply i) s put) ∧
    (∀ c, p.cmd = some c → Does (.tbApply i) s (fun d => deliver finish c
      { result := readingBytes after_, outs := if p.step = true ∧ p.iova ≠ 0 then [(p.iova, readingBytes before)] else [] }
      (put d))) ∧
    ((moved s.dev).tb i = { b with frac := after_, inc := p.inc.getD b.inc, pending := ps, fromBackup := b.fromBackup && !p.step }) ∧
    (moved s.dev).time.tclk = max s.dev.now p.edge ∧
    (∀ j, j ≠ i → ((moved s.dev).tb j).pending = (s.dev.tb j).pending ∧ ((moved s.dev).tb j).inc = (s.dev.tb j).inc))

/-- A step of the fret time base, once it has moved the reading: a forward one jumps the index at the next boundary and says
so to every domain; an unforced backward one holds the index until the reading passes it; a forced backward one, also within
one fret (log entry 34), takes the derived index at once, tells every domain and cancels every armed commit (02 R39, R40). -/
def Claims.FretStep : Prop := ∀ back force d, d.fret.running = true →
  let e := d.event 0x0104 [(16, 8, d.fret.index), (24, 8, d.derivedIndex)]
  (d.fret.seen < d.derivedIndex → fretStep back force d = raiseAll { e with head := d.derivedIndex } d) ∧
  (d.derivedIndex = d.fret.seen → back = false ∨ force = false → fretStep back force d = d) ∧
  (d.derivedIndex < d.fret.seen → (fretStep true false d).fret = d.fret ∧ fretStep true false d = raiseAll e d) ∧
  (d.derivedIndex ≤ d.fret.seen → d.cfg.doms.length = 33 → (fretStep true true d).fret.index = d.derivedIndex ∧
    (fretStep true true d).fret.seen = d.derivedIndex ∧
    (∃ e' d', fretStep true true d = raiseAll e' d' ∧ e'.code = 0x0104) ∧
    ∀ k < 33, ((fretStep true true d).domCfg k).armed = none)

/-- A time base takes its change, and the fret index follows. -/
def Obligations.TimeSteps : Prop := Claims.TbApply ∧ Claims.FretStep

/-- An edge at an input pin is captured unless its pulse is under 10 ns or it follows the last capture within 1 µs, when it is
counted; its reading has the board delay taken off and goes to the pin's owner, or to the servos that take the pin's captures
(11 R339, R343). An output pin drives its next edge at its instant (11 R344). -/
def Claims.TimePinRows : Prop := ∀ s p, p < s.dev.time.pins.length →
  let o := s.dev.pinObj p
  let x := s.dev.time.pins.getD p {}
  (∀ rising y, o.n 0 = 0 → (rising = true ↔ o.n 2 = 0) → 10000 ≤ y.width →
    let m := s.dev.now * 32 + y.phase % 32
    let mark := onPin p (fun x => { x with lastCapture := some m })
    (∀ u, x.lastCapture = some u → m < u + 16000 → Does (.timePinEdge p rising y) s (bump 0x0F2 p)) ∧
    ((∀ u, x.lastCapture = some u → u + 16000 ≤ m) → s.dev.servoPin p = true → ∃ t, exec (.timePinEdge p rising y) s = .next t ∧
      t.dev.time.pins = (mark s.dev).time.pins ∧ ∀ i < s.dev.time.tbs.length, i < 8 → t.dev.tb i =
        (if s.dev.servoSource i = p + 1 then { s.dev.tb i with servo := { (s.dev.tb i).servo with
          captured := some (shiftPs (s.dev.tbPhase i y.phase) (-(o.z 7))) } } else s.dev.tb i)) ∧
    ((∀ u, x.lastCapture = some u → u + 16000 ≤ m) → s.dev.servoPin p = false →
      let r := shiftPs (s.dev.tbPhase (o.n 1) y.phase) (-(o.z 7))
      Does (.timePinEdge p rising y) s (fun d => raiseTo (s.dev.ownerBy (fun q => quotaPin q p))
        (s.dev.event 0x0602 [(16, 1, p), (17, 1, o.n 1), (18, 6, r / (2 ^ 32 * 10 ^ 9)), (24, 4, r / 2 ^ 32 % 10 ^ 9),
          (28, 4, r % 2 ^ 32)]) (mark d)))) ∧
  (∀ rising y, o.n 0 ≠ 0 ∨ ¬(rising = true ↔ o.n 2 = 0) ∨ y.width < 10000 → Idles (.timePinEdge p rising y) s) ∧
  (x.level = true → let ends := x.next + 16 * (if o.n 0 = 3 then 100 else o.n 6)
    ∃ t, exec (.timePinOutput p) s = .next t ∧ t.dev.wire = .pin p false (ends % 32 : Nat) :: s.dev.wire ∧
      (t.dev.time.pins.getD p {}).level = false ∧ t.dev.time.tclk = max s.dev.now (ends / 32)) ∧
  (x.level = false → o.n 0 = 1 ∨ o.n 0 = 2 →
    let b := s.dev.tb (o.n 1)
    let wait := shiftPs (s.dev.nextEdge p * 2 ^ 32) (o.z 7) - b.frac
    let part := wait % max 1 b.inc * 32 / max 1 b.inc
    ∃ t, exec (.timePinOutput p) s = .next t ∧ t.dev.wire = .pin p true part :: s.dev.wire ∧
      t.dev.time.tclk = s.dev.now + wait / max 1 b.inc ∧
      t.dev.time.pins.getD p {} = { x with level := true, next := t.dev.time.tclk * 32 + part })

/-- The firmware servo steps its time base by −θ on its first event or a gross error, and else steers its rate from the increment
at ownership by the sum of 11 R339; it declares LOCKED after four good events and HOLDOVER after two missed ones. An event with
no offset to act on, its pin having captured none, changes nothing. -/
def Claims.ServoRows : Prop := ∀ s i phase, i < s.dev.time.tbs.length → s.dev.servoOwns i = true → s.dev.halted = false →
  let v := (s.dev.tb i).servo
  (5 ≤ s.dev.servoSource i → s.dev.servoTheta i phase = some (((s.dev.tbPhase i phase / 2 ^ 32 : Nat) : Int) -
    (s.dev.tbPhase (s.dev.servoSource i - 5) phase / 2 ^ 32 : Nat) - s.dev.servoOffset i)) ∧
  (s.dev.servoTheta i phase = none → Idles (.servoEvent i phase) s) ∧
  (∀ th, s.dev.servoTheta i phase = some th → v.state = 0 ∨ s.dev.servoLimit i ≤ th.natAbs →
    ∃ t p, exec (.servoEvent i phase) s = .next t ∧
      (t.dev.tb i).servo = { v with theta := th, missed := 0, captured := none, integ := 0, good := 0, state := 1 } ∧
      (t.dev.tb i).pending = (s.dev.tb i).pending ++ [p] ∧ p.step = true ∧ p.offset = -th * 2 ^ 32 ∧ p.inc = none ∧
      p.cmd = none) ∧
  (∀ th, s.dev.servoTheta i phase = some th → v.state ≠ 0 → (th.natAbs : Int) < s.dev.servoLimit i →
    let corr := max (-100000) (min 100000 (-(th.tdiv 2 + (v.integ + th).tdiv 16)))
    ∃ t p, exec (.servoEvent i phase) s = .next t ∧
      (t.dev.tb i).pending = (s.dev.tb i).pending ++ [p] ∧ p.step = false ∧ p.offset = 0 ∧ p.cmd = none ∧
      p.inc = some (max incMin (min incMax ((v.nominal : Int) + 2 * 2 ^ 32 * corr / 10 ^ 9).toNat)) ∧
      (let good := if th.natAbs < 100 then v.good + 1 else 0
       let state := if 4 ≤ good then 2 else if v.state = 3 then 1 else v.state
       (t.dev.tb i).servo = { v with
         theta := th, missed := 0, captured := none, integ := v.integ + th, good := good, state := state })) ∧
  (v.state ≠ 0 → ∃ t, exec (.servoHoldover i) s = .next t ∧
    (t.dev.tb i).servo = { v with missed := 2, good := 0, state := 3 } ∧ (t.dev.tb i).inc = (s.dev.tb i).inc) ∧
  (v.state = 0 → Idles (.servoHoldover i) s)

/-- Time pins and the firmware servo. -/
def Obligations.PinsAndServo : Prop := Claims.TimePinRows ∧ Claims.ServoRows


/-! ### Frets, the bank swap, duties, gates and ageing (02, 06 R182, R183, 12 R365 to R368) -/

/-- FRET_BOUNDARY moves the clock to the boundary, opens the fret with the index derived there, runs the hardware's duties and
then the course's; a generator that does not run does nothing. After a change of source a boundary less than half a new period on is skipped. The index of a reading is its seconds times the fret rate, and the whole
frets in its nanoseconds (02 R36, R37, R39, R41, R42). -/
def Claims.FretBoundary : Prop := ∀ s,
  (s.dev.derivedIndex = s.dev.tbNs s.dev.fretTb / 1000000000 * s.dev.fretRate +
    s.dev.tbNs s.dev.fretTb % 1000000000 * s.dev.fretRate / 1000000000) ∧
  (s.dev.fret.running = false → Idles .fretBoundary s) ∧
  (s.dev.fret.running = true → Does .fretBoundary s (fun d =>
    fwStepBegin (courseDuties (openFret (toBoundary d)).spanClear (hardwareDuties d.fret.index (openFret (toBoundary d))))) ∧
    (openFret (toBoundary s.dev)).fret.index = (toBoundary s.dev).derivedIndex ∧
    (openFret (toBoundary s.dev)).time.tclk = max (s.dev.now + 1) (s.dev.boundaryTick s.dev.nextIndex) ∧
    (∀ old at_, s.dev.fret.change = some (old, at_) → s.dev.nextIndex =
      if (s.dev.boundaryTick (s.dev.fret.seen + 1) - at_) * 4 * s.dev.fretRate < 1000000000 then s.dev.fret.seen + 2
      else s.dev.fret.seen + 1) ∧
    (s.dev.fret.change = none → s.dev.nextIndex = s.dev.fret.seen + 1 ∧ OnlyParts [.time, .cnt, .fret, .keys, .msec] s.dev
      (openFret (toBoundary s.dev))))

/-- A swap toggles the configuration epoch once; a table that changes reads the new bank under the new epoch and the old bank
under the old one, and every other table reads the same under both. Where a commit due names a quota, those that lose objects by it
are cancelled first (13 R393); a boundary at which no commit is due, and no parse graph
that a revert has ordered, swaps nothing (02 R54, R56, R58). -/
def Claims.BankSwap : Prop := ∀ d ts,
  (flipBanks ts d).cfg.epoch = !d.cfg.epoch ∧ OnlyParts [.cfg] d (flipBanks ts d) ∧
  (∀ t < d.cfg.banks.length,
    ((flipBanks ts d).banks t).at (!d.cfg.epoch) =
      (if t ∈ ts then (d.banks t).inactive d.cfg.epoch else (d.banks t).at d.cfg.epoch) ∧
    ((flipBanks ts d).banks t).at d.cfg.epoch = (d.banks t).at d.cfg.epoch ∧
    (t ∈ ts → ((flipBanks ts d).banks t).hold = d.now + 2000)) ∧
  ((∀ a ∈ d.dueCommits, ∀ x ∈ a.2.2, x.cls ≠ cQuota) → cancelLosers d = d) ∧
  (let c := cancelLosers d;
    (c.dueCommits = [] → c.pgDue = [] → bankSwap d = c) ∧
    (c.dueCommits ≠ [] ∨ c.pgDue ≠ [] → ∃ e, e.cfg.epoch = (!c.cfg.epoch) ∧ bankSwap d =
      forEach (c.dueCommits.filter (fun a => decide (a.1 ≠ 64))) (fun a e => commitApplied a.1 a.2.1 e)
        (swapEffects c (c.dueCommits.flatMap (fun a => a.2.2)) e)))

/-- The duties of the course run in rank order within the fret's budget: a duty that fits runs whole and clears its count of
deferrals, as does one that does not wait; one that does not fit runs as many units as fit, is deferred with EV_FRET_OVERRUN and its count, and every later duty
that waits is deferred too (02 R43 to R45). -/
def Claims.Duties : Prop := ∀ r rs d,
  (∀ left, d.dutyWaits r = false → runDuties (r :: rs) left d = runDuties rs left (setDeferred r 0 d)) ∧
  (∀ b, d.dutyWaits r = true → 0 < (d.dutyCharge r).2 → (d.dutyCharge r).1 * (d.dutyCharge r).2 ≤ b →
    runDuties (r :: rs) (some b) d =
      runDuties rs (some (b - (d.dutyCharge r).1 * (d.dutyCharge r).2)) (setDeferred r 0 (runDuty r (d.dutyCharge r).1 d))) ∧
  (∀ b, d.dutyWaits r = true → 0 < (d.dutyCharge r).2 → b < (d.dutyCharge r).1 * (d.dutyCharge r).2 →
    runDuties (r :: rs) (some b) d = runDuties rs none (deferDuty r (runDuty r (b / (d.dutyCharge r).2) d))) ∧
  (d.dutyWaits r = true → 0 < (d.dutyCharge r).1 → runDuties (r :: rs) none d = runDuties rs none (deferDuty r (runDuty r 0 d))) ∧
  (1 ≤ r → r ≤ d.fret.deferrals.length → (deferDuty r d).deferred r = d.deferred r + 1)

/-- The fret boundary and the duties within its budget. -/
def Obligations.FretDuties : Prop := Claims.FretBoundary ∧ Claims.Duties

/-- The old bank whose hold ends first is released (that of the gate lists once every list that waits has begun, 12 R368), and parked frames of the epoch that reads it are dropped (02 R60). -/
def Claims.BankRelease : Prop := ∀ s,
  ((∀ t < 76, (s.dev.banks t).hold = 0) → Idles .bankRelease s) ∧
  (∀ u, u < 76 → (∀ t < 76, (s.dev.banks t).hold = 0 ↔ t ≠ u) →
    ∃ t, exec .bankRelease s = .next t ∧ t.dev.time.tclk = max s.dev.now (s.dev.heldUntil u)) ∧
  (∀ u, u < 76 → u < s.dev.cfg.banks.length → (u = cGateList → ∀ p < 32, (s.dev.egress p).gate.pending = none) →
    (∀ t < 76, (s.dev.banks t).hold = 0 ↔ t ≠ u) →
    Does .bankRelease s (fun d => dropOldEpoch [u] ((advanceTo (d.banks u).hold d).onCfg (fun c => { c with
      banks := modAt c.banks u (fun b => { b with hold := 0 }) }))))

/-- A waiting gate list begins with entry 0 at its switch instant, and says which gates it closed; an operational list moves
to its next entry when the present one has run (12 R365 to R368). -/
def Claims.GateRows : Prop := ∀ s p, p < s.dev.eg.ports.length →
  ((s.dev.egress p).gate.pending = none → Idles (.gateSwitch p) s) ∧
  (∀ u, (s.dev.egress p).gate.pending = some u → ∃ t, exec (.gateSwitch p) s = .next t ∧
    (t.dev.egress p).gate = { since := u } ∧
    t.dev.time.tclk = max s.dev.now (s.dev.tickOf ((s.dev.obj cGateList p).n 1) (u * 2 ^ 32)) ∧
    ∀ q, q ≠ p → t.dev.egress q = s.dev.egress q) ∧
  (s.dev.gateList p = none → Idles (.gateEntryChange p) s) ∧
  (∀ o, s.dev.gateList p = some o →
    let g := (s.dev.egress p).gate
    let e := gateEntryAt (gateSegs o) (gatePhase o g.since (s.dev.tbNs (o.n 1))) 0
    ∃ t, exec (.gateEntryChange p) s = .next t ∧
      (t.dev.egress p).gate = { g with entry := (e.1 + 1) % max 1 (gateSegs o).length } ∧
      t.dev.time.tclk = max s.dev.now (s.dev.tickOf (o.n 1) ((s.dev.tbNs (o.n 1) + e.2) * 2 ^ 32)) ∧
      ∀ q, q ≠ p → t.dev.egress q = s.dev.egress q)

/-- AGE_SCAN_END: the scan's last readings cross the bridge, and the flushes that it carried complete with the entries removed.
The home slice acts on an entry once it has both slices' readings: a hit entry's age returns to 0; a dynamic one as old as its
service allows is removed and counted; a frozen one thaws when its freeze time has passed and says so; a decision reaches the
other slice over the bridge. An entry that a flush picks is removed where the scan reads it (06 R180, R182, R183, R193). -/
def Claims.AgeScan : Prop := ∀ s,
  (s.dev.mac.scan = none → Idles .ageScanEnd s) ∧
  (∀ sc, s.dev.mac.scan = some sc → Does .ageScanEnd s (fun d =>
    let d := bridgeAll (scanAdvance (advanceTo (sc.start + scanTicks) d))
    forEach ((d.mac.scan.map Scan.flushes).getD []) (fun fl d => finish fl.cmd { value := fl.count } d)
      (d.onMac (fun m => { m with scan := none })))) ∧
  (∀ home sc pos e d, e.frozen = false → e.sec12 = d.second % 4096 → e.age ≠ 0 →
    ageEntry home sc true pos e d = bridgeSend (1 - home) (.update pos { e with age := 0 }) (putEntry home pos { e with age := 0 } false d)) ∧
  (∀ home sc pos e d, e.static_ = false →
    let svc := d.obj cService e.key.service
    svc.n 3 ≠ 0 → svc.n 3 ≤ min 255 (e.age + ageTicks svc sc.old sc.new) →
    ageEntry home sc false pos e d = bump 0x086 (d.svcDom e.key.service)
      (bridgeSend (1 - home) (.remove pos e.key) (dropEntry home pos d))) ∧
  (∀ home sc pos e d, e.frozen = true → (d.second + 4096 - e.sec12) % 4096 < 2048 →
    ∃ d', ageEntry home sc true pos e d =
        raiseFrom home (some (d'.svcDom e.key.service)) (flapEvent d' e.key e.peer e.peer true) d' ∧
      d' = decideUpdate home pos { e with age := 0, frozen := false, moves := 0, sec12 := d.second % 4096 } d) ∧
  (∀ home hits x d sc fl, d.mac.scan = some sc → sc.flushes.find? (flushPicks d x.2) = some fl →
    ∃ d', OnlyParts [.mac] d d' ∧ scanEntry home hits x d = bump 0x087 fl.cmd.dom (decideRemoval home x.1 x.2.key d')) ∧
  (∀ home hits x d sc, d.mac.scan = some sc → sc.flushes.find? (flushPicks d x.2) = none →
    scanEntry home hits x d = d.onMac (fun m => { m with scan := some { sc with
      mine := modAt sc.mine home (fun t => t.put x.1 (x.2.key, hits.contains x.1)) } }))

/-- Gate lists and the ageing scan. -/
def Obligations.GatesAndAgeing : Prop := Claims.GateRows ∧ Claims.AgeScan

/-! ### The triple course (15) -/

/-- The soundpost decides a window as 15 R451 lists: equal writes pass; with three strings the write of two passes and the
third string is the minority; any other disagreement halts. A window in which a string is missing is decided the same way. -/
def Claims.Soundpost : Prop :=
  (∀ a b c w, (soundpost [0, 1, 2] [(a, w), (b, w), (c, w)] = .pass w ↔ ∀ s ∈ [0, 1, 2], s ∈ [a, b, c]) ∧
    (∀ v, v ≠ w → [a, b, c].Perm [0, 1, 2] → soundpost [0, 1, 2] [(a, w), (b, w), (c, v)] = .minority w c ∧
      soundpost [0, 1, 2] [(a, w), (c, v), (b, w)] = .minority w c ∧ soundpost [0, 1, 2] [(c, v), (a, w), (b, w)] = .minority w c) ∧
    ([a, b, c].Perm [0, 1, 2] → soundpost [0, 1, 2] [(a, w), (b, w)] = .minority w c)) ∧
  (∀ a b c u v w, u ≠ v → u ≠ w → v ≠ w → soundpost [0, 1, 2] [(a, u), (b, v), (c, w)] = .halt) ∧
  (∀ a b v w, a ≠ b → (soundpost [a, b] [(a, w), (b, w)] = .pass w) ∧ (v ≠ w → soundpost [a, b] [(a, v), (b, w)] = .halt) ∧
    soundpost [a, b] [(a, w)] = .halt)

/-- A string that is in the course presents a write: it joins the oldest window that lacks the string, or opens one, and the
windows that every string in the course has reached are decided in their order; the oldest window, when its time runs out, is
decided as it is (15 R450, R451). -/
def Claims.CourseWindows : Prop := ∀ s k w,
  (s.dev.courseRuns = true → (s.dev.string k).st = .inCourse →
    Does (.stringWritePresented k w) s (fun d => settleWindows (joinWindow k w s.dev.course.windows).length
      (d.onCourse (fun c => { c with windows := joinWindow k w c.windows })))) ∧
  (joinWindow k w [] = [[(k, w)]] ∧ ∀ x xs, joinWindow k w (x :: xs) =
    if x.any (fun p => decide (p.1 = k)) then x :: joinWindow k w xs else (x ++ [(k, w)]) :: xs) ∧
  (∀ n d ps rest, d.course.windows = ps :: rest → settleWindows (n + 1) d = if d.complete ps = true then
    settleWindows n (decideWindow ps (d.onCourse (fun c => { c with windows := rest }))) else d) ∧
  (∀ n d, d.course.windows = [] → settleWindows n d = d) ∧
  (∀ ps rest, s.dev.course.windows = ps :: rest → Does .voteWindowExpiry s (fun d =>
    let e := decideWindow ps (d.onCourse (fun c => { c with windows := rest }))
    settleWindows e.course.windows.length e)) ∧
  (s.dev.courseRuns = true → (s.dev.string k).st = .inCourse → s.dev.course.windows = [] →
    (∃ j, j ∈ s.dev.unfenced ∧ j ≠ k) → Does (.stringWritePresented k w) s (fun d => d.onCourse (fun c => { c with
      windows := [[(k, w)]] }))) ∧
  (∀ ps, s.dev.courseRuns = true → (s.dev.string k).st = .inCourse → s.dev.course.windows = [ps] →
    ps.any (fun p => decide (p.1 = k)) = false → s.dev.complete (ps ++ [(k, w)]) = true →
    Does (.stringWritePresented k w) s (fun d => decideWindow (ps ++ [(k, w)]) (d.onCourse (fun c => { c with windows := [] })))) ∧
  (s.dev.courseRuns = false ∨ (s.dev.string k).st ≠ .inCourse → Idles (.stringWritePresented k w) s) ∧
  (s.dev.course.windows = [] → Idles .voteWindowExpiry s) ∧
  (∀ ps, s.dev.course.windows = [ps] → Does .voteWindowExpiry s (fun d => decideWindow ps (d.onCourse (fun c => { c with
    windows := [] })))) ∧
  (∀ ps d v, soundpost d.unfenced ps = .pass v → decideWindow ps d = emit (.course v) d) ∧
  (∀ ps d v j, soundpost d.unfenced ps = .minority v j → decideWindow ps d = fence j (emit (.course v) d)) ∧
  (∀ ps d, soundpost d.unfenced ps = .halt → decideWindow ps d = courseHalt d)

/-- The soundpost votes each window. -/
def Obligations.CourseVotes : Prop := Claims.Soundpost ∧ Claims.CourseWindows

/-- A string that reports a fault, or whose watchdog runs out, is fenced while three strings run and halts the course while two
do (15 R451). A fence leaves two strings in the course, passes the lead on, and asks leave for the string's BIST; the third
fence in 3,600 s retires the string (15 R452, R453, R455). -/
def Claims.StringFaults : Prop := ∀ s k, k < 3 → s.dev.course.strings.length = 3 → (s.dev.string k).st = .inCourse →
  s.dev.course.windows = [] →
  (∀ x ∈ [Instr.stringFaultReport k, Instr.stringWatchdogExpiry k],
    (s.dev.course.mode = .triple → Does x s (fence k)) ∧ (s.dev.course.mode = .duplex → Does x s courseHalt)) ∧
  (∀ d, d.course.strings.length = 3 →
    let past := ((d.string k).fences.filter (fun u => decide (d.now < u + 1800000000000))).length
    (fence k d).course.mode = .duplex ∧ ((fence k d).string k).st = (if 2 ≤ past then .retired else .fenced) ∧
    (∀ j, j ≠ k → (fence k d).string j = d.string j) ∧
    (past < 2 → Leave.stringBist k ∈ (fence k d).power.gov.queue) ∧
    (d.course.lead ≠ k → d.course.lead ∈ d.unfenced → (fence k d).course.lead = d.course.lead) ∧
    (d.course.lead = k → ∀ j, d.course.succession.find? (fun i => decide (i ≠ k) && d.unfenced.contains i) = some j →
      (fence k d).course.lead = j))

/-- Entering HALTED cancels every armed commit, stops every copy, and sets a restart 10 ms on, unless three were tried in
3,600 s; while CTL_LOSS_HOLD is 0 the fallback applies at once (15 R459 to R461, 02 R57). -/
def Claims.Halt : Prop := ∀ d string cause, d.cfg.doms.length = 33 →
  let e := enterHalt string cause d
  e.course.mode = .halted ∧ e.course.windows = [] ∧ e.course.resync = none ∧
  (∀ k < 33, (e.domCfg k).armed = none ∧ (e.domCfg k).copying = none ∧ (e.domCfg k).rewrite = none) ∧
  e.course.restartAt = (if (d.course.restarts.filter (fun u => decide (d.now < u + 1800000000000))).length < 3 then
    some (d.now + 5000000) else none) ∧
  (d.lossHold ≠ 0 → e.course.applied = false ∧ e.course.failClosed = d.course.failClosed) ∧
  (d.lossHold = 0 → e.course.applied = true)

/-- A fenced string's BIST, the end of a resynchronisation, the restart timer, the end of a restart, and the end of
CTL_LOSS_HOLD (15 R453, R455 to R457, R460 to R462). -/
def Claims.CourseRows : Prop := ∀ s,
  (∀ k pass, k < s.dev.course.strings.length → (s.dev.string k).st = .bist → s.dev.course.mode = .duplex →
    Does (.stringBistDone k pass) s (onString k (fun x => { x with st := if pass then .ready else .retired }))) ∧
  (∀ equal, s.dev.course.resync = none → Does (.resyncComplete equal) s wake) ∧
  (∀ k, s.dev.course.resync = some k → Does (.resyncComplete false) s (fun d => wake (courseHalt d))) ∧
  (∀ k, s.dev.course.resync = some k → Does (.resyncComplete true) s (fun d => wake (takeEvents (forEach d.course.heldFin
    (fun f d => finish f.1 f.2 d) (courseEvent k 2 ((onString k (fun x => { x with st := .inCourse }) d).onCourse (fun c => { c with
      mode := .triple, resync := none, heldFin := []
      lead := if (s.dev.obj cFret 0).b 2 = true ∧ k = 0 then 0 else c.lead
      succession := if (s.dev.obj cFret 0).b 2 = true ∧ k = 0 then [0, 1, 2] else c.succession.erase k ++ [k] }))))))) ∧
  (∀ u, s.dev.course.restartAt = some u → s.dev.course.mode = .halted → ∃ t, exec .courseRestartTimer s = .next t ∧
    OnlyParts [.time, .cnt, .course, .power] s.dev t.dev ∧ t.dev.course.mode = .restart ∧ t.dev.course.restartAt = none ∧
    t.dev.time.tclk = max s.dev.now u ∧ Leave.courseRestart 0 ∈ t.dev.power.gov.queue) ∧
  (∀ pass, s.dev.course.mode ≠ .restart ∨ s.dev.course.afterHalt = false ∨ s.dev.restartWaits = true →
    s.dev.power.halfUp = false ∨ s.dev.halted = true → Does (.courseRestartDone pass) s wake) ∧
  (∀ pass, s.dev.course.mode = .restart → s.dev.course.afterHalt = true → s.dev.restartWaits = false →
    (courseUp pass s.dev).halted = false →
    Does (.courseRestartDone pass) s (fun d =>
      let e := takeEvents (restartRest (restartCommands (courseUp pass d)))
      wake (if e.power.halfUp ∧ !e.halted then startRest e else e))) ∧
  (∀ pass, s.dev.course.strings.length = 3 →
    let ok := fun k => pass.getD k false && decide ((s.dev.string k).st ≠ .retired)
    let n := ([0, 1, 2].filter ok).length
    let e := courseUp pass s.dev
    (n = 3 → e.course.mode = .triple ∧ e.course.afterHalt = false ∧ e.course.lead = 0) ∧
    (n = 2 → e.course.mode = .duplex ∧ e.course.afterHalt = false ∧ ∀ k < 3, ok k = false → (e.string k).st = .retired) ∧
    (2 ≤ n → ∀ k < 3, ok k = true → (e.string k).st = .inCourse) ∧ (n < 2 → e.course.mode = .halted)) ∧
  (s.dev.halted = true → s.dev.course.applied = false → s.dev.lossHold ≤ s.dev.course.haltBoundaries →
    Does .ctlLossHoldReached s applyFallback) ∧
  (s.dev.halted = false ∨ s.dev.course.applied = true ∨ s.dev.course.haltBoundaries < s.dev.lossHold →
    Idles .ctlLossHoldReached s) ∧
  ((applyFallback s.dev).course.applied = true ∧
    ((applyFallback s.dev).course.failClosed = true ↔ s.dev.failsClosed = true ∨ s.dev.course.failClosed = true))

/-- Fences, halts, restarts and the return of a string. -/
def Obligations.CourseStates : Prop := Claims.StringFaults ∧ Claims.Halt ∧ Claims.CourseRows

/-! ### Firmware activation, memories, monitors (15 R463 to R467, 16 R472 to R488, 17 R512 to R515) -/

/-- The step in progress of an activation ends: its part runs from the new slot, and the next step waits; after the last step
the slots change states and, but for a revert, a trial of 600 s begins. At the end of a trial the floors rise to the versions
that run (17 R512, R514). -/
def Claims.ActivationSteps : Prop := ∀ s a ty rest, s.dev.fw.act = some a → s.dev.fwStep = some ty → a.order = ty :: rest →
  s.dev.stepReady ty = true → s.dev.halted = false → a.slot < 2 → s.dev.fw.slots.length = 2 →
  Does .fwStepDone s (fun d => wake (fwStepDone d)) ∧
  (rest ≠ [] → (fwStepDone s.dev).fw = { FwSt.written { s.dev.fw with
    act := some { a with order := rest, done := a.done ++ [ty], inStep := false }, run := s.dev.fw.run.set (ty - 1) a.slot } with
    lastCause := if a.revert then 9 else 0 }) ∧
  (rest = [] → let e := fwStepDone s.dev
    e.fw.act = none ∧ e.fw.run = List.replicate 4 a.slot ∧ (e.fwSlot a.slot).state = fwACTIVE ∧
    (e.fwSlot (1 - a.slot)).state = (if a.revert then fwVERIFIED else fwPREVIOUS) ∧
    e.fw.trialEnd = (if a.revert then none else some (s.dev.now + 300000000000)) ∧ e.fw.current.dir = e.fw.dir)

/-- The slot directory is held in two copies: a change is written to both under the next sequence number with the mark WD_96,
and a start uses of the valid copies the one with the higher number (17 R517). That a step makes both writes is the model's
choice (log entry 83). -/
def Claims.DirectoryRows : Prop :=
  (∀ w : FwSt, w.written.current.dir = w.dir ∧ w.written.dir = w.dir ∧
    (w.current.dir = w.dir → w.written = w) ∧
    (w.current.dir ≠ w.dir → w.written.copies =
      List.replicate 2 { dir := w.dir, seq := w.current.seq + 1, mark := 0x9669699633CCCC33 })) ∧
  (∀ (d : Dev) (f : FwSt → FwSt), (d.onFw f).fw.current.dir = (f d.fw).dir) ∧
  (∀ w : FwSt, ∀ a b, w.copies = [a, b] →
    (a.mark = 0x9669699633CCCC33 → b.mark = 0x9669699633CCCC33 → w.current = if b.seq ≤ a.seq then a else b) ∧
    (a.mark = 0x9669699633CCCC33 → b.mark ≠ 0x9669699633CCCC33 → w.current = a) ∧
    (a.mark ≠ 0x9669699633CCCC33 → w.current = b)) ∧
  (∀ d, d.fw.slots.length = 2 → let x := d.fw.current.dir
    (readDir d).fw.run = x.run ∧ (readDir d).fw.floors = x.floors ∧ (readDir d).fw.act = x.act ∧
    (readDir d).fw.trialEnd = x.trialEnd ∧ ∀ k < 2, ((readDir d).fwSlot k).state = x.states.getD k 0 ∧
      ((readDir d).fwSlot k).len = x.lens.getD k 0)

/-- FW_TRIAL_END (17 R514). -/
def Claims.TrialEnd : Prop := ∀ s,
  (s.dev.fw.trialEnd = none → Idles .fwTrialEnd s) ∧
  (∀ u, s.dev.fw.trialEnd = some u → ∃ t, exec .fwTrialEnd s = .next t ∧ t.dev.time.tclk = max s.dev.now u ∧
    t.dev.fw = { FwSt.written { s.dev.fw with trialEnd := none, floors := [1, 2, 3, 4].map (fun ty =>
      max (s.dev.fw.floors.getD (ty - 1) 0) (s.dev.runPart ty).svn) } with lastCause := 0 })

/-- An activation's steps, the end of its trial, and the copies of the slot directory. -/
def Obligations.FirmwareRows : Prop := Claims.ActivationSteps ∧ Claims.TrialEnd ∧ Claims.DirectoryRows

/-- A read that finds a word in error acts on it, and the scrubber, under leave, reads its burst and asks leave for the next
one. A correctable word, one of a single bit in error among them, is counted; an uncorrectable one is counted, has the consequence of its memory, and raises
MEMORY_ERROR, but not in a string's own memory, which disagrees, nor in MRAM's write path, which raises its own alarm. A shadowed
register that differs takes its fail-safe value and raises STATE_INTEGRITY, as a state register that holds no code does (15 R463 to R468). -/
def Claims.MemoryRows : Prop := ∀ s,
  (∀ found, s.dev.power.up = true →
    let e := forEach found memError s.dev
    (e.course.scrub.ready = true → exec (.scrubBurst found) s = .next { s with
      dev := askLeave .scrub (e.onCourse (fun c => { c with scrub := scrubRan e.now c.scrub })) }) ∧
    (e.course.scrub.ready = false → exec (.scrubBurst found) s = .next { s with dev := e })) ∧
  (∀ found, s.dev.power.up = false → Idles (.scrubBurst found) s) ∧
  (∀ now x, (scrubRan now x).ready = false ∧
    (x.start + 5000000000 * min Config.sramWords (x.pos + 4096) / max 1 Config.sramWords ≤
      x.nvStart + 43200000000000 * min Config.mramWords (x.nvPos + 4096) / max 1 Config.mramWords →
      (scrubRan now x).nvPos = x.nvPos ∧
      (scrubRan now x).pos = if Config.sramWords ≤ x.pos + 4096 then 0 else x.pos + 4096)) ∧
  (∀ i < 79, eccDecode (BitVec.ofNat 79 (2 ^ i)) = .corrected) ∧
  (∀ e d, eccDecode e.flips = .clean → memError e d = d) ∧
  (∀ e d, eccDecode e.flips = .corrected → memError e d = bump 0x131 e.cls d) ∧
  (∀ e d, eccDecode e.flips = .uncorrectable → e.cls = 5 → memError e d = stringFault e.obj (bump 0x132 5 d)) ∧
  (∀ e d, eccDecode e.flips = .uncorrectable → e.cls = 9 → memError e d = raiseAlarm 12 0 (bump 0x132 9 d)) ∧
  (∀ e d, eccDecode e.flips = .uncorrectable → e.cls ≠ 5 → e.cls ≠ 9 →
    memError e d = raiseAlarm 8 0 (memConsequence e (bump 0x132 e.cls d))) ∧
  (∀ r, (∀ m c, r ≠ .stateCode m c) → ∃ t, exec (.shadowMismatch r) s = .next t ∧ r ∈ t.dev.course.failSafe ∧
    t.dev.tamper.bits.getD 7 false = decide (7 < s.dev.tamper.bits.length)) ∧
  (∀ m c, let set := fun d : Dev => d.onTamper (fun t => { t with codes := t.codes.set m c })
    (c ∈ stateCodes → Does (.shadowMismatch (.stateCode m c)) s set) ∧
    (c ∉ stateCodes → Does (.shadowMismatch (.stateCode m c)) s (fun d => raiseAlarm 9 0 (set d))))

/-- Alarms raised while the main monitors run set their bits, carry their classes, leave one entry in each log, tell the
supervisor, and have the response of the strongest class among them (16 R478 to R480, R487, R488). -/
def Claims.Alarms : Prop := ∀ alarms phase value d, alarms ≠ [] → (∀ a ∈ alarms, 2 ≤ a ∧ a ≤ 12) →
  d.tamper.bits.length = 11 →
  let cls := (alarms.map d.alarmClass).foldl max 0
  let e := raiseAlarms alarms phase value d
  (∀ i < 11, e.tamper.bits.getD i false = (d.tamper.bits.getD i false || decide (i + 2 ∈ alarms))) ∧
  (cls < 3 → e.mram.logHead = (d.mram.logHead + 1) % 2 ^ 32 ∧ e.vault.head = d.vault.head + 1 ∧ e.vault.copied = e.vault.head) ∧
  (cls = 0 → OnlyParts [.host, .cnt, .wire, .tamper, .mram, .vault] d e) ∧
  (2 ≤ cls → e.mram.block.tamper = wd0F ∧ e.mram.block.tamperN = ~~~wd0F ∧ e.keys.parents = [] ∧
    e.power.gov.holdUntil = d.now + 10000) ∧
  (cls = 3 → e.keys.rs = [] ∧ e.keys.dwk = List.replicate 33 [] ∧ e.vault.mask = [] ∧ e.tamper.zeroized = true)

/-- Monitors of the die temperature: the fourth sample in a row at or beyond the alarm levels raises TEMP (16 R473). Of the
clocks, the loops and VBAT: a clock that leaves its limits raises CLOCK, the second mismatch in a row a loop's alarm, the
fourth sample in a row VBAT (16 R475 to R477). -/
def Claims.MonitorRows : Prop := ∀ s, s.dev.power.up = true →
  (∀ c, ∃ t, exec (.tempSample c) s = .next t ∧ t.dev.tamper.temp = c ∧
    t.dev.tamper.tempRun = (if c ≤ -45 ∨ 125 ≤ c then s.dev.tamper.tempRun + 1 else 0) ∧
    (t.dev.tamper.tempRun ≠ 4 →
      OnlyParts [.host, .cnt, .wire, .tamper, .power] s.dev t.dev ∧ t.dev.tamper.bits = s.dev.tamper.bits)) ∧
  (∀ c, c ≤ -45 ∨ 125 ≤ c → s.dev.tamper.tempRun = 3 → s.dev.tamper.bits.length = 11 → ∃ t, exec (.tempSample c) s = .next t ∧
    t.dev.tamper.bits.getD 0 false = true) ∧
  (∀ clock cycles, clockOut clock cycles = true → clock ∉ s.dev.tamper.clocksBad → Does (.clockCheckWindow clock cycles) s (fun d =>
    raiseAlarm 4 0 (d.onTamper (fun t => { t with clocksBad := clock :: t.clocksBad })))) ∧
  (∀ clock cycles, clockOut clock cycles = true → clock ∈ s.dev.tamper.clocksBad → Idles (.clockCheckWindow clock cycles) s) ∧
  (∀ clock cycles, clockOut clock cycles = false → Does (.clockCheckWindow clock cycles) s (fun d =>
    d.onTamper (fun t => { t with clocksBad := t.clocksBad.erase clock }))) ∧
  (∀ cycles, (clockOut 7 cycles = false ↔ 6840 ≤ cycles ∧ cycles ≤ 7560) ∧ (clockOut 17 cycles = true ↔ cycles = 0)) ∧
  (∀ loop < 2, ∀ r, s.dev.tamper.loopRun.length = 2 → s.dev.tamper.cond.length = 11 →
    (s.dev.loopBad loop r = false ↔ r.afterOne = true ∧ r.afterZero = false ∧
      r.afterBit = Config.loopBit loop (s.dev.tamper.loopLfsr.getD loop 0)) ∧
    (s.dev.loopBad loop r = false → ∃ t, exec (.loopSample loop r) s = .next t ∧ OnlyParts [.tamper] s.dev t.dev ∧
      t.dev.tamper.loopRun.getD loop 0 = 0 ∧ t.dev.tamper.cond.getD (3 + loop) false = false ∧
      t.dev.tamper.bits = s.dev.tamper.bits) ∧
    (s.dev.loopBad loop r = true → s.dev.tamper.loopRun.getD loop 0 = 0 → ∃ t, exec (.loopSample loop r) s = .next t ∧
      OnlyParts [.tamper] s.dev t.dev ∧ t.dev.tamper.loopRun.getD loop 0 = 1 ∧
      t.dev.tamper.cond.getD (3 + loop) false = true) ∧
    (s.dev.loopBad loop r = true → s.dev.tamper.loopRun.getD loop 0 = 1 → s.dev.tamper.bits.length = 11 →
      ∃ t, exec (.loopSample loop r) s = .next t ∧ t.dev.tamper.bits.getD (3 + loop) false = true)) ∧
  (∀ mv, 2300 ≤ mv → mv ≤ 3900 → Does (.vbatSample mv) s (fun d => setCond 7 false (d.onTamper (fun t => { t with vbatRun := 0 })))) ∧
  (∀ mv, mv < 2300 ∨ 3900 < mv → s.dev.tamper.vbatRun ≠ 3 → Does (.vbatSample mv) s (fun d =>
    setCond 7 true (d.onTamper (fun t => { t with vbatRun := t.vbatRun + 1 })))) ∧
  (∀ mv, mv < 2300 ∨ 3900 < mv → s.dev.tamper.vbatRun = 3 → Does (.vbatSample mv) s (fun d =>
    raiseAlarm 7 mv (setCond 7 true (d.onTamper (fun t => { t with vbatRun := 4 })))))

/-- Alarms, their response, and the monitors that raise them. -/
def Obligations.AlarmsAndMonitors : Prop := Claims.Alarms ∧ Claims.MonitorRows

/-- Monitors of the rails: above its high limit a rail raises VOLT at once; below its low limit the device freezes until the
rail comes back, when VOLT is raised, or has stayed low for 20 µs, which is a loss of power; a warning level crossed for its
time is told (16 R474, 19 R541). -/
def Claims.RailRows : Prop := ∀ s rail mv, s.dev.power.up = true → rail < 6 → s.dev.tamper.freeze.length = 6 →
  ((railLimits rail).2 < mv → Does (.railHigh rail mv) s (fun d => raiseAlarm 3 mv (setRail rail mv d))) ∧
  (mv ≤ (railLimits rail).2 → Idles (.railHigh rail mv) s) ∧
  (mv < (railLimits rail).1 → ¬(rail = 0 ∧ mv < 550) → Does (.railLow rail mv) s (fun d =>
    holdFrames ((setRail rail mv d).onTamper (fun t => { t with freeze := t.freeze.set rail true }))) ∧
    (∀ t, exec (.railLow rail mv) s = .next t → t.dev.frozen = true)) ∧
  (mv < 550 → Does (.railLow 0 mv) s (powerReset false false)) ∧
  ((railLimits rail).1 ≤ mv → Idles (.railLow rail mv) s) ∧
  (s.dev.tamper.freeze.getD rail false = true → (railLimits rail).1 ≤ mv → Does (.railRecovered rail mv) s (fun d => wake
    (raiseAlarm 3 mv ((setRail rail mv d).onTamper (fun t => { t with freeze := t.freeze.set rail false }))))) ∧
  (s.dev.tamper.freeze.getD rail false = true → Does (.railLowTimeout rail) s (powerReset false false)) ∧
  (s.dev.tamper.freeze.getD rail false = false → Idles (.railLowTimeout rail) s) ∧
  (s.dev.tamper.railWarn.getD rail false = false → s.dev.railInside rail mv = false → Does (.railWarningTimer rail mv) s (fun d =>
    envWarn 2 rail mv false ((setRail rail mv d).onTamper (fun t => { t with railWarn := t.railWarn.set rail true })))) ∧
  (s.dev.tamper.railWarn.getD rail false = true → s.dev.railInside rail mv = true → Does (.railWarningTimer rail mv) s (fun d =>
    envWarn 2 rail mv true ((setRail rail mv d).onTamper (fun t => { t with railWarn := t.railWarn.set rail false }))))

/-- While the main monitors do not run, the backup domain samples its own sources every 32 ticks of its clock and logs what it
finds with the class of its record; a ZEROIZE erases the vault and the keys at once, and any other response waits for the next
start. Its entries not copied go to the MRAM log one by one, each told (16 R475, R485, R487, R488). -/
def Claims.BackupRows : Prop := ∀ s,
  (s.dev.power.up = false →
    (∀ b, s.dev.loopBad 0 b.loop0 = false → s.dev.loopBad 1 b.loop1 = false → tempBad b.coarseTemp = false →
      vbatBad b.vbatMv = false → b.vaultCode ∈ stateCodes → (smclkOut b.smclkCycles = false ∨ s.dev.power.rails = false) →
      ∃ t, exec (.backupSample b) s = .next t ∧ OnlyParts [.time, .tamper] s.dev t.dev ∧
        t.dev.time = { s.dev.time with bkTicks := s.dev.time.bkTicks + 32 } ∧ t.dev.tamper.bkLoopRun = [0, 0] ∧
        t.dev.tamper.bkTempRun = 0 ∧ t.dev.tamper.vbatRun = 0) ∧
    (∀ b, b.vaultCode ∉ stateCodes → s.dev.vault.bkValid = true → s.dev.vault.pendClass ≠ 3 →
      s.dev.vault.bkClasses.getD 7 0 = 3 → (∀ x ∈ s.dev.vault.bkClasses, x ≤ 3) → ∃ t, exec (.backupSample b) s = .next t ∧ t.dev.vault.pendClass = 3 ∧
        t.dev.vault.pendMask.testBit 7 = true ∧ t.dev.keys.rs = [] ∧ t.dev.vault.mask = []) ∧
    Does .bkclkStopped s (backupAlarm [4] false 0)) ∧
  (s.dev.power.up = true → Idles .bkclkStopped s ∧ ∀ b, Idles (.backupSample b) s) ∧
  (s.dev.power.up = false → Idles .tamperLogCopy s) ∧
  (s.dev.power.up = true → s.dev.vault.head ≤ s.dev.vault.copied → Idles .tamperLogCopy s) ∧
  (s.dev.power.up = true → s.dev.vault.copied < s.dev.vault.head →
    s.dev.vault.head - s.dev.vault.entries.length ≤ s.dev.vault.copied → ∀ e,
    s.dev.vault.entries.find? (fun e => decide (e.seq = s.dev.vault.copied)) = some e →
    Does .tamperLogCopy s (fun d => raise d.sup (tamperEvent d e) (mramLog e (d.onVault (fun v => { v with
      copied := v.copied + 1 })))))

/-- The rails and the backup domain. -/
def Obligations.RailsAndBackup : Prop := Claims.RailRows ∧ Claims.BackupRows

/-! ### The power governor, the life cycle and the resets (16 R494 to R499, 19 R544 to R557) -/

/-- LEAVE_GRANT grants the head of the queue, of the lowest priority number and there the oldest, if its current fits both
windows and nothing withholds it, and else waits; a sample of the current enters the last 20 (19 R554 to R557). -/
def Obligations.GovernorRows : Prop := ∀ s,
  (s.dev.power.gov.queue = [] → Idles .leaveGrant s) ∧
  (∀ l, s.dev.power.gov.head = some l → s.dev.mayGrant l = false → Idles .leaveGrant s) ∧
  (∀ l, s.dev.power.gov.head = some l → s.dev.mayGrant l = true → Does .leaveGrant s (fun d => granted l (d.onGov (fun g => { g with
    queue := g.queue.erase l
    grants := (d.now, l.amps) :: g.grants.filter (fun x => decide (d.now < x.1 + 10000)) })))) ∧
  (∀ l, s.dev.power.gov.head = some l → (∀ x ∈ s.dev.power.gov.queue, l.prio ≤ x.prio) ∧
    s.dev.power.gov.queue.find? (fun x => decide (x.prio = l.prio)) = some l) ∧
  (∀ ma, Does (.governorSample ma) s (fun d => d.onGov (fun g => { g with samples := (ma :: g.samples).take 20 })))

/-- A journalled operation opens its journal, runs its steps burst by burst under leave while VDD_NV is inside its warning
levels, and ends with the counter raised and a reset 10 ms on (16 R496 to R499). -/
def Claims.JournalRows : Prop := ∀ s,
  (s.dev.power.up = false ∨ s.dev.tamper.jnlReady = false ∨ s.dev.nvOk = false → Idles .lcJournalStep s) ∧
  (s.dev.power.up = true → s.dev.tamper.jnlReady = true → s.dev.nvOk = true →
    (∀ op target, s.dev.tamper.lcPlan = some (op, target) → ∃ t, exec .lcJournalStep s = .next t ∧
      OnlyParts [.mram, .tamper, .power] s.dev t.dev ∧
      t.dev.mram.block = { s.dev.mram.block with
        op := op, target := target, step := 2, mark := 0, jnlCounter := s.dev.mram.block.counter + 1, jnl := wd69 } ∧
      t.dev.tamper.lcPlan = none ∧ Leave.mram op 0 ∈ t.dev.power.gov.queue) ∧
    (s.dev.tamper.lcPlan = none → s.dev.mram.block.jnl = wd69 → s.dev.jnlStep = some .counter →
      ∃ t, exec .lcJournalStep s = .next t ∧ OnlyParts [.mram, .tamper, .power] s.dev t.dev ∧
      t.dev.mram.block = { s.dev.mram.block with
        counter := s.dev.mram.block.jnlCounter, counterN := ~~~s.dev.mram.block.jnlCounter
        step := s.dev.mram.block.step + 1, mark := 0 }) ∧
    (∀ w, s.dev.tamper.lcPlan = none → s.dev.mram.block.jnl = wd69 → s.dev.jnlStep = some (.lcState w) →
      ∃ t, exec .lcJournalStep s = .next t ∧ t.dev.mram.block.lc = w ∧ t.dev.mram.block.lcN = ~~~w ∧
        t.dev.mram.block.step = s.dev.mram.block.step + 1) ∧
    (∀ c, s.dev.tamper.lcPlan = none → s.dev.mram.block.jnl = wd69 → s.dev.jnlStep = some .idle → s.dev.tamper.lcCmd = some c →
      ∃ t, exec .lcJournalStep s = .next t ∧ t.dev.mram.block = { s.dev.mram.block with jnl := wd3C } ∧
        t.dev.tamper.resetAt = some (s.dev.now + 5000000) ∧ t.dev.tamper.lcCmd = none))

/-- The scrubber, shadowed registers, and the life-cycle journal. -/
def Obligations.MemoryAndJournal : Prop := Claims.MemoryRows ∧ Claims.JournalRows

/-- Power-on reset, PWRDN_N, and the reset after a transition leave MRAM, the vault and the backup clock, and return everything
else to its reset state, the warning levels with it (16 R473, R474); a journal burst under way may leave its word torn (15 R469);
the last keeps the straps. Nothing is ready until START_UP has run (16 R499, 19 R544, R547). -/
def Claims.ResetRows : Prop := ∀ s,
  (∀ x ∈ [Instr.powerOnReset, .pwrdnNFall], ∃ t, exec x s = .next t ∧ t.dev.vault = s.dev.vault ∧
    (∃ v < 8, t.dev.mram = { s.dev.mram with tempWarn := (-40, 110), voltWarn := (-30, 30)
                                             block := if s.dev.tamper.jnlReady = true then
                                               s.dev.mram.block.torn s.dev.tamper.lcPlan s.dev.jnlStep v else s.dev.mram.block }) ∧
    t.dev.host = State.reset.dev.host ∧ t.dev.cfg = State.reset.dev.cfg ∧ t.dev.fret = State.reset.dev.fret ∧
    t.dev.keys = State.reset.dev.keys ∧ t.dev.fr = State.reset.dev.fr ∧ t.dev.eg = State.reset.dev.eg ∧
    t.dev.lk = State.reset.dev.lk ∧ t.dev.smv = State.reset.dev.smv ∧ t.dev.mac = State.reset.dev.mac ∧
    t.dev.lanes = State.reset.dev.lanes ∧ t.dev.msec = State.reset.dev.msec ∧ t.dev.cnt = State.reset.dev.cnt ∧
    t.dev.course = State.reset.dev.course ∧ t.dev.power.ready = false ∧ t.dev.power.up = false ∧
    t.dev.power.keepStraps = false ∧ t.dev.time.bkTicks = s.dev.bkClock ∧ t.dev.fw.slots = s.dev.fw.slots) ∧
  (∃ t, exec .pwrdnNFall s = .next t ∧ t.dev.power.down = true) ∧
  (s.dev.tamper.resetAt = none → Idles .lcResetTimer s) ∧
  (∀ u, s.dev.tamper.resetAt = some u → ∃ t, exec .lcResetTimer s = .next t ∧ t.dev.vault = s.dev.vault ∧
    (s.dev.tamper.jnlReady = false → t.dev.mram = { s.dev.mram with tempWarn := (-40, 110), voltWarn := (-30, 30) }) ∧
    t.dev.host = State.reset.dev.host ∧ t.dev.power.straps = s.dev.power.straps ∧ t.dev.power.keepStraps = true ∧
    t.dev.power.ready = false ∧ t.dev.power.up = false)

/-- START_UP starts a device that is down, by the steps of 19 R547: straps, rails and trim, what MRAM and the vault hold, the
firmware slot, the BIST of the strings, and then keys, configuration and frets; an END_OF_LIFE device only answers, and one
whose strings did not pass waits for the course. A device that is up takes no start. -/
def Claims.StartRows : Prop := ∀ s o,
  (s.dev.power.up = true → Idles (.startUp o) s) ∧
  (s.dev.power.up = false →
    let d1 := startMram (newSession (startRails o s.dev))
    let d2 := fwBoot o.bootFwOk d1
    let d3 := courseUp o.bist (if d2.power.noFw then d2 else loadGraph d2)
    (d1.lc = 4 → exec (.startUp o) s = .next { s with dev := startEol d1 } ∧ (startEol d1).power.ready = true) ∧
    (d1.lc ≠ 4 → d3.halted = true → exec (.startUp o) s = .next { s with dev := d3.onPower (fun p => { p with halfUp := true }) }) ∧
    (d1.lc ≠ 4 → d3.halted = false → exec (.startUp o) s = .next { s with dev := startRest d3 } ∧
      (startRest d3).power.ready = true ∧ (startRest d3).fret.running = true ∧ Leave.scrub ∈ (startRest d3).power.gov.queue) ∧
    (startRails o s.dev).power.up = true ∧
    (s.dev.power.keepStraps = false → (startRails o s.dev).power.straps =
      { portmap0 := o.portmap0, portmap1 := o.portmap1, pcieBif := o.pcieBif }) ∧
    (s.dev.power.keepStraps = true → (startRails o s.dev).power.straps = s.dev.power.straps))

/-- Resets and the start of the device. -/
def Obligations.ResetsAndStart : Prop := Claims.ResetRows ∧ Claims.StartRows

/-! ### The path of a frame (01, 05, 06, 07, 11, 12) -/

/-- PORT_RX_FRAME: a port that is up takes frames of 64 to 16,032 bytes; others are counted apart; while every frame is held, or
the port is closed, it is dropped and counted; what is taken has its moment and its readings stamped at the lane of its SFD; what the lanes' FEC found is counted (01 R34, 03 R65, 07 R228, 16 R478,
18 R531). -/
def Claims.FrameArrival : Prop := ∀ s p b fcsOk x errs,
  (s.dev.isEth p = false ∨ (s.dev.link p).up = false ∨ s.dev.rxTest p = true → Idles (.portRxFrame p b fcsOk x errs) s) ∧
  (s.dev.isEth p = true → (s.dev.link p).up = true → s.dev.rxTest p = false →
    let fec := countFec p errs
    let counted := fun d => if fcsOk then countPort 0x024 p b (fec d) else bump 0x028 p (fec d)
    let drops := Does (.portRxFrame p b fcsOk x errs) s
    (16032 < b.length + 4 → drops (fun d => bump 0x029 p (fec d))) ∧ (b.length + 4 < 64 → drops (fun d => bump 0x02A p (fec d))) ∧
    (64 ≤ b.length + 4 → b.length + 4 ≤ 16032 →
      (s.dev.held = true → drops (fun d => bump 0x04C p (counted d))) ∧
      (s.dev.held = false → s.dev.course.failClosed = true → drops (fun d => bump 0x04D p (counted d))) ∧
      (s.dev.held = false → s.dev.course.failClosed = false →
        (16 ≤ p → fcsOk = false → drops counted) ∧
        (p < 16 → s.dev.secMode s.dev.cfg.epoch p = smCLOSED → drops (fun d => bump 0x0A0 p (counted d))) ∧
        ((16 ≤ p → fcsOk = true) → (p < 16 → s.dev.secMode s.dev.cfg.epoch p ≠ smCLOSED) →
          let tb := (s.dev.obj cStampPort p).n 0
          let l := (s.dev.portLanes p).getD x.lane p
          let id := s.dev.fr.next
          ∃ t, exec (.portRxFrame p b fcsOk x errs) s = .next t ∧ OnlyParts [.cnt, .fr] s.dev t.dev ∧
            t.dev.cnt = (counted s.dev).cnt ∧ t.dev.fr.next = id + 1 ∧ (∀ j, j ≠ id → t.dev.frame j = s.dev.frame j) ∧
            t.dev.frame id = some { id := id, bytes := b, port := p, slice := p % 16 / 8, rx := decide (p < 16), fcsOk := fcsOk,
                                    tick := s.dev.now, phase := x.phase, lane := l, tb := tb, stamp := s.dev.arrival p l tb x.phase,
                                    fretStamp := s.dev.arrival p l s.dev.fretTb x.phase / 2 ^ 32 % 2 ^ 32,
                                    since := s.dev.now }))))

/-- A frame enters the parser, from its port or from the head of its slice's recirculation queue, and takes the epoch of that
moment; its parse disposes of it: on to classification, dropped, or punted; a punt entry is written to the domain's ring, waits
for a walk, or is discarded on a fault; a classified frame, with the context it has read of its epoch's tables, goes to the
transmit or receive side of its port, unless its egress is unusable (01 R20, R33, 02 R59, 05 R145 to R151, 06 R165 to R167). -/
def Claims.FrameParsing : Prop := ∀ s id f, s.dev.frame id = some f → f.id = id →
  let slots := (f.bytes.length + 4 + 63) / 64
  let p := parseFrame s.dev f
  let g := { f with parse := p }
  (f.stage = .mac → ∃ t, exec (.frameIngress id) s = .next t ∧ OnlyParts [.cnt, .fr] s.dev t.dev ∧
    t.dev.frame id = some { f with
      stage := .parsing, epoch := s.dev.cfg.epoch, issue := some (if f.port < 16 then 0 else 1, slots) }) ∧
  (∀ rest, f.stage = .recirc → f.slice < s.dev.fr.recirc.length → s.dev.fr.recirc.getD f.slice [] = id :: rest →
    ∃ t, exec (.frameIngress id) s = .next t ∧ OnlyParts [.cnt, .fr] s.dev t.dev ∧ t.dev.fr.recirc.getD f.slice [] = rest ∧
      t.dev.frame id = some { f with
        stage := .parsing, recirc := true, rx := false, ended := false, issue := some (2, slots) }) ∧
  (f.stage = .parsing →
    (p.disp = 0 → (f.ended && g.lateBad) = false → Does (.parseComplete id) s (fun d =>
      setFrame { g with stage := .classifying } (setFrame g d))) ∧
    (p.disp = 0 → (f.ended && g.lateBad) = true → Does (.parseComplete id) s (fun d =>
      dropFrame id (bump 0x04A f.port (setFrame g d)))) ∧
    (p.disp = 1 → dispAction (s.dev.parseSet f) 1 = 1 → Does (.parseComplete id) s (fun d =>
      dropFrame id (bump 0x048 f.port (setFrame g d)))) ∧
    (2 ≤ p.disp → 2 ≤ dispAction (s.dev.parseSet f) p.disp → Does (.parseComplete id) s (fun d =>
      puntFrame g (bump 0x049 f.port (setFrame g d))))) ∧
  (∀ slice, (s.dev.fr.punts.getD slice []).head? = some id →
    let D := s.dev.dom f.owner
    let waits := D.held.any (fun h => decide (h.ring = 7 ∧ h.tag = id))
    (waits = true → Idles (.puntEntryWrite slice) s) ∧
    (waits = false → s.dev.ringUp f.owner 7 = false → Does (.puntEntryWrite slice) s (dropFrame id)) ∧
    (waits = false → s.dev.ringUp f.owner 7 = true →
      (s.dev.ringFree f.owner 7 = 0 → Does (.puntEntryWrite slice) s (fun d => dropFrame id (bump 0x043 f.owner d))) ∧
      (s.dev.ringFree f.owner 7 ≠ 0 →
        (∀ iova c, s.dev.ringBlock f.owner 7 1 = some (4, iova, .fault c) →
          Does (.puntEntryWrite slice) s (puntFault f.owner id c iova)) ∧
        (D.held = [] → D.page.dtuErr = false → s.dev.ringBlock f.owner 7 1 = none → Does (.puntEntryWrite slice) s (fun d =>
          dropFrame id (bump 0x040 f.owner (ringWriteNow f.owner 7 (.punt (puntEntry f)) d)))) ∧
        (∀ acc iova, D.held = [] → D.page.dtuErr = false → f.owner < s.dev.host.doms.length →
          s.dev.ringBlock f.owner 7 1 = some (acc, iova, .walk) → ∃ t, exec (.puntEntryWrite slice) s = .next t ∧
            OnlyParts [.host] s.dev t.dev ∧ (t.dev.dom f.owner).held = [{ ring := 7, entry := .punt (puntEntry f), tag := id }])))) ∧
  (f.stage = .classifying →
    (∀ e, classify f (scanAdvance s.dev) = (none, e) → exec (.classifyComplete id) s = .next { s with dev := dropFrame id e }) ∧
    (∀ r e, classify f (scanAdvance s.dev) = (some r, e) →
      let h := { f with res := r, ctx := e.context { f with res := r } }
      let e := setFrame h (if f.ended = true then hostStamp h e else e)
      (e.egressOk f.rx r.egress = false → exec (.classifyComplete id) s = .next { s with dev := dropAs 0x090 f.port h e }) ∧
      (e.egressOk f.rx r.egress = true → exec (.classifyComplete id) s = .next { s with
        dev := if f.rx then classifyRx h e else classifyTx h e })))

/-- A frame's way from its port to the MACsec stage. -/
def Obligations.FramesIn : Prop := Claims.FrameArrival ∧ Claims.FrameParsing

/-- At the cipher stage a frame is sealed or opened with the key of its slot; one whose key has gone takes the key-revoked
disposition. At the end of the stage the slot is released and a transmit frame goes on. The end of a frame brings the late
checks. A receive frame is confirmed after the whole of it has been seen: its SA's window moves and it goes on, or it fails (01
R14, R22, 05 R141, R147, 07 R217, R222 to R226, R228). -/
def Obligations.CipherRows : Prop := ∀ s id f, s.dev.frame id = some f → f.id = id →
  let y := f.ctx.secy
  let i := f.sa.getD 0
  (f.stage = .toCipher → f.slot = none → Does (.cipherStageEntry id) s (revokedAtCipher false f)) ∧
  (∀ n, f.stage = .toCipher → f.slot = some n → (s.dev.slot n).mark = false → (s.dev.slot n).handed = false →
    Does (.cipherStageEntry id) s (revokedAtCipher false f)) ∧
  (∀ n, f.stage = .toCipher → f.slot = some n → (s.dev.slot n).mark = true ∨ (s.dev.slot n).handed = true → (s.dev.slot n).pairOk = true →
    (f.rx = false →
      let out := sealFrame (s.dev.slot n).keyBytes y f.ctx.sc f.ctx.sa f.pn f.bytes
      Does (.cipherStageEntry id) s (setFrame { f with stage := .inCipher, out := out })) ∧
    (∀ g, f.rx = true → rxTag f = some g →
      let r := openFrame (s.dev.slot n).keyBytes y f.ctx.sc f.ctx.sa g f.pn f.bytes
      (s.dev.onPair f = none → Does (.cipherStageEntry id) s (setFrame { f with stage := .inCipher, out := r.1, open_ := r.2 })) ∧
      (∀ x, s.dev.onPair f = some x → Does (.cipherStageEntry id) s (setFrame { f with
        stage := .inCipher, out := correctPair f x.2.2 g.len r.1, open_ := r.2 })))) ∧
  (∀ n, f.stage = .toCipher → f.slot = some n → (s.dev.slot n).mark = true ∨ (s.dev.slot n).handed = true → (s.dev.slot n).pairOk = false →
    Does (.cipherStageEntry id) s (fun d => keyMismatch n (revokedAtCipher true f d))) ∧
  (∀ n, f.stage = .inCipher → f.slot = some n →
    let g := { f with slot := none, stage := .confirming }
    (f.rx = false → Does (.cipherStageExit id) s (fun d => sendOn id (countProtected g (setFrame g (unbindSlot n d))))) ∧
    (f.rx = true → s.dev.mayStomp g = false → Does (.cipherStageExit id) s (fun d => setFrame g (unbindSlot n d)))) ∧
  (f.ended = false → f.lateBad = false → f.stage = .waitEnd → Does (.frameEndArrival id) s (fun d =>
    plainOut id (hostStamp f (trimCharge id (setFrame { f with ended := true } d))))) ∧
  (f.ended = false → f.lateBad = false → f.protect = true → (f.stage = .inCipher ∨ f.stage = .confirming ∨ f.stage = .sending) →
    Does (.frameEndArrival id) s (fun d => hostStamp f (trimCharge id (setFrame { f with ended := true } d)))) ∧
  (f.ended = false → f.lateBad = true → f.rx = false → f.stage = .waitEnd → Does (.frameEndArrival id) s (fun d =>
    failFrame tdDrop id (bump 0x04A f.port (trimCharge id (setFrame { f with ended := true } d))))) ∧
  (f.ended = true → Idles (.frameEndArrival id) s) ∧
  (f.rx = true → f.protect = true → f.verdict = none → f.stage = .confirming ∨ f.stage = .sending →
    (failureOf f i y s.dev = none → f.mtrDrop = false → ∃ t, exec (.rxConfirmation id) s = .next t ∧
      t.dev.sa i = (confirmPn i f.pn y s.dev).sa i ∧
      (f.stage = .sending → f.gone = false → ∃ g, t.dev.frame id = some g ∧ g.verdict = some true ∧ g.stage = .sending ∧ g.ended = true)) ∧
    (∀ c, failureOf f i y s.dev = some c → (s.dev.sa i).rxOk = true → ∃ t, exec (.rxConfirmation id) s = .next t ∧
      t.dev.sa i = s.dev.sa i ∧
      (f.stage = .confirming → t.dev.frame id = none) ∧
      (f.stage = .sending → ∃ g, t.dev.frame id = some g ∧ g.verdict = some false ∧ g.stomp = true)))

/-- A second pass that takes 4 µs is dropped. A port able to begin a frame begins the one that selection names. A frame that has
wholly left is recorded and its port is free, and one that was cut short leaves with the bytes sent till then; one without its
verdict ends with an inverted FCS, at an underrun after the bytes sent so far; a port given a test pattern meanwhile sends nothing. A frame of a pair leaves at its instant, or is dropped at a collision or where its port cannot send; a one-step
launch leaves at its instant, and is lost and counted where its port cannot send, which is the model's choice (log entry 86) (01 R20, 07
R229, R239, R242, 11 R352, 12 R360). -/
def Claims.EgressRows : Prop := ∀ s,
  (∀ id f, s.dev.frame id = some f → f.inRecirc = true → Does (.recircTimeout id) s (fun d =>
    dropAs 0x04E f.slice f (advanceTo (f.since + 2000) d))) ∧
  (∀ p, s.dev.isEth p = true → s.dev.canSend p = true → (s.dev.egress p).sending = none →
    (∀ e, selectFrame p s.dev = (none, e) → exec (.transmissionSelection p) s = .next { s with dev := e }) ∧
    (∀ f e, selectFrame p s.dev = (some f, e) → s.dev.launchHolds p f.sendLen = false →
      let l := s.dev.now * 800 + 8 * byteInstants (s.dev.portRate p)
      exec (.transmissionSelection p) s = .next { s with dev := (countUntagged f (onFrame f.id (fun g => { g with
        launch := l, depart := shiftPs (s.dev.readingAt p l) (s.dev.laneCorr p (s.dev.txLane p) true) }) e.nextFree)).onMsec (fun m => { m with
          llEnd := m.llEnd.put p (l + f.sendLen * byteInstants (s.dev.portRate p)) }) })) ∧
  (∀ p f, (s.dev.egress p).sending.bind s.dev.frame = some f → p < s.dev.eg.ports.length →
    let test := (s.dev.portLanes p).any s.dev.txTest
    let n := (f.cut.map (s.dev.sentBytes p f)).getD f.wireBytes.length
    (test = true → Does (.frameTxDone p) s (fun d => dropAtEgress f.id (d.onPort p (fun e => { e with sending := none })))) ∧
    (test = false → f.verdict ≠ none ∨ f.rx = false ∨ f.protect = false → ∃ t later, exec (.frameTxDone p) s = .next t ∧
      t.dev.wire = later ++ .frame p (f.wireBytes.take n) f.stomp :: s.dev.wire ∧ (t.dev.egress p).sending = none ∧
      t.dev.frame f.id = none) ∧
    (f.verdict = none → f.rx = true →
      (∀ x ∈ [(Instr.egressUnderrun p, s.dev.sentBytes p f s.dev.now), (.frameTxDone p, n)],
        (x.1 = .frameTxDone p → f.protect = true ∧ test = false) → ∃ t, exec x.1 s = .next t ∧
          t.dev.wire.head? = some (.frame p (f.wireBytes.take x.2) true) ∧ (t.dev.egress p).sending = none ∧
          ((s.dev.sa (f.sa.getD 0)).rxOk = true → t.dev.wire = .frame p (f.wireBytes.take x.2) true :: s.dev.wire))) ∧
    (f.verdict ≠ none ∨ f.rx = false → Idles (.egressUnderrun p) s)) ∧
  (∀ id f, s.dev.frame id = some f → f.id = id → f.res.egress < s.dev.eg.ports.length →
    let bt := byteInstants (s.dev.portRate f.res.egress)
    let starts := fun x => (s.dev.egress f.res.egress).sending = none → ∃ t g, exec x s = .next t ∧
      (t.dev.egress f.res.egress).sending = some id ∧ t.dev.frame id = some g ∧ g.stage = .sending ∧ g.bytes = f.bytes ∧
      t.dev.time.tclk = max s.dev.now ((f.launch - 8 * bt) / 800)
    let sends := s.dev.canSend f.res.egress
    (f.stage = .onestep → sends = true → starts (.onestepLaunch id)) ∧
    (f.stage = .onestep → sends = false → Does (.onestepLaunch id) s (fun d => dropFrame id (bump 0x0F1 f.res.egress d))) ∧
    (f.stage = .delayLine → sends = false → Does (.llRelease id) s (dropAtEgress id)) ∧
    (f.stage = .delayLine → sends = true →
      f.launch < s.dev.msec.llEnd.get 0 f.res.egress + 20 * bt →
      let l := if f.res.egress < 16 then f.res.egress else f.port
      Does (.llRelease id) s (fun d => noteLl l false (dropAtEgress id (bump 0x0B7 l d)))) ∧
    (f.stage = .delayLine → sends = true →
      s.dev.msec.llEnd.get 0 f.res.egress + 20 * bt ≤ f.launch → starts (.llRelease id)))

/-- Among the eligible queues of a port the highest strict one is selected; where none is strict, one of those with the lowest
tag (12 R360, R361). -/
def Claims.QueueSelection : Prop := ∀ (d : Dev) p q, d.selectQueue p = some q →
  q < 8 ∧ d.eligible p q = true ∧
  (d.isWfq p q = false → ∀ r < 8, d.eligible p r = true → d.isWfq p r = false → r ≤ q) ∧
  (d.isWfq p q = true → ∀ r < 8, d.eligible p r = true → d.isWfq p r = true ∧ (d.queue p q).tag ≤ (d.queue p r).tag)

/-- Recirculation, selection, transmission and launches. -/
def Obligations.FramesOut : Prop := Claims.EgressRows ∧ Claims.QueueSelection

/-! ### The end of a copy and of a cancel, the lookaside cores and the public-key unit (02 R53, R55, R561; 10 R309 to R332) -/

/-- ARM_COPY_DONE: the copy of a domain has ended, and its changes stand in the inactive banks. It arms the commit for its target,
an `AS_SOON_AS` copy for the second fret after the one in which it ends; a copy that ends too late arms nothing, with E_LATE, and
its words leave the banks that armed commits share; cancels that came in the meantime follow in order. CANCEL_REWRITE_DONE
completes the cancel whose rewrite of shared banks ends (02 R53, R54, R55, R561, R562). -/
def Claims.CopyRows : Prop := ∀ s dom,
  ((s.dev.domCfg dom).copying = none → Idles (.armCopyDone dom) s) ∧
  (∀ x, (s.dev.domCfg dom).copying = some x →
    let a := advanceTo x.ends s.dev
    let cs := a.changesOf dom
    let f := if x.asap then a.fret.index + 2 else x.target
    let others := a.armedBut [dom]
    let e := a.onDomCfg dom (fun y => { y with copying := none })
    let whole := writeBanks (others ++ [cs]) (affected cs) e
    let without_ := writeBanks others (sharedTables cs others) whole
    let ends := fun (d : Dev) => exec (.armCopyDone dom) s = .next (s.onDev (fun _ =>
      forEach x.cancels (fun c d => conclude c (cancelNow c d)) d))
    (x.asap = true → e.baseTooLate cs f = true → ends (finish x.cmd (fail eRange) without_)) ∧
    (x.asap = false → f < a.fret.index + 2 → ends (finish x.cmd (fail eLate) without_)) ∧
    ((x.asap = true → e.baseTooLate cs f = false) → (x.asap = false → a.fret.index + 2 ≤ f) →
      ends (finish x.cmd { result := leBytes f 8 } (whole.onDomCfg dom (fun y => { y with armed := some f }))))) ∧
  ((s.dev.domCfg dom).rewrite = none → Idles (.cancelRewriteDone dom) s) ∧
  (∀ r, (s.dev.domCfg dom).rewrite = some r →
    let e := (advanceTo r.ends s.dev).onDomCfg dom (fun c => { c with rewrite := none })
    (r.cmd = none → exec (.cancelRewriteDone dom) s = .next (s.onDev (fun _ => e))) ∧
    (∀ c, r.cmd = some c → exec (.cancelRewriteDone dom) s = .next (s.onDev (fun _ => finish c {} e))))

/-- Bank copies, the swap, and the release of old banks. -/
def Obligations.Banks : Prop := Claims.BankSwap ∧ Claims.BankRelease ∧ Claims.CopyRows

/-- LK_SEGMENT_END: a core that runs a segment processes and counts it, and writes its output as far as it translates. A segment
whose writes have all left is over: a job not at its end returns to the scheduler; one
at its end is finished, a verification in the public-key unit. A write that faults suspends the job at it, and one that needs a walk
waits. A job to be killed, or any job once halted, is discarded. A core
that has done internal work ends it: the key command answers, the verification or the pairing goes on. The core then takes the
scheduler's choice. One that runs nothing does nothing. PK_OP_DONE takes the unit's next operation, first those left of what it
is doing; the hashing of an image, or of a pairing step, follows as internal work (10 R309, R313 to R316, R329 to R332). -/
def Obligations.UnitRows : Prop := ∀ s c,
  let core := s.dev.lk.cores.getD c {}
  let does := Does (.lkSegmentEnd c) s
  (core.job = none → Idles (.lkSegmentEnd c) s) ∧
  (∀ w, core.job.bind s.dev.intRun = some w →
    (core.waits = true → Idles (.lkSegmentEnd c) s) ∧
    (core.waits = false → does (fun d => lkRefill c (intDone w.work (dropInt w.id (freeCore c d)))))) ∧
  (core.job.bind s.dev.intRun = none →
    (∀ id, core.job = some id → s.dev.lkRun id = none → does (fun d => lkRefill c (freeCore c d))) ∧
    (∀ r, core.job.bind s.dev.lkRun = some r →
      (core.waits = true ∨ r.at_ ≠ .running → Idles (.lkSegmentEnd c) s) ∧
      (core.waits = false → r.at_ = .running →
        ((s.dev.halted = true ∨ r.kill = true) → does (fun d => lkRefill c (lkDiscard r (freeCore c d)))) ∧
        (s.dev.halted = false → r.kill = false →
          let x := lkProcess c r s.dev
          let y := lkFlush x.1 x.2
          let e := setRun y.1 y.2
          let r' := { y.1 with done := y.1.done + y.1.seg, reads := 0, out := none, left := 0 }
          let leaves := fun e' => exec (.lkSegmentEnd c) s = .next { s with dev := e' }
          (r.out = none → x.1.out = some ((lkOutput r r.seg s.dev).1.flatMap pagePieces) ∧
            x.2 = progEvent 0x120 2 c ((r.seg + 15) / 16) (bumpBy 0x0E2 r.cmd.dom r.seg (lkOutput r r.seg s.dev).2)) ∧
          (r.out ≠ none → x = (r, s.dev)) ∧
          (lkBlocked e y.1 = none →
            (r'.done = lkTotal r.op r.job → r.op = 10 → leaves (lkRefill c (pkAsk (.job r.id) (setRun { r' with at_ := .pk }
              (freeCore c e))))) ∧
            (r'.done = lkTotal r.op r.job → r.op ≠ 10 → leaves (lkRefill c (lkFinal r' (setRun r' (freeCore c e))))) ∧
            (r'.done ≠ lkTotal r.op r.job → leaves (lkPreempted c y.1 (lkRefill c (setRun { r' with at_ := .ready } (freeCore c e)))))) ∧
          (∀ a n, lkBlocked e y.1 = some (a, .fault n) → leaves (lkRefill c (freeCore c (lkSuspend y.1 a n e)))) ∧
          (∀ a, lkBlocked e y.1 = some (a, .walk) → leaves (setRun { y.1 with at_ := .walking } e)) ∧
          (∀ a, lkBlocked e y.1 = some (a, .dead) → leaves (lkRefill c (freeCore c (lkDead y.1 e)))))))) ∧
  (s.dev.lk.pk = none → Idles .pkOpDone s) ∧
  (∀ o, s.dev.lk.pk = some o →
    let next := fun (l : List PkOp) (d : Dev) => pkTake (d.onLk (fun k => { k with pkQueue := l ++ k.pkQueue }))
    (∀ n g, o = .fw g (n + 2) → Does .pkOpDone s (next [.fw g (n + 1)])) ∧
    (∀ n g, o = .pair g (n + 2) → Does .pkOpDone s (next [.pair g (n + 1)])) ∧
    (∀ g, o = .fw g 1 → Does .pkOpDone s (fun d => lkInternal .fw (next [] d))) ∧
    (∀ g, o = .pair g 1 → Does .pkOpDone s (fun d => pairHash g (next [] d))) ∧
    (∀ g, o = .fw g 0 ∨ o = .pair g 0 → Does .pkOpDone s (next [])) ∧
    (∀ id, o = .job id → Does .pkOpDone s (fun d => lkVerified id (next [] d))))

/-! ### Key misses and the MAC table (06 R176 to R181, 07 R231 to R238) -/

/-- A miss record's blob read: a walk counts its table reads, and issues the read where it succeeds, or suspends the fetch with its
event where it fails; a read that fails is repeated, three times in all, and then fails the fetch; what it brings is opened with the
record's own attribute and length, or fails the fetch with its cause, a wrapping key that disagrees with its complement with the
alarm as well (07 R234, R237, R238, 09 R293, 13 R408). While the key manager moves no key the blob waits (16 R474), and under
LOCKDOWN the fetch is aborted, which is the model's reading of 16 R478 (log entry 104). -/
def Claims.BlobRows : Prop := ∀ s slice r es ok blob,
  (s.dev.missRec slice r = none → Idles (.blobReadCompletion slice r es ok blob) s) ∧
  (∀ m, s.dev.missRec slice r = some m →
    let iova := s.dev.fetchIova m.dom m.handle
    let does := Does (.blobReadCompletion slice r es ok blob) s
    (m.fetch = .walking → ok = true → m.resumer = none →
      (∀ leaf, walk iova false es = .ok leaf → does (fun d =>
        startFetch slice r (setRec slice r m (tlbInsert m.dom iova leaf (tableReads m.dom 0 iova es d))))) ∧
      (∀ c, walk iova false es = .error c → does (fun d =>
        let a := tableReads m.dom 0 iova es d
        let e := raise m.dom (dmaFaultEvent a 0 false c slice r iova 0) a
        setRec slice r { m with fetch := .suspended c e.now } e))) ∧
    (m.fetch = .walking → ok = false → m.resumer = none → does (fun d =>
      let a := tableReads m.dom 0 iova es (badRead m.dom d)
      let e := raise m.dom (dmaFaultEvent a 0 false 6 slice r iova 0) a
      setRec slice r { m with fetch := .suspended 6 e.now } e)) ∧
    (m.fetch = .reading → ok = false → m.attempts < 3 → does (fun d =>
      startFetch slice r (setRec slice r { m with attempts := m.attempts + 1 } (badRead m.dom d)))) ∧
    (m.fetch = .reading → ok = false → 3 ≤ m.attempts → does (fun d => failFetch slice r 1 (badRead m.dom d))) ∧
    (m.fetch = .reading → ok = true → s.dev.frozen = true → does (setRec slice r { m with fetch := .arrived blob })) ∧
    (m.fetch = .reading → ok = true → s.dev.frozen = false → s.dev.lockdown = true → does (failFetch slice r 6)) ∧
    (m.fetch = .reading → ok = true → s.dev.frozen = false → s.dev.lockdown = false →
      does (fun d => match openBlob d m.dom m.handle blob (some (m.attr, m.keyLen)) with
        | .ok k => setRec slice r { m with fetch := .opened k } d
        | .error 0 => failFetch slice r 2 (raiseAlarm 10 0 d)
        | .error c => failFetch slice r c d)))

/-- KEY_INSTALL writes an opened key into the way chosen for it, counts the install and what it evicts, and ends the fetches of the
records of both slices that name its handle: a record is left to its releases, or closes where no frame waits. A key that is in a
slot already is not written again; a complement that disagrees
raises the alarm and fails the fetch. With no way to choose the install waits, and a domain at its cap first gives up its oldest
slot. MISS_RECORD_RELEASE sends the parked frames on in order. PARK_TIMEOUT drops one; SUSPENDED_FETCH_ABORT fails a suspended
fetch for which no frame waits. A slot that is being zeroed is free once ZEROING_DONE (07 R232 to R238, 09 R294, R297, 16 R474). -/
def Claims.MissRows : Prop := ∀ s slice r,
  (s.dev.missRec slice r = none →
    Idles (.keyInstall slice r) s ∧ Idles (.missRecordRelease slice r) s ∧ Idles (.suspendedFetchAbort slice r) s) ∧
  (∀ m, s.dev.missRec slice r = some m →
    let rest := validRecords m.dom m.handle
    let does := Does (.keyInstall slice r) s
    (∀ k, m.fetch = .opened k →
      (s.dev.frozen = true → Idles (.keyInstall slice r) s) ∧
      (s.dev.frozen = false → s.dev.lockdown = true → does (failFetch slice r 6)) ∧
      (s.dev.frozen = false → s.dev.lockdown = false → k.pairOk = false →
        does (fun d => failFetch slice r 2 (raiseAlarm 10 0 d))) ∧
      (s.dev.frozen = false → s.dev.lockdown = false → k.pairOk = true →
        (∀ n o, s.dev.lookupSlot m.dom m.handle = some (n, o) → does (rest n)) ∧
        (s.dev.lookupSlot m.dom m.handle = none → s.dev.chooseWay m.dom m.handle = none →
          (s.dev.cacheCount m.dom < s.dev.cacheCap m.dom → Idles (.keyInstall slice r) s) ∧
          (∀ n, s.dev.cacheCap m.dom ≤ s.dev.cacheCount m.dom → m.room = none → s.dev.oldestOwn m.dom = some n →
            does (fun d => setRec slice r { m with room := some n } (evictSlot n d)))) ∧
        (∀ n, s.dev.lookupSlot m.dom m.handle = none → s.dev.chooseWay m.dom m.handle = some n →
          ((s.dev.slot n).state = .free → does (fun d =>
            rest n (bump 0x0D0 m.dom (touchSlot n (setSlot n { k with lru := s.dev.openRank n, binds := 0 } d))))) ∧
          ((s.dev.slot n).state ≠ .free → does (fun d =>
            rest n (bump 0x0D0 m.dom (touchSlot n (setSlot n { k with lru := (s.dev.slot n).lru, binds := 0 }
              (bump 0x0D1 (s.dev.slot n).dom d))))))))) ∧
    (∀ n d, s.dev.msec.recs = [[(r, m)], []] → slice = 0 → d.msec.recs = s.dev.msec.recs →
      rest n d = if m.frames = [] then closeRecord 0 r d else setRec 0 r { m with fetch := .installed n } d) ∧
    (∀ n, m.fetch = .installed n → Does (.missRecordRelease slice r) s (fun d =>
      closeRecord slice r (forEach m.frames (releaseParked m (some n)) d))) ∧
    (m.fetch = .lost → Does (.missRecordRelease slice r) s (fun d =>
      closeRecord slice r (forEach m.frames (releaseParked m none) d))) ∧
    (∀ c t, m.fetch = .suspended c t → (m.frames ≠ [] → Idles (.suspendedFetchAbort slice r) s) ∧
      (m.frames = [] → Does (.suspendedFetchAbort slice r) s (fun d =>
        failFetch slice r 6 (advanceTo (max t m.emptySince + d.parkTicks slice) d))))) ∧
  (∀ id f, s.dev.frame id = some f →
    (f.stage ≠ .parked → Idles (.parkTimeout id) s) ∧
    (f.stage = .parked → Does (.parkTimeout id) s (fun d =>
      dropFrame f.id (bump 0x0B3 f.slice (advanceTo (f.since + d.parkTicks f.slice) d))))) ∧
  (∀ n, ((s.dev.slot n).state ≠ .zeroing ∨ (s.dev.slot n).waits = true → Idles (.zeroingDone n) s) ∧
    ((s.dev.slot n).state = .zeroing → (s.dev.slot n).waits = false → Does (.zeroingDone n) s (fun d =>
      lkSlotFreed n (setSlot n {} d))))

/-- A key miss from its blob read to the release of its frames. -/
def Obligations.KeyMisses : Prop := Claims.BlobRows ∧ Claims.MissRows

/-- LEARN_PROPOSAL_PROCESS: the home slice handles the proposal that came first. One stamped more than 20 µs ago, one that a
later write of its key precedes, and one that finds the order cache full are discarded, each counted; one that is taken is
tracked, and its key is inserted, or moved to the new peer, unless the entry is frozen or static. An ageing scan in progress
comes to the position of this moment first. ORDER_CACHE_RETIRE retires the entry written earliest, 20 µs after it was written (06
R179 to R181, R183). -/
def Claims.ProposalRows : Prop := ∀ s slice,
  (s.dev.mac.queues.getD slice [] = [] → Idles (.learnProposalProcess slice) s) ∧
  (∀ p ps, s.dev.mac.queues.getD slice [] = p :: ps → Does (.learnProposalProcess slice) s (fun d =>
    handleProposal slice p ((scanAdvance d).onMac (fun m => { m with queues := m.queues.set slice ps })))) ∧
  (∀ (p : Proposal) d,
    let dom := d.svcDom p.key.service
    let age := (d.stampNow + 2 ^ 32 - p.stamp) % 2 ^ 32
    let q := (d.mac.caches.getD slice []).find? (fun t => t.key = p.key)
    let e := track slice { key := p.key, stamp := p.stamp, slice := p.slice, port := p.port, host := false, at_ := d.now } d
    (20000 < age → age < 2 ^ 31 → handleProposal slice p d = bump 0x08B dom d) ∧
    ((age ≤ 20000 ∨ 2 ^ 31 ≤ age) →
      (q.any (precedes p) = true → handleProposal slice p d = bump 0x08A dom d) ∧
      (q = none → cacheSize ≤ (d.mac.caches.getD slice []).length → handleProposal slice p d = bump 0x08C dom d) ∧
      (q.any (precedes p) = false → (q = none → (d.mac.caches.getD slice []).length < cacheSize) →
        (∀ pos o, (e.rep slice).find p.key = some (pos, o) →
          (o.peer = p.peer → handleProposal slice p d = e) ∧
          (o.peer ≠ p.peer → o.frozen = true → handleProposal slice p d = bump 0x08E dom e) ∧
          (o.peer ≠ p.peer → o.frozen = false → o.static_ = true → handleProposal slice p d = bump 0x08D dom e) ∧
          (o.peer ≠ p.peer → o.frozen = false → o.static_ = false → handleProposal slice p d =
            bump 0x089 dom (bump 0x088 dom (moveEntry slice pos o p.peer p.port e)))) ∧
        ((e.rep slice).find p.key = none →
          let x := insertEntry slice { key := p.key, peer := p.peer, port := p.port } true e
          (x.1 = none → handleProposal slice p d = bump 0x088 dom x.2) ∧
          (x.1 = some true → handleProposal slice p d = bump 0x08F dom x.2) ∧
          (x.1 = some false → handleProposal slice p d = bump 0x084 dom x.2))))) ∧
  (s.dev.mac.caches.getD slice [] = [] → Idles (.orderCacheRetire slice) s) ∧
  (∀ t ts, s.dev.mac.caches.getD slice [] = t :: ts → Does (.orderCacheRetire slice) s (fun d =>
    (advanceTo (t.at_ + 10000) d).onMac (fun m => { m with caches := m.caches.set slice ts })))

/-- BRIDGE_MESSAGE_RX takes the message sent first, or discards it with the bridge alarm: a proposal joins the home queue where
there is room; an insertion is weighed against those that crossed it; a new content, or a removal, applies to the entry if its key
still stands there; the readings of an ageing scan reach the home slice. (01 R19, 06 R168, R178 to R180, R183). -/
def Claims.BridgeRows : Prop := ∀ s slice,
  ((scanAdvance s.dev).mac.inbox.getD slice [] = [] → ∀ bad, Does (.bridgeMessageRx slice bad) s scanAdvance) ∧
  (∀ m ms, (scanAdvance s.dev).mac.inbox.getD slice [] = m :: ms →
    let took := fun (d : Dev) => (scanAdvance d).onMac (fun x => { x with inbox := x.inbox.set slice ms })
    let a := took s.dev
    let does := Does (.bridgeMessageRx slice false) s
    Does (.bridgeMessageRx slice true) s (fun d => raiseAlarm 12 0 (took d)) ∧
    (∀ p, m = .proposal p →
      (a.proposalsOf slice < 1024 → does (fun d => (took d).onMac (fun x => { x with
        queues := modAt x.queues slice (· ++ [p]) }))) ∧
      (1024 ≤ a.proposalsOf slice → does (fun d => bump 0x08C (a.svcDom p.key.service) (took d)))) ∧
    (∀ pos e v l o, m = .insert pos e v l o → (slice = 0 → does (fun d => insertAtZero pos e v l (took d))) ∧
      (slice ≠ 0 → does (fun d => insertAtOne pos e v o (took d)))) ∧
    (∀ pos e, m = .update pos e → (a.stands slice pos e.key = true → does (fun d => putEntry slice pos e false (took d))) ∧
      (a.stands slice pos e.key = false → does took)) ∧
    (∀ pos k, m = .remove pos k → (a.stands slice pos k = true → does (fun d => dropEntry slice pos (took d))) ∧
      (a.stands slice pos k = false → does took)) ∧
    (∀ lo hits, m = .ages lo hits → does (fun d => ageResults slice lo hits (took d))) ∧
    (m = .withdrawn → does took)) ∧
  (∀ pos e v l d, (d.claimsTo 1 pos = [] → insertAtZero pos e v l d = putEntry 0 pos e true d) ∧
    (d.claimsTo 1 pos ≠ [] → (insertAtZero pos e v l d).mac.reps = d.mac.reps)) ∧
  (∀ pos e v o d, d.claimsTo 0 pos = [] → o = none → insertAtOne pos e v o d =
    putEntry 1 pos e true (onClaims 0 pos (fun _ => .withdrawn) d))

/-- Learning at the home slice, bridge messages and the order cache. -/
def Obligations.LearnRows : Prop := Claims.ProposalRows ∧ Claims.BridgeRows

/-! ### Smivia and pairing (04, 08) -/

/-- SMV_FRAME_TX: a group whose lanes all transmit begins its next frame, with the PCS blocks that its CBR host ports have
received: it starts with the alignment word and carries MFAS, which counts modulo 256 and starts at 0; it leaves whole unless a
lane sends a test pattern. A group of which a lane is off sends nothing and begins anew later; a group without a port does
nothing. No key's complement disagrees (03 R81, 04 R86 to R95, R105, R121). -/
def Obligations.SmiviaTx : Prop := ∀ s slice cbr, slice < s.dev.smv.length →
  (∀ n, (s.dev.slot n).mark = true → (s.dev.slot n).pairOk = true) →
  (s.dev.groupPort slice = none → Idles (.smvFrameTx ⟨slice, cbr⟩) s) ∧
  (∀ p, s.dev.groupPort slice = some p →
    ((s.dev.portLanes p).any (fun l => decide ((s.dev.lane l).phase = .off)) = true →
      Does (.smvFrameTx ⟨slice, cbr⟩) s (fun d => d.onGroup slice (fun g => { g with sending := false }))) ∧
    ((s.dev.portLanes p).any (fun l => decide ((s.dev.lane l).phase = .off)) = false →
      let m := if (s.dev.group slice).sending then (s.dev.group slice).mfas else 0
      ∃ t frame, exec (.smvFrameTx ⟨slice, cbr⟩) s = .next t ∧ (t.dev.group slice).sending = true ∧
        (t.dev.group slice).mfas = (m + 1) % 256 ∧
        ((s.dev.portLanes p).any s.dev.txTest = false → .smivia slice (scramble frame) ∈ t.dev.wire) ∧
        frame.take 7 = [0x3C, 0x9E, 0xA5, 0x71, 0x0D, 0xB4, BitVec.ofNat 8 m]))

/-- SMV_FRAME_RX: a run of blocks counts its bad blocks, and what the lanes' FEC and markers showed, and is descrambled. Before
the alignment is found, the run is searched at its place in the stream. In frame only the expected place matters: an alignment
word of at most three wrong bits clears the count of errored ones and the frame is processed; the fifth errored word in succession
loses the alignment. Without a stream only FEC and markers are counted; of a group without a port nothing. SMV_FRAME_CONFIRM
decides on the oldest frame: an AIS frame gives only its delay request, a clear one its payload, but not in PRODUCTION, a keyed
one what its tag admits, to the elements or, of a test sequence, to the checker; a frame that is not confirmed breaks the walk of
elements, and a payload mismatch, or the loss of frame, stops it (03 R65, R69, 04 R90, R105 to R107, R110, R113 to R115, 08 R254,
R256, R274). -/
def Claims.SmiviaFrames : Prop := ∀ s slice,
  (∀ b n bad at_ errs, s.dev.groupPort slice = none → Idles (.smvFrameRx slice b n bad at_ errs) s) ∧
  (∀ b n bad at_ errs p, s.dev.groupPort slice = some p →
    let seen := fun d => countMarkers p errs (countFec p errs d)
    let y := fun d => bumpBy 0x060 slice n (seen d)
    let x := scramble (padTo 8192 b)
    let crcOk := decide (beAt x 62 2 = (ohCrc ((x.take 62).drop 6)).toNat)
    let wrong := ((List.zipWith (fun (x y : Byte) => popCount 8 (x ^^^ y).toNat) (x.take 6) fas)).sum
    let does := Does (.smvFrameRx slice b n bad at_ errs) s
    let g := s.dev.group slice
    (g.align = .noStream → does seen) ∧
    (g.align = .search ∨ g.align = .confirm → does (fun d => pairCheck slice
      (searchFrame slice (decide (x.take 6 = fas) && crcOk) at_ (leAt x 6 1) (y d)))) ∧
    (g.align = .inFrame → at_ % 256 ≠ g.expAt % 256 → does (fun d => pairCheck slice (y d))) ∧
    (g.align = .inFrame → at_ % 256 = g.expAt % 256 →
      (wrong ≤ 3 → bad = false → does (fun d => pairCheck slice (inFrameRx slice x crcOk
        ((y d).onGroup slice (fun g => { g with fasErrs := 0 }))))) ∧
      ((3 < wrong ∨ bad = true) → g.fasErrs = 4 → does (fun d => pairCheck slice (outOfFrame slice (bump 0x061 slice (y d))))) ∧
      ((3 < wrong ∨ bad = true) → g.fasErrs ≠ 4 → does (fun d => pairCheck slice (inFrameRx slice x crcOk
        ((bump 0x061 slice (y d)).onGroup slice (fun g => { g with fasErrs := g.fasErrs + 1 }))))))) ∧
  ((s.dev.group slice).confirming = [] → Idles (.smvFrameConfirm slice) s) ∧
  (∀ f rest, (s.dev.group slice).confirming = f :: rest →
    let a := s.dev.onGroup slice (fun g => { g with confirming := rest })
    let label := a.rxLabel slice
    let ais := decide (f.crcOk = true ∧ (leAt f.bytes 8 1).testBit 7 = true)
    let does := fun x => exec (.smvFrameConfirm slice) s = .next (s.onDev (fun _ => x))
    let takes := fun pt (k : Dev) =>
      if (k.plm slice && !maskedBy (k.group slice) 6) = true ∨ (k.group slice).align ≠ .inFrame then
        k.onGroup slice (fun g => { g with walk := none })
      else extract slice label pt k
    (ais = true → does (breakWalk slice (takeRequest slice f true a))) ∧
    (ais = false → label = 0xFE → a.lc = 3 → does (breakWalk slice a)) ∧
    (ais = false → label = 0xFE → a.lc ≠ 3 →
      does (takes ((f.bytes.drop 64).take 8112) (takeRequest slice f true (bump 0x0C0 slice a)))) ∧
    (ais = false → label ≠ 0xFE →
      (∀ e, openSmv slice f (rest.length + 1) a = (none, e) → does (if label = 0xFD then
        (breakWalk slice e).onGroup slice (fun g => { g with prbsRx := prbsSkip g.prbsRx }) else breakWalk slice e)) ∧
      (∀ pt e, openSmv slice f (rest.length + 1) a = (some pt, e) →
        let k := takeRequest slice f false e
        let x := prbsCheck (k.group slice).prbsRx pt
        (label ≠ 0xFD → does (takes pt k)) ∧
        (label = 0xFD → does (bumpBy 0x06C slice x.1 (k.onGroup slice (fun g => { g with prbsRx := x.2 })))))))

/-- A frame under a keyed label: with no epoch loaded it is counted as unkeyed; under an epoch that its register does not hold, a slot
that is no longer marked, a counter that cannot be recovered or a tag that does not verify it fails; one whose counter is not above
the last confirmed is a replay; any other is confirmed, and its plaintext goes on. The counter recovered is the least one not below
the base whose low half the frame carries (08 R254 to R257). -/
def Claims.SmiviaOpen : Prop := ∀ slice (f : SmvRx) k d,
  let i := leAt f.bytes 8 1 / 32 % 2
  let r := d.rxReg slice i
  let s := (r.slot.map d.slot).getD {}
  ((d.group slice).rx.all (fun r => r.epoch = 0) = true → openSmv slice f k d = (none, bump 0x0C4 slice d)) ∧
  ((d.group slice).rx.all (fun r => r.epoch = 0) = false →
    (r.epoch = 0 ∨ r.epoch ≠ beAt f.bytes 10 2 → openSmv slice f k d = (none, tagFailed slice i 0x0C3 f.crcOk d)) ∧
    (r.epoch ≠ 0 → r.epoch = beAt f.bytes 10 2 →
      (s.mark = false → openSmv slice f k d = (none, tagFailed slice i 0 f.crcOk d)) ∧
      (s.mark = true → s.pairOk = false → openSmv slice f k d = (none, keyMismatch (r.slot.getD 0) (tagFailed slice i 0 f.crcOk d))) ∧
      (s.mark = true → s.pairOk = true →
        let fc := recoverFc (rxBase r k) (beAt f.bytes 12 4)
        (fc = none → openSmv slice f k d = (none, tagFailed slice i 0 f.crcOk d)) ∧
        (∀ c, fc = some c →
          let x := gcmOpen s.keyBytes (beBytes (d.smvChannel slice) 4 ++ beBytes c 8) (f.bytes.take 62)
            ((f.bytes.drop 64).take 8112) (bytesAt f.bytes 8176 16)
          openSmv slice f k d =
            if x.2 = false then (none, tagFailed slice i 0 f.crcOk d)
            else if r.last.any (fun l => decide (c ≤ l)) then (none, tagFailed slice i 0x0C2 f.crcOk d)
            else (some x.1, rxConfirmed slice i c f.crcOk d))))) ∧
  (∀ b low c, low < 2 ^ 32 → (recoverFc b low = some c ↔ c % 2 ^ 32 = low ∧ b ≤ c ∧ c < b + 2 ^ 32 ∧ c < 2 ^ 64))

/-- A Smivia frame is received and confirmed. -/
def Obligations.SmiviaRx : Prop := Claims.SmiviaFrames ∧ Claims.SmiviaOpen

/-- Defects: one is declared once its anomaly has lasted for its time and nothing masks it, its event following at once where its
hold-off is 0 and at the hold-off's expiry else, and everything it masks ends; it clears once the anomaly has been gone for its time. A
defect that is masked, declared, or not due does nothing; what ends before its hold-off is only counted (04 R116 to R118). -/
def Obligations.SmiviaDefects : Prop := ∀ s slice code,
  (defectPlace code = none → Idles (.smvDefectDeclare slice code) s ∧ Idles (.smvDefectHoldoffExpiry slice code) s ∧
    Idles (.smvDefectClear slice code) s) ∧
  (∀ i, defectPlace code = some i →
    let g := s.dev.group slice
    let x := g.defects.getD i {}
    let wait := if i = 0 then 1000 else if i = 1 then 5000 else 0
    let gone := if i = 0 ∨ i = 1 then 5000 else 0
    let at_ := fun ticks (d : Dev) => if ticks = 0 then d else advanceTo (x.since.getD 0 + ticks) d
    let cleared := fun (d : Dev) => if gone = 0 then d else advanceTo (x.gone.getD 0 + gone) d
    (s.dev.groupPort slice = none ∨ x.declared = true ∨ maskedBy g i = true ∨ s.dev.smvAnomaly slice i = false →
      Idles (.smvDefectDeclare slice code) s) ∧
    (s.dev.groupPort slice ≠ none → x.declared = false → maskedBy g i = false → s.dev.smvAnomaly slice i = true →
      let a := at_ wait s.dev
      let e := fun on => holdRuns slice (forEach (maskedOf i) (endDefect slice)
        (onDefect slice i (fun x => { x with declared := true, active := on, at_ := a.now }) a))
      let does := fun y => exec (.smvDefectDeclare slice code) s = .next (s.onDev (fun _ => refreshLinks y))
      ((a.smvObj slice).n (3 + i) = 0 → does (defectEvent slice i false (e true))) ∧
      ((a.smvObj slice).n (3 + i) ≠ 0 → does (e false))) ∧
    (x.declared = false ∨ x.active = true → Idles (.smvDefectHoldoffExpiry slice code) s) ∧
    (x.declared = true → x.active = false → Does (.smvDefectHoldoffExpiry slice code) s (fun d =>
      refreshLinks (defectEvent slice i false (onDefect slice i (fun x => { x with active := true })
        (advanceTo (x.at_ + (d.smvObj slice).n (3 + i) * 500) d))))) ∧
    (x.declared = false ∨ s.dev.smvGone slice i = false → Idles (.smvDefectClear slice code) s) ∧
    (x.declared = true → s.dev.smvGone slice i = true → Does (.smvDefectClear slice code) s (fun d =>
      refreshLinks (endDefect slice i (cleared d))))) ∧
  (∀ i d, i < 7 → i < (d.group slice).defects.length → slice < d.smv.length →
    let x := (d.group slice).defects.getD i {}
    (x.declared = false → endDefect slice i d = d) ∧
    (x.declared = true → (((endDefect slice i d).group slice).defects.getD i {}).declared = false ∧
      (((endDefect slice i d).group slice).defects.getD i {}).active = false))

/-- The rows of a pairing: a peer's whole message takes the state machine's row, HELLO to FINISHED, and a message that no row
takes is discarded; one waits for the step in progress, an ABORT does not; a FINISHED that agrees keys the pairing; a state that has not changed for 2 s fails the exchange; the backoff, 1 s doubling to 64 s, ends in IDLE, and the exchange begins
anew; after its interval a keyed pairing begins a new exchange (08 R268 to R272). -/
def Obligations.PairRows : Prop := ∀ s slice,
  let p := (s.dev.group slice).pair
  let active := p.st = .hello ∨ p.st = .kem ∨ p.st = .auth ∨ p.st = .finish
  let empty := onPair slice (fun p => { p with inSegs := [], inLen := none })
  let does := fun f => Does (.pairMessageAssembled slice) s (fun d => pairCheck slice (f (empty d)))
  (p.message = none ∨ s.dev.halted = true → Does (.pairMessageAssembled slice) s (pairCheck slice)) ∧
  (∀ code m, p.message = some (code, m) → s.dev.halted = false →
    (code = 0xF → active → does (pairFail slice (leAt m 0 1 % 128 + 128) none)) ∧
    (code = 0xF → ¬active → does id) ∧
    (code ≠ 0xF → p.step ≠ none → Does (.pairMessageAssembled slice) s (pairCheck slice))) ∧
  (∀ code m, p.message = some (code, m) → s.dev.halted = false → p.step = none →
    (code = 1 → p.st = .hello → does (fun d =>
      if helloId m = deviceId then pairFail slice 4 (some 4) (onPair slice (fun p => { p with peerHello := m }) d)
      else pairAsk slice 2 .helloIn (fun p => { p with
        peerHello := m, initiator := decide (beNat deviceId < beNat (helloId m)) }) d)) ∧
    (code = 1 → p.st = .keyed → does (pairHello slice false)) ∧
    (code = 2 → p.st = .kem → does (pairAsk slice 3 .kemIn (fun p => { p with peerKem := m }))) ∧
    (code = 3 → p.st = .auth → does (pairAsk slice 4 .authIn (fun p => { p with peerAuth := m }))) ∧
    (code = 4 → p.st = .finish → does (fun d => pairHash slice (onPair slice (fun p => { p with step := some (.finIn m) }) d))) ∧
    (code ≠ 0xF → (code = 1 → p.st ≠ .hello ∧ p.st ≠ .keyed) → (code = 2 → p.st ≠ .kem) → (code = 3 → p.st ≠ .auth) →
      (code = 4 → p.st ≠ .finish) → does id)) ∧
  (∀ m, p.step = some (.finIn m) →
    let e := onPair slice (fun p => { p with step := none }) s.dev
    (m = pairFinished p (e.smvChannel slice) (!p.initiator) → pairStepDone slice s.dev = pairKeyed slice e) ∧
    (m ≠ pairFinished p (e.smvChannel slice) (!p.initiator) → pairStepDone slice s.dev = pairFail slice 5 (some 5) e)) ∧
  (¬active → Idles (.pairTimeout slice) s) ∧
  (active → Does (.pairTimeout slice) s (fun d => pairFail slice 6 none (advanceTo (p.since + 1000000000) d))) ∧
  (p.st ≠ .backoff → Idles (.pairBackoffExpiry slice) s) ∧
  (p.st = .backoff → Does (.pairBackoffExpiry slice) s (fun d => pairCheck slice (onPair slice (fun x => { x with
    st := .idle, since := (advanceTo (p.since + min 64 (2 ^ (p.fails - 1)) * 500000000) d).now })
      (advanceTo (p.since + min 64 (2 ^ (p.fails - 1)) * 500000000) d)))) ∧
  (p.st ≠ .keyed ∨ (s.dev.smvObj slice).n 18 = 0 ∨ s.dev.halted = true ∨ (s.dev.group slice).align ≠ .inFrame → Idles (.rekeyIntervalExpiry slice) s) ∧
  (p.st = .keyed → (s.dev.smvObj slice).n 18 ≠ 0 → s.dev.halted = false → (s.dev.group slice).align = .inFrame → Does (.rekeyIntervalExpiry slice) s (fun d =>
    pairHello slice true (advanceTo (p.lastSwitch + (d.smvObj slice).n 18 * 500000000) d)))

/-! ### Frames (14 R435, R438) -/

/-- A host command changes what its effect changes and, beyond that, only the host interface, the counters, the log of outputs, the
completions that a resynchronisation holds and the free counter; the queue of the block is untouched. A command without an effect of its
own, any that reads, leaves every other part of the device as it was. The command moves no key with its completion, and no command waits
behind it (14 R435, R438). -/
def Obligations.CommandFrame : Prop := ∀ a i s c r f t ps,
  exec (bringer a i c) s = .next t → (f (s.dev.had a c)).noneWaits c.dom → OnlyParts ps (s.dev.had a c) (f (s.dev.had a c)) →
  (Completes a i s c r f → r.install = none →
    OnlyParts ([.host, .cnt, .wire, .course, .freeCtr] ++ ps) s.dev t.dev ∧
    t.dev.course = { (f (s.dev.had a c)).course with heldFin := t.dev.course.heldFin } ∧ t.pending = s.pending) ∧
  (Starts a i s c f → OnlyParts ([.host, .cnt] ++ ps) s.dev t.dev ∧ t.pending = s.pending)

/-- What the effects of the host's commands change: staging and commits the configuration work of their own domain, and no bank; table
writes and table flushes their queues; keys the key state, and freshness the free counter; epochs the group; time bases the time;
selections and dumps the counters; firmware the slots. Nothing else of the device changes (02 R47 to R55, 08 R260, 09 R294, 11 R337, 17 R506, 18
R521). -/
def Obligations.EffectFrames : Prop := ∀ d dom n,
  (∀ f, OnlyParts [.cfg] d (setStaging dom f d) ∧ (setStaging dom f d).cfg.banks = d.cfg.banks ∧
    ∀ k, k ≠ dom → (setStaging dom f d).domCfg k = d.domCfg k) ∧
  (OnlyParts [.cfg] d (disarm dom d) ∧ (disarm dom d).cfg.banks = d.cfg.banks ∧ ∀ k, k ≠ dom → (disarm dom d).domCfg k = d.domCfg k) ∧
  (∀ w, OnlyParts [.fret] d (queueWrite w d)) ∧ (∀ l, OnlyParts [.power] d (askLeave l d)) ∧ OnlyParts [.freeCtr] d (draw n d).2 ∧
  (∀ x y z u v key, OnlyParts [.mram, .keys] d (sealBlob x y z u v key d).2) ∧
  (∀ s, OnlyParts [.keys, .msec] d (installPinned n s d)) ∧ (∀ big, OnlyParts [.keys, .msec] d (retireSlot big n d) ∧
    ∀ k, k ≠ n → (retireSlot big n d).slot k = d.slot k) ∧
  (∀ t, OnlyParts [.keys] d (addTeardown t d)) ∧ OnlyParts [.host, .freeCtr] d (newSession d) ∧
  (∀ key, OnlyParts [.vault] d (setMgmtKey n key d)) ∧
  (∀ i r, OnlyParts [.smv] d (setRx n i r d) ∧ ∀ k, k ≠ n → (setRx n i r d).group k = d.group k) ∧
  OnlyParts [.smv] d (disarmSwitch n d) ∧ (∀ k, k ≠ n → (disarmSwitch n d).group k = d.group k) ∧
  (∀ c st off inc force iova, OnlyParts [.time] d (schedule n c st off inc force iova d)) ∧ OnlyParts [.cnt] d (clearCounter n d) ∧
  OnlyParts [.lanes] d (clearLane n d) ∧ (∀ f, OnlyParts [.cnt] d (onDump dom f d)) ∧ (∀ f, OnlyParts [.fw] d (onFwSlot n f d)) ∧
  (∀ o, OnlyParts [.lk] d (pkAsk o d)) ∧ (∀ target order revert, OnlyParts [.cfg, .fw] d (setActivation n target order revert dom d)) ∧
  OnlyParts [.cfg, .fw] d (dropActivation d)

/-- The frame of the rows of rings, registers, interrupts, PCIe, the management ports, the lanes, the time bases and commits. -/
def Claims.HostRowFrames : Prop := ∀ x ps, hostRowParts x = some ps → KeepsTo ps x

/-- The frame of the rows of frames, egress, key misses, the MAC table, Smivia and pairing. -/
def Claims.FrameRowFrames : Prop := ∀ x ps, frameRowParts x = some ps → KeepsTo ps x

/-- The frame of the rows of the course, firmware, tamper and life cycle. -/
def Claims.SystemRowFrames : Prop := ∀ x ps, sysRowParts x = some ps → KeepsTo ps x

/-- What the rows of the table leave as it was. -/
def Obligations.RowFrames : Prop := Claims.HostRowFrames ∧ Claims.FrameRowFrames ∧ Claims.SystemRowFrames

/-! ### Descriptors (14 R429, R434; 10 R318, R319) -/

/-- Every well-formed command of a host is decoded from its own descriptor, with every operand as it was, the tag, the checksum
of its 64 bytes, and what host memory holds at its buffers; the descriptor has 64 bytes (14 R429, R436, R442 to R446, 10 R318). -/
def Obligations.DescriptorRoundTrip : Prop := ∀ i h desc, i.wf = true → i.hdr = some h → encodeDesc i = some desc →
  desc.length = 64 ∧
  (h.bad = false → h.crc = crc32c desc →
    decodeDesc h.dom h.ring desc (carried i).1 (carried i).2.1 (carried i).2.2 = some i)

/-- Every well-formed command of a host has a descriptor, and every other row of the table none; a descriptor is decoded into a command that
it spells, so that a byte or a bit that the command does not name is zero in it (14 R429, 01 R11). -/
def Claims.DescriptorsSpell : Prop :=
  (∀ i, (encodeDesc i).isSome = i.hdr.isSome) ∧
  (∀ dom ring desc x y z i, decodeDesc dom ring desc x y z = some i → encodeDesc i = some desc ∧
    i.hdr = some { dom := dom, ring := ring, tag := BitVec.ofNat 32 (leAt desc 4 4), crc := crc32c desc, bad := false })

/-- Descriptors written out from 14 and 10, one of each family of commands, and what they are decoded into. -/
def Claims.WrittenDescriptors : Prop :=
  let h := fun ring desc => ({ dom := 3, ring := ring, tag := 0x01020304, crc := crc32c desc, bad := false } : Hdr)
  let spells := fun ring (w : Bytes) (f : Hdr → Instr) =>
    let desc := w ++ List.replicate (64 - w.length) 0
    decodeDesc 3 ring desc [] [] [] = some (f (h ring desc))
  spells 0 [0x01, 0x02, 0, 0, 4, 3, 2, 1] .check ∧
  spells 0 [0x02, 0x02, 0, 0, 4, 3, 2, 1, 0x88, 0x77, 0x66, 0x55, 0x44, 0x33, 0x22, 0x11, 1]
    (fun h => .armCommit h 0x1122334455667788 true) ∧
  spells 0 [0x01, 0x03, 0, 0, 4, 3, 2, 1, 7, 1, 2, 0, 0xA0, 0xB1, 0xC2, 0xD3, 0xE4, 0xF5, 9, 0, 16, 1]
    (fun h => .tblInsert h 263 2 0xA0B1C2D3E4F5 9 16 true) ∧
  spells 0 [0x06, 0x04, 0, 0, 4, 3, 2, 1, 0, 0, 0, 0, 0, 0, 0x34, 0x12] (fun h => .keyUnpin h 0x1234) ∧
  spells 0 [0x05, 0x05, 0, 0, 4, 3, 2, 1, 0x10, 0, 0, 0x80, 0, 0, 0, 0, 0, 0x10, 0, 0, 0, 0x20]
    (fun h => .saRead h 0x80000010 0x200000001000) ∧
  spells 0 [0x01, 0x06, 0, 0, 4, 3, 2, 1, 5, 0, 0, 0, 2, 0, 0, 0, 0, 0, 0, 0x80] (fun h => .tbInc h 5 2 0x80000000) ∧
  spells 0 [0x03, 0x07, 0, 0, 4, 3, 2, 1, 65, 0, 0x31, 0, 7] (fun h => .cntSelect h 65 0x31 7) ∧
  spells 0 [0x04, 0x08, 0, 0, 4, 3, 2, 1, 1, 0, 0, 0, 0, 0, 0, 0, 0, 1] (fun h => .fwSchedule h 1 256) ∧
  spells 0 [0x10, 0x09, 0, 0, 4, 3, 2, 1, 2, 1, 0xFF, 0xFF, 0x50, 0] (fun h => .tamperConfig h 2 1 (-1) 80) ∧
  spells 0 [0x02, 0x0A, 0, 0, 4, 3, 2, 1, 1, 0, 0, 0, 0xFF] (fun h => .abort h 1 0 0xFF) ∧
  spells 4 [0x05, 0x0B, 4, 0, 4, 3, 2, 1, 0x21, 0x43, 0x65, 16, 32, 0, 0, 0, 0, 0x10] (fun h => .lkCmac h {
    dir := false, cont := false, more := true, fence := false, handle := 0x654321, paramA := 16, length := 32,
    src := 0x1000, dst := 0, aux := 0, auxLen := 0, stateIova := 0, paramB := 0, iv := List.replicate 16 0,
    srcData := [], auxData := [], stateData := [] }) ∧
  (∀ x y z, decodeDesc 3 0 ([0x01, 0x02, 1] ++ List.replicate 61 0) x y z = none) ∧
  (∀ x y z, decodeDesc 3 0 ([0x26, 0x01] ++ List.replicate 62 0) x y z = none)

/-- Descriptors written out from the spec, and what no descriptor spells. -/
def Obligations.DescriptorWords : Prop := Claims.DescriptorsSpell ∧ Claims.WrittenDescriptors

/-! ### Values of counters, and the scrambler (18 R522, 04 R98) -/

/-- Every counter is 48 bits wide and saturates at 2^48 − 1, except the top-down counters, which wrap modulo 2^48; a count leaves every
other counter as it was (18 R522). -/
def Obligations.CounterWidths : Prop := ∀ code inst n d, code < 4096 → inst < 2 ^ 20 →
  let id := cntId code inst
  (¬(0x150 ≤ code ∧ code ≤ 0x159) → (bumpBy code inst n d).cntValue id = min (d.cntValue id + n) (2 ^ 48 - 1)) ∧
  (0x150 ≤ code → code ≤ 0x159 → d.cntValue id < 2 ^ 48 → (bumpWrap code inst n d).cntValue id = (d.cntValue id + n) % 2 ^ 48) ∧
  (∀ k, k ≠ id → (bumpBy code inst n d).cntValue k = d.cntValue k ∧ (bumpWrap code inst n d).cntValue k = d.cntValue k) ∧
  OnlyParts [.cnt] d (bumpBy code inst n d) ∧ OnlyParts [.cnt] d (bumpWrap code inst n d)

/-- The scrambler of 04 R98: bytes 0 to 5 stay in clear; from byte 6 on, bit 0 of each byte first, every bit is XORed with the output of a
register of 23 bits that begins at all ones in every frame and feeds back its bits 22 and 17; the first six bytes are those that R98
lists. The same sequence descrambles: a frame sent scrambled is read as it was. -/
def Obligations.Scrambling : Prop := ∀ f : Bytes,
  (scramble f).length = f.length ∧ (scramble f).take 6 = f.take 6 ∧
  (∀ s : Nat → Nat, s 0 = 0x7FFFFF →
    (∀ k, s (k + 1) = (s k * 2 + (if (s k).testBit 22 = (s k).testBit 17 then 0 else 1)) % 2 ^ 23) →
    ∀ j k, 6 ≤ j → j < f.length → k < 8 →
      ((scramble f).getD j 0).getLsbD k = ((f.getD j 0).getLsbD k != (s ((j - 6) * 8 + k)).testBit 22)) ∧
  scramble (zeros 12) = zeros 6 ++ [0xFF, 0xFF, 0x7F, 0x00, 0x00, 0x3E] ∧
  (f.length = 8192 → scramble (padTo 8192 (scramble f)) = f)
end

