-- ==== Sys2Proof/Laws/Bits.lean ====
section
/-! SUPPORT. Lengths and values of runs of bytes, sparse tables, and fixed-length lists. -/

namespace Sys2Proof.Machine

/-! ### Runs of bytes -/

@[simp] theorem leBytes_length (n k : Nat) : (leBytes n k).length = k := by
  induction k generalizing n with
  | zero => rfl
  | succ k ih => simp [leBytes, ih]

@[simp] theorem beBytes_length (n k : Nat) : (beBytes n k).length = k := by simp [beBytes]

@[simp] theorem bytesAt_length (b : Bytes) (off len : Nat) : (bytesAt b off len).length = len := by
  simp [bytesAt]

@[simp] theorem padTo_length (n : Nat) (b : Bytes) : (padTo n b).length = n := by simp [padTo]

@[simp] theorem zeros_length (n : Nat) : (zeros n).length = n := by simp [zeros]

theorem xorBytes_le_left (a b : Bytes) : (xorBytes a b).length ≤ a.length := by simp [xorBytes]

theorem xorBytes_le_right (a b : Bytes) : (xorBytes a b).length ≤ b.length := by simp [xorBytes]

/-- A field of `k` bytes gives back the number that was written, up to its width. -/
theorem leNat_leBytes (n k : Nat) : leNat (leBytes n k) = n % 256 ^ k := by
  induction k generalizing n with
  | zero => simp [leBytes, leNat, Nat.mod_one]
  | succ k ih =>
    have e : (BitVec.ofNat 8 n).toNat = n % 256 := by simp
    simp only [leBytes, leNat, ih, e]
    rw [Nat.pow_succ, Nat.mul_comm (256 ^ k) 256, Nat.mod_mul]

/-- Bytes are the field of the number they hold. -/
theorem leBytes_leNat (b : Bytes) : leBytes (leNat b) b.length = b := by
  induction b with
  | nil => rfl
  | cons x b ih =>
    have h : x.toNat < 256 := x.isLt
    have e1 : BitVec.ofNat 8 (x.toNat + 256 * leNat b) = x := by
      apply BitVec.eq_of_toNat_eq; simp; omega
    have e2 : (x.toNat + 256 * leNat b) / 256 = leNat b := by omega
    simp [leNat, leBytes, e1, e2, ih]

/-- A run of `n` equal pieces. -/
theorem flatMap_length_const {α β : Type} (l : List α) (f : α → List β) (n : Nat) (h : ∀ a ∈ l, (f a).length = n) :
    (l.flatMap f).length = l.length * n := by
  induction l with
  | nil => simp
  | cons a l ih =>
    have h1 := h a (by simp)
    have h2 := ih fun b hb => h b (by simp [hb])
    simp [h1, h2, Nat.add_mul, Nat.add_comm]

theorem flatten_map_length_const {α β : Type} (l : List α) (f : α → List β) (n : Nat) (h : ∀ a ∈ l, (f a).length = n) :
    ((l.map f).flatten).length = l.length * n := by
  rw [← List.flatMap_def]; exact flatMap_length_const l f n h

/-! ### Sparse tables -/

theorem Tbl.get_put {α : Type} (d : α) (k k' : Nat) (v : α) (t : Tbl α) :
    Tbl.get d k (Tbl.put k' v t) = if k' = k then v else Tbl.get d k t := by
  induction t with
  | nil => simp [Tbl.put, Tbl.get]
  | cons e t ih =>
    obtain ⟨j, w⟩ := e
    unfold Tbl.put
    split
    · simp [Tbl.get]
    · split
      · subst_vars; simp only [Tbl.get]; split <;> rfl
      · simp only [Tbl.get]
        split
        · rename_i h; subst h; rename_i h1 h2; simp [h2]
        · exact ih

theorem Tbl.find_put {α : Type} (k k' : Nat) (v : α) (t : Tbl α) :
    Tbl.find k (Tbl.put k' v t) = if k' = k then some v else Tbl.find k t := by
  induction t with
  | nil => simp [Tbl.put, Tbl.find]
  | cons e t ih =>
    obtain ⟨j, w⟩ := e
    unfold Tbl.put
    split
    · simp [Tbl.find]
    · split
      · subst_vars; simp only [Tbl.find]; split <;> rfl
      · simp only [Tbl.find]
        split
        · rename_i h; subst h; rename_i h1 h2; simp [h2]
        · exact ih

theorem Tbl.get_drop {α : Type} (d : α) (k k' : Nat) (t : Tbl α) :
    Tbl.get d k (Tbl.drop k' t) = if k' = k then d else Tbl.get d k t := by
  induction t with
  | nil => simp [Tbl.drop, Tbl.get]
  | cons e t ih =>
    obtain ⟨j, w⟩ := e
    unfold Tbl.drop
    split
    · rename_i h; subst h; rw [ih]; simp only [Tbl.get]; split <;> simp_all
    · simp only [Tbl.get]
      split
      · rename_i h1 h2; subst h2; simp [Ne.symm h1]
      · exact ih

theorem Tbl.find_drop {α : Type} (k k' : Nat) (t : Tbl α) :
    Tbl.find k (Tbl.drop k' t) = if k' = k then none else Tbl.find k t := by
  induction t with
  | nil => simp [Tbl.drop, Tbl.find]
  | cons e t ih =>
    obtain ⟨j, w⟩ := e
    unfold Tbl.drop
    split
    · rename_i h; subst h; rw [ih]; simp only [Tbl.find]; split <;> simp_all
    · simp only [Tbl.find]
      split
      · rename_i h1 h2; subst h2; simp [Ne.symm h1]
      · exact ih

/-- What is set is read; every other entry stays. -/
theorem Tbl.get_set {α : Type} [DecidableEq α] (d : α) (k k' : Nat) (v : α) (t : Tbl α) :
    Tbl.get d k (Tbl.set d k' v t) = if k' = k then v else Tbl.get d k t := by
  unfold Tbl.set
  split
  · rename_i h; rw [Tbl.get_drop]; subst h; rfl
  · rw [Tbl.get_put]

/-- The keys of a table lie above a bound. -/
def Tbl.above {α : Type} (n : Nat) (t : Tbl α) : Prop := ∀ e ∈ t, n < e.1

theorem Tbl.rising_cons {α : Type} (k : Nat) (v : α) (t : Tbl α) :
    Tbl.rising ((k, v) :: t) = true ↔ Tbl.above k t ∧ Tbl.rising t = true := by
  induction t generalizing k v with
  | nil => simp [Tbl.rising, Tbl.above]
  | cons e t ih =>
    obtain ⟨j, w⟩ := e
    simp only [Tbl.rising, Bool.and_eq_true, decide_eq_true_eq]
    rw [ih]
    constructor
    · rintro ⟨h1, h2, h3⟩
      refine ⟨?_, h2, h3⟩
      intro x hx
      rcases List.mem_cons.1 hx with rfl | hx
      · exact h1
      · exact Nat.lt_trans h1 (h2 x hx)
    · rintro ⟨h1, h2, h3⟩
      exact ⟨h1 (j, w) (by simp), h2, h3⟩

theorem Tbl.above_put {α : Type} (n k : Nat) (v : α) (t : Tbl α) (h : Tbl.above n t) (hk : n < k) :
    Tbl.above n (Tbl.put k v t) := by
  induction t with
  | nil => intro e he; simp [Tbl.put] at he; subst he; exact hk
  | cons e t ih =>
    obtain ⟨j, w⟩ := e
    have hj : n < j := h (j, w) (by simp)
    have ht : Tbl.above n t := fun x hx => h x (by simp [hx])
    intro x hx
    unfold Tbl.put at hx
    split at hx
    · rcases List.mem_cons.1 hx with rfl | hx
      · exact hk
      · exact h x hx
    · split at hx
      · rcases List.mem_cons.1 hx with rfl | hx
        · exact hk
        · exact ht x hx
      · rcases List.mem_cons.1 hx with rfl | hx
        · exact hj
        · exact ih ht x hx

/-- An entry put keeps the keys rising. -/
theorem Tbl.rising_put {α : Type} (k : Nat) (v : α) (t : Tbl α) (h : Tbl.rising t = true) :
    Tbl.rising (Tbl.put k v t) = true := by
  induction t with
  | nil => rfl
  | cons e t ih =>
    obtain ⟨j, w⟩ := e
    have h' := (Tbl.rising_cons j w t).1 h
    unfold Tbl.put
    split
    · rename_i hk
      rw [Tbl.rising_cons]
      refine ⟨?_, h⟩
      intro x hx
      rcases List.mem_cons.1 hx with rfl | hx
      · exact hk
      · exact Nat.lt_trans hk (h'.1 x hx)
    · split
      · rename_i hk; subst hk; rw [Tbl.rising_cons]; exact h'
      · rw [Tbl.rising_cons]
        exact ⟨Tbl.above_put j k v t h'.1 (by omega), ih h'.2⟩

theorem Tbl.mem_drop {α : Type} (k : Nat) (t : Tbl α) (x : Nat × α) (h : x ∈ Tbl.drop k t) : x ∈ t := by
  induction t with
  | nil => simp [Tbl.drop] at h
  | cons e t ih =>
    obtain ⟨j, w⟩ := e
    unfold Tbl.drop at h
    split at h
    · simp [ih h]
    · rcases List.mem_cons.1 h with rfl | h
      · simp
      · simp [ih h]

/-- An entry dropped keeps the keys rising. -/
theorem Tbl.rising_drop {α : Type} (k : Nat) (t : Tbl α) (h : Tbl.rising t = true) : Tbl.rising (Tbl.drop k t) = true := by
  induction t with
  | nil => rfl
  | cons e t ih =>
    obtain ⟨j, w⟩ := e
    have h' := (Tbl.rising_cons j w t).1 h
    unfold Tbl.drop
    split
    · exact ih h'.2
    · rw [Tbl.rising_cons]
      exact ⟨fun x hx => h'.1 x (Tbl.mem_drop k t x hx), ih h'.2⟩

theorem Tbl.mem_put {α : Type} (k : Nat) (v : α) (t : Tbl α) (x : Nat × α) (h : x ∈ Tbl.put k v t) : x = (k, v) ∨ x ∈ t := by
  induction t with
  | nil => simp [Tbl.put] at h; simp [h]
  | cons e t ih =>
    obtain ⟨j, w⟩ := e
    unfold Tbl.put at h
    split at h
    · rcases List.mem_cons.1 h with rfl | h
      · simp
      · exact .inr h
    · split at h
      · rcases List.mem_cons.1 h with rfl | h
        · simp
        · simp [h]
      · rcases List.mem_cons.1 h with rfl | h
        · simp
        · rcases ih h with h | h
          · simp [h]
          · simp [h]

/-- Setting an entry keeps the canonical form. -/
theorem Tbl.wf_set {α : Type} [DecidableEq α] (d : α) (k : Nat) (v : α) (t : Tbl α) (h : Tbl.wf d t = true) :
    Tbl.wf d (Tbl.set d k v t) = true := by
  simp only [Tbl.wf, Bool.and_eq_true, List.all_eq_true, decide_eq_true_eq] at *
  unfold Tbl.set
  split
  · exact ⟨Tbl.rising_drop k t h.1, fun x hx => h.2 x (Tbl.mem_drop k t x hx)⟩
  · rename_i hv
    refine ⟨Tbl.rising_put k v t h.1, fun x hx => ?_⟩
    rcases Tbl.mem_put k v t x hx with rfl | hx
    · exact hv
    · exact h.2 x hx

/-! ### Fixed-length lists -/

@[simp] theorem modAt_length {α : Type} (l : List α) (i : Nat) (f : α → α) : (modAt l i f).length = l.length := by
  simp [modAt]

/-- The element replaced, and every other. -/
theorem getD_modAt {α : Type} (l : List α) (i j : Nat) (f : α → α) (d : α) :
    (modAt l i f).getD j d = if i = j ∧ j < l.length then f (l.getD j d) else l.getD j d := by
  simp only [modAt, List.getD_eq_getElem?_getD, List.getElem?_modify]
  by_cases h : j < l.length
  · by_cases e : i = j
    · subst e; simp [h]
    · simp [e]
  · simp [h]

theorem modAt_modAt {α : Type} (l : List α) (i : Nat) (f g : α → α) : modAt (modAt l i f) i g = modAt l i (fun x => g (f x)) := by
  simp only [modAt]
  apply List.ext_getElem? ; intro j
  simp only [List.getElem?_modify]
  by_cases e : i = j
  · subst e; simp [Option.map_map, Function.comp_def]
  · simp [e]

end Sys2Proof.Machine
end

