-- ==== Sys2Proof/Laws/State.lean ====
section
/-! SUPPORT. What each update of a part of the device leaves and changes: one lemma per field and update. -/

namespace Sys2Proof.Machine

@[simp] theorem Dev.onHost_host (d : Dev) (f : HostSt → HostSt) : (d.onHost f).host = f d.host := rfl
@[simp] theorem Dev.onHost_cfg (d : Dev) (f : HostSt → HostSt) : (d.onHost f).cfg = d.cfg := rfl
@[simp] theorem Dev.onHost_fret (d : Dev) (f : HostSt → HostSt) : (d.onHost f).fret = d.fret := rfl
@[simp] theorem Dev.onHost_time (d : Dev) (f : HostSt → HostSt) : (d.onHost f).time = d.time := rfl
@[simp] theorem Dev.onHost_cnt (d : Dev) (f : HostSt → HostSt) : (d.onHost f).cnt = d.cnt := rfl
@[simp] theorem Dev.onHost_course (d : Dev) (f : HostSt → HostSt) : (d.onHost f).course = d.course := rfl
@[simp] theorem Dev.onHost_tamper (d : Dev) (f : HostSt → HostSt) : (d.onHost f).tamper = d.tamper := rfl
@[simp] theorem Dev.onHost_mram (d : Dev) (f : HostSt → HostSt) : (d.onHost f).mram = d.mram := rfl
@[simp] theorem Dev.onHost_vault (d : Dev) (f : HostSt → HostSt) : (d.onHost f).vault = d.vault := rfl
@[simp] theorem Dev.onHost_keys (d : Dev) (f : HostSt → HostSt) : (d.onHost f).keys = d.keys := rfl
@[simp] theorem Dev.onHost_fw (d : Dev) (f : HostSt → HostSt) : (d.onHost f).fw = d.fw := rfl
@[simp] theorem Dev.onHost_power (d : Dev) (f : HostSt → HostSt) : (d.onHost f).power = d.power := rfl
@[simp] theorem Dev.onHost_msec (d : Dev) (f : HostSt → HostSt) : (d.onHost f).msec = d.msec := rfl
@[simp] theorem Dev.onHost_fr (d : Dev) (f : HostSt → HostSt) : (d.onHost f).fr = d.fr := rfl
@[simp] theorem Dev.onHost_eg (d : Dev) (f : HostSt → HostSt) : (d.onHost f).eg = d.eg := rfl
@[simp] theorem Dev.onHost_lk (d : Dev) (f : HostSt → HostSt) : (d.onHost f).lk = d.lk := rfl
@[simp] theorem Dev.onHost_smv (d : Dev) (f : HostSt → HostSt) : (d.onHost f).smv = d.smv := rfl
@[simp] theorem Dev.onHost_mac (d : Dev) (f : HostSt → HostSt) : (d.onHost f).mac = d.mac := rfl
@[simp] theorem Dev.onHost_lanes (d : Dev) (f : HostSt → HostSt) : (d.onHost f).lanes = d.lanes := rfl
@[simp] theorem Dev.onHost_freeCtr (d : Dev) (f : HostSt → HostSt) : (d.onHost f).freeCtr = d.freeCtr := rfl
@[simp] theorem Dev.onHost_wire (d : Dev) (f : HostSt → HostSt) : (d.onHost f).wire = d.wire := rfl
@[simp] theorem Dev.onCfg_host (d : Dev) (f : CfgSt → CfgSt) : (d.onCfg f).host = d.host := rfl
@[simp] theorem Dev.onCfg_cfg (d : Dev) (f : CfgSt → CfgSt) : (d.onCfg f).cfg = f d.cfg := rfl
@[simp] theorem Dev.onCfg_fret (d : Dev) (f : CfgSt → CfgSt) : (d.onCfg f).fret = d.fret := rfl
@[simp] theorem Dev.onCfg_time (d : Dev) (f : CfgSt → CfgSt) : (d.onCfg f).time = d.time := rfl
@[simp] theorem Dev.onCfg_cnt (d : Dev) (f : CfgSt → CfgSt) : (d.onCfg f).cnt = d.cnt := rfl
@[simp] theorem Dev.onCfg_course (d : Dev) (f : CfgSt → CfgSt) : (d.onCfg f).course = d.course := rfl
@[simp] theorem Dev.onCfg_tamper (d : Dev) (f : CfgSt → CfgSt) : (d.onCfg f).tamper = d.tamper := rfl
@[simp] theorem Dev.onCfg_mram (d : Dev) (f : CfgSt → CfgSt) : (d.onCfg f).mram = d.mram := rfl
@[simp] theorem Dev.onCfg_vault (d : Dev) (f : CfgSt → CfgSt) : (d.onCfg f).vault = d.vault := rfl
@[simp] theorem Dev.onCfg_keys (d : Dev) (f : CfgSt → CfgSt) : (d.onCfg f).keys = d.keys := rfl
@[simp] theorem Dev.onCfg_fw (d : Dev) (f : CfgSt → CfgSt) : (d.onCfg f).fw = d.fw := rfl
@[simp] theorem Dev.onCfg_power (d : Dev) (f : CfgSt → CfgSt) : (d.onCfg f).power = d.power := rfl
@[simp] theorem Dev.onCfg_msec (d : Dev) (f : CfgSt → CfgSt) : (d.onCfg f).msec = d.msec := rfl
@[simp] theorem Dev.onCfg_fr (d : Dev) (f : CfgSt → CfgSt) : (d.onCfg f).fr = d.fr := rfl
@[simp] theorem Dev.onCfg_eg (d : Dev) (f : CfgSt → CfgSt) : (d.onCfg f).eg = d.eg := rfl
@[simp] theorem Dev.onCfg_lk (d : Dev) (f : CfgSt → CfgSt) : (d.onCfg f).lk = d.lk := rfl
@[simp] theorem Dev.onCfg_smv (d : Dev) (f : CfgSt → CfgSt) : (d.onCfg f).smv = d.smv := rfl
@[simp] theorem Dev.onCfg_mac (d : Dev) (f : CfgSt → CfgSt) : (d.onCfg f).mac = d.mac := rfl
@[simp] theorem Dev.onCfg_lanes (d : Dev) (f : CfgSt → CfgSt) : (d.onCfg f).lanes = d.lanes := rfl
@[simp] theorem Dev.onCfg_freeCtr (d : Dev) (f : CfgSt → CfgSt) : (d.onCfg f).freeCtr = d.freeCtr := rfl
@[simp] theorem Dev.onCfg_wire (d : Dev) (f : CfgSt → CfgSt) : (d.onCfg f).wire = d.wire := rfl
@[simp] theorem Dev.onFret_host (d : Dev) (f : FretSt → FretSt) : (d.onFret f).host = d.host := rfl
@[simp] theorem Dev.onFret_cfg (d : Dev) (f : FretSt → FretSt) : (d.onFret f).cfg = d.cfg := rfl
@[simp] theorem Dev.onFret_fret (d : Dev) (f : FretSt → FretSt) : (d.onFret f).fret = f d.fret := rfl
@[simp] theorem Dev.onFret_time (d : Dev) (f : FretSt → FretSt) : (d.onFret f).time = d.time := rfl
@[simp] theorem Dev.onFret_cnt (d : Dev) (f : FretSt → FretSt) : (d.onFret f).cnt = d.cnt := rfl
@[simp] theorem Dev.onFret_course (d : Dev) (f : FretSt → FretSt) : (d.onFret f).course = d.course := rfl
@[simp] theorem Dev.onFret_tamper (d : Dev) (f : FretSt → FretSt) : (d.onFret f).tamper = d.tamper := rfl
@[simp] theorem Dev.onFret_mram (d : Dev) (f : FretSt → FretSt) : (d.onFret f).mram = d.mram := rfl
@[simp] theorem Dev.onFret_vault (d : Dev) (f : FretSt → FretSt) : (d.onFret f).vault = d.vault := rfl
@[simp] theorem Dev.onFret_keys (d : Dev) (f : FretSt → FretSt) : (d.onFret f).keys = d.keys := rfl
@[simp] theorem Dev.onFret_fw (d : Dev) (f : FretSt → FretSt) : (d.onFret f).fw = d.fw := rfl
@[simp] theorem Dev.onFret_power (d : Dev) (f : FretSt → FretSt) : (d.onFret f).power = d.power := rfl
@[simp] theorem Dev.onFret_msec (d : Dev) (f : FretSt → FretSt) : (d.onFret f).msec = d.msec := rfl
@[simp] theorem Dev.onFret_fr (d : Dev) (f : FretSt → FretSt) : (d.onFret f).fr = d.fr := rfl
@[simp] theorem Dev.onFret_eg (d : Dev) (f : FretSt → FretSt) : (d.onFret f).eg = d.eg := rfl
@[simp] theorem Dev.onFret_lk (d : Dev) (f : FretSt → FretSt) : (d.onFret f).lk = d.lk := rfl
@[simp] theorem Dev.onFret_smv (d : Dev) (f : FretSt → FretSt) : (d.onFret f).smv = d.smv := rfl
@[simp] theorem Dev.onFret_mac (d : Dev) (f : FretSt → FretSt) : (d.onFret f).mac = d.mac := rfl
@[simp] theorem Dev.onFret_lanes (d : Dev) (f : FretSt → FretSt) : (d.onFret f).lanes = d.lanes := rfl
@[simp] theorem Dev.onFret_freeCtr (d : Dev) (f : FretSt → FretSt) : (d.onFret f).freeCtr = d.freeCtr := rfl
@[simp] theorem Dev.onFret_wire (d : Dev) (f : FretSt → FretSt) : (d.onFret f).wire = d.wire := rfl
@[simp] theorem Dev.onTime_host (d : Dev) (f : TimeSt → TimeSt) : (d.onTime f).host = d.host := rfl
@[simp] theorem Dev.onTime_cfg (d : Dev) (f : TimeSt → TimeSt) : (d.onTime f).cfg = d.cfg := rfl
@[simp] theorem Dev.onTime_fret (d : Dev) (f : TimeSt → TimeSt) : (d.onTime f).fret = d.fret := rfl
@[simp] theorem Dev.onTime_time (d : Dev) (f : TimeSt → TimeSt) : (d.onTime f).time = f d.time := rfl
@[simp] theorem Dev.onTime_cnt (d : Dev) (f : TimeSt → TimeSt) : (d.onTime f).cnt = d.cnt := rfl
@[simp] theorem Dev.onTime_course (d : Dev) (f : TimeSt → TimeSt) : (d.onTime f).course = d.course := rfl
@[simp] theorem Dev.onTime_tamper (d : Dev) (f : TimeSt → TimeSt) : (d.onTime f).tamper = d.tamper := rfl
@[simp] theorem Dev.onTime_mram (d : Dev) (f : TimeSt → TimeSt) : (d.onTime f).mram = d.mram := rfl
@[simp] theorem Dev.onTime_vault (d : Dev) (f : TimeSt → TimeSt) : (d.onTime f).vault = d.vault := rfl
@[simp] theorem Dev.onTime_keys (d : Dev) (f : TimeSt → TimeSt) : (d.onTime f).keys = d.keys := rfl
@[simp] theorem Dev.onTime_fw (d : Dev) (f : TimeSt → TimeSt) : (d.onTime f).fw = d.fw := rfl
@[simp] theorem Dev.onTime_power (d : Dev) (f : TimeSt → TimeSt) : (d.onTime f).power = d.power := rfl
@[simp] theorem Dev.onTime_msec (d : Dev) (f : TimeSt → TimeSt) : (d.onTime f).msec = d.msec := rfl
@[simp] theorem Dev.onTime_fr (d : Dev) (f : TimeSt → TimeSt) : (d.onTime f).fr = d.fr := rfl
@[simp] theorem Dev.onTime_eg (d : Dev) (f : TimeSt → TimeSt) : (d.onTime f).eg = d.eg := rfl
@[simp] theorem Dev.onTime_lk (d : Dev) (f : TimeSt → TimeSt) : (d.onTime f).lk = d.lk := rfl
@[simp] theorem Dev.onTime_smv (d : Dev) (f : TimeSt → TimeSt) : (d.onTime f).smv = d.smv := rfl
@[simp] theorem Dev.onTime_mac (d : Dev) (f : TimeSt → TimeSt) : (d.onTime f).mac = d.mac := rfl
@[simp] theorem Dev.onTime_lanes (d : Dev) (f : TimeSt → TimeSt) : (d.onTime f).lanes = d.lanes := rfl
@[simp] theorem Dev.onTime_freeCtr (d : Dev) (f : TimeSt → TimeSt) : (d.onTime f).freeCtr = d.freeCtr := rfl
@[simp] theorem Dev.onTime_wire (d : Dev) (f : TimeSt → TimeSt) : (d.onTime f).wire = d.wire := rfl
@[simp] theorem Dev.onCnt_host (d : Dev) (f : CntSt → CntSt) : (d.onCnt f).host = d.host := rfl
@[simp] theorem Dev.onCnt_cfg (d : Dev) (f : CntSt → CntSt) : (d.onCnt f).cfg = d.cfg := rfl
@[simp] theorem Dev.onCnt_fret (d : Dev) (f : CntSt → CntSt) : (d.onCnt f).fret = d.fret := rfl
@[simp] theorem Dev.onCnt_time (d : Dev) (f : CntSt → CntSt) : (d.onCnt f).time = d.time := rfl
@[simp] theorem Dev.onCnt_cnt (d : Dev) (f : CntSt → CntSt) : (d.onCnt f).cnt = f d.cnt := rfl
@[simp] theorem Dev.onCnt_course (d : Dev) (f : CntSt → CntSt) : (d.onCnt f).course = d.course := rfl
@[simp] theorem Dev.onCnt_tamper (d : Dev) (f : CntSt → CntSt) : (d.onCnt f).tamper = d.tamper := rfl
@[simp] theorem Dev.onCnt_mram (d : Dev) (f : CntSt → CntSt) : (d.onCnt f).mram = d.mram := rfl
@[simp] theorem Dev.onCnt_vault (d : Dev) (f : CntSt → CntSt) : (d.onCnt f).vault = d.vault := rfl
@[simp] theorem Dev.onCnt_keys (d : Dev) (f : CntSt → CntSt) : (d.onCnt f).keys = d.keys := rfl
@[simp] theorem Dev.onCnt_fw (d : Dev) (f : CntSt → CntSt) : (d.onCnt f).fw = d.fw := rfl
@[simp] theorem Dev.onCnt_power (d : Dev) (f : CntSt → CntSt) : (d.onCnt f).power = d.power := rfl
@[simp] theorem Dev.onCnt_msec (d : Dev) (f : CntSt → CntSt) : (d.onCnt f).msec = d.msec := rfl
@[simp] theorem Dev.onCnt_fr (d : Dev) (f : CntSt → CntSt) : (d.onCnt f).fr = d.fr := rfl
@[simp] theorem Dev.onCnt_eg (d : Dev) (f : CntSt → CntSt) : (d.onCnt f).eg = d.eg := rfl
@[simp] theorem Dev.onCnt_lk (d : Dev) (f : CntSt → CntSt) : (d.onCnt f).lk = d.lk := rfl
@[simp] theorem Dev.onCnt_smv (d : Dev) (f : CntSt → CntSt) : (d.onCnt f).smv = d.smv := rfl
@[simp] theorem Dev.onCnt_mac (d : Dev) (f : CntSt → CntSt) : (d.onCnt f).mac = d.mac := rfl
@[simp] theorem Dev.onCnt_lanes (d : Dev) (f : CntSt → CntSt) : (d.onCnt f).lanes = d.lanes := rfl
@[simp] theorem Dev.onCnt_freeCtr (d : Dev) (f : CntSt → CntSt) : (d.onCnt f).freeCtr = d.freeCtr := rfl
@[simp] theorem Dev.onCnt_wire (d : Dev) (f : CntSt → CntSt) : (d.onCnt f).wire = d.wire := rfl
@[simp] theorem Dev.onCourse_host (d : Dev) (f : CourseSt → CourseSt) : (d.onCourse f).host = d.host := rfl
@[simp] theorem Dev.onCourse_cfg (d : Dev) (f : CourseSt → CourseSt) : (d.onCourse f).cfg = d.cfg := rfl
@[simp] theorem Dev.onCourse_fret (d : Dev) (f : CourseSt → CourseSt) : (d.onCourse f).fret = d.fret := rfl
@[simp] theorem Dev.onCourse_time (d : Dev) (f : CourseSt → CourseSt) : (d.onCourse f).time = d.time := rfl
@[simp] theorem Dev.onCourse_cnt (d : Dev) (f : CourseSt → CourseSt) : (d.onCourse f).cnt = d.cnt := rfl
@[simp] theorem Dev.onCourse_course (d : Dev) (f : CourseSt → CourseSt) : (d.onCourse f).course = f d.course := rfl
@[simp] theorem Dev.onCourse_tamper (d : Dev) (f : CourseSt → CourseSt) : (d.onCourse f).tamper = d.tamper := rfl
@[simp] theorem Dev.onCourse_mram (d : Dev) (f : CourseSt → CourseSt) : (d.onCourse f).mram = d.mram := rfl
@[simp] theorem Dev.onCourse_vault (d : Dev) (f : CourseSt → CourseSt) : (d.onCourse f).vault = d.vault := rfl
@[simp] theorem Dev.onCourse_keys (d : Dev) (f : CourseSt → CourseSt) : (d.onCourse f).keys = d.keys := rfl
@[simp] theorem Dev.onCourse_fw (d : Dev) (f : CourseSt → CourseSt) : (d.onCourse f).fw = d.fw := rfl
@[simp] theorem Dev.onCourse_power (d : Dev) (f : CourseSt → CourseSt) : (d.onCourse f).power = d.power := rfl
@[simp] theorem Dev.onCourse_msec (d : Dev) (f : CourseSt → CourseSt) : (d.onCourse f).msec = d.msec := rfl
@[simp] theorem Dev.onCourse_fr (d : Dev) (f : CourseSt → CourseSt) : (d.onCourse f).fr = d.fr := rfl
@[simp] theorem Dev.onCourse_eg (d : Dev) (f : CourseSt → CourseSt) : (d.onCourse f).eg = d.eg := rfl
@[simp] theorem Dev.onCourse_lk (d : Dev) (f : CourseSt → CourseSt) : (d.onCourse f).lk = d.lk := rfl
@[simp] theorem Dev.onCourse_smv (d : Dev) (f : CourseSt → CourseSt) : (d.onCourse f).smv = d.smv := rfl
@[simp] theorem Dev.onCourse_mac (d : Dev) (f : CourseSt → CourseSt) : (d.onCourse f).mac = d.mac := rfl
@[simp] theorem Dev.onCourse_lanes (d : Dev) (f : CourseSt → CourseSt) : (d.onCourse f).lanes = d.lanes := rfl
@[simp] theorem Dev.onCourse_freeCtr (d : Dev) (f : CourseSt → CourseSt) : (d.onCourse f).freeCtr = d.freeCtr := rfl
@[simp] theorem Dev.onCourse_wire (d : Dev) (f : CourseSt → CourseSt) : (d.onCourse f).wire = d.wire := rfl
@[simp] theorem Dev.onTamper_host (d : Dev) (f : TamperSt → TamperSt) : (d.onTamper f).host = d.host := rfl
@[simp] theorem Dev.onTamper_cfg (d : Dev) (f : TamperSt → TamperSt) : (d.onTamper f).cfg = d.cfg := rfl
@[simp] theorem Dev.onTamper_fret (d : Dev) (f : TamperSt → TamperSt) : (d.onTamper f).fret = d.fret := rfl
@[simp] theorem Dev.onTamper_time (d : Dev) (f : TamperSt → TamperSt) : (d.onTamper f).time = d.time := rfl
@[simp] theorem Dev.onTamper_cnt (d : Dev) (f : TamperSt → TamperSt) : (d.onTamper f).cnt = d.cnt := rfl
@[simp] theorem Dev.onTamper_course (d : Dev) (f : TamperSt → TamperSt) : (d.onTamper f).course = d.course := rfl
@[simp] theorem Dev.onTamper_tamper (d : Dev) (f : TamperSt → TamperSt) : (d.onTamper f).tamper = f d.tamper := rfl
@[simp] theorem Dev.onTamper_mram (d : Dev) (f : TamperSt → TamperSt) : (d.onTamper f).mram = d.mram := rfl
@[simp] theorem Dev.onTamper_vault (d : Dev) (f : TamperSt → TamperSt) : (d.onTamper f).vault = d.vault := rfl
@[simp] theorem Dev.onTamper_keys (d : Dev) (f : TamperSt → TamperSt) : (d.onTamper f).keys = d.keys := rfl
@[simp] theorem Dev.onTamper_fw (d : Dev) (f : TamperSt → TamperSt) : (d.onTamper f).fw = d.fw := rfl
@[simp] theorem Dev.onTamper_power (d : Dev) (f : TamperSt → TamperSt) : (d.onTamper f).power = d.power := rfl
@[simp] theorem Dev.onTamper_msec (d : Dev) (f : TamperSt → TamperSt) : (d.onTamper f).msec = d.msec := rfl
@[simp] theorem Dev.onTamper_fr (d : Dev) (f : TamperSt → TamperSt) : (d.onTamper f).fr = d.fr := rfl
@[simp] theorem Dev.onTamper_eg (d : Dev) (f : TamperSt → TamperSt) : (d.onTamper f).eg = d.eg := rfl
@[simp] theorem Dev.onTamper_lk (d : Dev) (f : TamperSt → TamperSt) : (d.onTamper f).lk = d.lk := rfl
@[simp] theorem Dev.onTamper_smv (d : Dev) (f : TamperSt → TamperSt) : (d.onTamper f).smv = d.smv := rfl
@[simp] theorem Dev.onTamper_mac (d : Dev) (f : TamperSt → TamperSt) : (d.onTamper f).mac = d.mac := rfl
@[simp] theorem Dev.onTamper_lanes (d : Dev) (f : TamperSt → TamperSt) : (d.onTamper f).lanes = d.lanes := rfl
@[simp] theorem Dev.onTamper_freeCtr (d : Dev) (f : TamperSt → TamperSt) : (d.onTamper f).freeCtr = d.freeCtr := rfl
@[simp] theorem Dev.onTamper_wire (d : Dev) (f : TamperSt → TamperSt) : (d.onTamper f).wire = d.wire := rfl
@[simp] theorem Dev.onMram_host (d : Dev) (f : Mram → Mram) : (d.onMram f).host = d.host := rfl
@[simp] theorem Dev.onMram_cfg (d : Dev) (f : Mram → Mram) : (d.onMram f).cfg = d.cfg := rfl
@[simp] theorem Dev.onMram_fret (d : Dev) (f : Mram → Mram) : (d.onMram f).fret = d.fret := rfl
@[simp] theorem Dev.onMram_time (d : Dev) (f : Mram → Mram) : (d.onMram f).time = d.time := rfl
@[simp] theorem Dev.onMram_cnt (d : Dev) (f : Mram → Mram) : (d.onMram f).cnt = d.cnt := rfl
@[simp] theorem Dev.onMram_course (d : Dev) (f : Mram → Mram) : (d.onMram f).course = d.course := rfl
@[simp] theorem Dev.onMram_tamper (d : Dev) (f : Mram → Mram) : (d.onMram f).tamper = d.tamper := rfl
@[simp] theorem Dev.onMram_mram (d : Dev) (f : Mram → Mram) : (d.onMram f).mram = f d.mram := rfl
@[simp] theorem Dev.onMram_vault (d : Dev) (f : Mram → Mram) : (d.onMram f).vault = d.vault := rfl
@[simp] theorem Dev.onMram_keys (d : Dev) (f : Mram → Mram) : (d.onMram f).keys = d.keys := rfl
@[simp] theorem Dev.onMram_fw (d : Dev) (f : Mram → Mram) : (d.onMram f).fw = d.fw := rfl
@[simp] theorem Dev.onMram_power (d : Dev) (f : Mram → Mram) : (d.onMram f).power = d.power := rfl
@[simp] theorem Dev.onMram_msec (d : Dev) (f : Mram → Mram) : (d.onMram f).msec = d.msec := rfl
@[simp] theorem Dev.onMram_fr (d : Dev) (f : Mram → Mram) : (d.onMram f).fr = d.fr := rfl
@[simp] theorem Dev.onMram_eg (d : Dev) (f : Mram → Mram) : (d.onMram f).eg = d.eg := rfl
@[simp] theorem Dev.onMram_lk (d : Dev) (f : Mram → Mram) : (d.onMram f).lk = d.lk := rfl
@[simp] theorem Dev.onMram_smv (d : Dev) (f : Mram → Mram) : (d.onMram f).smv = d.smv := rfl
@[simp] theorem Dev.onMram_mac (d : Dev) (f : Mram → Mram) : (d.onMram f).mac = d.mac := rfl
@[simp] theorem Dev.onMram_lanes (d : Dev) (f : Mram → Mram) : (d.onMram f).lanes = d.lanes := rfl
@[simp] theorem Dev.onMram_freeCtr (d : Dev) (f : Mram → Mram) : (d.onMram f).freeCtr = d.freeCtr := rfl
@[simp] theorem Dev.onMram_wire (d : Dev) (f : Mram → Mram) : (d.onMram f).wire = d.wire := rfl
@[simp] theorem Dev.onVault_host (d : Dev) (f : Vault → Vault) : (d.onVault f).host = d.host := rfl
@[simp] theorem Dev.onVault_cfg (d : Dev) (f : Vault → Vault) : (d.onVault f).cfg = d.cfg := rfl
@[simp] theorem Dev.onVault_fret (d : Dev) (f : Vault → Vault) : (d.onVault f).fret = d.fret := rfl
@[simp] theorem Dev.onVault_time (d : Dev) (f : Vault → Vault) : (d.onVault f).time = d.time := rfl
@[simp] theorem Dev.onVault_cnt (d : Dev) (f : Vault → Vault) : (d.onVault f).cnt = d.cnt := rfl
@[simp] theorem Dev.onVault_course (d : Dev) (f : Vault → Vault) : (d.onVault f).course = d.course := rfl
@[simp] theorem Dev.onVault_tamper (d : Dev) (f : Vault → Vault) : (d.onVault f).tamper = d.tamper := rfl
@[simp] theorem Dev.onVault_mram (d : Dev) (f : Vault → Vault) : (d.onVault f).mram = d.mram := rfl
@[simp] theorem Dev.onVault_vault (d : Dev) (f : Vault → Vault) : (d.onVault f).vault = f d.vault := rfl
@[simp] theorem Dev.onVault_keys (d : Dev) (f : Vault → Vault) : (d.onVault f).keys = d.keys := rfl
@[simp] theorem Dev.onVault_fw (d : Dev) (f : Vault → Vault) : (d.onVault f).fw = d.fw := rfl
@[simp] theorem Dev.onVault_power (d : Dev) (f : Vault → Vault) : (d.onVault f).power = d.power := rfl
@[simp] theorem Dev.onVault_msec (d : Dev) (f : Vault → Vault) : (d.onVault f).msec = d.msec := rfl
@[simp] theorem Dev.onVault_fr (d : Dev) (f : Vault → Vault) : (d.onVault f).fr = d.fr := rfl
@[simp] theorem Dev.onVault_eg (d : Dev) (f : Vault → Vault) : (d.onVault f).eg = d.eg := rfl
@[simp] theorem Dev.onVault_lk (d : Dev) (f : Vault → Vault) : (d.onVault f).lk = d.lk := rfl
@[simp] theorem Dev.onVault_smv (d : Dev) (f : Vault → Vault) : (d.onVault f).smv = d.smv := rfl
@[simp] theorem Dev.onVault_mac (d : Dev) (f : Vault → Vault) : (d.onVault f).mac = d.mac := rfl
@[simp] theorem Dev.onVault_lanes (d : Dev) (f : Vault → Vault) : (d.onVault f).lanes = d.lanes := rfl
@[simp] theorem Dev.onVault_freeCtr (d : Dev) (f : Vault → Vault) : (d.onVault f).freeCtr = d.freeCtr := rfl
@[simp] theorem Dev.onVault_wire (d : Dev) (f : Vault → Vault) : (d.onVault f).wire = d.wire := rfl
@[simp] theorem Dev.onKeys_host (d : Dev) (f : KeySt → KeySt) : (d.onKeys f).host = d.host := rfl
@[simp] theorem Dev.onKeys_cfg (d : Dev) (f : KeySt → KeySt) : (d.onKeys f).cfg = d.cfg := rfl
@[simp] theorem Dev.onKeys_fret (d : Dev) (f : KeySt → KeySt) : (d.onKeys f).fret = d.fret := rfl
@[simp] theorem Dev.onKeys_time (d : Dev) (f : KeySt → KeySt) : (d.onKeys f).time = d.time := rfl
@[simp] theorem Dev.onKeys_cnt (d : Dev) (f : KeySt → KeySt) : (d.onKeys f).cnt = d.cnt := rfl
@[simp] theorem Dev.onKeys_course (d : Dev) (f : KeySt → KeySt) : (d.onKeys f).course = d.course := rfl
@[simp] theorem Dev.onKeys_tamper (d : Dev) (f : KeySt → KeySt) : (d.onKeys f).tamper = d.tamper := rfl
@[simp] theorem Dev.onKeys_mram (d : Dev) (f : KeySt → KeySt) : (d.onKeys f).mram = d.mram := rfl
@[simp] theorem Dev.onKeys_vault (d : Dev) (f : KeySt → KeySt) : (d.onKeys f).vault = d.vault := rfl
@[simp] theorem Dev.onKeys_keys (d : Dev) (f : KeySt → KeySt) : (d.onKeys f).keys = f d.keys := rfl
@[simp] theorem Dev.onKeys_fw (d : Dev) (f : KeySt → KeySt) : (d.onKeys f).fw = d.fw := rfl
@[simp] theorem Dev.onKeys_power (d : Dev) (f : KeySt → KeySt) : (d.onKeys f).power = d.power := rfl
@[simp] theorem Dev.onKeys_msec (d : Dev) (f : KeySt → KeySt) : (d.onKeys f).msec = d.msec := rfl
@[simp] theorem Dev.onKeys_fr (d : Dev) (f : KeySt → KeySt) : (d.onKeys f).fr = d.fr := rfl
@[simp] theorem Dev.onKeys_eg (d : Dev) (f : KeySt → KeySt) : (d.onKeys f).eg = d.eg := rfl
@[simp] theorem Dev.onKeys_lk (d : Dev) (f : KeySt → KeySt) : (d.onKeys f).lk = d.lk := rfl
@[simp] theorem Dev.onKeys_smv (d : Dev) (f : KeySt → KeySt) : (d.onKeys f).smv = d.smv := rfl
@[simp] theorem Dev.onKeys_mac (d : Dev) (f : KeySt → KeySt) : (d.onKeys f).mac = d.mac := rfl
@[simp] theorem Dev.onKeys_lanes (d : Dev) (f : KeySt → KeySt) : (d.onKeys f).lanes = d.lanes := rfl
@[simp] theorem Dev.onKeys_freeCtr (d : Dev) (f : KeySt → KeySt) : (d.onKeys f).freeCtr = d.freeCtr := rfl
@[simp] theorem Dev.onKeys_wire (d : Dev) (f : KeySt → KeySt) : (d.onKeys f).wire = d.wire := rfl
@[simp] theorem Dev.onFw_host (d : Dev) (f : FwSt → FwSt) : (d.onFw f).host = d.host := rfl
@[simp] theorem Dev.onFw_cfg (d : Dev) (f : FwSt → FwSt) : (d.onFw f).cfg = d.cfg := rfl
@[simp] theorem Dev.onFw_fret (d : Dev) (f : FwSt → FwSt) : (d.onFw f).fret = d.fret := rfl
@[simp] theorem Dev.onFw_time (d : Dev) (f : FwSt → FwSt) : (d.onFw f).time = d.time := rfl
@[simp] theorem Dev.onFw_cnt (d : Dev) (f : FwSt → FwSt) : (d.onFw f).cnt = d.cnt := rfl
@[simp] theorem Dev.onFw_course (d : Dev) (f : FwSt → FwSt) : (d.onFw f).course = d.course := rfl
@[simp] theorem Dev.onFw_tamper (d : Dev) (f : FwSt → FwSt) : (d.onFw f).tamper = d.tamper := rfl
@[simp] theorem Dev.onFw_mram (d : Dev) (f : FwSt → FwSt) : (d.onFw f).mram = d.mram := rfl
@[simp] theorem Dev.onFw_vault (d : Dev) (f : FwSt → FwSt) : (d.onFw f).vault = d.vault := rfl
@[simp] theorem Dev.onFw_keys (d : Dev) (f : FwSt → FwSt) : (d.onFw f).keys = d.keys := rfl
@[simp] theorem Dev.onFw_fw (d : Dev) (f : FwSt → FwSt) : (d.onFw f).fw = (f d.fw).written := rfl
@[simp] theorem Dev.onFw_power (d : Dev) (f : FwSt → FwSt) : (d.onFw f).power = d.power := rfl
@[simp] theorem Dev.onFw_msec (d : Dev) (f : FwSt → FwSt) : (d.onFw f).msec = d.msec := rfl
@[simp] theorem Dev.onFw_fr (d : Dev) (f : FwSt → FwSt) : (d.onFw f).fr = d.fr := rfl
@[simp] theorem Dev.onFw_eg (d : Dev) (f : FwSt → FwSt) : (d.onFw f).eg = d.eg := rfl
@[simp] theorem Dev.onFw_lk (d : Dev) (f : FwSt → FwSt) : (d.onFw f).lk = d.lk := rfl
@[simp] theorem Dev.onFw_smv (d : Dev) (f : FwSt → FwSt) : (d.onFw f).smv = d.smv := rfl
@[simp] theorem Dev.onFw_mac (d : Dev) (f : FwSt → FwSt) : (d.onFw f).mac = d.mac := rfl
@[simp] theorem Dev.onFw_lanes (d : Dev) (f : FwSt → FwSt) : (d.onFw f).lanes = d.lanes := rfl
@[simp] theorem Dev.onFw_freeCtr (d : Dev) (f : FwSt → FwSt) : (d.onFw f).freeCtr = d.freeCtr := rfl
@[simp] theorem Dev.onFw_wire (d : Dev) (f : FwSt → FwSt) : (d.onFw f).wire = d.wire := rfl
@[simp] theorem Dev.onPower_host (d : Dev) (f : PowerSt → PowerSt) : (d.onPower f).host = d.host := rfl
@[simp] theorem Dev.onPower_cfg (d : Dev) (f : PowerSt → PowerSt) : (d.onPower f).cfg = d.cfg := rfl
@[simp] theorem Dev.onPower_fret (d : Dev) (f : PowerSt → PowerSt) : (d.onPower f).fret = d.fret := rfl
@[simp] theorem Dev.onPower_time (d : Dev) (f : PowerSt → PowerSt) : (d.onPower f).time = d.time := rfl
@[simp] theorem Dev.onPower_cnt (d : Dev) (f : PowerSt → PowerSt) : (d.onPower f).cnt = d.cnt := rfl
@[simp] theorem Dev.onPower_course (d : Dev) (f : PowerSt → PowerSt) : (d.onPower f).course = d.course := rfl
@[simp] theorem Dev.onPower_tamper (d : Dev) (f : PowerSt → PowerSt) : (d.onPower f).tamper = d.tamper := rfl
@[simp] theorem Dev.onPower_mram (d : Dev) (f : PowerSt → PowerSt) : (d.onPower f).mram = d.mram := rfl
@[simp] theorem Dev.onPower_vault (d : Dev) (f : PowerSt → PowerSt) : (d.onPower f).vault = d.vault := rfl
@[simp] theorem Dev.onPower_keys (d : Dev) (f : PowerSt → PowerSt) : (d.onPower f).keys = d.keys := rfl
@[simp] theorem Dev.onPower_fw (d : Dev) (f : PowerSt → PowerSt) : (d.onPower f).fw = d.fw := rfl
@[simp] theorem Dev.onPower_power (d : Dev) (f : PowerSt → PowerSt) : (d.onPower f).power = f d.power := rfl
@[simp] theorem Dev.onPower_msec (d : Dev) (f : PowerSt → PowerSt) : (d.onPower f).msec = d.msec := rfl
@[simp] theorem Dev.onPower_fr (d : Dev) (f : PowerSt → PowerSt) : (d.onPower f).fr = d.fr := rfl
@[simp] theorem Dev.onPower_eg (d : Dev) (f : PowerSt → PowerSt) : (d.onPower f).eg = d.eg := rfl
@[simp] theorem Dev.onPower_lk (d : Dev) (f : PowerSt → PowerSt) : (d.onPower f).lk = d.lk := rfl
@[simp] theorem Dev.onPower_smv (d : Dev) (f : PowerSt → PowerSt) : (d.onPower f).smv = d.smv := rfl
@[simp] theorem Dev.onPower_mac (d : Dev) (f : PowerSt → PowerSt) : (d.onPower f).mac = d.mac := rfl
@[simp] theorem Dev.onPower_lanes (d : Dev) (f : PowerSt → PowerSt) : (d.onPower f).lanes = d.lanes := rfl
@[simp] theorem Dev.onPower_freeCtr (d : Dev) (f : PowerSt → PowerSt) : (d.onPower f).freeCtr = d.freeCtr := rfl
@[simp] theorem Dev.onPower_wire (d : Dev) (f : PowerSt → PowerSt) : (d.onPower f).wire = d.wire := rfl
@[simp] theorem Dev.onMsec_host (d : Dev) (f : MsecSt → MsecSt) : (d.onMsec f).host = d.host := rfl
@[simp] theorem Dev.onMsec_cfg (d : Dev) (f : MsecSt → MsecSt) : (d.onMsec f).cfg = d.cfg := rfl
@[simp] theorem Dev.onMsec_fret (d : Dev) (f : MsecSt → MsecSt) : (d.onMsec f).fret = d.fret := rfl
@[simp] theorem Dev.onMsec_time (d : Dev) (f : MsecSt → MsecSt) : (d.onMsec f).time = d.time := rfl
@[simp] theorem Dev.onMsec_cnt (d : Dev) (f : MsecSt → MsecSt) : (d.onMsec f).cnt = d.cnt := rfl
@[simp] theorem Dev.onMsec_course (d : Dev) (f : MsecSt → MsecSt) : (d.onMsec f).course = d.course := rfl
@[simp] theorem Dev.onMsec_tamper (d : Dev) (f : MsecSt → MsecSt) : (d.onMsec f).tamper = d.tamper := rfl
@[simp] theorem Dev.onMsec_mram (d : Dev) (f : MsecSt → MsecSt) : (d.onMsec f).mram = d.mram := rfl
@[simp] theorem Dev.onMsec_vault (d : Dev) (f : MsecSt → MsecSt) : (d.onMsec f).vault = d.vault := rfl
@[simp] theorem Dev.onMsec_keys (d : Dev) (f : MsecSt → MsecSt) : (d.onMsec f).keys = d.keys := rfl
@[simp] theorem Dev.onMsec_fw (d : Dev) (f : MsecSt → MsecSt) : (d.onMsec f).fw = d.fw := rfl
@[simp] theorem Dev.onMsec_power (d : Dev) (f : MsecSt → MsecSt) : (d.onMsec f).power = d.power := rfl
@[simp] theorem Dev.onMsec_msec (d : Dev) (f : MsecSt → MsecSt) : (d.onMsec f).msec = f d.msec := rfl
@[simp] theorem Dev.onMsec_fr (d : Dev) (f : MsecSt → MsecSt) : (d.onMsec f).fr = d.fr := rfl
@[simp] theorem Dev.onMsec_eg (d : Dev) (f : MsecSt → MsecSt) : (d.onMsec f).eg = d.eg := rfl
@[simp] theorem Dev.onMsec_lk (d : Dev) (f : MsecSt → MsecSt) : (d.onMsec f).lk = d.lk := rfl
@[simp] theorem Dev.onMsec_smv (d : Dev) (f : MsecSt → MsecSt) : (d.onMsec f).smv = d.smv := rfl
@[simp] theorem Dev.onMsec_mac (d : Dev) (f : MsecSt → MsecSt) : (d.onMsec f).mac = d.mac := rfl
@[simp] theorem Dev.onMsec_lanes (d : Dev) (f : MsecSt → MsecSt) : (d.onMsec f).lanes = d.lanes := rfl
@[simp] theorem Dev.onMsec_freeCtr (d : Dev) (f : MsecSt → MsecSt) : (d.onMsec f).freeCtr = d.freeCtr := rfl
@[simp] theorem Dev.onMsec_wire (d : Dev) (f : MsecSt → MsecSt) : (d.onMsec f).wire = d.wire := rfl
@[simp] theorem Dev.onFr_host (d : Dev) (f : FrameSt → FrameSt) : (d.onFr f).host = d.host := rfl
@[simp] theorem Dev.onFr_cfg (d : Dev) (f : FrameSt → FrameSt) : (d.onFr f).cfg = d.cfg := rfl
@[simp] theorem Dev.onFr_fret (d : Dev) (f : FrameSt → FrameSt) : (d.onFr f).fret = d.fret := rfl
@[simp] theorem Dev.onFr_time (d : Dev) (f : FrameSt → FrameSt) : (d.onFr f).time = d.time := rfl
@[simp] theorem Dev.onFr_cnt (d : Dev) (f : FrameSt → FrameSt) : (d.onFr f).cnt = d.cnt := rfl
@[simp] theorem Dev.onFr_course (d : Dev) (f : FrameSt → FrameSt) : (d.onFr f).course = d.course := rfl
@[simp] theorem Dev.onFr_tamper (d : Dev) (f : FrameSt → FrameSt) : (d.onFr f).tamper = d.tamper := rfl
@[simp] theorem Dev.onFr_mram (d : Dev) (f : FrameSt → FrameSt) : (d.onFr f).mram = d.mram := rfl
@[simp] theorem Dev.onFr_vault (d : Dev) (f : FrameSt → FrameSt) : (d.onFr f).vault = d.vault := rfl
@[simp] theorem Dev.onFr_keys (d : Dev) (f : FrameSt → FrameSt) : (d.onFr f).keys = d.keys := rfl
@[simp] theorem Dev.onFr_fw (d : Dev) (f : FrameSt → FrameSt) : (d.onFr f).fw = d.fw := rfl
@[simp] theorem Dev.onFr_power (d : Dev) (f : FrameSt → FrameSt) : (d.onFr f).power = d.power := rfl
@[simp] theorem Dev.onFr_msec (d : Dev) (f : FrameSt → FrameSt) : (d.onFr f).msec = d.msec := rfl
@[simp] theorem Dev.onFr_fr (d : Dev) (f : FrameSt → FrameSt) : (d.onFr f).fr = f d.fr := rfl
@[simp] theorem Dev.onFr_eg (d : Dev) (f : FrameSt → FrameSt) : (d.onFr f).eg = d.eg := rfl
@[simp] theorem Dev.onFr_lk (d : Dev) (f : FrameSt → FrameSt) : (d.onFr f).lk = d.lk := rfl
@[simp] theorem Dev.onFr_smv (d : Dev) (f : FrameSt → FrameSt) : (d.onFr f).smv = d.smv := rfl
@[simp] theorem Dev.onFr_mac (d : Dev) (f : FrameSt → FrameSt) : (d.onFr f).mac = d.mac := rfl
@[simp] theorem Dev.onFr_lanes (d : Dev) (f : FrameSt → FrameSt) : (d.onFr f).lanes = d.lanes := rfl
@[simp] theorem Dev.onFr_freeCtr (d : Dev) (f : FrameSt → FrameSt) : (d.onFr f).freeCtr = d.freeCtr := rfl
@[simp] theorem Dev.onFr_wire (d : Dev) (f : FrameSt → FrameSt) : (d.onFr f).wire = d.wire := rfl
@[simp] theorem Dev.onEg_host (d : Dev) (f : EgressSt → EgressSt) : (d.onEg f).host = d.host := rfl
@[simp] theorem Dev.onEg_cfg (d : Dev) (f : EgressSt → EgressSt) : (d.onEg f).cfg = d.cfg := rfl
@[simp] theorem Dev.onEg_fret (d : Dev) (f : EgressSt → EgressSt) : (d.onEg f).fret = d.fret := rfl
@[simp] theorem Dev.onEg_time (d : Dev) (f : EgressSt → EgressSt) : (d.onEg f).time = d.time := rfl
@[simp] theorem Dev.onEg_cnt (d : Dev) (f : EgressSt → EgressSt) : (d.onEg f).cnt = d.cnt := rfl
@[simp] theorem Dev.onEg_course (d : Dev) (f : EgressSt → EgressSt) : (d.onEg f).course = d.course := rfl
@[simp] theorem Dev.onEg_tamper (d : Dev) (f : EgressSt → EgressSt) : (d.onEg f).tamper = d.tamper := rfl
@[simp] theorem Dev.onEg_mram (d : Dev) (f : EgressSt → EgressSt) : (d.onEg f).mram = d.mram := rfl
@[simp] theorem Dev.onEg_vault (d : Dev) (f : EgressSt → EgressSt) : (d.onEg f).vault = d.vault := rfl
@[simp] theorem Dev.onEg_keys (d : Dev) (f : EgressSt → EgressSt) : (d.onEg f).keys = d.keys := rfl
@[simp] theorem Dev.onEg_fw (d : Dev) (f : EgressSt → EgressSt) : (d.onEg f).fw = d.fw := rfl
@[simp] theorem Dev.onEg_power (d : Dev) (f : EgressSt → EgressSt) : (d.onEg f).power = d.power := rfl
@[simp] theorem Dev.onEg_msec (d : Dev) (f : EgressSt → EgressSt) : (d.onEg f).msec = d.msec := rfl
@[simp] theorem Dev.onEg_fr (d : Dev) (f : EgressSt → EgressSt) : (d.onEg f).fr = d.fr := rfl
@[simp] theorem Dev.onEg_eg (d : Dev) (f : EgressSt → EgressSt) : (d.onEg f).eg = f d.eg := rfl
@[simp] theorem Dev.onEg_lk (d : Dev) (f : EgressSt → EgressSt) : (d.onEg f).lk = d.lk := rfl
@[simp] theorem Dev.onEg_smv (d : Dev) (f : EgressSt → EgressSt) : (d.onEg f).smv = d.smv := rfl
@[simp] theorem Dev.onEg_mac (d : Dev) (f : EgressSt → EgressSt) : (d.onEg f).mac = d.mac := rfl
@[simp] theorem Dev.onEg_lanes (d : Dev) (f : EgressSt → EgressSt) : (d.onEg f).lanes = d.lanes := rfl
@[simp] theorem Dev.onEg_freeCtr (d : Dev) (f : EgressSt → EgressSt) : (d.onEg f).freeCtr = d.freeCtr := rfl
@[simp] theorem Dev.onEg_wire (d : Dev) (f : EgressSt → EgressSt) : (d.onEg f).wire = d.wire := rfl
@[simp] theorem Dev.onLk_host (d : Dev) (f : LkSt → LkSt) : (d.onLk f).host = d.host := rfl
@[simp] theorem Dev.onLk_cfg (d : Dev) (f : LkSt → LkSt) : (d.onLk f).cfg = d.cfg := rfl
@[simp] theorem Dev.onLk_fret (d : Dev) (f : LkSt → LkSt) : (d.onLk f).fret = d.fret := rfl
@[simp] theorem Dev.onLk_time (d : Dev) (f : LkSt → LkSt) : (d.onLk f).time = d.time := rfl
@[simp] theorem Dev.onLk_cnt (d : Dev) (f : LkSt → LkSt) : (d.onLk f).cnt = d.cnt := rfl
@[simp] theorem Dev.onLk_course (d : Dev) (f : LkSt → LkSt) : (d.onLk f).course = d.course := rfl
@[simp] theorem Dev.onLk_tamper (d : Dev) (f : LkSt → LkSt) : (d.onLk f).tamper = d.tamper := rfl
@[simp] theorem Dev.onLk_mram (d : Dev) (f : LkSt → LkSt) : (d.onLk f).mram = d.mram := rfl
@[simp] theorem Dev.onLk_vault (d : Dev) (f : LkSt → LkSt) : (d.onLk f).vault = d.vault := rfl
@[simp] theorem Dev.onLk_keys (d : Dev) (f : LkSt → LkSt) : (d.onLk f).keys = d.keys := rfl
@[simp] theorem Dev.onLk_fw (d : Dev) (f : LkSt → LkSt) : (d.onLk f).fw = d.fw := rfl
@[simp] theorem Dev.onLk_power (d : Dev) (f : LkSt → LkSt) : (d.onLk f).power = d.power := rfl
@[simp] theorem Dev.onLk_msec (d : Dev) (f : LkSt → LkSt) : (d.onLk f).msec = d.msec := rfl
@[simp] theorem Dev.onLk_fr (d : Dev) (f : LkSt → LkSt) : (d.onLk f).fr = d.fr := rfl
@[simp] theorem Dev.onLk_eg (d : Dev) (f : LkSt → LkSt) : (d.onLk f).eg = d.eg := rfl
@[simp] theorem Dev.onLk_lk (d : Dev) (f : LkSt → LkSt) : (d.onLk f).lk = f d.lk := rfl
@[simp] theorem Dev.onLk_smv (d : Dev) (f : LkSt → LkSt) : (d.onLk f).smv = d.smv := rfl
@[simp] theorem Dev.onLk_mac (d : Dev) (f : LkSt → LkSt) : (d.onLk f).mac = d.mac := rfl
@[simp] theorem Dev.onLk_lanes (d : Dev) (f : LkSt → LkSt) : (d.onLk f).lanes = d.lanes := rfl
@[simp] theorem Dev.onLk_freeCtr (d : Dev) (f : LkSt → LkSt) : (d.onLk f).freeCtr = d.freeCtr := rfl
@[simp] theorem Dev.onLk_wire (d : Dev) (f : LkSt → LkSt) : (d.onLk f).wire = d.wire := rfl
@[simp] theorem Dev.onMac_host (d : Dev) (f : MacSt → MacSt) : (d.onMac f).host = d.host := rfl
@[simp] theorem Dev.onMac_cfg (d : Dev) (f : MacSt → MacSt) : (d.onMac f).cfg = d.cfg := rfl
@[simp] theorem Dev.onMac_fret (d : Dev) (f : MacSt → MacSt) : (d.onMac f).fret = d.fret := rfl
@[simp] theorem Dev.onMac_time (d : Dev) (f : MacSt → MacSt) : (d.onMac f).time = d.time := rfl
@[simp] theorem Dev.onMac_cnt (d : Dev) (f : MacSt → MacSt) : (d.onMac f).cnt = d.cnt := rfl
@[simp] theorem Dev.onMac_course (d : Dev) (f : MacSt → MacSt) : (d.onMac f).course = d.course := rfl
@[simp] theorem Dev.onMac_tamper (d : Dev) (f : MacSt → MacSt) : (d.onMac f).tamper = d.tamper := rfl
@[simp] theorem Dev.onMac_mram (d : Dev) (f : MacSt → MacSt) : (d.onMac f).mram = d.mram := rfl
@[simp] theorem Dev.onMac_vault (d : Dev) (f : MacSt → MacSt) : (d.onMac f).vault = d.vault := rfl
@[simp] theorem Dev.onMac_keys (d : Dev) (f : MacSt → MacSt) : (d.onMac f).keys = d.keys := rfl
@[simp] theorem Dev.onMac_fw (d : Dev) (f : MacSt → MacSt) : (d.onMac f).fw = d.fw := rfl
@[simp] theorem Dev.onMac_power (d : Dev) (f : MacSt → MacSt) : (d.onMac f).power = d.power := rfl
@[simp] theorem Dev.onMac_msec (d : Dev) (f : MacSt → MacSt) : (d.onMac f).msec = d.msec := rfl
@[simp] theorem Dev.onMac_fr (d : Dev) (f : MacSt → MacSt) : (d.onMac f).fr = d.fr := rfl
@[simp] theorem Dev.onMac_eg (d : Dev) (f : MacSt → MacSt) : (d.onMac f).eg = d.eg := rfl
@[simp] theorem Dev.onMac_lk (d : Dev) (f : MacSt → MacSt) : (d.onMac f).lk = d.lk := rfl
@[simp] theorem Dev.onMac_smv (d : Dev) (f : MacSt → MacSt) : (d.onMac f).smv = d.smv := rfl
@[simp] theorem Dev.onMac_mac (d : Dev) (f : MacSt → MacSt) : (d.onMac f).mac = f d.mac := rfl
@[simp] theorem Dev.onMac_lanes (d : Dev) (f : MacSt → MacSt) : (d.onMac f).lanes = d.lanes := rfl
@[simp] theorem Dev.onMac_freeCtr (d : Dev) (f : MacSt → MacSt) : (d.onMac f).freeCtr = d.freeCtr := rfl
@[simp] theorem Dev.onMac_wire (d : Dev) (f : MacSt → MacSt) : (d.onMac f).wire = d.wire := rfl
@[simp] theorem Dev.onLanes_host (d : Dev) (f : LaneSt → LaneSt) : (d.onLanes f).host = d.host := rfl
@[simp] theorem Dev.onLanes_cfg (d : Dev) (f : LaneSt → LaneSt) : (d.onLanes f).cfg = d.cfg := rfl
@[simp] theorem Dev.onLanes_fret (d : Dev) (f : LaneSt → LaneSt) : (d.onLanes f).fret = d.fret := rfl
@[simp] theorem Dev.onLanes_time (d : Dev) (f : LaneSt → LaneSt) : (d.onLanes f).time = d.time := rfl
@[simp] theorem Dev.onLanes_cnt (d : Dev) (f : LaneSt → LaneSt) : (d.onLanes f).cnt = d.cnt := rfl
@[simp] theorem Dev.onLanes_course (d : Dev) (f : LaneSt → LaneSt) : (d.onLanes f).course = d.course := rfl
@[simp] theorem Dev.onLanes_tamper (d : Dev) (f : LaneSt → LaneSt) : (d.onLanes f).tamper = d.tamper := rfl
@[simp] theorem Dev.onLanes_mram (d : Dev) (f : LaneSt → LaneSt) : (d.onLanes f).mram = d.mram := rfl
@[simp] theorem Dev.onLanes_vault (d : Dev) (f : LaneSt → LaneSt) : (d.onLanes f).vault = d.vault := rfl
@[simp] theorem Dev.onLanes_keys (d : Dev) (f : LaneSt → LaneSt) : (d.onLanes f).keys = d.keys := rfl
@[simp] theorem Dev.onLanes_fw (d : Dev) (f : LaneSt → LaneSt) : (d.onLanes f).fw = d.fw := rfl
@[simp] theorem Dev.onLanes_power (d : Dev) (f : LaneSt → LaneSt) : (d.onLanes f).power = d.power := rfl
@[simp] theorem Dev.onLanes_msec (d : Dev) (f : LaneSt → LaneSt) : (d.onLanes f).msec = d.msec := rfl
@[simp] theorem Dev.onLanes_fr (d : Dev) (f : LaneSt → LaneSt) : (d.onLanes f).fr = d.fr := rfl
@[simp] theorem Dev.onLanes_eg (d : Dev) (f : LaneSt → LaneSt) : (d.onLanes f).eg = d.eg := rfl
@[simp] theorem Dev.onLanes_lk (d : Dev) (f : LaneSt → LaneSt) : (d.onLanes f).lk = d.lk := rfl
@[simp] theorem Dev.onLanes_smv (d : Dev) (f : LaneSt → LaneSt) : (d.onLanes f).smv = d.smv := rfl
@[simp] theorem Dev.onLanes_mac (d : Dev) (f : LaneSt → LaneSt) : (d.onLanes f).mac = d.mac := rfl
@[simp] theorem Dev.onLanes_lanes (d : Dev) (f : LaneSt → LaneSt) : (d.onLanes f).lanes = f d.lanes := rfl
@[simp] theorem Dev.onLanes_freeCtr (d : Dev) (f : LaneSt → LaneSt) : (d.onLanes f).freeCtr = d.freeCtr := rfl
@[simp] theorem Dev.onLanes_wire (d : Dev) (f : LaneSt → LaneSt) : (d.onLanes f).wire = d.wire := rfl
@[simp] theorem Dev.onGov_host (d : Dev) (f : GovSt → GovSt) : (d.onGov f).host = d.host := rfl
@[simp] theorem Dev.onDom_host (d : Dev) (i : Nat) (f : Dom → Dom) : (d.onDom i f).host = { d.host with doms := modAt d.host.doms i f } := rfl
@[simp] theorem Dev.onEp_host (d : Dev) (e : Nat) (f : Endpoint → Endpoint) : (d.onEp e f).host = { d.host with eps := modAt d.host.eps e f } := rfl
@[simp] theorem Dev.onHem_host (d : Dev) (f : Hemuner → Hemuner) : (d.onHem f).host = { d.host with hem := f d.host.hem } := rfl
@[simp] theorem Dev.onDomCfg_host (d : Dev) (i : Nat) (f : DomCfg → DomCfg) : (d.onDomCfg i f).host = d.host := rfl
@[simp] theorem Dev.onGroup_host (d : Dev) (i : Nat) (f : Group → Group) : (d.onGroup i f).host = d.host := rfl
@[simp] theorem Dev.onPort_host (d : Dev) (p : Nat) (f : Egress → Egress) : (d.onPort p f).host = d.host := rfl
@[simp] theorem emit_host (d : Dev) (o : Out) : (emit o d).host = d.host := rfl
@[simp] theorem Dev.nextFree_host (d : Dev) : (d.nextFree).host = d.host := rfl
@[simp] theorem Dev.onGov_cfg (d : Dev) (f : GovSt → GovSt) : (d.onGov f).cfg = d.cfg := rfl
@[simp] theorem Dev.onDom_cfg (d : Dev) (i : Nat) (f : Dom → Dom) : (d.onDom i f).cfg = d.cfg := rfl
@[simp] theorem Dev.onPage_cfg (d : Dev) (i : Nat) (f : Page → Page) : (d.onPage i f).cfg = d.cfg := rfl
@[simp] theorem Dev.onRing_cfg (d : Dev) (i r : Nat) (f : Ring → Ring) : (d.onRing i r f).cfg = d.cfg := rfl
@[simp] theorem Dev.onEp_cfg (d : Dev) (e : Nat) (f : Endpoint → Endpoint) : (d.onEp e f).cfg = d.cfg := rfl
@[simp] theorem Dev.onHem_cfg (d : Dev) (f : Hemuner → Hemuner) : (d.onHem f).cfg = d.cfg := rfl
@[simp] theorem Dev.onDomCfg_cfg (d : Dev) (i : Nat) (f : DomCfg → DomCfg) : (d.onDomCfg i f).cfg = { d.cfg with doms := modAt d.cfg.doms i f } := rfl
@[simp] theorem Dev.onGroup_cfg (d : Dev) (i : Nat) (f : Group → Group) : (d.onGroup i f).cfg = d.cfg := rfl
@[simp] theorem Dev.onPort_cfg (d : Dev) (p : Nat) (f : Egress → Egress) : (d.onPort p f).cfg = d.cfg := rfl
@[simp] theorem emit_cfg (d : Dev) (o : Out) : (emit o d).cfg = d.cfg := rfl
@[simp] theorem Dev.nextFree_cfg (d : Dev) : (d.nextFree).cfg = d.cfg := rfl
@[simp] theorem Dev.onGov_fret (d : Dev) (f : GovSt → GovSt) : (d.onGov f).fret = d.fret := rfl
@[simp] theorem Dev.onDom_fret (d : Dev) (i : Nat) (f : Dom → Dom) : (d.onDom i f).fret = d.fret := rfl
@[simp] theorem Dev.onPage_fret (d : Dev) (i : Nat) (f : Page → Page) : (d.onPage i f).fret = d.fret := rfl
@[simp] theorem Dev.onRing_fret (d : Dev) (i r : Nat) (f : Ring → Ring) : (d.onRing i r f).fret = d.fret := rfl
@[simp] theorem Dev.onEp_fret (d : Dev) (e : Nat) (f : Endpoint → Endpoint) : (d.onEp e f).fret = d.fret := rfl
@[simp] theorem Dev.onHem_fret (d : Dev) (f : Hemuner → Hemuner) : (d.onHem f).fret = d.fret := rfl
@[simp] theorem Dev.onDomCfg_fret (d : Dev) (i : Nat) (f : DomCfg → DomCfg) : (d.onDomCfg i f).fret = d.fret := rfl
@[simp] theorem Dev.onGroup_fret (d : Dev) (i : Nat) (f : Group → Group) : (d.onGroup i f).fret = d.fret := rfl
@[simp] theorem Dev.onPort_fret (d : Dev) (p : Nat) (f : Egress → Egress) : (d.onPort p f).fret = d.fret := rfl
@[simp] theorem emit_fret (d : Dev) (o : Out) : (emit o d).fret = d.fret := rfl
@[simp] theorem Dev.nextFree_fret (d : Dev) : (d.nextFree).fret = d.fret := rfl
@[simp] theorem Dev.onGov_time (d : Dev) (f : GovSt → GovSt) : (d.onGov f).time = d.time := rfl
@[simp] theorem Dev.onDom_time (d : Dev) (i : Nat) (f : Dom → Dom) : (d.onDom i f).time = d.time := rfl
@[simp] theorem Dev.onPage_time (d : Dev) (i : Nat) (f : Page → Page) : (d.onPage i f).time = d.time := rfl
@[simp] theorem Dev.onRing_time (d : Dev) (i r : Nat) (f : Ring → Ring) : (d.onRing i r f).time = d.time := rfl
@[simp] theorem Dev.onEp_time (d : Dev) (e : Nat) (f : Endpoint → Endpoint) : (d.onEp e f).time = d.time := rfl
@[simp] theorem Dev.onHem_time (d : Dev) (f : Hemuner → Hemuner) : (d.onHem f).time = d.time := rfl
@[simp] theorem Dev.onDomCfg_time (d : Dev) (i : Nat) (f : DomCfg → DomCfg) : (d.onDomCfg i f).time = d.time := rfl
@[simp] theorem Dev.onGroup_time (d : Dev) (i : Nat) (f : Group → Group) : (d.onGroup i f).time = d.time := rfl
@[simp] theorem Dev.onPort_time (d : Dev) (p : Nat) (f : Egress → Egress) : (d.onPort p f).time = d.time := rfl
@[simp] theorem emit_time (d : Dev) (o : Out) : (emit o d).time = d.time := rfl
@[simp] theorem Dev.nextFree_time (d : Dev) : (d.nextFree).time = d.time := rfl
@[simp] theorem Dev.onGov_cnt (d : Dev) (f : GovSt → GovSt) : (d.onGov f).cnt = d.cnt := rfl
@[simp] theorem Dev.onDom_cnt (d : Dev) (i : Nat) (f : Dom → Dom) : (d.onDom i f).cnt = d.cnt := rfl
@[simp] theorem Dev.onPage_cnt (d : Dev) (i : Nat) (f : Page → Page) : (d.onPage i f).cnt = d.cnt := rfl
@[simp] theorem Dev.onRing_cnt (d : Dev) (i r : Nat) (f : Ring → Ring) : (d.onRing i r f).cnt = d.cnt := rfl
@[simp] theorem Dev.onEp_cnt (d : Dev) (e : Nat) (f : Endpoint → Endpoint) : (d.onEp e f).cnt = d.cnt := rfl
@[simp] theorem Dev.onHem_cnt (d : Dev) (f : Hemuner → Hemuner) : (d.onHem f).cnt = d.cnt := rfl
@[simp] theorem Dev.onDomCfg_cnt (d : Dev) (i : Nat) (f : DomCfg → DomCfg) : (d.onDomCfg i f).cnt = d.cnt := rfl
@[simp] theorem Dev.onGroup_cnt (d : Dev) (i : Nat) (f : Group → Group) : (d.onGroup i f).cnt = d.cnt := rfl
@[simp] theorem Dev.onPort_cnt (d : Dev) (p : Nat) (f : Egress → Egress) : (d.onPort p f).cnt = d.cnt := rfl
@[simp] theorem emit_cnt (d : Dev) (o : Out) : (emit o d).cnt = d.cnt := rfl
@[simp] theorem Dev.nextFree_cnt (d : Dev) : (d.nextFree).cnt = d.cnt := rfl
@[simp] theorem Dev.onGov_course (d : Dev) (f : GovSt → GovSt) : (d.onGov f).course = d.course := rfl
@[simp] theorem Dev.onDom_course (d : Dev) (i : Nat) (f : Dom → Dom) : (d.onDom i f).course = d.course := rfl
@[simp] theorem Dev.onPage_course (d : Dev) (i : Nat) (f : Page → Page) : (d.onPage i f).course = d.course := rfl
@[simp] theorem Dev.onRing_course (d : Dev) (i r : Nat) (f : Ring → Ring) : (d.onRing i r f).course = d.course := rfl
@[simp] theorem Dev.onEp_course (d : Dev) (e : Nat) (f : Endpoint → Endpoint) : (d.onEp e f).course = d.course := rfl
@[simp] theorem Dev.onHem_course (d : Dev) (f : Hemuner → Hemuner) : (d.onHem f).course = d.course := rfl
@[simp] theorem Dev.onDomCfg_course (d : Dev) (i : Nat) (f : DomCfg → DomCfg) : (d.onDomCfg i f).course = d.course := rfl
@[simp] theorem Dev.onGroup_course (d : Dev) (i : Nat) (f : Group → Group) : (d.onGroup i f).course = d.course := rfl
@[simp] theorem Dev.onPort_course (d : Dev) (p : Nat) (f : Egress → Egress) : (d.onPort p f).course = d.course := rfl
@[simp] theorem emit_course (d : Dev) (o : Out) : (emit o d).course = d.course := rfl
@[simp] theorem Dev.nextFree_course (d : Dev) : (d.nextFree).course = d.course := rfl
@[simp] theorem Dev.onGov_tamper (d : Dev) (f : GovSt → GovSt) : (d.onGov f).tamper = d.tamper := rfl
@[simp] theorem Dev.onDom_tamper (d : Dev) (i : Nat) (f : Dom → Dom) : (d.onDom i f).tamper = d.tamper := rfl
@[simp] theorem Dev.onPage_tamper (d : Dev) (i : Nat) (f : Page → Page) : (d.onPage i f).tamper = d.tamper := rfl
@[simp] theorem Dev.onRing_tamper (d : Dev) (i r : Nat) (f : Ring → Ring) : (d.onRing i r f).tamper = d.tamper := rfl
@[simp] theorem Dev.onEp_tamper (d : Dev) (e : Nat) (f : Endpoint → Endpoint) : (d.onEp e f).tamper = d.tamper := rfl
@[simp] theorem Dev.onHem_tamper (d : Dev) (f : Hemuner → Hemuner) : (d.onHem f).tamper = d.tamper := rfl
@[simp] theorem Dev.onDomCfg_tamper (d : Dev) (i : Nat) (f : DomCfg → DomCfg) : (d.onDomCfg i f).tamper = d.tamper := rfl
@[simp] theorem Dev.onGroup_tamper (d : Dev) (i : Nat) (f : Group → Group) : (d.onGroup i f).tamper = d.tamper := rfl
@[simp] theorem Dev.onPort_tamper (d : Dev) (p : Nat) (f : Egress → Egress) : (d.onPort p f).tamper = d.tamper := rfl
@[simp] theorem emit_tamper (d : Dev) (o : Out) : (emit o d).tamper = d.tamper := rfl
@[simp] theorem Dev.nextFree_tamper (d : Dev) : (d.nextFree).tamper = d.tamper := rfl
@[simp] theorem Dev.onGov_mram (d : Dev) (f : GovSt → GovSt) : (d.onGov f).mram = d.mram := rfl
@[simp] theorem Dev.onDom_mram (d : Dev) (i : Nat) (f : Dom → Dom) : (d.onDom i f).mram = d.mram := rfl
@[simp] theorem Dev.onPage_mram (d : Dev) (i : Nat) (f : Page → Page) : (d.onPage i f).mram = d.mram := rfl
@[simp] theorem Dev.onRing_mram (d : Dev) (i r : Nat) (f : Ring → Ring) : (d.onRing i r f).mram = d.mram := rfl
@[simp] theorem Dev.onEp_mram (d : Dev) (e : Nat) (f : Endpoint → Endpoint) : (d.onEp e f).mram = d.mram := rfl
@[simp] theorem Dev.onHem_mram (d : Dev) (f : Hemuner → Hemuner) : (d.onHem f).mram = d.mram := rfl
@[simp] theorem Dev.onDomCfg_mram (d : Dev) (i : Nat) (f : DomCfg → DomCfg) : (d.onDomCfg i f).mram = d.mram := rfl
@[simp] theorem Dev.onGroup_mram (d : Dev) (i : Nat) (f : Group → Group) : (d.onGroup i f).mram = d.mram := rfl
@[simp] theorem Dev.onPort_mram (d : Dev) (p : Nat) (f : Egress → Egress) : (d.onPort p f).mram = d.mram := rfl
@[simp] theorem emit_mram (d : Dev) (o : Out) : (emit o d).mram = d.mram := rfl
@[simp] theorem Dev.nextFree_mram (d : Dev) : (d.nextFree).mram = d.mram := rfl
@[simp] theorem Dev.onGov_vault (d : Dev) (f : GovSt → GovSt) : (d.onGov f).vault = d.vault := rfl
@[simp] theorem Dev.onDom_vault (d : Dev) (i : Nat) (f : Dom → Dom) : (d.onDom i f).vault = d.vault := rfl
@[simp] theorem Dev.onPage_vault (d : Dev) (i : Nat) (f : Page → Page) : (d.onPage i f).vault = d.vault := rfl
@[simp] theorem Dev.onRing_vault (d : Dev) (i r : Nat) (f : Ring → Ring) : (d.onRing i r f).vault = d.vault := rfl
@[simp] theorem Dev.onEp_vault (d : Dev) (e : Nat) (f : Endpoint → Endpoint) : (d.onEp e f).vault = d.vault := rfl
@[simp] theorem Dev.onHem_vault (d : Dev) (f : Hemuner → Hemuner) : (d.onHem f).vault = d.vault := rfl
@[simp] theorem Dev.onDomCfg_vault (d : Dev) (i : Nat) (f : DomCfg → DomCfg) : (d.onDomCfg i f).vault = d.vault := rfl
@[simp] theorem Dev.onGroup_vault (d : Dev) (i : Nat) (f : Group → Group) : (d.onGroup i f).vault = d.vault := rfl
@[simp] theorem Dev.onPort_vault (d : Dev) (p : Nat) (f : Egress → Egress) : (d.onPort p f).vault = d.vault := rfl
@[simp] theorem emit_vault (d : Dev) (o : Out) : (emit o d).vault = d.vault := rfl
@[simp] theorem Dev.nextFree_vault (d : Dev) : (d.nextFree).vault = d.vault := rfl
@[simp] theorem Dev.onGov_keys (d : Dev) (f : GovSt → GovSt) : (d.onGov f).keys = d.keys := rfl
@[simp] theorem Dev.onDom_keys (d : Dev) (i : Nat) (f : Dom → Dom) : (d.onDom i f).keys = d.keys := rfl
@[simp] theorem Dev.onPage_keys (d : Dev) (i : Nat) (f : Page → Page) : (d.onPage i f).keys = d.keys := rfl
@[simp] theorem Dev.onRing_keys (d : Dev) (i r : Nat) (f : Ring → Ring) : (d.onRing i r f).keys = d.keys := rfl
@[simp] theorem Dev.onEp_keys (d : Dev) (e : Nat) (f : Endpoint → Endpoint) : (d.onEp e f).keys = d.keys := rfl
@[simp] theorem Dev.onHem_keys (d : Dev) (f : Hemuner → Hemuner) : (d.onHem f).keys = d.keys := rfl
@[simp] theorem Dev.onDomCfg_keys (d : Dev) (i : Nat) (f : DomCfg → DomCfg) : (d.onDomCfg i f).keys = d.keys := rfl
@[simp] theorem Dev.onGroup_keys (d : Dev) (i : Nat) (f : Group → Group) : (d.onGroup i f).keys = d.keys := rfl
@[simp] theorem Dev.onPort_keys (d : Dev) (p : Nat) (f : Egress → Egress) : (d.onPort p f).keys = d.keys := rfl
@[simp] theorem emit_keys (d : Dev) (o : Out) : (emit o d).keys = d.keys := rfl
@[simp] theorem Dev.nextFree_keys (d : Dev) : (d.nextFree).keys = d.keys := rfl
@[simp] theorem Dev.onGov_fw (d : Dev) (f : GovSt → GovSt) : (d.onGov f).fw = d.fw := rfl
@[simp] theorem Dev.onDom_fw (d : Dev) (i : Nat) (f : Dom → Dom) : (d.onDom i f).fw = d.fw := rfl
@[simp] theorem Dev.onPage_fw (d : Dev) (i : Nat) (f : Page → Page) : (d.onPage i f).fw = d.fw := rfl
@[simp] theorem Dev.onRing_fw (d : Dev) (i r : Nat) (f : Ring → Ring) : (d.onRing i r f).fw = d.fw := rfl
@[simp] theorem Dev.onEp_fw (d : Dev) (e : Nat) (f : Endpoint → Endpoint) : (d.onEp e f).fw = d.fw := rfl
@[simp] theorem Dev.onHem_fw (d : Dev) (f : Hemuner → Hemuner) : (d.onHem f).fw = d.fw := rfl
@[simp] theorem Dev.onDomCfg_fw (d : Dev) (i : Nat) (f : DomCfg → DomCfg) : (d.onDomCfg i f).fw = d.fw := rfl
@[simp] theorem Dev.onGroup_fw (d : Dev) (i : Nat) (f : Group → Group) : (d.onGroup i f).fw = d.fw := rfl
@[simp] theorem Dev.onPort_fw (d : Dev) (p : Nat) (f : Egress → Egress) : (d.onPort p f).fw = d.fw := rfl
@[simp] theorem emit_fw (d : Dev) (o : Out) : (emit o d).fw = d.fw := rfl
@[simp] theorem Dev.nextFree_fw (d : Dev) : (d.nextFree).fw = d.fw := rfl
@[simp] theorem Dev.onGov_power (d : Dev) (f : GovSt → GovSt) : (d.onGov f).power = { d.power with gov := f d.power.gov } := rfl
@[simp] theorem Dev.onDom_power (d : Dev) (i : Nat) (f : Dom → Dom) : (d.onDom i f).power = d.power := rfl
@[simp] theorem Dev.onPage_power (d : Dev) (i : Nat) (f : Page → Page) : (d.onPage i f).power = d.power := rfl
@[simp] theorem Dev.onRing_power (d : Dev) (i r : Nat) (f : Ring → Ring) : (d.onRing i r f).power = d.power := rfl
@[simp] theorem Dev.onEp_power (d : Dev) (e : Nat) (f : Endpoint → Endpoint) : (d.onEp e f).power = d.power := rfl
@[simp] theorem Dev.onHem_power (d : Dev) (f : Hemuner → Hemuner) : (d.onHem f).power = d.power := rfl
@[simp] theorem Dev.onDomCfg_power (d : Dev) (i : Nat) (f : DomCfg → DomCfg) : (d.onDomCfg i f).power = d.power := rfl
@[simp] theorem Dev.onGroup_power (d : Dev) (i : Nat) (f : Group → Group) : (d.onGroup i f).power = d.power := rfl
@[simp] theorem Dev.onPort_power (d : Dev) (p : Nat) (f : Egress → Egress) : (d.onPort p f).power = d.power := rfl
@[simp] theorem emit_power (d : Dev) (o : Out) : (emit o d).power = d.power := rfl
@[simp] theorem Dev.nextFree_power (d : Dev) : (d.nextFree).power = d.power := rfl
@[simp] theorem Dev.onGov_msec (d : Dev) (f : GovSt → GovSt) : (d.onGov f).msec = d.msec := rfl
@[simp] theorem Dev.onDom_msec (d : Dev) (i : Nat) (f : Dom → Dom) : (d.onDom i f).msec = d.msec := rfl
@[simp] theorem Dev.onPage_msec (d : Dev) (i : Nat) (f : Page → Page) : (d.onPage i f).msec = d.msec := rfl
@[simp] theorem Dev.onRing_msec (d : Dev) (i r : Nat) (f : Ring → Ring) : (d.onRing i r f).msec = d.msec := rfl
@[simp] theorem Dev.onEp_msec (d : Dev) (e : Nat) (f : Endpoint → Endpoint) : (d.onEp e f).msec = d.msec := rfl
@[simp] theorem Dev.onHem_msec (d : Dev) (f : Hemuner → Hemuner) : (d.onHem f).msec = d.msec := rfl
@[simp] theorem Dev.onDomCfg_msec (d : Dev) (i : Nat) (f : DomCfg → DomCfg) : (d.onDomCfg i f).msec = d.msec := rfl
@[simp] theorem Dev.onGroup_msec (d : Dev) (i : Nat) (f : Group → Group) : (d.onGroup i f).msec = d.msec := rfl
@[simp] theorem Dev.onPort_msec (d : Dev) (p : Nat) (f : Egress → Egress) : (d.onPort p f).msec = d.msec := rfl
@[simp] theorem emit_msec (d : Dev) (o : Out) : (emit o d).msec = d.msec := rfl
@[simp] theorem Dev.nextFree_msec (d : Dev) : (d.nextFree).msec = d.msec := rfl
@[simp] theorem Dev.onGov_fr (d : Dev) (f : GovSt → GovSt) : (d.onGov f).fr = d.fr := rfl
@[simp] theorem Dev.onDom_fr (d : Dev) (i : Nat) (f : Dom → Dom) : (d.onDom i f).fr = d.fr := rfl
@[simp] theorem Dev.onPage_fr (d : Dev) (i : Nat) (f : Page → Page) : (d.onPage i f).fr = d.fr := rfl
@[simp] theorem Dev.onRing_fr (d : Dev) (i r : Nat) (f : Ring → Ring) : (d.onRing i r f).fr = d.fr := rfl
@[simp] theorem Dev.onEp_fr (d : Dev) (e : Nat) (f : Endpoint → Endpoint) : (d.onEp e f).fr = d.fr := rfl
@[simp] theorem Dev.onHem_fr (d : Dev) (f : Hemuner → Hemuner) : (d.onHem f).fr = d.fr := rfl
@[simp] theorem Dev.onDomCfg_fr (d : Dev) (i : Nat) (f : DomCfg → DomCfg) : (d.onDomCfg i f).fr = d.fr := rfl
@[simp] theorem Dev.onGroup_fr (d : Dev) (i : Nat) (f : Group → Group) : (d.onGroup i f).fr = d.fr := rfl
@[simp] theorem Dev.onPort_fr (d : Dev) (p : Nat) (f : Egress → Egress) : (d.onPort p f).fr = d.fr := rfl
@[simp] theorem emit_fr (d : Dev) (o : Out) : (emit o d).fr = d.fr := rfl
@[simp] theorem Dev.nextFree_fr (d : Dev) : (d.nextFree).fr = d.fr := rfl
@[simp] theorem Dev.onGov_eg (d : Dev) (f : GovSt → GovSt) : (d.onGov f).eg = d.eg := rfl
@[simp] theorem Dev.onDom_eg (d : Dev) (i : Nat) (f : Dom → Dom) : (d.onDom i f).eg = d.eg := rfl
@[simp] theorem Dev.onPage_eg (d : Dev) (i : Nat) (f : Page → Page) : (d.onPage i f).eg = d.eg := rfl
@[simp] theorem Dev.onRing_eg (d : Dev) (i r : Nat) (f : Ring → Ring) : (d.onRing i r f).eg = d.eg := rfl
@[simp] theorem Dev.onEp_eg (d : Dev) (e : Nat) (f : Endpoint → Endpoint) : (d.onEp e f).eg = d.eg := rfl
@[simp] theorem Dev.onHem_eg (d : Dev) (f : Hemuner → Hemuner) : (d.onHem f).eg = d.eg := rfl
@[simp] theorem Dev.onDomCfg_eg (d : Dev) (i : Nat) (f : DomCfg → DomCfg) : (d.onDomCfg i f).eg = d.eg := rfl
@[simp] theorem Dev.onGroup_eg (d : Dev) (i : Nat) (f : Group → Group) : (d.onGroup i f).eg = d.eg := rfl
@[simp] theorem Dev.onPort_eg (d : Dev) (p : Nat) (f : Egress → Egress) : (d.onPort p f).eg = { d.eg with ports := modAt d.eg.ports p f } := rfl
@[simp] theorem emit_eg (d : Dev) (o : Out) : (emit o d).eg = d.eg := rfl
@[simp] theorem Dev.nextFree_eg (d : Dev) : (d.nextFree).eg = d.eg := rfl
@[simp] theorem Dev.onGov_lk (d : Dev) (f : GovSt → GovSt) : (d.onGov f).lk = d.lk := rfl
@[simp] theorem Dev.onDom_lk (d : Dev) (i : Nat) (f : Dom → Dom) : (d.onDom i f).lk = d.lk := rfl
@[simp] theorem Dev.onPage_lk (d : Dev) (i : Nat) (f : Page → Page) : (d.onPage i f).lk = d.lk := rfl
@[simp] theorem Dev.onRing_lk (d : Dev) (i r : Nat) (f : Ring → Ring) : (d.onRing i r f).lk = d.lk := rfl
@[simp] theorem Dev.onEp_lk (d : Dev) (e : Nat) (f : Endpoint → Endpoint) : (d.onEp e f).lk = d.lk := rfl
@[simp] theorem Dev.onHem_lk (d : Dev) (f : Hemuner → Hemuner) : (d.onHem f).lk = d.lk := rfl
@[simp] theorem Dev.onDomCfg_lk (d : Dev) (i : Nat) (f : DomCfg → DomCfg) : (d.onDomCfg i f).lk = d.lk := rfl
@[simp] theorem Dev.onGroup_lk (d : Dev) (i : Nat) (f : Group → Group) : (d.onGroup i f).lk = d.lk := rfl
@[simp] theorem Dev.onPort_lk (d : Dev) (p : Nat) (f : Egress → Egress) : (d.onPort p f).lk = d.lk := rfl
@[simp] theorem emit_lk (d : Dev) (o : Out) : (emit o d).lk = d.lk := rfl
@[simp] theorem Dev.nextFree_lk (d : Dev) : (d.nextFree).lk = d.lk := rfl
@[simp] theorem Dev.onGov_smv (d : Dev) (f : GovSt → GovSt) : (d.onGov f).smv = d.smv := rfl
@[simp] theorem Dev.onDom_smv (d : Dev) (i : Nat) (f : Dom → Dom) : (d.onDom i f).smv = d.smv := rfl
@[simp] theorem Dev.onPage_smv (d : Dev) (i : Nat) (f : Page → Page) : (d.onPage i f).smv = d.smv := rfl
@[simp] theorem Dev.onRing_smv (d : Dev) (i r : Nat) (f : Ring → Ring) : (d.onRing i r f).smv = d.smv := rfl
@[simp] theorem Dev.onEp_smv (d : Dev) (e : Nat) (f : Endpoint → Endpoint) : (d.onEp e f).smv = d.smv := rfl
@[simp] theorem Dev.onHem_smv (d : Dev) (f : Hemuner → Hemuner) : (d.onHem f).smv = d.smv := rfl
@[simp] theorem Dev.onDomCfg_smv (d : Dev) (i : Nat) (f : DomCfg → DomCfg) : (d.onDomCfg i f).smv = d.smv := rfl
@[simp] theorem Dev.onGroup_smv (d : Dev) (i : Nat) (f : Group → Group) : (d.onGroup i f).smv = modAt d.smv i f := rfl
@[simp] theorem Dev.onPort_smv (d : Dev) (p : Nat) (f : Egress → Egress) : (d.onPort p f).smv = d.smv := rfl
@[simp] theorem emit_smv (d : Dev) (o : Out) : (emit o d).smv = d.smv := rfl
@[simp] theorem Dev.nextFree_smv (d : Dev) : (d.nextFree).smv = d.smv := rfl
@[simp] theorem Dev.onGov_mac (d : Dev) (f : GovSt → GovSt) : (d.onGov f).mac = d.mac := rfl
@[simp] theorem Dev.onDom_mac (d : Dev) (i : Nat) (f : Dom → Dom) : (d.onDom i f).mac = d.mac := rfl
@[simp] theorem Dev.onPage_mac (d : Dev) (i : Nat) (f : Page → Page) : (d.onPage i f).mac = d.mac := rfl
@[simp] theorem Dev.onRing_mac (d : Dev) (i r : Nat) (f : Ring → Ring) : (d.onRing i r f).mac = d.mac := rfl
@[simp] theorem Dev.onEp_mac (d : Dev) (e : Nat) (f : Endpoint → Endpoint) : (d.onEp e f).mac = d.mac := rfl
@[simp] theorem Dev.onHem_mac (d : Dev) (f : Hemuner → Hemuner) : (d.onHem f).mac = d.mac := rfl
@[simp] theorem Dev.onDomCfg_mac (d : Dev) (i : Nat) (f : DomCfg → DomCfg) : (d.onDomCfg i f).mac = d.mac := rfl
@[simp] theorem Dev.onGroup_mac (d : Dev) (i : Nat) (f : Group → Group) : (d.onGroup i f).mac = d.mac := rfl
@[simp] theorem Dev.onPort_mac (d : Dev) (p : Nat) (f : Egress → Egress) : (d.onPort p f).mac = d.mac := rfl
@[simp] theorem emit_mac (d : Dev) (o : Out) : (emit o d).mac = d.mac := rfl
@[simp] theorem Dev.nextFree_mac (d : Dev) : (d.nextFree).mac = d.mac := rfl
@[simp] theorem Dev.onGov_lanes (d : Dev) (f : GovSt → GovSt) : (d.onGov f).lanes = d.lanes := rfl
@[simp] theorem Dev.onDom_lanes (d : Dev) (i : Nat) (f : Dom → Dom) : (d.onDom i f).lanes = d.lanes := rfl
@[simp] theorem Dev.onPage_lanes (d : Dev) (i : Nat) (f : Page → Page) : (d.onPage i f).lanes = d.lanes := rfl
@[simp] theorem Dev.onRing_lanes (d : Dev) (i r : Nat) (f : Ring → Ring) : (d.onRing i r f).lanes = d.lanes := rfl
@[simp] theorem Dev.onEp_lanes (d : Dev) (e : Nat) (f : Endpoint → Endpoint) : (d.onEp e f).lanes = d.lanes := rfl
@[simp] theorem Dev.onHem_lanes (d : Dev) (f : Hemuner → Hemuner) : (d.onHem f).lanes = d.lanes := rfl
@[simp] theorem Dev.onDomCfg_lanes (d : Dev) (i : Nat) (f : DomCfg → DomCfg) : (d.onDomCfg i f).lanes = d.lanes := rfl
@[simp] theorem Dev.onGroup_lanes (d : Dev) (i : Nat) (f : Group → Group) : (d.onGroup i f).lanes = d.lanes := rfl
@[simp] theorem Dev.onPort_lanes (d : Dev) (p : Nat) (f : Egress → Egress) : (d.onPort p f).lanes = d.lanes := rfl
@[simp] theorem emit_lanes (d : Dev) (o : Out) : (emit o d).lanes = d.lanes := rfl
@[simp] theorem Dev.nextFree_lanes (d : Dev) : (d.nextFree).lanes = d.lanes := rfl
@[simp] theorem Dev.onGov_freeCtr (d : Dev) (f : GovSt → GovSt) : (d.onGov f).freeCtr = d.freeCtr := rfl
@[simp] theorem Dev.onDom_freeCtr (d : Dev) (i : Nat) (f : Dom → Dom) : (d.onDom i f).freeCtr = d.freeCtr := rfl
@[simp] theorem Dev.onPage_freeCtr (d : Dev) (i : Nat) (f : Page → Page) : (d.onPage i f).freeCtr = d.freeCtr := rfl
@[simp] theorem Dev.onRing_freeCtr (d : Dev) (i r : Nat) (f : Ring → Ring) : (d.onRing i r f).freeCtr = d.freeCtr := rfl
@[simp] theorem Dev.onEp_freeCtr (d : Dev) (e : Nat) (f : Endpoint → Endpoint) : (d.onEp e f).freeCtr = d.freeCtr := rfl
@[simp] theorem Dev.onHem_freeCtr (d : Dev) (f : Hemuner → Hemuner) : (d.onHem f).freeCtr = d.freeCtr := rfl
@[simp] theorem Dev.onDomCfg_freeCtr (d : Dev) (i : Nat) (f : DomCfg → DomCfg) : (d.onDomCfg i f).freeCtr = d.freeCtr := rfl
@[simp] theorem Dev.onGroup_freeCtr (d : Dev) (i : Nat) (f : Group → Group) : (d.onGroup i f).freeCtr = d.freeCtr := rfl
@[simp] theorem Dev.onPort_freeCtr (d : Dev) (p : Nat) (f : Egress → Egress) : (d.onPort p f).freeCtr = d.freeCtr := rfl
@[simp] theorem emit_freeCtr (d : Dev) (o : Out) : (emit o d).freeCtr = d.freeCtr := rfl
@[simp] theorem Dev.nextFree_freeCtr (d : Dev) : (d.nextFree).freeCtr = d.freeCtr + 1 := rfl
@[simp] theorem Dev.onGov_wire (d : Dev) (f : GovSt → GovSt) : (d.onGov f).wire = d.wire := rfl
@[simp] theorem Dev.onDom_wire (d : Dev) (i : Nat) (f : Dom → Dom) : (d.onDom i f).wire = d.wire := rfl
@[simp] theorem Dev.onPage_wire (d : Dev) (i : Nat) (f : Page → Page) : (d.onPage i f).wire = d.wire := rfl
@[simp] theorem Dev.onRing_wire (d : Dev) (i r : Nat) (f : Ring → Ring) : (d.onRing i r f).wire = d.wire := rfl
@[simp] theorem Dev.onEp_wire (d : Dev) (e : Nat) (f : Endpoint → Endpoint) : (d.onEp e f).wire = d.wire := rfl
@[simp] theorem Dev.onHem_wire (d : Dev) (f : Hemuner → Hemuner) : (d.onHem f).wire = d.wire := rfl
@[simp] theorem Dev.onDomCfg_wire (d : Dev) (i : Nat) (f : DomCfg → DomCfg) : (d.onDomCfg i f).wire = d.wire := rfl
@[simp] theorem Dev.onGroup_wire (d : Dev) (i : Nat) (f : Group → Group) : (d.onGroup i f).wire = d.wire := rfl
@[simp] theorem Dev.onPort_wire (d : Dev) (p : Nat) (f : Egress → Egress) : (d.onPort p f).wire = d.wire := rfl
@[simp] theorem emit_wire (d : Dev) (o : Out) : (emit o d).wire = o :: d.wire := rfl
@[simp] theorem Dev.nextFree_wire (d : Dev) : (d.nextFree).wire = d.wire := rfl
@[simp] theorem bumpBy_host (d : Dev) (code inst n : Nat) : (bumpBy code inst n d).host = d.host := rfl
@[simp] theorem bumpBy_cfg (d : Dev) (code inst n : Nat) : (bumpBy code inst n d).cfg = d.cfg := rfl
@[simp] theorem bumpBy_fret (d : Dev) (code inst n : Nat) : (bumpBy code inst n d).fret = d.fret := rfl
@[simp] theorem bumpBy_time (d : Dev) (code inst n : Nat) : (bumpBy code inst n d).time = d.time := rfl
@[simp] theorem bumpBy_course (d : Dev) (code inst n : Nat) : (bumpBy code inst n d).course = d.course := rfl
@[simp] theorem bumpBy_tamper (d : Dev) (code inst n : Nat) : (bumpBy code inst n d).tamper = d.tamper := rfl
@[simp] theorem bumpBy_mram (d : Dev) (code inst n : Nat) : (bumpBy code inst n d).mram = d.mram := rfl
@[simp] theorem bumpBy_vault (d : Dev) (code inst n : Nat) : (bumpBy code inst n d).vault = d.vault := rfl
@[simp] theorem bumpBy_keys (d : Dev) (code inst n : Nat) : (bumpBy code inst n d).keys = d.keys := rfl
@[simp] theorem bumpBy_fw (d : Dev) (code inst n : Nat) : (bumpBy code inst n d).fw = d.fw := rfl
@[simp] theorem bumpBy_power (d : Dev) (code inst n : Nat) : (bumpBy code inst n d).power = d.power := rfl
@[simp] theorem bumpBy_msec (d : Dev) (code inst n : Nat) : (bumpBy code inst n d).msec = d.msec := rfl
@[simp] theorem bumpBy_fr (d : Dev) (code inst n : Nat) : (bumpBy code inst n d).fr = d.fr := rfl
@[simp] theorem bumpBy_eg (d : Dev) (code inst n : Nat) : (bumpBy code inst n d).eg = d.eg := rfl
@[simp] theorem bumpBy_lk (d : Dev) (code inst n : Nat) : (bumpBy code inst n d).lk = d.lk := rfl
@[simp] theorem bumpBy_smv (d : Dev) (code inst n : Nat) : (bumpBy code inst n d).smv = d.smv := rfl
@[simp] theorem bumpBy_mac (d : Dev) (code inst n : Nat) : (bumpBy code inst n d).mac = d.mac := rfl
@[simp] theorem bumpBy_lanes (d : Dev) (code inst n : Nat) : (bumpBy code inst n d).lanes = d.lanes := rfl
@[simp] theorem bumpBy_freeCtr (d : Dev) (code inst n : Nat) : (bumpBy code inst n d).freeCtr = d.freeCtr := rfl
@[simp] theorem bumpBy_wire (d : Dev) (code inst n : Nat) : (bumpBy code inst n d).wire = d.wire := rfl

@[simp] theorem State.onDev_dev (s : State) (f : Dev → Dev) : (s.onDev f).dev = f s.dev := rfl
@[simp] theorem State.onDev_pending (s : State) (f : Dev → Dev) : (s.onDev f).pending = s.pending := rfl

end Sys2Proof.Machine
end

