-- ==== Sys2Proof/Laws/Commands.lean ====
section
/-! SUPPORT. What taking a command does, for the commands that the command processor executes at once; and what folds over
the device leave. -/

namespace Sys2Proof.Machine

/-! ### Folds -/

/-- A fold over the device leaves what each of its steps leaves. -/
theorem forEach_keeps {α β : Type} (g : Dev → β) (l : List α) (f : α → Dev → Dev) (d : Dev)
    (h : ∀ a d, g (f a d) = g d) : g (forEach l f d) = g d := by
  unfold forEach
  induction l generalizing d with
  | nil => rfl
  | cons a l ih => simpa [List.foldl] using (ih (f a d)).trans (h a d)

@[simp] theorem forEach_nil {α : Type} (f : α → Dev → Dev) (d : Dev) : forEach [] f d = d := rfl

@[simp] theorem forEach_cons {α : Type} (a : α) (l : List α) (f : α → Dev → Dev) (d : Dev) :
    forEach (a :: l) f d = forEach l f (f a d) := rfl

/-- A programmable event changes counters only. -/
theorem progEvent_keeps {β : Type} (g : Dev → β) (h : ∀ d f, g (Dev.onCnt d f) = g d) (ev slice bit n : Nat) (d : Dev) :
    g (progEvent ev slice bit n d) = g d := by
  refine forEach_keeps g _ _ d ?_
  intro a d
  split
  · exact h d (fun c => { c with vals := Tbl.set 0 (cntId 0 a.1) (satAdd 48 (Tbl.get 0 (cntId 0 a.1) c.vals) n) c.vals })
  · rfl

/-- A function that keeps every view of the device but its counters gives the device with other counters. -/
theorem cnt_alone (d e : Dev) (h : ∀ (β : Type) (g : Dev → β), (∀ d f, g (Dev.onCnt d f) = g d) → g e = g d) :
    e = d.onCnt (fun _ => e.cnt) := by
  exact h Dev (fun x => x.onCnt (fun _ => e.cnt)) (fun _ _ => rfl)

/-- What the lanes of a port count changes counters only (03 R65). -/
theorem countFec_eq (p : Nat) (errs : List LaneErrs) (d : Dev) :
    countFec p errs d = d.onCnt (fun _ => (countFec p errs d).cnt) := by
  refine cnt_alone d _ fun β g h => ?_
  unfold countFec
  split
  · rfl
  · exact forEach_keeps g _ _ d (fun a d => by simp only [bumpBy]; rw [h, h, h])

/-- What the lanes of a Smivia group count changes counters only (03 R69). -/
theorem countMarkers_eq (p : Nat) (errs : List LaneErrs) (d : Dev) :
    countMarkers p errs d = d.onCnt (fun _ => (countMarkers p errs d).cnt) := by
  refine cnt_alone d _ fun β g h => ?_
  unfold countMarkers
  exact forEach_keeps g _ _ d (fun a d => by simp only [bumpBy]; rw [h, h])

/-! ### A command taken at once -/

/-- A command whose tag is fresh enters and is checked. -/
theorem runCmd_fresh (oi : Option Instr) (c : Cmd) (d : Dev) (h : d.freshTag c) : runCmd oi c d = startCmd oi c (d.entered c) := by
  have hr : ∀ d : Dev, (progEvent 0x110 2 c.dom 1 d).host = d.host := fun d =>
    progEvent_keeps Dev.host (fun _ _ => rfl) _ _ _ _ d
  unfold runCmd Dev.entered
  rcases h with h | ⟨h1, h2⟩
  · simp [h]
  · have e1 : (Dev.ring (progEvent 0x110 2 c.dom 1 d) c.dom c.ring) = d.ring c.dom c.ring := by
      simp [Dev.ring, Dev.dom, hr]
    have e2 : (Dev.dom (progEvent 0x110 2 c.dom 1 d) c.dom) = d.dom c.dom := by simp [Dev.dom, hr]
    split
    · rfl
    · simp only [e1, e2, h1, h2]

/-- Entering changes the command's domain and counters only. -/
theorem entered_keeps {β : Type} (g : Dev → β) (h1 : ∀ d f, g (Dev.onCnt d f) = g d) (h2 : ∀ d i f, g (Dev.onDom d i f) = g d)
    (c : Cmd) (d : Dev) : g (d.entered c) = g d := by
  unfold Dev.entered enter
  rw [h2]
  exact progEvent_keeps g h1 _ _ _ _ d

@[simp] theorem entered_cfg (c : Cmd) (d : Dev) : (d.entered c).cfg = d.cfg :=
  entered_keeps Dev.cfg (fun _ _ => rfl) (fun _ _ _ => rfl) c d
@[simp] theorem entered_fret (c : Cmd) (d : Dev) : (d.entered c).fret = d.fret :=
  entered_keeps Dev.fret (fun _ _ => rfl) (fun _ _ _ => rfl) c d
@[simp] theorem entered_time (c : Cmd) (d : Dev) : (d.entered c).time = d.time :=
  entered_keeps Dev.time (fun _ _ => rfl) (fun _ _ _ => rfl) c d
@[simp] theorem entered_course (c : Cmd) (d : Dev) : (d.entered c).course = d.course :=
  entered_keeps Dev.course (fun _ _ => rfl) (fun _ _ _ => rfl) c d
@[simp] theorem entered_tamper (c : Cmd) (d : Dev) : (d.entered c).tamper = d.tamper :=
  entered_keeps Dev.tamper (fun _ _ => rfl) (fun _ _ _ => rfl) c d
@[simp] theorem entered_mram (c : Cmd) (d : Dev) : (d.entered c).mram = d.mram :=
  entered_keeps Dev.mram (fun _ _ => rfl) (fun _ _ _ => rfl) c d
@[simp] theorem entered_vault (c : Cmd) (d : Dev) : (d.entered c).vault = d.vault :=
  entered_keeps Dev.vault (fun _ _ => rfl) (fun _ _ _ => rfl) c d
@[simp] theorem entered_keys (c : Cmd) (d : Dev) : (d.entered c).keys = d.keys :=
  entered_keeps Dev.keys (fun _ _ => rfl) (fun _ _ _ => rfl) c d
@[simp] theorem entered_fw (c : Cmd) (d : Dev) : (d.entered c).fw = d.fw :=
  entered_keeps Dev.fw (fun _ _ => rfl) (fun _ _ _ => rfl) c d
@[simp] theorem entered_power (c : Cmd) (d : Dev) : (d.entered c).power = d.power :=
  entered_keeps Dev.power (fun _ _ => rfl) (fun _ _ _ => rfl) c d
@[simp] theorem entered_msec (c : Cmd) (d : Dev) : (d.entered c).msec = d.msec :=
  entered_keeps Dev.msec (fun _ _ => rfl) (fun _ _ _ => rfl) c d
@[simp] theorem entered_fr (c : Cmd) (d : Dev) : (d.entered c).fr = d.fr :=
  entered_keeps Dev.fr (fun _ _ => rfl) (fun _ _ _ => rfl) c d
@[simp] theorem entered_eg (c : Cmd) (d : Dev) : (d.entered c).eg = d.eg :=
  entered_keeps Dev.eg (fun _ _ => rfl) (fun _ _ _ => rfl) c d
@[simp] theorem entered_lk (c : Cmd) (d : Dev) : (d.entered c).lk = d.lk :=
  entered_keeps Dev.lk (fun _ _ => rfl) (fun _ _ _ => rfl) c d
@[simp] theorem entered_smv (c : Cmd) (d : Dev) : (d.entered c).smv = d.smv :=
  entered_keeps Dev.smv (fun _ _ => rfl) (fun _ _ _ => rfl) c d
@[simp] theorem entered_mac (c : Cmd) (d : Dev) : (d.entered c).mac = d.mac :=
  entered_keeps Dev.mac (fun _ _ => rfl) (fun _ _ _ => rfl) c d
@[simp] theorem entered_lanes (c : Cmd) (d : Dev) : (d.entered c).lanes = d.lanes :=
  entered_keeps Dev.lanes (fun _ _ => rfl) (fun _ _ _ => rfl) c d
@[simp] theorem entered_freeCtr (c : Cmd) (d : Dev) : (d.entered c).freeCtr = d.freeCtr :=
  entered_keeps Dev.freeCtr (fun _ _ => rfl) (fun _ _ _ => rfl) c d
@[simp] theorem entered_wire (c : Cmd) (d : Dev) : (d.entered c).wire = d.wire :=
  entered_keeps Dev.wire (fun _ _ => rfl) (fun _ _ _ => rfl) c d

@[simp] theorem entered_obj (c : Cmd) (d : Dev) (cls key : Nat) : (d.entered c).obj cls key = d.obj cls key := by
  simp [Dev.obj, Dev.objAt, Dev.tableAt, Dev.banks, Dev.rst]

@[simp] theorem entered_quota (c : Cmd) (d : Dev) (dom : Nat) : (d.entered c).quota dom = d.quota dom := by
  simp [Dev.quota, Dev.failSafe, Dev.table, Dev.tableAt, Dev.banks, Dev.rst]

@[simp] theorem entered_grant (c : Cmd) (d : Dev) (dom g : Nat) : (d.entered c).grant dom g = d.grant dom g := by
  simp [Dev.grant, Dev.failSafe]

@[simp] theorem entered_sup (c : Cmd) (d : Dev) : (d.entered c).sup = d.sup := by simp [Dev.sup]

@[simp] theorem entered_lc (c : Cmd) (d : Dev) : (d.entered c).lc = d.lc := by simp [Dev.lc]

@[simp] theorem entered_denies (c : Cmd) (d : Dev) (op : Nat) (i : Instr) : (d.entered c).denies op i = d.denies op i := by
  simp [Dev.denies, Dev.lc, Dev.lockdown, Dev.response, Dev.strongest, Dev.tampered]

@[simp] theorem entered_frozen (c : Cmd) (d : Dev) : (d.entered c).frozen = d.frozen := by simp [Dev.frozen]

/-- A command that is heard, and whose encoding is valid or not: it is taken at once, and the rings of its domain go
on. -/
theorem take_heard (c : Cmd) (oi : Option Instr) (d : Dev) (a : Heard d c) :
    take c oi d = drainDom c.dom (runCmd oi c d) := by
  have n1 : ¬((!d.admits c.dom) = true ∨ (c.dom = dmCode ∧ isLkOp c.op = true)) := by
    simp [a.admitted]; simpa using a.served
  unfold take
  rw [if_neg n1]
  rcases a.inTurn with ⟨k, u | u⟩ | ⟨u, w⟩
  · simp [a.serves, u, k]
  · simp [a.serves, u, k]
  · simp [a.serves, u, w]

/-- A host command as the command processor sees it. -/
theorem command_of (i : Instr) (h : Hdr) (d : Dev) (hh : i.hdr = some h) :
    command i d = take (commandOf h i.opcode d) (if h.bad then none else some i) d := by
  unfold command; rw [hh]

/-- A command that is executed at once: it enters, begins, and the rings of its domain go on. -/
theorem command_begins (i : Instr) (h : Hdr) (d : Dev) (hh : i.hdr = some h) (hb : h.bad = false)
    (a : Accepts d (commandOf h i.opcode d) i) :
    command i d = drainDom h.dom (beginCmd i (commandOf h i.opcode d) (d.entered (commandOf h i.opcode d))) := by
  have s1 : startCmd (some i) (commandOf h i.opcode d) (d.entered (commandOf h i.opcode d)) =
      beginCmd i (commandOf h i.opcode d) (d.entered (commandOf h i.opcode d)) := by
    simp [startCmd, a.onRing, a.allowed]
  rw [command_of i h d hh, take_heard _ _ _ a.toHeard, hb, if_neg (by simp), runCmd_fresh _ _ _ a.fresh, s1]
  rfl

/-- A command without input, or DM's, or one that fails without its input, carries out what it answers. -/
theorem beginCmd_now (i : Instr) (c : Cmd) (d : Dev)
    (h : inputOf i c.dom d = none ∨ c.dom = dmCode ∨ (earlyFail i c d).isSome = true)
    (m : ¬(d.frozen = true ∧ touchesVault c.op = true)) : beginCmd i c d = carryOut c (answerOf i c d) := by
  unfold beginCmd
  rw [if_neg m]
  split
  · rfl
  · rcases h with h | h | h
    · simp_all
    · simp [h]
    · simp [h]

/-- The two together: the effect of a command that is executed at once and waits for no input. -/
theorem command_now (i : Instr) (h : Hdr) (d : Dev) (hh : i.hdr = some h) (hb : h.bad = false)
    (a : Accepts d (commandOf h i.opcode d) i)
    (hi : inputOf i h.dom (d.entered (commandOf h i.opcode d)) = none ∨ h.dom = dmCode ∨
      (earlyFail i (commandOf h i.opcode d) (d.entered (commandOf h i.opcode d))).isSome = true) :
    command i d = drainDom h.dom
      (carryOut (commandOf h i.opcode d) (answerOf i (commandOf h i.opcode d) (d.entered (commandOf h i.opcode d)))) := by
  rw [command_begins i h d hh hb a, beginCmd_now]
  · exact hi
  · simpa using a.moves

/-- The input of a command has been read: the command carries out what it answers. -/
theorem readDone_now (i : Instr) (s : State) (c : Cmd) (h : AwaitsInput i s c) :
    readDone c.dom (.work c.ring c.tag) [] true s.dev =
      drainDom c.dom (carryOut c (answerOf i c (dropWork c s.dev))) := by
  obtain ⟨w, hw, hi, hc, ht⟩ := h
  simp [readDone, Dev.walkOf, commandRead, hw, workRead, ht, hi, hc]

/-- The row of the table that brings a host command to the command processor. -/
theorem exec_host (i : Instr) (s : State) (h : i.hdr.isSome = true) : exec i s = .next (s.onDev (command i)) := by
  cases i <;> first | exact absurd h Bool.false_ne_true | rfl

/-- What a row of the table does, it does to the device. -/
theorem exec_onDev (i : Instr) (s : State) : ∃ f, exec i s = .next (s.onDev f) := by
  cases i <;> exact ⟨_, rfl⟩

/-- A command that comes to its effect carries out what it answers. -/
theorem comes_leaves (a : Bool) (i : Instr) (s : State) (c : Cmd) (h : Comes a i s c) :
    Leaves (bringer a i c) s c.dom (fun d => carryOut c (answerOf i c (d.had a c))) := by
  cases a with
  | false =>
    obtain ⟨⟨⟨hd, e, b⟩, ac⟩, hc, hi⟩ := h
    have ec : c = commandOf hd i.opcode s.dev := by rw [hc]; simp [cmdIn, e]
    subst ec
    have ac : Accepts s.dev (commandOf hd i.opcode s.dev) i := by rw [hc]; exact ac
    have x := exec_host i s (by simp [e])
    simp only [Leaves, bringer, Dev.had]
    rw [if_neg (by simp), x]
    simp only [State.onDev]
    rw [command_now i hd s.dev e b ac hi]
    rfl
  | true =>
    have h : AwaitsInput i s c := h
    have x := readDone_now i s c h
    simp only [Leaves, bringer, Dev.had, if_true]
    show Host.Outcome.next (s.onDev (readDone c.dom (.work c.ring c.tag) [] true)) = _
    simp only [State.onDev]
    rw [x]

/-- A command that comes to its effect and answers a reply completes with it. -/
theorem comes_completes (a : Bool) (i : Instr) (s : State) (c : Cmd) (h : Comes a i s c) (r : Reply) (f : Dev → Dev)
    (e : answerOf i c (s.dev.had a c) = (f (s.dev.had a c), some r)) : Completes a i s c r f := by
  have x := comes_leaves a i s c h
  unfold Completes
  unfold Leaves at *
  rw [x]
  simp only [State.onDev, e]

/-- A command that comes to its effect and answers nothing yet starts. -/
theorem comes_starts (a : Bool) (i : Instr) (s : State) (c : Cmd) (h : Comes a i s c) (f : Dev → Dev)
    (e : answerOf i c (s.dev.had a c) = (f (s.dev.had a c), none)) : Starts a i s c f := by
  have x := comes_leaves a i s c h
  unfold Starts
  unfold Leaves at *
  rw [x]
  simp only [State.onDev, e, carryOut]

/-! ### What a command answers -/

theorem runs_of (i : Instr) (need : Dev → Cmd → Prop) (r : Dev → Cmd → Reply) (f : Cmd → Dev → Dev)
    (h : ∀ d c, need d c → answerOf i c d = (f c d, some (r d c))) : Runs i need r f :=
  fun a s c hc hn => comes_completes a i s c hc _ _ (h _ _ hn)

theorem begins_of (i : Instr) (need : Dev → Cmd → Prop) (f : Cmd → Dev → Dev)
    (h : ∀ d c, need d c → effectOf i c d = (f c d, none)) : Begins i need f := by
  intro a s c hc hn
  refine comes_starts a i s c hc _ ?_
  have e := h _ _ hn
  unfold answerOf
  simp only [e, dmLimit]
  split <;> rfl

/-- The limits of DM's output do not bear on a small output. -/
theorem answerOf_small (i : Instr) (c : Cmd) (d : Dev)
    (h : ∀ r, (effectOf i c d).2 = some r → (r.outs.map (fun o => o.2.length)).sum ≤ 128) :
    answerOf i c d = effectOf i c d := by
  unfold answerOf
  simp only
  split
  · unfold dmLimit
    split
    · rename_i r hr
      have := h r hr
      rw [if_neg]
      simp only [not_or, not_and, Nat.not_lt]
      exact ⟨by omega, fun _ => this⟩
    · rfl
  · rfl

/-- DM's limit for a command that may be repeated. -/
theorem answerOf_read (i : Instr) (c : Cmd) (d : Dev) (o : onceOp i = false)
    (h : ∀ r, (effectOf i c d).2 = some r → (r.outs.map (fun o => o.2.length)).sum ≤ 1024) :
    answerOf i c d = effectOf i c d := by
  unfold answerOf
  simp only
  split
  · unfold dmLimit
    split
    · rename_i r hr
      have := h r hr
      rw [if_neg]
      simp only [o, not_or, not_and, Nat.not_lt]
      exact ⟨this, fun h => by simp at h⟩
    · rfl
  · rfl

theorem answerOf_host (i : Instr) (c : Cmd) (d : Dev) (h : c.dom ≠ dmCode) : answerOf i c d = effectOf i c d := by
  simp [answerOf, h]

/-- A command whose reply writes nothing. -/
theorem runs_plain (i : Instr) (need : Dev → Cmd → Prop) (r : Dev → Cmd → Reply) (f : Cmd → Dev → Dev)
    (h : ∀ d c, need d c → effectOf i c d = (f c d, some (r d c)) ∧ (r d c).outs = []) : Runs i need r f := by
  refine runs_of i need r f fun d c hn => ?_
  obtain ⟨e, o⟩ := h d c hn
  rw [answerOf_small, e]
  intro x hx
  rw [e] at hx
  simp only [Option.some.injEq] at hx
  rw [← hx, o]
  simp

/-- A command, not of class ONCE, whose reply writes no more than a frame holds. -/
theorem runs_read (i : Instr) (need : Dev → Cmd → Prop) (r : Dev → Cmd → Reply) (f : Cmd → Dev → Dev) (o : onceOp i = false)
    (h : ∀ d c, need d c → effectOf i c d = (f c d, some (r d c)) ∧ ((r d c).outs.map (fun o => o.2.length)).sum ≤ 1024) :
    Runs i need r f := by
  refine runs_of i need r f fun d c hn => ?_
  obtain ⟨e, b⟩ := h d c hn
  rw [answerOf_read _ _ _ o, e]
  intro x hx
  rw [e] at hx
  simp only [Option.some.injEq] at hx
  rw [← hx]
  exact b

/-- A command whose reply writes at most 128 bytes. -/
theorem runs_small (i : Instr) (need : Dev → Cmd → Prop) (r : Dev → Cmd → Reply) (f : Cmd → Dev → Dev)
    (h : ∀ d c, need d c → effectOf i c d = (f c d, some (r d c)) ∧ ((r d c).outs.map (fun o => o.2.length)).sum ≤ 128) :
    Runs i need r f := by
  refine runs_of i need r f fun d c hn => ?_
  obtain ⟨e, b⟩ := h d c hn
  rw [answerOf_small, e]
  intro x hx
  rw [e] at hx
  simp only [Option.some.injEq] at hx
  rw [← hx]
  exact b

/-- Checks that are all passed let the body run. -/
theorem firstFail_passes (l : List (Bool × Nat)) (h : Passes l) : firstFail l = none := by
  induction l with
  | nil => rfl
  | cons x l ih =>
    have h1 := h x (by simp)
    have h2 := ih (fun y hy => h y (by simp [hy]))
    obtain ⟨b, e⟩ := x
    simp_all [firstFail]

theorem checked_passes (l : List (Bool × Nat)) (d : Dev) (go : Dev → Answer) (h : Passes l) : checked l d go = go d := by
  simp [checked, firstFail_passes l h]

theorem checked_fails (l : List (Bool × Nat)) (d : Dev) (go : Dev → Answer) (e : Nat) (h : firstFail l = some e) :
    checked l d go = (d, some (fail e)) := by
  simp [checked, h, answer]

/-- A body whose slots equal their complements runs. -/
theorem useKeys_whole (slots : List (Nat × Slot)) (d : Dev) (go : Dev → Answer) (w : Whole slots) :
    useKeys slots d go = go d := by
  induction slots with
  | nil => rfl
  | cons e es ih =>
    simp only [useKeys, useKey, w e (by simp), if_true]
    exact ih (fun x hx => w x (by simp [hx]))

/-- A body whose checks are passed and whose slots equal their complements runs. -/
theorem reading_passes (l : List (Bool × Nat)) (slots : List (Nat × Slot)) (d : Dev) (go : Dev → Answer) (h : Passes l)
    (w : Whole slots) : reading l slots d go = go d := by
  rw [reading, checked_passes l d _ h, useKeys_whole slots d go w]

end Sys2Proof.Machine
end

