-- ==== Sys2Proof/Laws/Crypto.lean ====
section
/-! SUPPORT. How long the outputs of the ciphers are: blobs and wrapped keys fit a frame of the management channel. -/

namespace Sys2Proof.Machine

theorem shiftRows_length (s : Bytes) : (shiftRows s).length = 16 := by simp [shiftRows]

theorem aesEnc_le (rks : List Bytes) (b : Bytes) : (aesEnc rks b).length ≤ 16 := by
  unfold aesEnc
  refine Nat.le_trans (xorBytes_le_left _ _) ?_
  rw [shiftRows_length]

theorem ctrMode_le (rks : List Bytes) (k : Nat) (c b : Bytes) : (ctrMode rks k c b).length ≤ b.length := xorBytes_le_left _ _

theorem gcmTag_le (rks : List Bytes) (j a c : Bytes) : (gcmTag rks j a c).length ≤ 16 := by
  unfold gcmTag
  exact Nat.le_trans (xorBytes_le_left _ _) (aesEnc_le _ _)

/-- A blob has at most 96 bytes. -/
theorem sealBlob_le (a : BitVec 8) (dom h p : Nat) (t k : Bytes) (d : Dev) : (sealBlob a dom h p t k d).1.length ≤ 96 := by
  simp only [sealBlob, gcmSeal, rkbHeader, List.length_append, leBytes_length, beBytes_length, padTo_length, zeros_length,
    List.length_cons, List.length_nil]
  have h1 := fun (r : List Bytes) (c : Bytes) => ctrMode_le r 4 c (padTo 32 k)
  simp only [padTo_length] at h1
  have h2 := h1 (roundKeys (d.keys.dwk.getD dom []))
    (incBlock 4 (gcmJ0 (leBytes dom 1 ++ zeros 3 ++ beBytes (takeSeal dom d).1 8)))
  refine Nat.le_trans (Nat.add_le_add (Nat.add_le_add_left h2 _) (gcmTag_le _ _ _ _)) ?_
  omega

theorem flatten_le (l : List Bytes) (n : Nat) (h : ∀ b ∈ l, b.length ≤ n) : l.flatten.length ≤ l.length * n := by
  induction l with
  | nil => simp
  | cons a l ih =>
    have h1 := h a (by simp)
    have h2 := ih fun b hb => h b (by simp [hb])
    simp only [List.flatten_cons, List.length_append, List.length_cons, Nat.add_mul]
    omega

/-- Wrapping adds the register to the blocks. -/
theorem kwWrap_le (key a : Bytes) (rs : List Bytes) (ha : a.length ≤ 8) (h : ∀ b ∈ rs, b.length ≤ 8) :
    (kwWrap key a rs).length ≤ 8 + rs.length * 8 := by
  unfold kwWrap
  simp only
  generalize List.range (6 * rs.length) = l
  have main : ∀ (l : List Nat) (st : Bytes × List Bytes), st.1.length ≤ 8 → (∀ b ∈ st.2, b.length ≤ 8) → st.2.length = rs.length →
      ((l.foldl (fun (st : Bytes × List Bytes) (t : Nat) =>
        (xorBytes ((aesEnc (roundKeys key) (st.1 ++ st.2.getD (t % rs.length) [])).take 8) (beBytes (t + 1) 8),
          st.2.set (t % rs.length) ((aesEnc (roundKeys key) (st.1 ++ st.2.getD (t % rs.length) [])).drop 8))) st).1 ++
        (l.foldl (fun (st : Bytes × List Bytes) (t : Nat) =>
        (xorBytes ((aesEnc (roundKeys key) (st.1 ++ st.2.getD (t % rs.length) [])).take 8) (beBytes (t + 1) 8),
          st.2.set (t % rs.length) ((aesEnc (roundKeys key) (st.1 ++ st.2.getD (t % rs.length) [])).drop 8))) st).2.flatten).length
        ≤ 8 + rs.length * 8 := by
    intro l
    induction l with
    | nil =>
      intro st h1 h2 h3
      simp only [List.foldl_nil, List.length_append]
      have := flatten_le st.2 8 h2
      rw [h3] at this
      omega
    | cons t l ih =>
      intro st h1 h2 h3
      simp only [List.foldl_cons]
      apply ih
      · exact Nat.le_trans (xorBytes_le_right _ _) (by simp)
      · intro b hb
        rcases List.mem_or_eq_of_mem_set hb with hb | hb
        · exact h2 b hb
        · subst hb
          have := aesEnc_le (roundKeys key) (st.1 ++ st.2.getD (t % rs.length) [])
          simp only [List.length_drop]
          omega
      · simp [h3]
  exact main l (a, rs) ha h rfl

theorem chunks_le {α : Type} (k : Nat) (l : List α) : ∀ b ∈ chunks k l, b.length ≤ k := by
  intro b hb
  simp only [chunks, List.mem_map] at hb
  obtain ⟨i, _, rfl⟩ := hb
  simp

theorem chunks_length {α : Type} (k : Nat) (l : List α) : (chunks k l).length = (l.length + k - 1) / k := by simp [chunks]

theorem keyBytes_le (s : Slot) : s.keyBytes.length ≤ 32 := by
  simp only [Slot.keyBytes, List.length_take]
  split <;> omega

/-- A wrapped key of at most 32 bytes has at most 40. -/
theorem wrapKey_le (form : Nat) (k : Bytes) (s : Slot) : (wrapKey form k s.keyBytes).length ≤ 40 := by
  have hk := keyBytes_le s
  unfold wrapKey
  split
  · unfold kwSeal
    refine Nat.le_trans (kwWrap_le _ _ _ (by simp) (chunks_le 8 _)) ?_
    rw [chunks_length]; omega
  · unfold kwpSeal
    simp only
    split
    · exact Nat.le_trans (aesEnc_le _ _) (by omega)
    · refine Nat.le_trans (kwWrap_le _ _ _ (by simp) (chunks_le 8 _)) ?_
      rw [chunks_length, padTo_length]
      simp only [ceilDiv, OfNat.ofNat_ne_zero, if_false]
      omega

end Sys2Proof.Machine
end

