-- ==== Sys2Proof/Laws/Parts.lean ====
section
/-! SUPPORT. The host side of the device: what taking a command, moving its data, raising events and completing it may
change, namely the host interface, the counters, the log of outputs, the completions and events that a resynchronisation holds,
and the free counter. -/

namespace Sys2Proof.Machine

/-- `e` is `d` but for its host side, and the same commands wait on every ring. -/
structure HostSide (d e : Dev) : Prop where
  rest : ∃ h c w l m n, e = { d with
    host := h, cnt := c, wire := w, course := { d.course with heldFin := l, heldEvents := m }, freeCtr := n }
  waits : ∀ k r, (e.ring k r).waiting = (d.ring k r).waiting

/-- A change of a domain that leaves its waiting commands alone. -/
def KeepsWaiting (f : Dom → Dom) : Prop := ∀ D r, ((f D).rings.getD r {}).waiting = (D.rings.getD r {}).waiting

/-- A change of a ring that leaves its waiting commands alone. -/
theorem keepsWaiting_ring (r : Nat) (f : Ring → Ring) (h : ∀ x, (f x).waiting = x.waiting) :
    KeepsWaiting (fun D => { D with rings := modAt D.rings r f }) := by
  intro D k
  simp only
  rw [getD_modAt]
  split
  · exact h _
  · rfl

namespace HostSide

theorem refl (d : Dev) : HostSide d d := ⟨⟨d.host, d.cnt, d.wire, d.course.heldFin, d.course.heldEvents, d.freeCtr, rfl⟩, fun _ _ => rfl⟩

theorem trans {a b c : Dev} (h1 : HostSide a b) (h2 : HostSide b c) : HostSide a c := by
  refine ⟨?_, fun k r => (h2.waits k r).trans (h1.waits k r)⟩
  obtain ⟨h, k, w, l, m, n, rfl⟩ := h1.rest
  obtain ⟨h', k', w', l', m', n', rfl⟩ := h2.rest
  exact ⟨h', k', w', l', m', n', rfl⟩

theorem host (d : Dev) (f : HostSt → HostSt) (h : ∀ x, (f x).doms = x.doms) : HostSide d (d.onHost f) :=
  ⟨⟨f d.host, d.cnt, d.wire, d.course.heldFin, d.course.heldEvents, d.freeCtr, rfl⟩, fun k r => by simp [Dev.ring, Dev.dom, h]⟩
theorem dom (d : Dev) (i : Nat) (f : Dom → Dom) (h : KeepsWaiting f := by intro D r; rfl) : HostSide d (d.onDom i f) := by
  refine ⟨⟨_, d.cnt, d.wire, d.course.heldFin, d.course.heldEvents, d.freeCtr, rfl⟩, fun k r => ?_⟩
  simp only [Dev.ring, Dev.dom, Dev.onDom]
  rw [getD_modAt]
  split
  · exact h _ r
  · rfl
theorem page (d : Dev) (i : Nat) (f : Page → Page) : HostSide d (d.onPage i f) := dom ..
theorem ring (d : Dev) (i r : Nat) (f : Ring → Ring) (h : ∀ x, (f x).waiting = x.waiting := by intro x; rfl) :
    HostSide d (d.onRing i r f) := dom _ _ _ (keepsWaiting_ring r f h)
theorem ep (d : Dev) (i : Nat) (f : Endpoint → Endpoint) : HostSide d (d.onEp i f) :=
  ⟨⟨_, d.cnt, d.wire, d.course.heldFin, d.course.heldEvents, d.freeCtr, rfl⟩, fun _ _ => rfl⟩
theorem hem (d : Dev) (f : Hemuner → Hemuner) : HostSide d (d.onHem f) :=
  ⟨⟨_, d.cnt, d.wire, d.course.heldFin, d.course.heldEvents, d.freeCtr, rfl⟩, fun _ _ => rfl⟩
theorem cnt (d : Dev) (f : CntSt → CntSt) : HostSide d (d.onCnt f) :=
  ⟨⟨d.host, f d.cnt, d.wire, d.course.heldFin, d.course.heldEvents, d.freeCtr, rfl⟩, fun _ _ => rfl⟩
theorem emit (o : Out) (d : Dev) : HostSide d (emit o d) := ⟨⟨d.host, d.cnt, _, d.course.heldFin, d.course.heldEvents, d.freeCtr, rfl⟩, fun _ _ => rfl⟩
theorem nextFree (d : Dev) : HostSide d d.nextFree := ⟨⟨d.host, d.cnt, d.wire, d.course.heldFin, d.course.heldEvents, d.freeCtr + 1, rfl⟩, fun _ _ => rfl⟩

/-- A fold of steps that each stay on the host side. -/
theorem forEach {α : Type} (l : List α) (f : α → Dev → Dev) (d : Dev) (h : ∀ a d, HostSide d (f a d)) :
    HostSide d (forEach l f d) := by
  unfold Machine.forEach
  induction l generalizing d with
  | nil => exact refl d
  | cons a l ih => exact (h a d).trans (ih (f a d))

theorem bumpBy (code inst n : Nat) (d : Dev) : HostSide d (bumpBy code inst n d) := by
  unfold Machine.bumpBy; exact cnt ..
theorem bump (code inst : Nat) (d : Dev) : HostSide d (bump code inst d) := bumpBy ..

theorem progEvent (ev sl bit n : Nat) (d : Dev) : HostSide d (progEvent ev sl bit n d) := by
  refine forEach _ _ _ fun a d => ?_
  split
  · exact bumpBy ..
  · exact refl d

theorem countDma (dom cls n : Nat) (d : Dev) : HostSide d (countDma dom cls n d) := by
  unfold Machine.countDma
  split
  · exact refl d
  · refine forEach _ _ _ fun a d => ?_
    dsimp only
    split
    · exact bumpBy ..
    · split
      · exact bumpBy ..
      · exact refl d

theorem tlbTouch (dm a : Nat) (d : Dev) : HostSide d (tlbTouch dm a d) := by
  unfold Machine.tlbTouch
  split
  · exact refl d
  · exact host _ _ fun _ => rfl

theorem tlbInsert (dm a : Nat) (l : Nat × Nat × Bool × Bool) (d : Dev) : HostSide d (tlbInsert dm a l d) := by
  unfold Machine.tlbInsert; exact host _ _ fun _ => rfl

theorem badRead (dom : Nat) (d : Dev) : HostSide d (badRead dom d) := by
  unfold Machine.badRead
  split
  · exact bump ..
  · exact refl d

theorem msixWrite (dm ep v : Nat) (d : Dev) : HostSide d (msixWrite dm ep v d) := (emit ..).trans (countDma ..)

theorem sendMsi (dm src : Nat) (d : Dev) : HostSide d (sendMsi dm src d) := by
  unfold Machine.sendMsi
  dsimp only
  split
  · exact refl d
  · split
    · exact dom ..
    · split
      · exact (ep ..).trans (dom ..)
      · exact (dom ..).trans (msixWrite ..)

theorem notify (dm src : Nat) (d : Dev) : HostSide d (notify dm src d) := by
  unfold Machine.notify
  dsimp only
  split
  · split
    · exact refl d
    · exact dom ..
  · split
    · exact sendMsi ..
    · split
      · exact dom ..
      · exact sendMsi ..

theorem ringError (dm r : Nat) (d : Dev) : HostSide d (ringError dm r d) := ((page ..).trans (ring ..)).trans (notify ..)

theorem structFault (dm r a c i : Nat) (d : Dev) : HostSide d (structFault dm r a c i d) := (page ..).trans (notify ..)

theorem emitIndex (dm r : Nat) (d : Dev) : HostSide d (emitIndex dm r d) := by
  unfold Machine.emitIndex
  dsimp only
  split
  · exact ((tlbTouch ..).trans (emit ..)).trans (countDma ..)
  · exact refl d

theorem putRingEntry (dm r : Nat) (e : RingEntry) (d : Dev) : HostSide d (putRingEntry dm r e d) := by
  unfold Machine.putRingEntry
  dsimp only
  refine HostSide.trans ?_ (ring ..)
  split
  · exact ((tlbTouch ..).trans (emit ..)).trans (countDma ..)
  · exact refl d

theorem ringWriteNow (dm r : Nat) (e : RingEntry) (d : Dev) : HostSide d (ringWriteNow dm r e d) := by
  unfold Machine.ringWriteNow
  split
  · exact emitIndex ..
  · exact ((forEach _ _ _ fun _ _ => putRingEntry ..).trans (emitIndex ..)).trans (notify ..)

theorem ringPut (dm r : Nat) (e : RingEntry) (d : Dev) : HostSide d (ringPut dm r e d) := by
  unfold Machine.ringPut
  dsimp only
  split
  · exact dom ..
  · split
    · exact ringWriteNow ..
    · exact ringWriteNow ..
    · exact (structFault ..).trans (dom ..)
    · exact dom ..

theorem hemSend (p ty n : Nat) (b x : Bytes) (d : Dev) : HostSide d (hemSend p ty n b x d) := by
  unfold Machine.hemSend
  dsimp only
  split
  · exact refl d
  · exact (hem ..).trans (emit ..)

theorem hemFlush (d : Dev) : HostSide d (hemFlush d) := by
  refine (hem ..).trans (forEach _ _ _ fun x d => ?_)
  split
  · exact emit ..
  · exact hemSend ..

theorem raiseDm (e : Event) (d : Dev) : HostSide d (raiseDm e d) := by
  unfold Machine.raiseDm
  simp only
  split
  · exact ((dom ..).trans (dom ..)).trans (bump ..)
  · exact ((((dom ..).trans (dom ..)).trans (hem ..)).trans (hemSend ..)).trans (hemSend ..)

theorem skipEvent (dm : Nat) (d : Dev) : HostSide d (skipEvent dm d) := by
  unfold Machine.skipEvent
  split
  · exact refl d
  · exact dom ..

theorem raiseNow (dm : Nat) (e : Event) (d : Dev) : HostSide d (raiseNow dm e d) := by
  unfold Machine.raiseNow
  split
  · exact raiseDm ..
  · split
    · exact skipEvent ..
    · simp only
      split
      · exact ((dom ..).trans (dom ..)).trans (bump ..)
      · exact ((dom ..).trans (dom ..)).trans (ringPut ..)

theorem raise (dm : Nat) (e : Event) (d : Dev) : HostSide d (raise dm e d) := by
  unfold Machine.raise
  split
  · exact ⟨⟨d.host, d.cnt, d.wire, _, _, d.freeCtr, rfl⟩, fun _ _ => rfl⟩
  · exact raiseNow ..

theorem raiseTo (o : Option Nat) (e : Event) (d : Dev) : HostSide d (raiseTo o e d) := raise ..

theorem raiseAll (e : Event) (d : Dev) : HostSide d (raiseAll e d) := forEach _ _ _ fun _ _ => raise ..

theorem post (c : Cmd) (x : Completion) (b : Bytes) (d : Dev) : HostSide d (post c x b d) := by
  unfold Machine.post
  dsimp only
  split
  · exact (hem ..).trans (hemFlush ..)
  · split
    · exact (ring ..).trans (ringPut ..)
    · exact ring ..

theorem recordTag (c : Cmd) (x : Completion) (b : Bytes) (d : Dev) : HostSide d (recordTag c x b d) := by
  unfold Machine.recordTag
  split
  · exact refl d
  · exact ring ..

/-- A completion stays on the host side. -/
theorem finish (c : Cmd) (r : Reply) (d : Dev) : HostSide d (finish c r d) := by
  unfold Machine.finish
  split
  · exact refl d
  · split
    · exact ⟨⟨d.host, d.cnt, d.wire, _, _, d.freeCtr, rfl⟩, fun _ _ => rfl⟩
    · split
      · exact refl d
      · exact (((dom ..).trans (post ..)).trans (recordTag ..)).trans (forEach _ _ _ fun _ _ => post ..)

theorem putWork (w : Work) (d : Dev) : HostSide d (putWork w d) := dom ..
theorem dropWork (c : Cmd) (d : Dev) : HostSide d (dropWork c d) := dom ..
theorem suspendWork (w : Work) (c : Nat) (d : Dev) : HostSide d (suspendWork w c d) := by
  unfold Machine.suspendWork
  split
  · exact dropWork ..
  · exact (raise ..).trans (putWork ..)

theorem workRun (out : Bytes) (n : Nat) (w : Work) (d : Dev) : HostSide d (workRun out n w d).2.2 := by
  induction n generalizing w d with
  | zero => exact refl d
  | succ n ih =>
    unfold Machine.workRun
    split
    · exact refl d
    · split
      · exact (((tlbTouch ..).trans (emit ..)).trans (countDma ..)).trans (ih ..)
      · exact refl d

/-- Work goes on, on the host side, where its completion does. -/
theorem workGo (fin : Cmd → Reply → Dev → Dev) (h : ∀ c r d, HostSide d (fin c r d)) (w : Work) (d : Dev) :
    HostSide d (workGo fin w d) := by
  have x := workRun ((w.reply.map (fun r => (r.outs.map Prod.snd).flatten)).getD []) w.todo.length
    { w with state := .walking, resumer := none, since := d.now } d
  unfold Machine.workGo
  simp only
  split <;> rename_i e <;> rw [e] at x <;> refine x.trans ?_
  · split
    · exact (dropWork ..).trans (h ..)
    · exact putWork ..
  · split
    · exact (dropWork ..).trans (h ..)
    · exact ((dropWork ..).trans ((nextFree _).trans (badRead ..))).trans (finish ..)
  · exact suspendWork ..
  · exact putWork ..

theorem deliver (fin : Cmd → Reply → Dev → Dev) (h : ∀ c r d, HostSide d (fin c r d)) (c : Cmd) (r : Reply) (d : Dev) :
    HostSide d (deliver fin c r d) := by
  unfold Machine.deliver
  split
  · exact h ..
  · exact workGo _ h ..

theorem entered (c : Cmd) (d : Dev) : HostSide d (d.entered c) := (progEvent ..).trans (dom ..)

theorem had (a : Bool) (c : Cmd) (d : Dev) : HostSide d (d.had a c) := by
  unfold Dev.had
  split
  · exact dropWork ..
  · exact entered ..

/-- A change on the host side touches no other part. -/
theorem onlyParts {d e : Dev} (h : HostSide d e) : OnlyParts [.host, .cnt, .wire, .course, .freeCtr] d e := by
  obtain ⟨h, c, w, l, m, n, rfl⟩ := h.rest
  intro p hp
  cases p <;> first | rfl | (exfalso; revert hp; decide)

/-- Of the triple course, only the completions and events held for its resynchronisation change. -/
theorem course {d e : Dev} (h : HostSide d e) :
    e.course = { d.course with heldFin := e.course.heldFin, heldEvents := e.course.heldEvents } := by
  obtain ⟨h, c, w, l, m, n, rfl⟩ := h.rest
  rfl

end HostSide

/-! ### Rings with nothing waiting -/

/-- Where no command of the domain's rings waits, nothing goes on. -/
theorem drainDom_none (dom : Nat) (d : Dev) (h : d.noneWaits dom) : drainDom dom d = d := by
  unfold drainDom
  have key : ∀ (l : List Nat), (∀ r ∈ l, (d.ring dom r).waiting = []) →
      forEach l (fun r d => drain dom r (d.ring dom r).waiting.length d) d = d := by
    intro l hl
    induction l with
    | nil => rfl
    | cons r l ih =>
      rw [forEach_cons, hl r (by simp)]
      exact ih fun r' hr' => hl r' (by simp [hr'])
  exact key hostRings h

theorem HostSide.noneWaits {d e : Dev} {dom : Nat} (k : HostSide d e) (h : d.noneWaits dom) : e.noneWaits dom :=
  fun r hr => (k.waits dom r).trans (h r hr)

end Sys2Proof.Machine
end

