-- ==== Sys2Proof/Laws/PerInstr.lean ====
section
/-! SUPPORT. Facts about every row of the table as syntax, one lemma for each constructor. -/

open Sys2Proof

/-- A row of the table that a host sends has an opcode of 16 bits that is not zero; every other row has none (14 R429). -/
def Sys2Proof.Laws.Opcode.Statement (i : Instr) : Prop := i.opcode < 2 ^ 16 ∧ i.hdr.isSome = decide (i.opcode ≠ 0)

theorem Sys2Proof.Laws.Opcode.stageDiscard (x0 x1) : Opcode.Statement (.stageDiscard x0 x1) := ⟨Nat.le_of_ble_eq_true rfl, rfl⟩
theorem Sys2Proof.Laws.Opcode.stageFret (x0 x1) : Opcode.Statement (.stageFret x0 x1) := ⟨Nat.le_of_ble_eq_true rfl, rfl⟩
theorem Sys2Proof.Laws.Opcode.stageDomainMap (x0 x1) : Opcode.Statement (.stageDomainMap x0 x1) := ⟨Nat.le_of_ble_eq_true rfl, rfl⟩
theorem Sys2Proof.Laws.Opcode.stageQuota (x0 x1) : Opcode.Statement (.stageQuota x0 x1) := ⟨Nat.le_of_ble_eq_true rfl, rfl⟩
theorem Sys2Proof.Laws.Opcode.stagePortLayout (x0 x1) : Opcode.Statement (.stagePortLayout x0 x1) := ⟨Nat.le_of_ble_eq_true rfl, rfl⟩
theorem Sys2Proof.Laws.Opcode.stageLane (x0 x1) : Opcode.Statement (.stageLane x0 x1) := ⟨Nat.le_of_ble_eq_true rfl, rfl⟩
theorem Sys2Proof.Laws.Opcode.stageFaultMirror (x0 x1) : Opcode.Statement (.stageFaultMirror x0 x1) := ⟨Nat.le_of_ble_eq_true rfl, rfl⟩
theorem Sys2Proof.Laws.Opcode.stageMgmtPort (x0 x1) : Opcode.Statement (.stageMgmtPort x0 x1) := ⟨Nat.le_of_ble_eq_true rfl, rfl⟩
theorem Sys2Proof.Laws.Opcode.stageSmvGroup (x0 x1) : Opcode.Statement (.stageSmvGroup x0 x1) := ⟨Nat.le_of_ble_eq_true rfl, rfl⟩
theorem Sys2Proof.Laws.Opcode.stageParseNode (x0 x1) : Opcode.Statement (.stageParseNode x0 x1) := ⟨Nat.le_of_ble_eq_true rfl, rfl⟩
theorem Sys2Proof.Laws.Opcode.stageParseTrans (x0 x1) : Opcode.Statement (.stageParseTrans x0 x1) := ⟨Nat.le_of_ble_eq_true rfl, rfl⟩
theorem Sys2Proof.Laws.Opcode.stageParsePattern (x0 x1) : Opcode.Statement (.stageParsePattern x0 x1) := ⟨Nat.le_of_ble_eq_true rfl, rfl⟩
theorem Sys2Proof.Laws.Opcode.stageParsePort (x0 x1) : Opcode.Statement (.stageParsePort x0 x1) := ⟨Nat.le_of_ble_eq_true rfl, rfl⟩
theorem Sys2Proof.Laws.Opcode.stageRecirc (x0 x1) : Opcode.Statement (.stageRecirc x0 x1) := ⟨Nat.le_of_ble_eq_true rfl, rfl⟩
theorem Sys2Proof.Laws.Opcode.stagePunt (x0 x1) : Opcode.Statement (.stagePunt x0 x1) := ⟨Nat.le_of_ble_eq_true rfl, rfl⟩
theorem Sys2Proof.Laws.Opcode.stageKeyProfile (x0 x1) : Opcode.Statement (.stageKeyProfile x0 x1) := ⟨Nat.le_of_ble_eq_true rfl, rfl⟩
theorem Sys2Proof.Laws.Opcode.stageTcam (x0 x1) : Opcode.Statement (.stageTcam x0 x1) := ⟨Nat.le_of_ble_eq_true rfl, rfl⟩
theorem Sys2Proof.Laws.Opcode.stageClsPort (x0 x1) : Opcode.Statement (.stageClsPort x0 x1) := ⟨Nat.le_of_ble_eq_true rfl, rfl⟩
theorem Sys2Proof.Laws.Opcode.stageService (x0 x1) : Opcode.Statement (.stageService x0 x1) := ⟨Nat.le_of_ble_eq_true rfl, rfl⟩
theorem Sys2Proof.Laws.Opcode.stageLpm (x0 x1) : Opcode.Statement (.stageLpm x0 x1) := ⟨Nat.le_of_ble_eq_true rfl, rfl⟩
theorem Sys2Proof.Laws.Opcode.stageChannel (x0 x1) : Opcode.Statement (.stageChannel x0 x1) := ⟨Nat.le_of_ble_eq_true rfl, rfl⟩
theorem Sys2Proof.Laws.Opcode.stageMacsecPort (x0 x1) : Opcode.Statement (.stageMacsecPort x0 x1) := ⟨Nat.le_of_ble_eq_true rfl, rfl⟩
theorem Sys2Proof.Laws.Opcode.stageSecy (x0 x1) : Opcode.Statement (.stageSecy x0 x1) := ⟨Nat.le_of_ble_eq_true rfl, rfl⟩
theorem Sys2Proof.Laws.Opcode.stageTxSc (x0 x1) : Opcode.Statement (.stageTxSc x0 x1) := ⟨Nat.le_of_ble_eq_true rfl, rfl⟩
theorem Sys2Proof.Laws.Opcode.stageRxSc (x0 x1) : Opcode.Statement (.stageRxSc x0 x1) := ⟨Nat.le_of_ble_eq_true rfl, rfl⟩
theorem Sys2Proof.Laws.Opcode.stageSa (x0 x1) : Opcode.Statement (.stageSa x0 x1) := ⟨Nat.le_of_ble_eq_true rfl, rfl⟩
theorem Sys2Proof.Laws.Opcode.stageLlPair (x0 x1) : Opcode.Statement (.stageLlPair x0 x1) := ⟨Nat.le_of_ble_eq_true rfl, rfl⟩
theorem Sys2Proof.Laws.Opcode.stageBlobTable (x0 x1) : Opcode.Statement (.stageBlobTable x0 x1) := ⟨Nat.le_of_ble_eq_true rfl, rfl⟩
theorem Sys2Proof.Laws.Opcode.stagePark (x0 x1) : Opcode.Statement (.stagePark x0 x1) := ⟨Nat.le_of_ble_eq_true rfl, rfl⟩
theorem Sys2Proof.Laws.Opcode.stageStampPort (x0 x1) : Opcode.Statement (.stageStampPort x0 x1) := ⟨Nat.le_of_ble_eq_true rfl, rfl⟩
theorem Sys2Proof.Laws.Opcode.stageTimePin (x0 x1) : Opcode.Statement (.stageTimePin x0 x1) := ⟨Nat.le_of_ble_eq_true rfl, rfl⟩
theorem Sys2Proof.Laws.Opcode.stageTimeGlobal (x0 x1) : Opcode.Statement (.stageTimeGlobal x0 x1) := ⟨Nat.le_of_ble_eq_true rfl, rfl⟩
theorem Sys2Proof.Laws.Opcode.stageEgressPort (x0 x1) : Opcode.Statement (.stageEgressPort x0 x1) := ⟨Nat.le_of_ble_eq_true rfl, rfl⟩
theorem Sys2Proof.Laws.Opcode.stageQueue (x0 x1) : Opcode.Statement (.stageQueue x0 x1) := ⟨Nat.le_of_ble_eq_true rfl, rfl⟩
theorem Sys2Proof.Laws.Opcode.stageGateList (x0 x1) : Opcode.Statement (.stageGateList x0 x1) := ⟨Nat.le_of_ble_eq_true rfl, rfl⟩
theorem Sys2Proof.Laws.Opcode.stageMeter (x0 x1) : Opcode.Statement (.stageMeter x0 x1) := ⟨Nat.le_of_ble_eq_true rfl, rfl⟩
theorem Sys2Proof.Laws.Opcode.stageTrustMap (x0 x1) : Opcode.Statement (.stageTrustMap x0 x1) := ⟨Nat.le_of_ble_eq_true rfl, rfl⟩
theorem Sys2Proof.Laws.Opcode.check (x0) : Opcode.Statement (.check x0) := ⟨Nat.le_of_ble_eq_true rfl, rfl⟩
theorem Sys2Proof.Laws.Opcode.armCommit (x0 x1 x2) : Opcode.Statement (.armCommit x0 x1 x2) := ⟨Nat.le_of_ble_eq_true rfl, rfl⟩
theorem Sys2Proof.Laws.Opcode.armCopyDone (x0) : Opcode.Statement (.armCopyDone x0) := ⟨Nat.le_of_ble_eq_true rfl, rfl⟩
theorem Sys2Proof.Laws.Opcode.cancelCommit (x0) : Opcode.Statement (.cancelCommit x0) := ⟨Nat.le_of_ble_eq_true rfl, rfl⟩
theorem Sys2Proof.Laws.Opcode.cancelRewriteDone (x0) : Opcode.Statement (.cancelRewriteDone x0) := ⟨Nat.le_of_ble_eq_true rfl, rfl⟩
theorem Sys2Proof.Laws.Opcode.standingSave (x0) : Opcode.Statement (.standingSave x0) := ⟨Nat.le_of_ble_eq_true rfl, rfl⟩
theorem Sys2Proof.Laws.Opcode.standingClear (x0) : Opcode.Statement (.standingClear x0) := ⟨Nat.le_of_ble_eq_true rfl, rfl⟩
theorem Sys2Proof.Laws.Opcode.tblInsert (x0 x1 x2 x3 x4 x5 x6) : Opcode.Statement (.tblInsert x0 x1 x2 x3 x4 x5 x6) := ⟨Nat.le_of_ble_eq_true rfl, rfl⟩
theorem Sys2Proof.Laws.Opcode.tblDelete (x0 x1 x2 x3) : Opcode.Statement (.tblDelete x0 x1 x2 x3) := ⟨Nat.le_of_ble_eq_true rfl, rfl⟩
theorem Sys2Proof.Laws.Opcode.tblSearch (h : Hdr) (o : SearchOp) : Opcode.Statement (.tblSearch h o) := by
  cases o <;> exact ⟨Nat.le_of_ble_eq_true rfl, rfl⟩
theorem Sys2Proof.Laws.Opcode.tblNext (x0 x1) : Opcode.Statement (.tblNext x0 x1) := ⟨Nat.le_of_ble_eq_true rfl, rfl⟩
theorem Sys2Proof.Laws.Opcode.tblFlushPort (x0 x1 x2) : Opcode.Statement (.tblFlushPort x0 x1 x2) := ⟨Nat.le_of_ble_eq_true rfl, rfl⟩
theorem Sys2Proof.Laws.Opcode.keyGenerate (x0 x1) : Opcode.Statement (.keyGenerate x0 x1) := ⟨Nat.le_of_ble_eq_true rfl, rfl⟩
theorem Sys2Proof.Laws.Opcode.keyImport (x0 x1 x2 x3 x4 x5 x6) : Opcode.Statement (.keyImport x0 x1 x2 x3 x4 x5 x6) := ⟨Nat.le_of_ble_eq_true rfl, rfl⟩
theorem Sys2Proof.Laws.Opcode.keyDerive (x0 x1 x2 x3 x4 x5 x6) : Opcode.Statement (.keyDerive x0 x1 x2 x3 x4 x5 x6) := ⟨Nat.le_of_ble_eq_true rfl, rfl⟩
theorem Sys2Proof.Laws.Opcode.keyWriteClear (x0 x1 x2 x3 x4) : Opcode.Statement (.keyWriteClear x0 x1 x2 x3 x4) := ⟨Nat.le_of_ble_eq_true rfl, rfl⟩
theorem Sys2Proof.Laws.Opcode.keyPin (x0 x1 x2 x3 x4) : Opcode.Statement (.keyPin x0 x1 x2 x3 x4) := ⟨Nat.le_of_ble_eq_true rfl, rfl⟩
theorem Sys2Proof.Laws.Opcode.keyUnpin (x0 x1) : Opcode.Statement (.keyUnpin x0 x1) := ⟨Nat.le_of_ble_eq_true rfl, rfl⟩
theorem Sys2Proof.Laws.Opcode.keyEvict (x0 x1) : Opcode.Statement (.keyEvict x0 x1) := ⟨Nat.le_of_ble_eq_true rfl, rfl⟩
theorem Sys2Proof.Laws.Opcode.keyExport (x0 x1 x2 x3 x4) : Opcode.Statement (.keyExport x0 x1 x2 x3 x4) := ⟨Nat.le_of_ble_eq_true rfl, rfl⟩
theorem Sys2Proof.Laws.Opcode.keyParentBind (x0 x1 x2) : Opcode.Statement (.keyParentBind x0 x1 x2) := ⟨Nat.le_of_ble_eq_true rfl, rfl⟩
theorem Sys2Proof.Laws.Opcode.keyRevoke (x0 x1) : Opcode.Statement (.keyRevoke x0 x1) := ⟨Nat.le_of_ble_eq_true rfl, rfl⟩
theorem Sys2Proof.Laws.Opcode.keyDomainRoll (x0 x1) : Opcode.Statement (.keyDomainRoll x0 x1) := ⟨Nat.le_of_ble_eq_true rfl, rfl⟩
theorem Sys2Proof.Laws.Opcode.keyStatus (x0 x1 x2) : Opcode.Statement (.keyStatus x0 x1 x2) := ⟨Nat.le_of_ble_eq_true rfl, rfl⟩
theorem Sys2Proof.Laws.Opcode.keyMgmtSet (x0 x1 x2 x3 x4 x5 x6) : Opcode.Statement (.keyMgmtSet x0 x1 x2 x3 x4 x5 x6) := ⟨Nat.le_of_ble_eq_true rfl, rfl⟩
theorem Sys2Proof.Laws.Opcode.saInit (x0 x1 x2 x3) : Opcode.Statement (.saInit x0 x1 x2 x3) := ⟨Nat.le_of_ble_eq_true rfl, rfl⟩
theorem Sys2Proof.Laws.Opcode.saEnable (x0 x1) : Opcode.Statement (.saEnable x0 x1) := ⟨Nat.le_of_ble_eq_true rfl, rfl⟩
theorem Sys2Proof.Laws.Opcode.saDisable (x0 x1) : Opcode.Statement (.saDisable x0 x1) := ⟨Nat.le_of_ble_eq_true rfl, rfl⟩
theorem Sys2Proof.Laws.Opcode.saSetLowestPn (x0 x1 x2) : Opcode.Statement (.saSetLowestPn x0 x1 x2) := ⟨Nat.le_of_ble_eq_true rfl, rfl⟩
theorem Sys2Proof.Laws.Opcode.saRead (x0 x1 x2) : Opcode.Statement (.saRead x0 x1 x2) := ⟨Nat.le_of_ble_eq_true rfl, rfl⟩
theorem Sys2Proof.Laws.Opcode.saSmvArm (x0 x1 x2 x3 x4 x5) : Opcode.Statement (.saSmvArm x0 x1 x2 x3 x4 x5) := ⟨Nat.le_of_ble_eq_true rfl, rfl⟩
theorem Sys2Proof.Laws.Opcode.saSmvCancel (x0 x1) : Opcode.Statement (.saSmvCancel x0 x1) := ⟨Nat.le_of_ble_eq_true rfl, rfl⟩
theorem Sys2Proof.Laws.Opcode.saSmvRead (x0 x1 x2) : Opcode.Statement (.saSmvRead x0 x1 x2) := ⟨Nat.le_of_ble_eq_true rfl, rfl⟩
theorem Sys2Proof.Laws.Opcode.saSmvStop (x0 x1) : Opcode.Statement (.saSmvStop x0 x1) := ⟨Nat.le_of_ble_eq_true rfl, rfl⟩
theorem Sys2Proof.Laws.Opcode.tbInc (x0 x1 x2 x3) : Opcode.Statement (.tbInc x0 x1 x2 x3) := ⟨Nat.le_of_ble_eq_true rfl, rfl⟩
theorem Sys2Proof.Laws.Opcode.tbStep (x0 x1) : Opcode.Statement (.tbStep x0 x1) := ⟨Nat.le_of_ble_eq_true rfl, rfl⟩
theorem Sys2Proof.Laws.Opcode.tbRead (x0 x1 x2) : Opcode.Statement (.tbRead x0 x1 x2) := ⟨Nat.le_of_ble_eq_true rfl, rfl⟩
theorem Sys2Proof.Laws.Opcode.tbApply (x0) : Opcode.Statement (.tbApply x0) := ⟨Nat.le_of_ble_eq_true rfl, rfl⟩
theorem Sys2Proof.Laws.Opcode.cntRead (x0 x1 x2 x3 x4) : Opcode.Statement (.cntRead x0 x1 x2 x3 x4) := ⟨Nat.le_of_ble_eq_true rfl, rfl⟩
theorem Sys2Proof.Laws.Opcode.cntLaneRead (x0 x1 x2) : Opcode.Statement (.cntLaneRead x0 x1 x2) := ⟨Nat.le_of_ble_eq_true rfl, rfl⟩
theorem Sys2Proof.Laws.Opcode.cntSelect (x0 x1 x2 x3) : Opcode.Statement (.cntSelect x0 x1 x2 x3) := ⟨Nat.le_of_ble_eq_true rfl, rfl⟩
theorem Sys2Proof.Laws.Opcode.dumpConfig (x0 x1 x2) : Opcode.Statement (.dumpConfig x0 x1 x2) := ⟨Nat.le_of_ble_eq_true rfl, rfl⟩
theorem Sys2Proof.Laws.Opcode.fwBegin (x0 x1 x2) : Opcode.Statement (.fwBegin x0 x1 x2) := ⟨Nat.le_of_ble_eq_true rfl, rfl⟩
theorem Sys2Proof.Laws.Opcode.fwBlock (x0 x1 x2 x3 x4 x5) : Opcode.Statement (.fwBlock x0 x1 x2 x3 x4 x5) := ⟨Nat.le_of_ble_eq_true rfl, rfl⟩
theorem Sys2Proof.Laws.Opcode.fwVerify (x0 x1) : Opcode.Statement (.fwVerify x0 x1) := ⟨Nat.le_of_ble_eq_true rfl, rfl⟩
theorem Sys2Proof.Laws.Opcode.fwSchedule (x0 x1 x2) : Opcode.Statement (.fwSchedule x0 x1 x2) := ⟨Nat.le_of_ble_eq_true rfl, rfl⟩
theorem Sys2Proof.Laws.Opcode.fwCancel (x0 x1) : Opcode.Statement (.fwCancel x0 x1) := ⟨Nat.le_of_ble_eq_true rfl, rfl⟩
theorem Sys2Proof.Laws.Opcode.fwStatus (x0 x1) : Opcode.Statement (.fwStatus x0 x1) := ⟨Nat.le_of_ble_eq_true rfl, rfl⟩
theorem Sys2Proof.Laws.Opcode.fwRevert (x0) : Opcode.Statement (.fwRevert x0) := ⟨Nat.le_of_ble_eq_true rfl, rfl⟩
theorem Sys2Proof.Laws.Opcode.lcStatus (x0 x1) : Opcode.Statement (.lcStatus x0 x1) := ⟨Nat.le_of_ble_eq_true rfl, rfl⟩
theorem Sys2Proof.Laws.Opcode.lcTransition (x0 x1 x2 x3 x4) : Opcode.Statement (.lcTransition x0 x1 x2 x3 x4) := ⟨Nat.le_of_ble_eq_true rfl, rfl⟩
theorem Sys2Proof.Laws.Opcode.lcSetSupervisor (x0 x1) : Opcode.Statement (.lcSetSupervisor x0 x1) := ⟨Nat.le_of_ble_eq_true rfl, rfl⟩
theorem Sys2Proof.Laws.Opcode.lcDebugScrub (x0 x1 x2 x3) : Opcode.Statement (.lcDebugScrub x0 x1 x2 x3) := ⟨Nat.le_of_ble_eq_true rfl, rfl⟩
theorem Sys2Proof.Laws.Opcode.tamperConfig (x0 x1 x2 x3 x4) : Opcode.Statement (.tamperConfig x0 x1 x2 x3 x4) := ⟨Nat.le_of_ble_eq_true rfl, rfl⟩
theorem Sys2Proof.Laws.Opcode.tamperClear (x0 x1) : Opcode.Statement (.tamperClear x0 x1) := ⟨Nat.le_of_ble_eq_true rfl, rfl⟩
theorem Sys2Proof.Laws.Opcode.tamperLogRead (x0 x1 x2 x3) : Opcode.Statement (.tamperLogRead x0 x1 x2 x3) := ⟨Nat.le_of_ble_eq_true rfl, rfl⟩
theorem Sys2Proof.Laws.Opcode.resume (x0 x1 x2 x3) : Opcode.Statement (.resume x0 x1 x2 x3) := ⟨Nat.le_of_ble_eq_true rfl, rfl⟩
theorem Sys2Proof.Laws.Opcode.abort (x0 x1 x2 x3) : Opcode.Statement (.abort x0 x1 x2 x3) := ⟨Nat.le_of_ble_eq_true rfl, rfl⟩
theorem Sys2Proof.Laws.Opcode.lkCbc (x0 x1) : Opcode.Statement (.lkCbc x0 x1) := ⟨Nat.le_of_ble_eq_true rfl, rfl⟩
theorem Sys2Proof.Laws.Opcode.lkCtr (x0 x1) : Opcode.Statement (.lkCtr x0 x1) := ⟨Nat.le_of_ble_eq_true rfl, rfl⟩
theorem Sys2Proof.Laws.Opcode.lkCfb (x0 x1) : Opcode.Statement (.lkCfb x0 x1) := ⟨Nat.le_of_ble_eq_true rfl, rfl⟩
theorem Sys2Proof.Laws.Opcode.lkGcm (x0 x1) : Opcode.Statement (.lkGcm x0 x1) := ⟨Nat.le_of_ble_eq_true rfl, rfl⟩
theorem Sys2Proof.Laws.Opcode.lkCmac (x0 x1) : Opcode.Statement (.lkCmac x0 x1) := ⟨Nat.le_of_ble_eq_true rfl, rfl⟩
theorem Sys2Proof.Laws.Opcode.lkWrap (x0 x1) : Opcode.Statement (.lkWrap x0 x1) := ⟨Nat.le_of_ble_eq_true rfl, rfl⟩
theorem Sys2Proof.Laws.Opcode.lkUnwrap (x0 x1) : Opcode.Statement (.lkUnwrap x0 x1) := ⟨Nat.le_of_ble_eq_true rfl, rfl⟩
theorem Sys2Proof.Laws.Opcode.lkKdf (x0 x1) : Opcode.Statement (.lkKdf x0 x1) := ⟨Nat.le_of_ble_eq_true rfl, rfl⟩
theorem Sys2Proof.Laws.Opcode.lkHash (x0 x1) : Opcode.Statement (.lkHash x0 x1) := ⟨Nat.le_of_ble_eq_true rfl, rfl⟩
theorem Sys2Proof.Laws.Opcode.lkVerify (x0 x1) : Opcode.Statement (.lkVerify x0 x1) := ⟨Nat.le_of_ble_eq_true rfl, rfl⟩
theorem Sys2Proof.Laws.Opcode.lkSegmentEnd (x0) : Opcode.Statement (.lkSegmentEnd x0) := ⟨Nat.le_of_ble_eq_true rfl, rfl⟩
theorem Sys2Proof.Laws.Opcode.pkOpDone : Opcode.Statement (.pkOpDone) := ⟨Nat.le_of_ble_eq_true rfl, rfl⟩
theorem Sys2Proof.Laws.Opcode.registerWrite (x0 x1 x2 x3 x4) : Opcode.Statement (.registerWrite x0 x1 x2 x3 x4) := ⟨Nat.le_of_ble_eq_true rfl, rfl⟩
theorem Sys2Proof.Laws.Opcode.domainReset (x0 x1) : Opcode.Statement (.domainReset x0 x1) := ⟨Nat.le_of_ble_eq_true rfl, rfl⟩
theorem Sys2Proof.Laws.Opcode.domainResetDone (x0) : Opcode.Statement (.domainResetDone x0) := ⟨Nat.le_of_ble_eq_true rfl, rfl⟩
theorem Sys2Proof.Laws.Opcode.ringEnable (x0 x1 x2) : Opcode.Statement (.ringEnable x0 x1 x2) := ⟨Nat.le_of_ble_eq_true rfl, rfl⟩
theorem Sys2Proof.Laws.Opcode.ringDisable (x0 x1 x2) : Opcode.Statement (.ringDisable x0 x1 x2) := ⟨Nat.le_of_ble_eq_true rfl, rfl⟩
theorem Sys2Proof.Laws.Opcode.dtuModeWrite (x0 x1 x2) : Opcode.Statement (.dtuModeWrite x0 x1 x2) := ⟨Nat.le_of_ble_eq_true rfl, rfl⟩
theorem Sys2Proof.Laws.Opcode.dtuInval (x0 x1 x2 x3) : Opcode.Statement (.dtuInval x0 x1 x2 x3) := ⟨Nat.le_of_ble_eq_true rfl, rfl⟩
theorem Sys2Proof.Laws.Opcode.dtuInvalDone (x0) : Opcode.Statement (.dtuInvalDone x0) := ⟨Nat.le_of_ble_eq_true rfl, rfl⟩
theorem Sys2Proof.Laws.Opcode.dtuErrClear (x0 x1) : Opcode.Statement (.dtuErrClear x0 x1) := ⟨Nat.le_of_ble_eq_true rfl, rfl⟩
theorem Sys2Proof.Laws.Opcode.msixVectorUnmask (x0 x1) : Opcode.Statement (.msixVectorUnmask x0 x1) := ⟨Nat.le_of_ble_eq_true rfl, rfl⟩
theorem Sys2Proof.Laws.Opcode.msixHoldoffExpiry (x0 x1) : Opcode.Statement (.msixHoldoffExpiry x0 x1) := ⟨Nat.le_of_ble_eq_true rfl, rfl⟩
theorem Sys2Proof.Laws.Opcode.doorbellPoll (x0) : Opcode.Statement (.doorbellPoll x0) := ⟨Nat.le_of_ble_eq_true rfl, rfl⟩
theorem Sys2Proof.Laws.Opcode.doorbellRecordRead (x0 x1) : Opcode.Statement (.doorbellRecordRead x0 x1) := ⟨Nat.le_of_ble_eq_true rfl, rfl⟩
theorem Sys2Proof.Laws.Opcode.descriptorFetchDone (x0 x1 x2 x3 x4 x5 x6) : Opcode.Statement (.descriptorFetchDone x0 x1 x2 x3 x4 x5 x6) := ⟨Nat.le_of_ble_eq_true rfl, rfl⟩
theorem Sys2Proof.Laws.Opcode.dmaReadCompletion (x0 x1 x2 x3) : Opcode.Statement (.dmaReadCompletion x0 x1 x2 x3) := ⟨Nat.le_of_ble_eq_true rfl, rfl⟩
theorem Sys2Proof.Laws.Opcode.dmaCompletionTimeout (x0 x1) : Opcode.Statement (.dmaCompletionTimeout x0 x1) := ⟨Nat.le_of_ble_eq_true rfl, rfl⟩
theorem Sys2Proof.Laws.Opcode.commandSuspendTimeout (x0 x1 x2) : Opcode.Statement (.commandSuspendTimeout x0 x1 x2) := ⟨Nat.le_of_ble_eq_true rfl, rfl⟩
theorem Sys2Proof.Laws.Opcode.pcieFlr (x0) : Opcode.Statement (.pcieFlr x0) := ⟨Nat.le_of_ble_eq_true rfl, rfl⟩
theorem Sys2Proof.Laws.Opcode.pcieLinkDown (x0) : Opcode.Statement (.pcieLinkDown x0) := ⟨Nat.le_of_ble_eq_true rfl, rfl⟩
theorem Sys2Proof.Laws.Opcode.perstNAssert (x0) : Opcode.Statement (.perstNAssert x0) := ⟨Nat.le_of_ble_eq_true rfl, rfl⟩
theorem Sys2Proof.Laws.Opcode.hemunerCommandFrame (x0 x1) : Opcode.Statement (.hemunerCommandFrame x0 x1) := ⟨Nat.le_of_ble_eq_true rfl, rfl⟩
theorem Sys2Proof.Laws.Opcode.hemunerAckFrame (x0 x1) : Opcode.Statement (.hemunerAckFrame x0 x1) := ⟨Nat.le_of_ble_eq_true rfl, rfl⟩
theorem Sys2Proof.Laws.Opcode.hemunerOtherFrame (x0 x1) : Opcode.Statement (.hemunerOtherFrame x0 x1) := ⟨Nat.le_of_ble_eq_true rfl, rfl⟩
theorem Sys2Proof.Laws.Opcode.announceTimer : Opcode.Statement (.announceTimer) := ⟨Nat.le_of_ble_eq_true rfl, rfl⟩
theorem Sys2Proof.Laws.Opcode.dmEventResend (x0) : Opcode.Statement (.dmEventResend x0) := ⟨Nat.le_of_ble_eq_true rfl, rfl⟩
theorem Sys2Proof.Laws.Opcode.mgSyncLoss (x0 x1) : Opcode.Statement (.mgSyncLoss x0 x1) := ⟨Nat.le_of_ble_eq_true rfl, rfl⟩
theorem Sys2Proof.Laws.Opcode.mgSyncAcquired (x0) : Opcode.Statement (.mgSyncAcquired x0) := ⟨Nat.le_of_ble_eq_true rfl, rfl⟩
theorem Sys2Proof.Laws.Opcode.fretBoundary : Opcode.Statement (.fretBoundary) := ⟨Nat.le_of_ble_eq_true rfl, rfl⟩
theorem Sys2Proof.Laws.Opcode.ctlLossHoldReached : Opcode.Statement (.ctlLossHoldReached) := ⟨Nat.le_of_ble_eq_true rfl, rfl⟩
theorem Sys2Proof.Laws.Opcode.bankRelease : Opcode.Statement (.bankRelease) := ⟨Nat.le_of_ble_eq_true rfl, rfl⟩
theorem Sys2Proof.Laws.Opcode.gateSwitch (x0) : Opcode.Statement (.gateSwitch x0) := ⟨Nat.le_of_ble_eq_true rfl, rfl⟩
theorem Sys2Proof.Laws.Opcode.gateEntryChange (x0) : Opcode.Statement (.gateEntryChange x0) := ⟨Nat.le_of_ble_eq_true rfl, rfl⟩
theorem Sys2Proof.Laws.Opcode.ageScanEnd : Opcode.Statement (.ageScanEnd) := ⟨Nat.le_of_ble_eq_true rfl, rfl⟩
theorem Sys2Proof.Laws.Opcode.frameIngress (x0) : Opcode.Statement (.frameIngress x0) := ⟨Nat.le_of_ble_eq_true rfl, rfl⟩
theorem Sys2Proof.Laws.Opcode.portRxFrame (x0 x1 x2 x3 x4) : Opcode.Statement (.portRxFrame x0 x1 x2 x3 x4) := ⟨Nat.le_of_ble_eq_true rfl, rfl⟩
theorem Sys2Proof.Laws.Opcode.parseComplete (x0) : Opcode.Statement (.parseComplete x0) := ⟨Nat.le_of_ble_eq_true rfl, rfl⟩
theorem Sys2Proof.Laws.Opcode.puntEntryWrite (x0) : Opcode.Statement (.puntEntryWrite x0) := ⟨Nat.le_of_ble_eq_true rfl, rfl⟩
theorem Sys2Proof.Laws.Opcode.classifyComplete (x0) : Opcode.Statement (.classifyComplete x0) := ⟨Nat.le_of_ble_eq_true rfl, rfl⟩
theorem Sys2Proof.Laws.Opcode.cipherStageEntry (x0) : Opcode.Statement (.cipherStageEntry x0) := ⟨Nat.le_of_ble_eq_true rfl, rfl⟩
theorem Sys2Proof.Laws.Opcode.cipherStageExit (x0) : Opcode.Statement (.cipherStageExit x0) := ⟨Nat.le_of_ble_eq_true rfl, rfl⟩
theorem Sys2Proof.Laws.Opcode.frameEndArrival (x0) : Opcode.Statement (.frameEndArrival x0) := ⟨Nat.le_of_ble_eq_true rfl, rfl⟩
theorem Sys2Proof.Laws.Opcode.rxConfirmation (x0) : Opcode.Statement (.rxConfirmation x0) := ⟨Nat.le_of_ble_eq_true rfl, rfl⟩
theorem Sys2Proof.Laws.Opcode.recircTimeout (x0) : Opcode.Statement (.recircTimeout x0) := ⟨Nat.le_of_ble_eq_true rfl, rfl⟩
theorem Sys2Proof.Laws.Opcode.transmissionSelection (x0) : Opcode.Statement (.transmissionSelection x0) := ⟨Nat.le_of_ble_eq_true rfl, rfl⟩
theorem Sys2Proof.Laws.Opcode.frameTxDone (x0) : Opcode.Statement (.frameTxDone x0) := ⟨Nat.le_of_ble_eq_true rfl, rfl⟩
theorem Sys2Proof.Laws.Opcode.egressUnderrun (x0) : Opcode.Statement (.egressUnderrun x0) := ⟨Nat.le_of_ble_eq_true rfl, rfl⟩
theorem Sys2Proof.Laws.Opcode.llRelease (x0) : Opcode.Statement (.llRelease x0) := ⟨Nat.le_of_ble_eq_true rfl, rfl⟩
theorem Sys2Proof.Laws.Opcode.onestepLaunch (x0) : Opcode.Statement (.onestepLaunch x0) := ⟨Nat.le_of_ble_eq_true rfl, rfl⟩
theorem Sys2Proof.Laws.Opcode.blobReadCompletion (x0 x1 x2 x3 x4) : Opcode.Statement (.blobReadCompletion x0 x1 x2 x3 x4) := ⟨Nat.le_of_ble_eq_true rfl, rfl⟩
theorem Sys2Proof.Laws.Opcode.keyInstall (x0 x1) : Opcode.Statement (.keyInstall x0 x1) := ⟨Nat.le_of_ble_eq_true rfl, rfl⟩
theorem Sys2Proof.Laws.Opcode.missRecordRelease (x0 x1) : Opcode.Statement (.missRecordRelease x0 x1) := ⟨Nat.le_of_ble_eq_true rfl, rfl⟩
theorem Sys2Proof.Laws.Opcode.parkTimeout (x0) : Opcode.Statement (.parkTimeout x0) := ⟨Nat.le_of_ble_eq_true rfl, rfl⟩
theorem Sys2Proof.Laws.Opcode.suspendedFetchAbort (x0 x1) : Opcode.Statement (.suspendedFetchAbort x0 x1) := ⟨Nat.le_of_ble_eq_true rfl, rfl⟩
theorem Sys2Proof.Laws.Opcode.zeroingDone (x0) : Opcode.Statement (.zeroingDone x0) := ⟨Nat.le_of_ble_eq_true rfl, rfl⟩
theorem Sys2Proof.Laws.Opcode.bridgeMessageRx (x0 x1) : Opcode.Statement (.bridgeMessageRx x0 x1) := ⟨Nat.le_of_ble_eq_true rfl, rfl⟩
theorem Sys2Proof.Laws.Opcode.learnProposalProcess (x0) : Opcode.Statement (.learnProposalProcess x0) := ⟨Nat.le_of_ble_eq_true rfl, rfl⟩
theorem Sys2Proof.Laws.Opcode.orderCacheRetire (x0) : Opcode.Statement (.orderCacheRetire x0) := ⟨Nat.le_of_ble_eq_true rfl, rfl⟩
theorem Sys2Proof.Laws.Opcode.smvFrameTx (x0) : Opcode.Statement (.smvFrameTx x0) := ⟨Nat.le_of_ble_eq_true rfl, rfl⟩
theorem Sys2Proof.Laws.Opcode.smvFrameRx (x0 x1 x2 x3 x4 x5) : Opcode.Statement (.smvFrameRx x0 x1 x2 x3 x4 x5) := ⟨Nat.le_of_ble_eq_true rfl, rfl⟩
theorem Sys2Proof.Laws.Opcode.smvFrameConfirm (x0) : Opcode.Statement (.smvFrameConfirm x0) := ⟨Nat.le_of_ble_eq_true rfl, rfl⟩
theorem Sys2Proof.Laws.Opcode.smvDefectDeclare (x0 x1) : Opcode.Statement (.smvDefectDeclare x0 x1) := ⟨Nat.le_of_ble_eq_true rfl, rfl⟩
theorem Sys2Proof.Laws.Opcode.smvDefectHoldoffExpiry (x0 x1) : Opcode.Statement (.smvDefectHoldoffExpiry x0 x1) := ⟨Nat.le_of_ble_eq_true rfl, rfl⟩
theorem Sys2Proof.Laws.Opcode.smvDefectClear (x0 x1) : Opcode.Statement (.smvDefectClear x0 x1) := ⟨Nat.le_of_ble_eq_true rfl, rfl⟩
theorem Sys2Proof.Laws.Opcode.pairMessageAssembled (x0) : Opcode.Statement (.pairMessageAssembled x0) := ⟨Nat.le_of_ble_eq_true rfl, rfl⟩
theorem Sys2Proof.Laws.Opcode.pairTimeout (x0) : Opcode.Statement (.pairTimeout x0) := ⟨Nat.le_of_ble_eq_true rfl, rfl⟩
theorem Sys2Proof.Laws.Opcode.pairBackoffExpiry (x0) : Opcode.Statement (.pairBackoffExpiry x0) := ⟨Nat.le_of_ble_eq_true rfl, rfl⟩
theorem Sys2Proof.Laws.Opcode.rekeyIntervalExpiry (x0) : Opcode.Statement (.rekeyIntervalExpiry x0) := ⟨Nat.le_of_ble_eq_true rfl, rfl⟩
theorem Sys2Proof.Laws.Opcode.laneAcquired (x0) : Opcode.Statement (.laneAcquired x0) := ⟨Nat.le_of_ble_eq_true rfl, rfl⟩
theorem Sys2Proof.Laws.Opcode.laneAdaptDone (x0 x1) : Opcode.Statement (.laneAdaptDone x0 x1) := ⟨Nat.le_of_ble_eq_true rfl, rfl⟩
theorem Sys2Proof.Laws.Opcode.laneAligned (x0 x1 x2 x3 x4 x5) : Opcode.Statement (.laneAligned x0 x1 x2 x3 x4 x5) := ⟨Nat.le_of_ble_eq_true rfl, rfl⟩
theorem Sys2Proof.Laws.Opcode.laneAlignTimeout (x0) : Opcode.Statement (.laneAlignTimeout x0) := ⟨Nat.le_of_ble_eq_true rfl, rfl⟩
theorem Sys2Proof.Laws.Opcode.laneRetryTimer (x0) : Opcode.Statement (.laneRetryTimer x0) := ⟨Nat.le_of_ble_eq_true rfl, rfl⟩
theorem Sys2Proof.Laws.Opcode.laneLockLoss (x0 x1) : Opcode.Statement (.laneLockLoss x0 x1) := ⟨Nat.le_of_ble_eq_true rfl, rfl⟩
theorem Sys2Proof.Laws.Opcode.laneRelocked (x0) : Opcode.Statement (.laneRelocked x0) := ⟨Nat.le_of_ble_eq_true rfl, rfl⟩
theorem Sys2Proof.Laws.Opcode.laneRelockTimeout (x0) : Opcode.Statement (.laneRelockTimeout x0) := ⟨Nat.le_of_ble_eq_true rfl, rfl⟩
theorem Sys2Proof.Laws.Opcode.faultMirrorTimer (x0) : Opcode.Statement (.faultMirrorTimer x0) := ⟨Nat.le_of_ble_eq_true rfl, rfl⟩
theorem Sys2Proof.Laws.Opcode.prbsCheckerLock (x0 x1 x2 x3) : Opcode.Statement (.prbsCheckerLock x0 x1 x2 x3) := ⟨Nat.le_of_ble_eq_true rfl, rfl⟩
theorem Sys2Proof.Laws.Opcode.timePinEdge (x0 x1 x2) : Opcode.Statement (.timePinEdge x0 x1 x2) := ⟨Nat.le_of_ble_eq_true rfl, rfl⟩
theorem Sys2Proof.Laws.Opcode.timePinOutput (x0) : Opcode.Statement (.timePinOutput x0) := ⟨Nat.le_of_ble_eq_true rfl, rfl⟩
theorem Sys2Proof.Laws.Opcode.servoEvent (x0 x1) : Opcode.Statement (.servoEvent x0 x1) := ⟨Nat.le_of_ble_eq_true rfl, rfl⟩
theorem Sys2Proof.Laws.Opcode.servoHoldover (x0) : Opcode.Statement (.servoHoldover x0) := ⟨Nat.le_of_ble_eq_true rfl, rfl⟩
theorem Sys2Proof.Laws.Opcode.stringWritePresented (x0 x1) : Opcode.Statement (.stringWritePresented x0 x1) := ⟨Nat.le_of_ble_eq_true rfl, rfl⟩
theorem Sys2Proof.Laws.Opcode.voteWindowExpiry : Opcode.Statement (.voteWindowExpiry) := ⟨Nat.le_of_ble_eq_true rfl, rfl⟩
theorem Sys2Proof.Laws.Opcode.stringFaultReport (x0) : Opcode.Statement (.stringFaultReport x0) := ⟨Nat.le_of_ble_eq_true rfl, rfl⟩
theorem Sys2Proof.Laws.Opcode.stringWatchdogExpiry (x0) : Opcode.Statement (.stringWatchdogExpiry x0) := ⟨Nat.le_of_ble_eq_true rfl, rfl⟩
theorem Sys2Proof.Laws.Opcode.stringBistDone (x0 x1) : Opcode.Statement (.stringBistDone x0 x1) := ⟨Nat.le_of_ble_eq_true rfl, rfl⟩
theorem Sys2Proof.Laws.Opcode.resyncComplete (x0) : Opcode.Statement (.resyncComplete x0) := ⟨Nat.le_of_ble_eq_true rfl, rfl⟩
theorem Sys2Proof.Laws.Opcode.courseRestartTimer : Opcode.Statement (.courseRestartTimer) := ⟨Nat.le_of_ble_eq_true rfl, rfl⟩
theorem Sys2Proof.Laws.Opcode.courseRestartDone (x0) : Opcode.Statement (.courseRestartDone x0) := ⟨Nat.le_of_ble_eq_true rfl, rfl⟩
theorem Sys2Proof.Laws.Opcode.fwStepDone : Opcode.Statement (.fwStepDone) := ⟨Nat.le_of_ble_eq_true rfl, rfl⟩
theorem Sys2Proof.Laws.Opcode.fwTrialEnd : Opcode.Statement (.fwTrialEnd) := ⟨Nat.le_of_ble_eq_true rfl, rfl⟩
theorem Sys2Proof.Laws.Opcode.scrubBurst (x0) : Opcode.Statement (.scrubBurst x0) := ⟨Nat.le_of_ble_eq_true rfl, rfl⟩
theorem Sys2Proof.Laws.Opcode.shadowMismatch (x0) : Opcode.Statement (.shadowMismatch x0) := ⟨Nat.le_of_ble_eq_true rfl, rfl⟩
theorem Sys2Proof.Laws.Opcode.tempSample (x0) : Opcode.Statement (.tempSample x0) := ⟨Nat.le_of_ble_eq_true rfl, rfl⟩
theorem Sys2Proof.Laws.Opcode.railHigh (x0 x1) : Opcode.Statement (.railHigh x0 x1) := ⟨Nat.le_of_ble_eq_true rfl, rfl⟩
theorem Sys2Proof.Laws.Opcode.railLow (x0 x1) : Opcode.Statement (.railLow x0 x1) := ⟨Nat.le_of_ble_eq_true rfl, rfl⟩
theorem Sys2Proof.Laws.Opcode.railRecovered (x0 x1) : Opcode.Statement (.railRecovered x0 x1) := ⟨Nat.le_of_ble_eq_true rfl, rfl⟩
theorem Sys2Proof.Laws.Opcode.railLowTimeout (x0) : Opcode.Statement (.railLowTimeout x0) := ⟨Nat.le_of_ble_eq_true rfl, rfl⟩
theorem Sys2Proof.Laws.Opcode.railWarningTimer (x0 x1) : Opcode.Statement (.railWarningTimer x0 x1) := ⟨Nat.le_of_ble_eq_true rfl, rfl⟩
theorem Sys2Proof.Laws.Opcode.clockCheckWindow (x0 x1) : Opcode.Statement (.clockCheckWindow x0 x1) := ⟨Nat.le_of_ble_eq_true rfl, rfl⟩
theorem Sys2Proof.Laws.Opcode.loopSample (x0 x1) : Opcode.Statement (.loopSample x0 x1) := ⟨Nat.le_of_ble_eq_true rfl, rfl⟩
theorem Sys2Proof.Laws.Opcode.vbatSample (x0) : Opcode.Statement (.vbatSample x0) := ⟨Nat.le_of_ble_eq_true rfl, rfl⟩
theorem Sys2Proof.Laws.Opcode.backupSample (x0) : Opcode.Statement (.backupSample x0) := ⟨Nat.le_of_ble_eq_true rfl, rfl⟩
theorem Sys2Proof.Laws.Opcode.tamperLogCopy : Opcode.Statement (.tamperLogCopy) := ⟨Nat.le_of_ble_eq_true rfl, rfl⟩
theorem Sys2Proof.Laws.Opcode.leaveGrant : Opcode.Statement (.leaveGrant) := ⟨Nat.le_of_ble_eq_true rfl, rfl⟩
theorem Sys2Proof.Laws.Opcode.governorSample (x0) : Opcode.Statement (.governorSample x0) := ⟨Nat.le_of_ble_eq_true rfl, rfl⟩
theorem Sys2Proof.Laws.Opcode.lcJournalStep : Opcode.Statement (.lcJournalStep) := ⟨Nat.le_of_ble_eq_true rfl, rfl⟩
theorem Sys2Proof.Laws.Opcode.lcResetTimer : Opcode.Statement (.lcResetTimer) := ⟨Nat.le_of_ble_eq_true rfl, rfl⟩
theorem Sys2Proof.Laws.Opcode.powerOnReset : Opcode.Statement (.powerOnReset) := ⟨Nat.le_of_ble_eq_true rfl, rfl⟩
theorem Sys2Proof.Laws.Opcode.pwrdnNFall : Opcode.Statement (.pwrdnNFall) := ⟨Nat.le_of_ble_eq_true rfl, rfl⟩
theorem Sys2Proof.Laws.Opcode.startUp (x0) : Opcode.Statement (.startUp x0) := ⟨Nat.le_of_ble_eq_true rfl, rfl⟩
theorem Sys2Proof.Laws.Opcode.pcieLinkUp (x0) : Opcode.Statement (.pcieLinkUp x0) := ⟨Nat.le_of_ble_eq_true rfl, rfl⟩
theorem Sys2Proof.Laws.Opcode.pcieConfigWrite (x0 x1) : Opcode.Statement (.pcieConfigWrite x0 x1) := ⟨Nat.le_of_ble_eq_true rfl, rfl⟩
theorem Sys2Proof.Laws.Opcode.bkclkStopped : Opcode.Statement (.bkclkStopped) := ⟨Nat.le_of_ble_eq_true rfl, rfl⟩
end

