-- ==== Sys2Proof/Tests/Slice0.lean ====
section
/-! SUPPORT. Small tests: values that the spec itself gives, ill-formed commands that the check refuses, and, for each
statement with hypotheses, a state and operands that meet them. -/

section

set_option Elab.async false

open Sys2Proof Sys2Proof.Machine

/-! ### A device that has started -/

/-- A device that is up, its course triple, its supervisor domain 0. -/
def Tests.live : State := State.reset.onDev (fun d =>
  (d.onPower (fun p => { p with up := true, ready := true, sup := 0 })).onCourse (fun c => { c with mode := .triple }))

/-- The same with DM as supervisor. -/
def Tests.managed : State := Tests.live.onDev (fun d => d.onPower (fun p => { p with sup := 32 }))

/-- The header of a command of domain 0, and of one of DM. -/
def Tests.own : Hdr := { dom := 0, ring := 0, tag := 1, crc := 7, bad := false }
def Tests.dm : Hdr := { dom := 32, ring := 0, tag := 1, crc := 7, bad := false }

/-- An object of a class, put into the bank that both epochs read. -/
def Tests.withObj (cls key : Nat) (o : Obj) (s : State) : State := s.onDev (fun d => d.onCfg (fun c => { c with
  banks := modAt c.banks cls (fun b => { b with b0 := Tbl.put key o b.b0 }) }))

/-- A key slot put as it is. -/
def Tests.withSlot (n : Nat) (x : Slot) (s : State) : State := s.onDev (setSlot n x)

/-- A valid slot of a domain that holds a 16-byte key with an attribute. -/
def Tests.key (dom handle attr : Nat) : Slot :=
  keyedSlot dom handle attr 0 true 0xFFFF 0 (zeros 32)

/-- The root is kept and a domain's DWK is derived, its complement with it. -/
def Tests.withDwk (dom : Nat) (s : State) : State := s.onDev (fun d => d.onKeys (fun k => { k with
  root := 1, dwk := k.dwk.set dom (zeros 32), dwkN := k.dwkN.set dom (invBytes (zeros 32)) }))

/-- Whether a host command is executed at once, as a Bool. -/
def Tests.takes (i : Instr) (s : State) : Bool :=
  let c := cmdIn i s
  let d := s.dev
  i.hdr.any (fun h => !h.bad) && d.admits c.dom && d.serves && !(decide (c.dom = dmCode) && isLkOp c.op) &&
    ((decide (c.dom ≠ dmCode) && (decide (c.op = 0x0A01) || decide (c.op = 0x0A02))) ||
      (!d.ringBlocked c.dom c.ring && decide ((d.ring c.dom c.ring).waiting = []))) &&
    (decide (c.tag = 0) || (decide ((d.ring c.dom c.ring).history.find? (fun x => x.tag = c.tag) = none) &&
      decide ((d.dom c.dom).inProg.find? (fun p => p.cmd.ring = c.ring && p.cmd.tag = c.tag) = none))) &&
    decide (isLkOp c.op = decide (3 ≤ c.ring)) && !d.denies c.op i && !(d.frozen && touchesVault c.op)

theorem Tests.takesNow {i : Instr} {s : State} (h : Tests.takes i s = true) : TakesNow i s := by
  simp only [Tests.takes, Bool.and_eq_true, Bool.or_eq_true, Bool.not_eq_true', decide_eq_true_eq, Option.any_eq_true,
    Bool.and_eq_false_iff, decide_eq_false_iff_not] at h
  obtain ⟨⟨⟨⟨⟨⟨⟨⟨⟨x, hx, hb⟩, h1⟩, h2⟩, h3⟩, h4⟩, h5⟩, h6⟩, h7⟩, h8⟩ := h
  refine ⟨⟨x, hx, hb⟩, ⟨⟨h1, h2, ?_, ?_⟩, h5, h6, h7, ?_⟩⟩
  · rintro ⟨a, b⟩; rcases h3 with h3 | h3
    · exact h3 a
    · rw [h3] at b; cases b
  · exact h4
  · rintro ⟨a, b⟩; rcases h8 with h8 | h8
    · rw [h8] at a; cases a
    · rw [h8] at b; cases b

/-- A command comes to its effect at once, and finds what a statement asks of the device. -/
abbrev Tests.Meets (i : Instr) (s : State) (need : Dev → Cmd → Prop) : Prop :=
  Comes false i s (cmdIn i s) ∧ need (s.dev.had false (cmdIn i s)) (cmdIn i s)

/-- Whether a command has no input to wait for. -/
def Tests.atOnce (i : Instr) (s : State) : Bool :=
  Tests.takes i s && (decide (inputOf i (cmdIn i s).dom (s.dev.entered (cmdIn i s)) = none) ||
    decide ((cmdIn i s).dom = dmCode) || (earlyFail i (cmdIn i s) (s.dev.entered (cmdIn i s))).isSome)

theorem Tests.meets {i : Instr} {s : State} {need : Dev → Cmd → Prop} (h : Tests.atOnce i s = true)
    (n : need (s.dev.had false (cmdIn i s)) (cmdIn i s)) : Tests.Meets i s need := by
  simp only [Tests.atOnce, Bool.and_eq_true, Bool.or_eq_true, decide_eq_true_eq] at h
  refine ⟨?_, n⟩
  simp only [Comes, Bool.false_eq_true, if_false]
  exact ⟨Tests.takesNow h.1, trivial, by tauto⟩

open Tests

/-- Work of domain 0 that waits for a walk, and one suspended; a lookaside job and a fetch suspended. -/
def Tests.cmd0 (ring tag : Nat) : Cmd := { dom := 0, ring := ring, tag := BitVec.ofNat 32 tag, crc := 0, op := 0x0101 }
def Tests.work (st : WorkState) : Work := { instr := some (.check own), cmd := cmd0 0 9, todo := [(0x1000, 64, false)], state := st }
def Tests.working (w : Work) : State := live.onDev (fun d => (putWork w d).onDom 0 (fun D => { D with
  page := { D.page with enable := true, dtuMode := 1 } }))
def Tests.job : LkJob :=
  { dir := false, cont := false, more := false, fence := false, handle := 0, paramA := 1, length := 0, src := 0, dst := 0x2000,
    aux := 0, auxLen := 0, stateIova := 0, paramB := 0, iv := zeros 16, srcData := [], auxData := [], stateData := [] }
def Tests.run : LkRun := { id := 0, cmd := { cmd0 3 9 with op := 0x0B09 }, job := job, at_ := .suspended 2 0 }
def Tests.withRun (r : LkRun) : State := live.onDev (fun d => d.onLk (fun k => { k with runs := [r] }))
def Tests.fetch (f : Fetch) (frames : List Nat) : State := live.onDev (setRec 1 255 { dom := 0, handle := 5, attr := 1, keyLen := 0, fetch := f, frames := frames })
def Tests.alive (s : State) : State := s.onDev (fun d => (d.onEp 0 (fun e => { e with linkUp := true, busMaster := true })).onPage 0 (fun p => { p with
  enable := true, dtuMode := 1 }))

/-- Domain 0 supervises and may write keys in clear. -/
def Tests.clearing : State := (withDwk 0 live).onDev (fun d => d.onCfg
  (fun c => { c with banks := modAt c.banks cQuota (fun b => { b with
    b0 := Tbl.put 0 { (fullQuota 0) with f := (fullQuota 0).f.set 13 15 } b.b0 }) }))


/-! ### The queue and the command processor -/

theorem test_met_StepRunsFront : ∃ (s : State) (c : Instr) (rest : List Instr), s.pending = c :: rest ∧ c = Instr.fretBoundary ∧ rest = [Instr.announceTimer] :=
  ⟨{ live with pending := [.fretBoundary, .announceTimer] }, _, _, rfl, rfl, rfl⟩

theorem test_met_IdleEdge : live.pending = [] := by decide

/-- An empty queue answers the state after one edge. -/
theorem test_idle_edge : (match step State.reset with
    | .next t => decide (t.dev.time.tclk = 1) && decide ((t.dev.tb 0).frac = 2 * 2 ^ 32)
    | _ => false) = true := by decide +kernel

/-- `withFetchWord` finds no command in any word: the table gives its rows no bits. -/
theorem test_no_words : decodeTableWord 16 5 = none ∧ State.withFetchWord State.reset 16 5 = State.reset := ⟨rfl, rfl⟩

/-- A completion, and a command of domain 0 with it in its ring's history, or in progress. -/
def Tests.comp : Completion := { opcode := 0x0201, ring := 0, flags := 0, tag := 1, status := 0, detail := 0, value := 0, result := [] }
def Tests.inHistory (crc : BitVec 32) : State := live.onDev (fun d => d.onRing 0 0 (fun r => { r with history := [⟨1, crc, comp, []⟩] }))
def Tests.inProgress (crc : BitVec 32) : State := live.onDev (fun d => d.onDom 0 (fun D => { D with
  inProg := [{ cmd := { dom := 0, ring := 0, tag := 1, crc := crc, op := 0x0201 } }] }))

/-- What `Heard` asks of a command of the command ring that nothing blocks. -/
theorem Tests.heard {d : Dev} {c : Cmd} (h : d.admits c.dom = true ∧ d.serves = true ∧ ¬(c.dom = dmCode ∧ isLkOp c.op = true) ∧
    d.ringBlocked c.dom c.ring = false ∧ (d.ring c.dom c.ring).waiting = []) : Heard d c :=
  ⟨h.1, h.2.1, h.2.2.1, .inr h.2.2.2⟩

theorem test_met_DuplicateTags :
    (∀ crc ∈ [(7 : BitVec 32), 8], Heard (inHistory crc).dev (cmdIn (.check own) (inHistory crc)) ∧
      ((inHistory crc).dev.ring 0 0).history.find? (fun x => x.tag = own.tag) = some ⟨1, crc, comp, []⟩) ∧
    (∀ crc ∈ [(7 : BitVec 32), 8], Heard (inProgress crc).dev (cmdIn (.check own) (inProgress crc)) ∧
      ((inProgress crc).dev.ring 0 0).history.find? (fun x => x.tag = own.tag) = none ∧
      ((inProgress crc).dev.dom 0).inProg.find? (fun p => p.cmd.ring = 0 && p.cmd.tag = own.tag) =
        some { cmd := { dom := 0, ring := 0, tag := 1, crc := crc, op := 0x0201 } }) := by
  simp only [List.mem_cons, List.not_mem_nil, or_false, forall_eq_or_imp, forall_eq]
  exact ⟨⟨⟨heard (by decide +kernel), by decide +kernel⟩, heard (by decide +kernel), by decide +kernel⟩,
    ⟨heard (by decide +kernel), by decide +kernel⟩, heard (by decide +kernel), by decide +kernel⟩

/-- A device that is LOCKED denies a staging command. -/
def Tests.lockedDown : State := live.onDev (fun d => d.onPower (fun p => { p with noFw := true }))

theorem test_met_FirstChecks :
    (let i := Instr.check { own with bad := true };
      Heard live.dev (cmdIn i live) ∧ live.dev.freshTag (cmdIn i live)) ∧
    (let i := Instr.check own;
      Heard lockedDown.dev (cmdIn i lockedDown) ∧ lockedDown.dev.freshTag (cmdIn i lockedDown) ∧
      isLkOp (cmdIn i lockedDown).op = decide (3 ≤ (cmdIn i lockedDown).ring) ∧ lockedDown.dev.denies (cmdIn i lockedDown).op i = true) :=
  ⟨⟨heard (by decide +kernel), .inr (by decide +kernel)⟩,
   ⟨heard (by decide +kernel), .inr (by decide +kernel), by decide +kernel, by decide +kernel⟩⟩

/-- A command whose domain is not heard, one that finds the course halted, and those that find their ring blocked. -/
theorem test_met_RingOrder :
    (State.reset.dev.admits (cmdIn (.check own) State.reset).dom = false) ∧
    (let s := live.onDev (fun d => d.onCourse (fun c => { c with mode := .halted }));
      s.dev.admits 0 = true ∧ s.dev.serves = false ∧ isLkOp (cmdIn (.check own) s).op = false) ∧
    (let s := working (work (.suspended 2 0));
      s.dev.admits 0 = true ∧ s.dev.serves = true ∧ s.dev.ringBlocked 0 0 = true ∧
      (cmdIn (.check own) s).op ≠ 0x0A01 ∧ (cmdIn (.check own) s).op ≠ 0x0A02 ∧ (cmdIn (.resume own 0 0 9) s).op = 0x0A01 ∧
      (cmdIn (.abort own 0 0 9) s).op = 0x0A02 ∧ (cmdIn (.resume own 0 0 9) s).dom ≠ dmCode) ∧
    (let s := managed.onDev (fun d => d.onHem (fun h => { h with comps := List.replicate 256 { port := 0, image := [], data := [] } }));
      s.dev.admits 32 = true ∧ s.dev.serves = true ∧ s.dev.ringBlocked 32 0 = true ∧ (cmdIn (.check dm) s).dom = dmCode) := by decide +kernel

theorem test_met_InputIsRead : TakesNow (.keyPin own 5 5 0x1000 []) clearing ∧
    inputOf (.keyPin own 5 5 0x1000 []) 0 (clearing.dev.entered (cmdIn (.keyPin own 5 5 0x1000 []) clearing)) = some (0x1000, 96) ∧
    (cmdIn (.keyPin own 5 5 0x1000 []) clearing).dom ≠ dmCode ∧
    earlyFail (.keyPin own 5 5 0x1000 []) (cmdIn (.keyPin own 5 5 0x1000 []) clearing)
      (clearing.dev.entered (cmdIn (.keyPin own 5 5 0x1000 []) clearing)) = none :=
  ⟨takesNow (by decide +kernel), by decide +kernel, by decide +kernel, by decide +kernel⟩

/-- A domain whose memory is reached without translation, with its completion ring up. -/
def Tests.reached : State := live.onDev (fun d => ((d.onEp 0 (fun e => { e with linkUp := true, busMaster := true })).onPage 0 (fun p => { p with
  enable := true, ringEn := 511, dtuMode := 2, dbrec := 0x8000 })).onDom 0 (fun D => { D with
    rings := D.rings.map (fun r => { r with log2 := 8, base := 0x10000 }) }))

theorem test_met_OutputBeforeCompletion : 0x1000 % 4096 + (zeros 16).length ≤ 4096 ∧ xlat reached.dev 0 0x1000 true = .ok 0x1000 := by
  decide +kernel

theorem test_met_CompletionAndHistory :
    (let d := reached.dev.onDom 0 (fun D => { D with inProg := [{ cmd := cmd0 0 9 }] });
      d.halted = false ∧ d.course.resync = none ∧ 0 < d.host.doms.length ∧ (d.dom 0).inProg = [{ cmd := cmd0 0 9 }] ∧
      d.ringUp 0 1 = true ∧ (d.page 0).dtuErr = false ∧ (d.dom 0).held = [] ∧ d.ringBlock 0 1 1 = none ∧
      xlat d 0 ((d.ring 0 1).base + (d.ring 0 1).devIndex.toNat % 2 ^ (d.ring 0 1).log2 * 32) true = .ok 0x10000) ∧
    0 < live.dev.host.doms.length ∧ 0 < (live.dev.dom 0).rings.length ∧ (cmd0 0 0).tag = 0 ∧ (cmd0 0 9).tag ≠ 0 := by decide +kernel

/-- A walk of four entries to a page that may be read, and one whose first entry is not present. -/
def Tests.goodWalk : List (BitVec 64) := [0x1007, 0x2007, 0x3007, 0x4007]

theorem test_met_ReadsReturn :
    (((working (work .walking)).dev.dom 0).works.find? (fun w => w.cmd.ring = 0 && w.cmd.tag = 9 && decide (w.state = .walking)) =
        some (work .walking) ∧ (work .walking).resumer = none ∧ (work .walking).todo = [(0x1000, 64, false)] ∧
      walk 0x1000 false goodWalk = .ok (1, 0x4000, true, true) ∧ walk 0x1000 false [0] = .error 2) ∧
    (let w := { work .walking with todo := [] };
      ((working w).dev.dom 0).works.find? (fun w => w.cmd.ring = 0 && w.cmd.tag = 9 && decide (w.state = .walking)) = some w ∧
      w.resumer = none ∧ w.instr = some (.check own)) := by decide +kernel

theorem test_met_Suspension :
    (work (.suspended 2 0)).cmd.dom < live.dev.host.doms.length ∧ (live.dev.page 0).resetBusy = false ∧
    ((live.dev.onPage 0 (fun p => { p with resetBusy := true })).page 0).resetBusy = true ∧
    (let s := working (work (.suspended 2 0));
      s.dev.halted = false ∧ s.dev.suspendedWork 0 0 9 = some (work (.suspended 2 0))) ∧
    (let s := withRun run;
      s.dev.halted = false ∧ s.dev.suspendedWork 0 3 9 = none ∧ s.dev.lkSuspended 0 3 9 = some run) := by decide +kernel

/-- DM asks for 1,040 bytes of the tamper log; and, in a command of class ONCE, for 136 bytes of counters. -/
theorem test_met_DmOutputLimit :
    (∃ r, (effectOf (.tamperLogRead dm 0 65 0x1000) (cmdIn (.tamperLogRead dm 0 65 0x1000) managed)
        (managed.dev.entered (cmdIn (.tamperLogRead dm 0 65 0x1000) managed))).2 = some r ∧ 1024 < (r.outs.map (fun o => o.2.length)).sum) ∧
    Comes false (.tamperLogRead dm 0 65 0x1000) managed (cmdIn (.tamperLogRead dm 0 65 0x1000) managed) ∧
    (∃ r, (effectOf (.cntRead dm 0 17 true 0x1000) (cmdIn (.cntRead dm 0 17 true 0x1000) managed)
        (managed.dev.entered (cmdIn (.cntRead dm 0 17 true 0x1000) managed))).2 = some r ∧
      onceOp (.cntRead dm 0 17 true 0x1000) = true ∧ 128 < (r.outs.map (fun o => o.2.length)).sum) ∧
    Comes false (.cntRead dm 0 17 true 0x1000) managed (cmdIn (.cntRead dm 0 17 true 0x1000) managed) := by
  have big {x : Option Reply} {n : Nat} (h : x.any (fun r => decide (n < (r.outs.map (fun o => o.2.length)).sum)) = true) :
      ∃ r, x = some r ∧ n < (r.outs.map (fun o => o.2.length)).sum := by
    obtain ⟨r, hr, h⟩ := (Option.any_eq_true _ _).1 h; exact ⟨r, hr, of_decide_eq_true h⟩
  refine ⟨big (by decide +kernel), (meets (need := fun _ _ => True) (by decide +kernel) trivial).1, ?_,
    (meets (need := fun _ _ => True) (by decide +kernel) trivial).1⟩
  obtain ⟨r, h, h'⟩ := big (n := 128) (x := (effectOf (.cntRead dm 0 17 true 0x1000) (cmdIn (.cntRead dm 0 17 true 0x1000) managed)
    (managed.dev.entered (cmdIn (.cntRead dm 0 17 true 0x1000) managed))).2) (by decide +kernel)
  exact ⟨r, h, by decide +kernel, h'⟩

/-! ### Commands of a host -/

theorem test_met_TakesNow : TakesNow (.check own) live := takesNow (by decide +kernel)

/-- The operands of a `STAGE_*` row that sets an object of its class to its reset value. -/
def Tests.resetSet (cls : Nat) : StageOps :=
  let o := if cls = cLpm then { f := [1, 0, 8, 0, 5] } else schemaReset cls
  let b := writeImage cls o
  { index := 0, action := 0, isInline := decide (b.length ≤ 40), force := false, length := b.length, imageIova := 0, image := b }

def Tests.stageRows : List (Hdr → StageOps → Instr) :=
  [.stageFret, .stageDomainMap, .stageQuota, .stagePortLayout, .stageLane, .stageFaultMirror, .stageMgmtPort, .stageSmvGroup,
   .stageParseNode, .stageParseTrans, .stageParsePattern, .stageParsePort, .stageRecirc, .stagePunt, .stageKeyProfile, .stageTcam,
   .stageClsPort, .stageService, .stageLpm, .stageChannel, .stageMacsecPort, .stageSecy, .stageTxSc, .stageRxSc, .stageSa,
   .stageLlPair, .stageBlobTable, .stagePark, .stageStampPort, .stageTimePin, .stageTimeGlobal, .stageEgressPort, .stageQueue,
   .stageGateList, .stageMeter, .stageTrustMap]

/-- A `STAGE_*` row of the issuer that may give it: a domain's own for its punt and blob records, else DM's. -/
def Tests.stageRow (x : Nat × (Hdr → StageOps → Instr)) : Instr × State :=
  if x.1 + 2 = cPunt ∨ x.1 + 2 = cBlobTable then (x.2 own (resetSet (x.1 + 2)), live)
  else (x.2 dm (resetSet (x.1 + 2)), managed)

theorem test_met_StagedSet : ∀ x ∈ (List.range 36).zip stageRows, ∃ h, stageOf (stageRow x).1 = some (x.1 + 2, h, resetSet (x.1 + 2)) ∧
    Meets (stageRow x).1 (stageRow x).2 (fun d c => Passes (stageFails d c.dom (x.1 + 2) (resetSet (x.1 + 2)))) := by
  have h : ∀ x ∈ (List.range 36).zip stageRows,
      stageOf (stageRow x).1 = some (x.1 + 2, ((stageRow x).1.hdr.getD own), resetSet (x.1 + 2)) ∧
      atOnce (stageRow x).1 (stageRow x).2 = true ∧
      Passes (stageFails ((stageRow x).2.dev.had false (cmdIn (stageRow x).1 (stageRow x).2)) (cmdIn (stageRow x).1 (stageRow x).2).dom
        (x.1 + 2) (resetSet (x.1 + 2))) := by decide +kernel
  intro x hx
  exact ⟨_, (h x hx).1, meets (h x hx).2.1 (h x hx).2.2⟩

theorem test_met_stageFails : Meets (.stageFret own (resetSet 2)) managed (fun d c =>
    firstFail (stageFails d c.dom 2 (resetSet 2)) = some ePerm) := meets (by decide +kernel) (by decide +kernel)

theorem test_met_DiscardStaged :
    Meets (.stageDiscard dm { index := 0, action := 0, isInline := false, force := false, length := 0, imageIova := 0, image := [] })
      managed (fun d c => d.frozenSet c.dom = false) ∧
    Meets (.stageDiscard dm { index := 0, action := 0, isInline := false, force := false, length := 0, imageIova := 0, image := [] })
      (managed.onDev (fun d => d.onDomCfg 32 (fun c => { c with armed := some 9 }))) (fun d c => d.frozenSet c.dom = true) ∧
    Meets (.stageDiscard dm { index := 1, action := 0, isInline := false, force := false, length := 0, imageIova := 0, image := [] })
      managed (fun _ _ => True) :=
  ⟨meets (by decide +kernel) (by decide +kernel), meets (by decide +kernel) (by decide +kernel), meets (by decide +kernel) trivial⟩

/-- A domain with one change staged, and the same armed for a fret. -/
def Tests.staged : State := managed.onDev (fun d => d.onDomCfg 32 (fun c => { c with
  staging := [{ cls := cPark, key := 0, idx := 0, obj := some { f := [300] } }] }))
def Tests.armedAt (f : Nat) : State := staged.onDev (fun d => d.onDomCfg 32 (fun c => { c with armed := some f }))
def Tests.copyRuns : Copying := { target := 5, asap := true, words0 := 1, words1 := 0, ends := 100, cmd := { dom := 32, ring := 0, tag := 9, crc := 0, op := 0x0202 } }

theorem test_met_CommitRows :
    Meets (.check dm) staged (fun d c => d.checkFail c.dom = none) ∧
    Meets (.armCommit dm 0 true) staged (fun d c =>
      Passes (armFails d c.dom 0 true) ∧ d.checkFail c.dom = none ∧ d.copyLate c 0 true = false) ∧
    Meets (.armCommit dm 4000 false) staged (fun d c => Passes (armFails d c.dom 4000 false) ∧ d.checkFail c.dom = none ∧
      d.baseTooLate (d.changesOf c.dom) 4000 = false ∧ d.copyLate c 4000 false = false) ∧
    Meets (.armCommit dm 1 false) staged (fun d c => firstFail (armFails d c.dom 1 false) = some eLate) ∧
    Meets (.cancelCommit dm) (staged.onDev (fun d => d.onDomCfg 32 (fun c => { c with copying := some copyRuns })))
      (fun d c => (d.domCfg c.dom).copying = some copyRuns) ∧
    Meets (.cancelCommit dm) (armedAt 2) (fun d c => (d.domCfg c.dom).copying = none ∧
      ∃ f, (d.domCfg c.dom).armed = some f ∧ d.fret.index + 2 ≤ f ∧ d.sharers c.dom f = []) ∧
    Meets (.cancelCommit dm) (armedAt 1) (fun d c => (d.domCfg c.dom).copying = none ∧
      ∃ f, (d.domCfg c.dom).armed = some f ∧ f < d.fret.index + 2) ∧
    Meets (.cancelCommit dm) staged (fun d c => (d.domCfg c.dom).copying = none ∧ (d.domCfg c.dom).armed = none) ∧
    Meets (.standingSave dm) managed (fun d c => Passes (standFails d c.dom d.saveSet.size)) ∧
    Meets (.standingClear dm) managed (fun d c => Passes (standFails d c.dom 0)) :=
  ⟨meets (by decide +kernel) (by decide +kernel), meets (by decide +kernel) (by decide +kernel),
   meets (by decide +kernel) (by decide +kernel), meets (by decide +kernel) (by decide +kernel),
   meets (by decide +kernel) (by decide +kernel), meets (by decide +kernel) ⟨by decide +kernel, 2, by decide +kernel⟩,
   meets (by decide +kernel) ⟨by decide +kernel, 1, by decide +kernel⟩, meets (by decide +kernel) (by decide +kernel),
   meets (by decide +kernel) (by decide +kernel), meets (by decide +kernel) (by decide +kernel)⟩

theorem test_met_TableCommands :
    Meets (.tblInsert dm 1 0 0x20000000001 5 31 true) managed (fun d c => macKeyOk 1 0 0x20000000001 = true ∧ d.ownsService c.dom 1 = true ∧
      quotaPort (d.quota c.dom) 31 = true) ∧
    Meets (.tblDelete dm 1 0 0x20000000001) managed (fun d c => macKeyOk 1 0 0x20000000001 = true ∧ d.ownsService c.dom 1 = true) ∧
    Meets (.tblInsert own 1 0 0x20000000001 5 31 true) managed (fun d c => macKeyOk 1 0 0x20000000001 = true ∧
      (d.ownsService c.dom 1 = false ∨ quotaPort (d.quota c.dom) 31 = false)) ∧
    Meets (.tblSearch dm (.mac 1 0 0x20000000001)) managed (fun d c => macKeyOk 1 0 0x20000000001 = true ∧ d.ownsService c.dom 1 = true) ∧
    Meets (.tblSearch dm (.lpm 1023 1 0)) managed (fun d c => d.ownsService c.dom 1023 = true) ∧
    Meets (.tblSearch dm (.channel 4095)) managed (fun d c => quotaChannel (d.quota c.dom) 4095 = true) ∧
    Meets (.tblNext dm { cursor := 0, allServices := true, allPorts := false, select := 3, service := 0, port := 31, iova := 0 }) managed
      (fun d c => (0 : Nat) ≤ lastPosition ∧ quotaPort (d.quota c.dom) 31 = true) ∧
    Meets (.tblFlushPort dm 31 false) managed (fun d c => quotaPort (d.quota c.dom) 31 = true) :=
  ⟨meets (by decide +kernel) (by decide +kernel), meets (by decide +kernel) (by decide +kernel),
   meets (by decide +kernel) (by decide +kernel), meets (by decide +kernel) (by decide +kernel),
   meets (by decide +kernel) (by decide +kernel), meets (by decide +kernel) (by decide +kernel),
   meets (by decide +kernel) (by decide +kernel), meets (by decide +kernel) (by decide +kernel)⟩

/-- A device whose root is kept, with a KEK (handle 2), a derivation key (3) and an exportable data key (4) of DM pinned. -/
def Tests.rooted : State := (withSlot 2 (key 32 2 5) (withSlot 3 (key 32 3 4) (withSlot 4 (key 32 4 1)
  (withDwk 32 managed))))

def Tests.named : KeyOps :=
  { handle := 7, attr := 0x11, parent := 0xFFFF, slot := 9, ownerTag := zeros 12, blobIova := 0x1000 }

/-- A command of a domain whose input has come, and what it finds. -/
abbrev Tests.MeetsRead (i : Instr) (s : State) (need : Dev → Cmd → Prop) : Prop :=
  ∃ t, t = s.onDev (putWork { instr := some i, cmd := cmdIn i s, todo := [] }) ∧
    Comes true i t (cmdIn i s) ∧ need (t.dev.had true (cmdIn i s)) (cmdIn i s)

theorem Tests.meetsRead {i : Instr} {s : State} {need : Dev → Cmd → Prop}
    (h : ((s.onDev (putWork { instr := some i, cmd := cmdIn i s, todo := [] })).dev.dom (cmdIn i s).dom).works.find?
      (fun w => w.cmd.ring = (cmdIn i s).ring && w.cmd.tag = (cmdIn i s).tag && decide (w.state = .walking)) =
        some { instr := some i, cmd := cmdIn i s, todo := [] })
    (n : need ((s.onDev (putWork { instr := some i, cmd := cmdIn i s, todo := [] })).dev.had true (cmdIn i s)) (cmdIn i s)) :
    MeetsRead i s need := by
  refine ⟨_, rfl, ?_, n⟩
  unfold Comes
  rw [if_pos rfl]
  exact ⟨_, h, rfl, rfl, rfl⟩

def Tests.clearData : Bytes := zeros 32 ++ invBytes (zeros 32)

theorem test_met_KeyMaking :
    Meets (.keyGenerate dm named) rooted (fun d c => Passes (makeFails d c.dom named false) ∧ Whole (d.slotAt named.slot) ∧
      Passes ([rootFail d] ++ slotFails d c.dom named) ∧ (draw (makeLen named) d).2.dwkOk c.dom = true) ∧
    Meets (.keyGenerate dm named) (rooted.onDev (fun d => d.onKeys (fun k => { k with dwkN := k.dwkN.set 32 (zeros 32) }))) (fun d c =>
      Passes (makeFails d c.dom named false) ∧ Whole (d.slotAt named.slot) ∧ Passes ([rootFail d] ++ slotFails d c.dom named) ∧
      (draw (makeLen named) d).2.dwkOk c.dom = false) ∧
    Meets (.keyImport dm named 2 0 0 24 (zeros 24)) rooted (fun d c =>
      Passes (makeFails d c.dom named (!d.handleOk c.dom 2 || decide (1 < (0 : Nat)))) ∧
      Whole ((d.findPinned c.dom 2).toList ++ d.slotAt named.slot) ∧ Passes (importFails d c.dom named 2 24) ∧ d.dwkOk c.dom = true) ∧
    Meets (.keyDerive dm named 3 0 32 64 (zeros 96)) rooted (fun d c =>
      Passes (makeFails d c.dom named (!d.handleOk c.dom 3)) ∧ Whole ((d.findPinned c.dom 3).toList ++ d.slotAt named.slot) ∧
      Passes (deriveFails d c.dom named 3 32 64) ∧ d.dwkOk c.dom = true) ∧
    MeetsRead (.keyWriteClear own named true 0 clearData) clearing (fun d c =>
      Passes (clearFails d c.dom named true) ∧ Whole (d.slotAt named.slot) ∧
      Passes (slotFails d c.dom named ++ complementFails clearData) ∧ d.dwkOk c.dom = true) ∧
    MeetsRead (.keyWriteClear own named false 0 clearData) clearing (fun d c =>
      Passes (clearFails d c.dom named false) ∧ Whole (d.slotAt named.slot) ∧
      { d.slot 9 with binds := 0 } ≠ keySlot d c.dom named (clearKey named clearData) ∧
      Passes (slotFails d c.dom named ++ complementFails clearData)) ∧
    MeetsRead (.keyWriteClear own named false 0 clearData)
      (withSlot 9 (keySlot clearing.dev 0 named (clearKey named clearData)) clearing) (fun d c =>
      Passes (clearFails d c.dom named false ++ complementFails clearData) ∧ Whole (d.slotAt named.slot) ∧
      { d.slot 9 with binds := 0 } = keySlot d c.dom named (clearKey named clearData)) :=
  ⟨meets (by decide +kernel) (by decide +kernel), meets (by decide +kernel) (by decide +kernel),
   meets (by decide +kernel) (by decide +kernel), meets (by decide +kernel) (by decide +kernel), meetsRead (by decide +kernel) (by decide +kernel),
   meetsRead (by decide +kernel) (by decide +kernel), meetsRead (by decide +kernel) (by decide +kernel)⟩

theorem test_met_KeySlots :
    Meets (.keyPin dm 7 9 0x1000 (zeros 96)) rooted (fun d c => Passes (pinFails d c.dom 7 9 0x1000) ∧ Whole (d.slotAt 9) ∧
      ¬((d.slot 9).state = .valid ∧ (d.slot 9).dom = c.dom ∧ (d.slot 9).handle = 7) ∧
      Passes (slotFails d c.dom (pinOps 7 9 0x1000))) ∧
    Meets (.keyPin dm 4 4 0x1000 []) rooted (fun d c => Passes (pinFails d c.dom 4 4 0x1000) ∧ Whole (d.slotAt 4) ∧
      (d.slot 4).state = .valid ∧ (d.slot 4).dom = c.dom ∧ (d.slot 4).handle = 4) ∧
    Meets (.keyUnpin dm 4) rooted (fun d c => d.ownsSlot c.dom 4 = true ∧ (d.slot 4).pairOk = true ∧ (d.slot 4).state = .valid ∧
      d.pinUsed 4 = false) ∧
    Meets (.keyUnpin dm 4) (rooted.onDev (fun d => d.onKeys (fun k => { k with parents := [(5, ⟨4, 1⟩)] }))) (fun d c =>
      d.ownsSlot c.dom 4 = true ∧ (d.slot 4).pairOk = true ∧ (d.slot 4).state = .valid ∧ d.pinUsed 4 = true) ∧
    Meets (.keyEvict dm 8) (withSlot 4096 (key 32 8 1) rooted) (fun d c => d.handleOk c.dom 8 = true ∧ d.findPinned c.dom 8 = none ∧
      ∃ n s, d.findCached c.dom 8 = some (n, s) ∧ s.pairOk = true ∧ s.state ≠ .retiring ∧ s.state ≠ .zeroing) ∧
    Meets (.keyEvict dm 8) rooted (fun d c => d.handleOk c.dom 8 = true ∧ d.findPinned c.dom 8 = none ∧ d.findCached c.dom 8 = none) ∧
    Meets (.keyEvict dm 4) rooted (fun d c => d.handleOk c.dom 4 = true ∧ (d.findPinned c.dom 4).isSome = true ∧
      Whole ((d.findPinned c.dom 4).toList ++ (d.findCached c.dom 4).toList)) ∧
    Meets (.keyExport dm 4 2 1 0x1000) rooted (fun d c => d.handleOk c.dom 4 = true ∧ d.handleOk c.dom 2 = true ∧
      Whole ((d.anySlot c.dom 4).toList ++ (d.findPinned c.dom 2).toList) ∧ Passes (exportFails d c.dom 4 2)) :=
  ⟨meets (by decide +kernel) (by decide +kernel),
   meets (by decide +kernel) (by decide +kernel), meets (by decide +kernel) (by decide +kernel),
   meets (by decide +kernel) (by decide +kernel),
   meets (by decide +kernel) ⟨by decide +kernel, by decide +kernel, 4096, key 32 8 1, by decide +kernel⟩,
   meets (by decide +kernel) (by decide +kernel), meets (by decide +kernel) (by decide +kernel),
   meets (by decide +kernel) (by decide +kernel)⟩

theorem test_met_KeyParents :
    Meets (.keyParentBind dm 1023 4) rooted (fun d c => quotaParent (d.quota c.dom) 1023 = true ∧ d.ownsSlot c.dom 4 = true ∧
      (d.slot 4).pairOk = true ∧
      d.keys.parents.find 1023 = none ∧ (∀ e ∈ d.keys.parents, e.2.slot ≠ 4) ∧ (d.slot 4).state = .valid ∧
      ∃ n, d.depthOf (d.slot 4) = some n ∧ n ≤ 3) ∧
    Meets (.keyRevoke dm 1023) rooted (fun d c => quotaParent (d.quota c.dom) 1023 = true ∧ d.parentGen 1023 ≠ 2 ^ 32 - 1) ∧
    Meets (.keyRevoke dm 0) (rooted.onDev (fun d => d.onMram (fun m => { m with parentGen := [(0, 2 ^ 32 - 1)] })))
      (fun d c => quotaParent (d.quota c.dom) 0 = true ∧ d.parentGen 0 = 2 ^ 32 - 1) ∧
    Meets (.keyDomainRoll dm 32) rooted (fun d c => c.dom = d.sup ∧ d.domGen 32 ≠ 2 ^ 32 - 1) ∧
    Meets (.keyStatus dm 2 1023) rooted (fun d c => quotaParent (d.quota c.dom) 1023 = true) ∧
    Meets (.keyStatus dm 1 16383) rooted (fun d c => (d.slot 16383).pairOk = true ∧
      ((d.slot 16383).state = .free ∨ (d.slot 16383).dom = c.dom)) ∧
    Meets (.keyStatus dm 0 4) rooted (fun d c => d.handleOk c.dom 4 = true ∧ Whole (d.anySlot c.dom 4).toList) ∧
    MeetsRead (.keyMgmtSet own 5 1 0 0 32 (zeros 32)) clearing (fun d c =>
      c.dom = d.sup ∧ d.grant c.dom 0 = true ∧ c.dom ≠ dmCode ∧
      ¬(d.vault.mgmtId.toNat = 5 ∧ d.vault.mgmtKey = bytesAt (zeros 32) 0 32 ∧ d.mgmtOk = true)) ∧
    MeetsRead (.keyMgmtSet own 5 1 0 0 32 (zeros 32)) (clearing.onDev (setMgmtKey 5 (zeros 32))) (fun d c =>
      c.dom = d.sup ∧ d.grant c.dom 0 = true ∧ c.dom ≠ dmCode ∧
      d.vault.mgmtId.toNat = 5 ∧ d.vault.mgmtKey = bytesAt (zeros 32) 0 32 ∧ d.mgmtOk = true) ∧
    Meets (.keyMgmtSet dm 5 0 2 0 40 (zeros 40)) rooted (fun d c => c.dom = d.sup ∧ d.handleOk c.dom 2 = true ∧
      Whole (d.findPinned c.dom 2).toList ∧ Passes (keyFails d c.dom 2 5) ∧ d.vault.mgmtId.toNat ≠ 5) :=
  ⟨meets (by decide +kernel) ⟨by decide +kernel, by decide +kernel, by decide +kernel, by decide +kernel, by decide +kernel, by decide +kernel,
      1, by decide +kernel⟩,
   meets (by decide +kernel) (by decide +kernel), meets (by decide +kernel) (by decide +kernel),
   meets (by decide +kernel) (by decide +kernel), meets (by decide +kernel) (by decide +kernel),
   meets (by decide +kernel) (by decide +kernel), meets (by decide +kernel) (by decide +kernel),
   meetsRead (by decide +kernel) (by decide +kernel), meetsRead (by decide +kernel) (by decide +kernel),
   meets (by decide +kernel) (by decide +kernel)⟩

theorem test_met_SaQueue :
    (∀ i ∈ [Instr.saInit dm 65535 1 0, .saEnable dm 65535, .saDisable dm 65535, .saSetLowestPn dm 65535 1],
      Meets i managed (fun d c => saChecks c 65535 d = none)) ∧
    Meets (.saRead dm 0 0x1000) managed (fun d c => saChecks c 0 d = none) ∧
    Meets (.saEnable dm 65536) managed (fun d c => saChecks c 65536 d = some eRange) := by
  refine ⟨?_, meets (by decide +kernel) (by decide +kernel), meets (by decide +kernel) (by decide +kernel)⟩
  simp only [List.mem_cons, List.not_mem_nil, or_false, forall_eq_or_imp, forall_eq]
  exact ⟨meets (by decide +kernel) (by decide +kernel), meets (by decide +kernel) (by decide +kernel),
    meets (by decide +kernel) (by decide +kernel), meets (by decide +kernel) (by decide +kernel)⟩

/-- A layout in which slice 0's line lanes 0 to 7 are one Smivia group, with keys of the two directions pinned. -/
def Tests.grouped (s : State) : State :=
  withObj cPortLayout 0 { f := List.replicate 8 8 ++ List.replicate 8 0 ++ [255] } s
def Tests.epochs : State := grouped (withSlot 2 { key 32 2 1 with keyLen := 1 } (withSlot 3 { key 32 3 2 with keyLen := 1 }
  (managed.onDev (fun d => d.onKeys (fun k => { k with root := 1 })))))
def Tests.onSmv (f : Group → Group) (s : State) : State := s.onDev (fun d => d.onGroup 0 f)

theorem test_met_SmvEpochs :
    Meets (.saSmvCancel dm 0) (onSmv (fun g => { g with armed := some (1, 2, 3, 2) }) epochs) (fun d c =>
      Passes (groupFails d c.dom 0) ∧ ∃ x, (d.group 0).armed = some x ∧ d.fret.index + 1 < x.2.2.2) ∧
    Meets (.saSmvCancel dm 0) (onSmv (fun g => { g with armed := some (1, 2, 3, 1) }) epochs) (fun d c =>
      Passes (groupFails d c.dom 0) ∧ ∃ x, (d.group 0).armed = some x ∧ x.2.2.2 ≤ d.fret.index + 1) ∧
    Meets (.saSmvArm dm 0 1 2 3 2) (onSmv (fun g => { g with armed := some (1, 2, 3, 2) }) epochs) (fun d c =>
      Passes (groupFails d c.dom 0) ∧
      (d.group 0).armed = some (1, 2, 3, 2)) ∧
    Meets (.saSmvRead dm 0 0x1000) epochs (fun d c => Passes (groupFails d c.dom 0)) ∧
    Meets (.saSmvStop dm 0) (onSmv (fun g => { g with txEpoch := 1 }) epochs) (fun d c => Passes (groupFails d c.dom 0) ∧
      (d.group 0).stopDue = false ∧ ((d.group 0).txEpoch ≠ 0 ∨ ∃ r ∈ (d.group 0).rx, r.epoch ≠ 0)) ∧
    Meets (.saSmvStop dm 0) epochs (fun d c => Passes (groupFails d c.dom 0) ∧ (d.group 0).txEpoch = 0 ∧
      ∀ r ∈ (d.group 0).rx, r.epoch = 0) ∧
    Meets (.saSmvArm dm 0 1 2 3 2) epochs (fun d c => Passes (groupFails d c.dom 0) ∧ (d.group 0).armed ≠ some (1, 2, 3, 2) ∧ Passes (smvArmFails d c.dom 0 1 2 3 2)) :=
  ⟨meets (by decide +kernel) ⟨by decide +kernel, (1, 2, 3, 2), by decide +kernel⟩,
   meets (by decide +kernel) ⟨by decide +kernel, (1, 2, 3, 1), by decide +kernel⟩,
   meets (by decide +kernel) (by decide +kernel), meets (by decide +kernel) (by decide +kernel),
   meets (by decide +kernel) (by decide +kernel), meets (by decide +kernel) (by decide +kernel),
   meets (by decide +kernel) (by decide +kernel)⟩

def Tests.stepUp : StepOps := { tb := 7, subtract := false, force := false, newInc := true, seconds := 0, nanos := 10, fraction := 0,
                                incWhole := 2, incFrac := 0, iova := 0 }

theorem test_met_TimeCommands :
    Meets (.tbInc own 7 2 0) live (fun d c => incOk 2 0 = true ∧ quotaTb (d.quota c.dom) 7 = true ∧ d.servoOwns 7 = false) ∧
    Meets (.tbInc own 0 2 0) (withObj cTimeGlobal 0 { f := [8, 1, 0, 1000] } live) (fun d c => incOk 2 0 = true ∧
      quotaTb (d.quota c.dom) 0 = true ∧ d.servoOwns 0 = true) ∧
    Meets (.tbInc own 8 2 0) live (fun _ _ => (8 : Nat) ≤ 8 ∨ incOk 2 0 = false) ∧
    Meets (.tbStep own stepUp) live (fun d c => incOk 2 0 = true ∧ quotaTb (d.quota c.dom) 7 = true ∧ d.servoOwns 7 = false ∧
      0 ≤ (d.tbAt 7 (d.applyEdge 7) : Int) + stepOffset stepUp ∧ d.stepTooFar 7 (stepOffset stepUp) false = false) ∧
    Meets (.tbRead dm 255 0x1000) managed (fun d c => ∃ i < 8, d.readsTb c.dom 255 i = true) ∧
    Meets (.tbRead dm 7 0x1000) managed (fun d c => ∀ i < 8, d.readsTb c.dom 7 i = false) :=
  ⟨meets (by decide +kernel) (by decide +kernel), meets (by decide +kernel) (by decide +kernel),
   meets (by decide +kernel) (by decide +kernel), meets (by decide +kernel) (by decide +kernel),
   meets (by decide +kernel) (by decide +kernel), meets (by decide +kernel) (by decide +kernel)⟩

theorem test_met_CounterCommands :
    Meets (.cntRead dm 0 16 true 0x1000) managed (fun d c => ∀ i < 16, cntOk (0 + i) = true ∧ d.ownsCounter c.dom (0 + i) = true) ∧
    Meets (.cntRead dm 0 17 true 0x1000) managed (fun d c => (∀ i < 17, cntOk (0 + i) = true ∧ d.ownsCounter c.dom (0 + i) = true) ∧
      c.dom = dmCode) ∧
    Meets (.cntLaneRead dm 31 true) (managed.onDev (onLane 31 (fun l => { l with use := some (31, 6) }))) (fun d c =>
      ∃ u, (d.lane 31).use = some u ∧ quotaPort (d.quota c.dom) u.1 = true) ∧
    Meets (.cntSelect dm 95 0x120 0) managed (fun d c => (c.dom : Nat) = d.sup ∧
      (∃ w : Nat, eventQual 0x120 (decide (64 ≤ (95 : Nat))) = some w ∧ (0 : Nat) < 2 ^ w) ∧
      Tbl.get (0, 0) 95 d.cnt.sel ≠ (0x120, 0)) ∧
    Meets (.cntSelect dm 95 0x120 0) (managed.onDev (fun d => d.onCnt (fun x => { x with sel := Tbl.set (0, 0) 95 (0x120, 0) x.sel })))
      (fun d c => (c.dom : Nat) = d.sup ∧
      (∃ w : Nat, eventQual 0x120 (decide (64 ≤ (95 : Nat))) = some w ∧ (0 : Nat) < 2 ^ w) ∧ Tbl.get (0, 0) 95 d.cnt.sel = (0x120, 0)) ∧
    Meets (.dumpConfig own 1048576 1) managed (fun _ c => c.dom ≠ dmCode) ∧
    Meets (.dumpConfig dm 0 0) managed (fun _ c => c.dom = dmCode) :=
  ⟨meets (by decide +kernel) (by decide +kernel), meets (by decide +kernel) (by decide +kernel),
   meets (by decide +kernel) ⟨(31, 6), by decide +kernel⟩, meets (by decide +kernel) ⟨by decide +kernel, ⟨8, by decide +kernel⟩, by decide +kernel⟩,
   meets (by decide +kernel) ⟨by decide +kernel, ⟨8, by decide +kernel⟩, by decide +kernel⟩,
   meets (by decide +kernel) (by decide +kernel), meets (by decide +kernel) (by decide +kernel)⟩

/-- The two firmware states of the tests: slot 1 receives, or holds what slot 0 runs. -/
def Tests.loading (st : Nat) (kib : Bytes) : State := managed.onDev (fun d => d.onFw (fun w => { w with
  slots := w.slots.set 1 { state := st, len := imageMin, bytes := [(0, kib)], parts := [{}, {}, {}, {}] } }))

/-- The header of an image of the least length: four parts, of types 1 to 4, in order (17 R504). -/
def Tests.header : Bytes := [0x56, 0x52, 0x58, 0x46, 1, 4, 0, 0] ++ leBytes imageMin 4 ++ zeros 20 ++
  ([(1, 512, 4096), (2, 4608, 4096), (3, 8704, 4096), (4, 12800, 1024)].flatMap (fun (e : Nat × Nat × Nat) =>
    padTo 64 ([BitVec.ofNat 8 e.1] ++ zeros 7 ++ leBytes e.2.1 4 ++ leBytes e.2.2 4)))

theorem test_met_FirmwareCommands :
    Meets (.fwBegin dm 1 imageMin) managed (fun d c => d.grant c.dom 2 = true ∧ d.fw.run.contains 1 = false ∧
      d.fw.act = none ∧ d.fwVerifies 1 = false ∧ imageMin ≤ imageMax) ∧
    Meets (.fwBlock dm 1 18432 0x1000 115 (zeros 115)) (loading fwRECEIVING []) (fun d c => d.grant c.dom 2 = true ∧
      18432 % blockUnit c.dom = 0 ∧ (d.fwSlot 1).state = fwRECEIVING ∧ 18432 < (d.fwSlot 1).len ∧
      115 = min (blockUnit c.dom) ((d.fwSlot 1).len - 18432)) ∧
    Meets (.fwVerify dm 1) (loading fwRECEIVED header) (fun d c => d.grant c.dom 2 = true ∧
      (d.fwSlot 1).state ∈ [fwRECEIVED, fwVERIFIED, fwREJECTED, fwFAILED] ∧ d.fw.verifying = none ∧
      imageFormatOk (d.fwSlot 1).image (d.fwSlot 1).len = true) ∧
    Meets (.fwVerify dm 1) (loading fwRECEIVED []) (fun d c => d.grant c.dom 2 = true ∧
      (d.fwSlot 1).state ∈ [fwRECEIVED, fwVERIFIED, fwREJECTED, fwFAILED] ∧ d.fw.verifying = none ∧
      imageFormatOk (d.fwSlot 1).image (d.fwSlot 1).len = false) ∧
    Meets (.fwSchedule dm 1 2) (loading fwVERIFIED []) (fun d c => d.grant c.dom 2 = true ∧ (d.fwSlot 1).state = fwVERIFIED ∧
      d.fw.act = none ∧ d.fw.trialEnd = none ∧ d.sourceArmed = false ∧ d.fret.index + 2 ≤ 2 ∧
      ∃ o, d.fwOrder 1 = some o ∧ (4 ∈ o → d.pgTaken 1 2 = false)) ∧
    Meets (.fwCancel dm 1) ((loading fwSCHEDULED []).onDev (fun d => d.onFw (fun w => { w with
      act := some { slot := 1, target := 2, order := [] } }))) (fun d c => d.grant c.dom 2 = true ∧
      (d.fwSlot 1).state = fwSCHEDULED ∧ ∃ a, d.fw.act = some a ∧ a.running = false ∧ d.fret.index + 2 ≤ a.target) ∧
    Meets (.fwStatus dm 0x1000) managed (fun d c => d.grant c.dom 2 = true) ∧
    Meets (.fwRevert dm) (loading fwPREVIOUS []) (fun d c => d.grant c.dom 2 = true ∧ d.fw.act = none ∧ ∃ p o, d.previous = some p ∧
      (∀ ty ∈ [1, 2, 3, 4], d.fw.floors.getD (ty - 1) 0 ≤ ((d.fwSlot p).part ty).svn) ∧ d.fwOrder p = some o ∧
      (4 ∈ o → d.pgTaken p (d.fret.index + 2) = false)) :=
  ⟨meets (by decide +kernel) (by decide +kernel),
   meets (by decide +kernel) (by decide +kernel), meets (by decide +kernel) (by decide +kernel),
   meets (by decide +kernel) (by decide +kernel),
   meets (by decide +kernel) ⟨by decide +kernel, by decide +kernel, by decide +kernel, by decide +kernel, by decide +kernel,
     by decide +kernel, [], by decide +kernel⟩,
   meets (by decide +kernel) ⟨by decide +kernel, by decide +kernel, { slot := 1, target := 2, order := [] }, by decide +kernel⟩,
   meets (by decide +kernel) (by decide +kernel),
   meets (by decide +kernel) ⟨by decide +kernel, by decide +kernel, 1, [], by decide +kernel⟩⟩

theorem test_met_LifeCycleCommands :
    Meets (.lcStatus dm 0x1000) managed (fun d c => d.grant c.dom 3 = true) ∧
    Meets (.lcTransition dm 4 0x1000 32 (zeros 32)) managed (fun d c => d.grant c.dom 3 = true ∧ d.jnlActive = false ∧
      ∃ m, d.lcMove 4 = some m ∧ (m.2.2 = true → ∀ b ∈ d.tamper.bits, b = false)) ∧
    Meets (.lcTransition dm 1 0x1000 32 (zeros 32)) managed (fun d c => d.grant c.dom 3 = true ∧ d.lcMove 1 = none) ∧
    Meets (.lcSetSupervisor dm 31) managed (fun d c => c.dom = d.sup ∧ d.lc ≠ 4 ∧ d.tamper.locked = false ∧
      d.jnlActive = false ∧ d.tamper.supCmd = none) ∧
    Meets (.lcDebugScrub dm 0x1000 4755 []) managed (fun d c => d.grant c.dom 3 = true ∧ d.lc = 3 ∧ d.tamper.locked = false ∧
      d.debugOpen = false ∧ d.jnlActive = false) :=
  ⟨meets (by decide +kernel) (by decide +kernel),
   meets (by decide +kernel) ⟨by decide +kernel, by decide +kernel, (1, 1, false), by decide +kernel⟩,
   meets (by decide +kernel) (by decide +kernel), meets (by decide +kernel) (by decide +kernel),
   meets (by decide +kernel) (by decide +kernel)⟩

/-- Boundary values of TAMPER_CONFIG: the first alarm, whose levels it takes, and the last, whose levels are 0; and a class below
the floor of PRODUCTION. -/
theorem test_met_TamperCommands :
    (∀ x ∈ [((2 : Nat), (3 : Nat), (-45 : Int), (125 : Int)), (12, 0, 0, 0)],
      Meets (.tamperConfig dm x.1 x.2.1 x.2.2.1 x.2.2.2) managed (fun d c => levelsOk x.1 x.2.2.1 x.2.2.2 = true ∧
        d.grant c.dom 3 = true ∧ d.lc ≠ 4 ∧ (d.lc = 3 → classFloors.getD (x.1 - 2) 0 ≤ x.2.1) ∧
        (d.tamper.bits.getD (x.1 - 2) false = true → d.mram.classes.getD (x.1 - 2) 0 ≤ x.2.1))) ∧
    Meets (.tamperConfig dm 4 0 0 0) managed (fun d c => levelsOk 4 0 0 = true ∧ d.grant c.dom 3 = true ∧ d.lc = 3 ∧
      0 < classFloors.getD (4 - 2) 0) ∧
    Meets (.tamperClear dm 2047) managed (fun d c => d.grant c.dom 3 = true) ∧
    Meets (.tamperLogRead dm 0 64 0x1000) managed (fun d c => d.grant c.dom 3 = true) := by
  refine ⟨?_, meets (by decide +kernel) (by decide +kernel), meets (by decide +kernel) (by decide +kernel),
    meets (by decide +kernel) (by decide +kernel)⟩
  simp only [List.mem_cons, List.not_mem_nil, or_false, forall_eq_or_imp, forall_eq]
  exact ⟨meets (by decide +kernel) (by decide +kernel), meets (by decide +kernel) (by decide +kernel)⟩

theorem test_met_ResumeAbort :
    Meets (.resume own 0 0 9) (alive (working (work (.suspended 2 0)))) (fun d c => d.suspendedWork c.dom 0 9 = some (work (.suspended 2 0)) ∧
      xlat d c.dom 0x1000 false = .walk) ∧
    Meets (.abort own 0 0 9) (working (work (.suspended 2 0))) (fun d c => d.suspendedWork c.dom 0 9 = some (work (.suspended 2 0))) ∧
    Meets (.resume own 0 3 9) (withRun run) (fun d c => d.suspendedWork c.dom 3 9 = none ∧ d.lkSuspended c.dom 3 9 = some run) ∧
    Meets (.abort own 0 3 9) (withRun run) (fun d c => d.suspendedWork c.dom 3 9 = none ∧ d.lkSuspended c.dom 3 9 = some run) ∧
    Meets (.resume own 1 1 255) (alive (fetch (.suspended 2 0) [4])) (fun d c => (d.suspendedFetch c.dom 1 255).isSome = true ∧
      xlat d 0 (d.fetchIova 0 5) false = .walk) ∧
    Meets (.resume own 1 1 255) ((alive (fetch (.suspended 2 0) [4])).onDev (fun d => d.onPage 0 (fun p => { p with dtuMode := 2 })))
      (fun d c => (d.suspendedFetch c.dom 1 255).isSome = true ∧ xlat d 0 (d.fetchIova 0 5) false = .ok 640) ∧
    Meets (.abort own 1 1 255) (fetch (.suspended 2 0) [4]) (fun d c => (d.suspendedFetch c.dom 1 255).isSome = true) ∧
    Meets (.resume own 0 0 9) live (fun d c => d.suspendedWork c.dom 0 9 = none ∧ d.lkSuspended c.dom 0 9 = none) ∧
    Meets (.abort own 0 6 9) live (fun d c => d.suspendedWork c.dom 6 9 = none ∧ d.lkSuspended c.dom 6 9 = none) :=
  ⟨meets (by decide +kernel) (by decide +kernel), meets (by decide +kernel) (by decide +kernel),
   meets (by decide +kernel) (by decide +kernel), meets (by decide +kernel) (by decide +kernel),
   meets (by decide +kernel) (by decide +kernel), meets (by decide +kernel) (by decide +kernel),
   meets (by decide +kernel) (by decide +kernel), meets (by decide +kernel) (by decide +kernel),
   meets (by decide +kernel) (by decide +kernel)⟩

/-- The header of a job of domain 0, and a job of each operation that passes the checks. -/
def Tests.lk : Hdr := { dom := 0, ring := 3, tag := 1, crc := 7, bad := false }
def Tests.jobs : List (Nat × Instr) :=
  let j := { job with handle := 4, paramA := 0, length := 16, src := 0x1000 }
  [(1, .lkCbc lk j), (2, .lkCtr lk j), (3, .lkCfb lk j), (4, .lkGcm lk { j with paramA := 16 }), (5, .lkCmac lk { j with paramA := 16 }),
   (6, .lkWrap lk j), (7, .lkUnwrap lk { j with length := 24 }),
   (8, .lkKdf lk { j with src := 0, aux := 0x1000, auxLen := 1, paramB := 1 }), (9, .lkHash lk { j with handle := 0, paramA := 1 }),
   (10, .lkVerify lk { j with handle := 0, paramA := 1, dst := 0, aux := 0x3000, auxLen := 193 })]

/-- A device with a lookaside key of domain 0 pinned. -/
def Tests.keyed : State := withSlot 4 (key 0 4 3) live

theorem test_met_LookasideCommands :
    (∀ x ∈ jobs, ∃ h j, lookOf x.2 = some (x.1, h, j) ∧ Meets x.2 keyed (fun d c => d.lkBadPair x.1 c.dom j = none ∧ lkCheck x.1 c.dom j d = none)) ∧
    Meets (.lkHash lk { job with paramA := 7 }) live (fun d c => d.lkBadPair 9 c.dom { job with paramA := 7 } = none ∧
      lkCheck 9 c.dom { job with paramA := 7 } d = some eRange) ∧
    Meets (.lkCtr lk { job with handle := 4, length := 16, src := 0x1000, paramA := 0 })
      (withSlot 4 { (key 0 4 3) with attr := 2 } live) (fun d c =>
      ∃ n, d.lkBadPair 2 c.dom { job with handle := 4, length := 16, src := 0x1000, paramA := 0 } = some n) := by
  refine ⟨?_, meets (by decide +kernel) (by decide +kernel), meets (by decide +kernel) ⟨4, by decide +kernel⟩⟩
  have h : ∀ x ∈ jobs, lookOf x.2 = some (x.1, ((lookOf x.2).map (·.2.1)).getD own, ((lookOf x.2).map (·.2.2)).getD job) ∧
      atOnce x.2 keyed = true ∧ (keyed.dev.had false (cmdIn x.2 keyed)).lkBadPair x.1 (cmdIn x.2 keyed).dom (((lookOf x.2).map (·.2.2)).getD job) = none ∧
      lkCheck x.1 (cmdIn x.2 keyed).dom (((lookOf x.2).map (·.2.2)).getD job) (keyed.dev.had false (cmdIn x.2 keyed)) = none := by decide +kernel
  intro x hx
  exact ⟨_, _, (h x hx).1, meets (h x hx).2.1 (h x hx).2.2⟩

/-! ### Registers, rings, interrupts, PCIe and the management ports -/

/-- A device whose endpoint 0 has its link. -/
def Tests.linked : State := live.onDev (fun d => d.onEp 0 (fun e => { e with linkUp := true }))

/-- A register page, a write that the spec gives each ring's registers, and the halves of a wide register. -/
theorem test_met_RegisterWrites :
    linked.dev.pageDom 0 0 = some 0 ∧ (∀ r < 9, (live.dev.page 0).ringEn.getLsbD r = false) ∧
    (∀ r < 9, (reached.dev.page 0).ringEn.getLsbD r = true) ∧ reached.dev.pageDom 0 0 = some 0 ∧
    (0 : Nat).testBit 11 = false ∧ (live.dev.page 0).enable = false ∧ (live.dev.page 0).ringEn = 0 ∧ 0 < live.dev.host.doms.length ∧
    (let s := linked.onDev (fun d => d.onPage 0 (fun p => { p with half := some (0x010, 5) }));
      s.dev.pageDom 0 0 = some 0 ∧ (s.dev.page 0).half = some (0x010, 5)) := by decide +kernel

theorem test_met_RegisterWrites_rest : linked.dev.pageDom 1 0 = none ∧ (∀ r, (linked.dev.ring 0 r).fetch = .none) ∧
    (1 : Nat).testBit 0 = true ∧ (2 : Nat).testBit 0 = false := by
  refine ⟨by decide +kernel, fun r => ?_, by decide, by decide⟩
  have h : (linked.dev.dom 0).rings = List.replicate 9 {} := by decide +kernel
  rw [Dev.ring, h, List.getD_eq_getElem?_getD, List.getElem?_replicate]
  split <;> rfl

/-- A ring whose record is reached and whose LOG2 is in its range, or not; one that is enabled. -/
theorem test_met_RingRows :
    (let s := reached.onDev (fun d => d.onPage 0 (fun p => { p with ringEn := 0 }));
      s.dev.pageDom 0 0 = some 0 ∧ (s.dev.dom 0).rings.length = 9 ∧ (s.dev.page 0).ringEn.getLsbD 8 = false ∧
      (s.dev.page 0).dtuErr = false ∧ (s.dev.dom 0).held = [] ∧ xlat s.dev 0 ((s.dev.page 0).dbrec + 64 * 8 + 8) true = .ok 0x8208 ∧
      log2Ok 8 (s.dev.ring 0 8).log2 = true) ∧
    (let s := (reached.onDev (fun d => d.onPage 0 (fun p => { p with ringEn := 0 }))).onDev (fun d => d.onRing 0 0 (fun r => { r with log2 := 31 }));
      s.dev.pageDom 0 0 = some 0 ∧ xlat s.dev 0 ((s.dev.page 0).dbrec + 64 * 0 + 8) true = .ok 0x8008 ∧ log2Ok 0 (s.dev.ring 0 0).log2 = false) ∧
    (reached.dev.page 0).ringEn.getLsbD 8 = true := by decide +kernel

theorem test_met_DomainReset : linked.dev.pageDom 0 7 = some 7 ∧ 7 < linked.dev.host.doms.length ∧ (linked.dev.dom 7).held = [] ∧
    7 < linked.dev.cnt.dumps.length ∧ (linked.dev.domCfg 7).copying = none ∧ (linked.dev.domCfg 7).armed = none ∧
    ((armedAt 1).dev.domCfg 32).copying = none ∧ ((armedAt 1).dev.domCfg 32).armed = some 1 ∧ 1 < (armedAt 1).dev.fret.index + 2 := by
  decide +kernel

theorem test_met_DomainResetDone :
    live.dev.dmaRuns 0 = false ∧ (withRun run).dev.dmaRuns 0 = true := by
  decide +kernel

theorem test_met_TranslationRows :
    linked.dev.pageDom 0 0 = some 0 ∧ live.dev.grant 0 1 = true ∧ (live.dev.page 0).invalBusy = false ∧ (live.dev.page 0).dtuErr = false ∧
    (live.dev.dom 0).held = [] ∧ (live.dev.page 0).enable = false ∧
    (linked.onDev (fun d => d.onPage 0 (fun p => { p with invalBusy := true, dtuErr := true }))).dev.pageDom 0 0 = some 0 ∧
    linked.dev.pageDom 0 1 = some 1 ∧ linked.dev.grant 1 1 = false := by decide +kernel

/-- A vector of an endpoint that may write, and a source with a new entry whose hold-off has run out. -/
theorem test_met_InterruptRows :
    (let s := reached.onDev (fun d => d.onEp 0 (fun p => { p with pending := 1 <<< 63 }));
      63 < 64 ∧ 0 < s.dev.host.eps.length ∧ (s.dev.ep 0).linkUp = true ∧ s.dev.domAt 0 (63 / 8) = some 7 ∧ 7 < s.dev.host.doms.length ∧
      (s.dev.ep 0).pending.getLsbD 63 = true ∧ (s.dev.ep 0).busMaster = true ∧ (s.dev.ep 0).d3hot = false ∧
      (reached.dev.ep 0).pending.getLsbD 63 = false) ∧
    (let s := reached.onDev (fun d => ((d.onDom 0 (fun D => { D with sources := D.sources.map (fun x => { x with due := true }) })).onPage 0 (fun p =>
        { p with msixMap := 0x88888 })).onEp 0 (fun e => { e with masked := 0 }));
      ((s.dev.dom 0).sources.getD 4 {}).due = true ∧ (s.dev.page 0).msixMap.getLsbD (4 * 4 + 3) = true ∧
      s.dev.place 0 = some (0, 0) ∧ s.dev.dmaAlive 0 = true ∧ (s.dev.ep 0).masked.getLsbD (8 * 0 + 0) = false) := by decide +kernel

/-- Domain 0 polls; a record of each kind: valid, with as many entries as the ring has, or one more, and one of another EPOCH. -/
theorem test_met_PollRows :
    ((reached.dev.page 0).fretOnly = false ∧ reached.dev.pollable 0 = true ∧ (reached.dev.dom 0).pollOut = false ∧
      xlat reached.dev 0 (reached.dev.page 0).dbrec false = .ok 0x8000 ∧ reached.dev.ringUp 0 0 = true ∧
      0 < (reached.dev.dom 0).rings.length ∧ recOk { hostIndex := 256, epoch := 0xFEFF } 0 = true ∧
      (256 : BitVec 32).toNat ≤ 2 ^ (reached.dev.ring 0 0).log2 ∧ recOk { hostIndex := 257, epoch := 0xFEFE } 0 = true ∧
      2 ^ (reached.dev.ring 0 0).log2 < (257 : BitVec 32).toNat ∧ recOk { hostIndex := 0, epoch := 0x1FFFF } 0 = false) ∧
    live.dev.pollable 0 = false ∧
    (let s := reached.onDev (fun d => d.onDom 0 (fun D => { D with pollOut := true }));
      (s.dev.dom 0).pollOut = true ∧ (s.dev.dom 0).pollWalk = none ∧ s.dev.pollable 0 = true ∧ xlat s.dev 0 (s.dev.page 0).dbrec false = .ok 0x8000) ∧
    (let s := reached.onDev (fun d => issueFetch 0 0 (d.onRing 0 0 (fun r => { r with hostIndex := 1 })));
      (s.dev.ring 0 0).reads.isSome = true ∧ s.dev.ringUp 0 0 = true ∧ s.dev.serves = true ∧ s.dev.admits 0 = true) := by
  decide +kernel

/-- No ring waits: the wake of each poll finds nothing to do. -/
theorem test_met_PollRows_wake :
    let s := reached.onDev (fun d => d.onDom 0 (fun D => { D with pollOut := true }));
    wake s.dev = s.dev := by decide +kernel

theorem test_met_PcieRows :
    0 < live.dev.host.eps.length ∧ live.dev.host.doms.length = 33 ∧ live.dev.power.up = true ∧ 0 < live.dev.epCount ∧
    (linked.dev.ep 0).linkUp = true ∧ linked.dev.power.ready = true ∧ live.dev.place 0 = some (0, 0) := by decide +kernel

/-- A management frame of a type, to the address that port 0 is given. -/
def Tests.hem (ty n : Byte) : Bytes :=
  beBytes 0x020000000001 6 ++ zeros 6 ++ [0x88, 0xB5, 1, ty] ++ zeros 24 ++ [n, 0] ++ zeros 6
def Tests.synced : State := (withObj cMgmtPort 0 { f := [1, 0, 0, 0, 0x020000000001] } live).onDev (fun d =>
  (d.onLanes (fun x => { x with mgSync := [true, true] })).onPower (fun p => { p with mgMacs := [0x020000000001, 0] }))

theorem test_met_ManagementFrames :
    synced.dev.lanes.mgSync.getD 0 false = true ∧ synced.dev.serves = true ∧
    synced.dev.hemFor 0 (hem 5 0) = true ∧ leAt (hem 5 0) 15 1 = 5 ∧ synced.dev.hemFor 0 (hem 2 1) = true ∧ leAt (hem 2 1) 15 1 = 2 ∧
    synced.dev.hemFor 0 (zeros 64) = false ∧ leAt (zeros 64) 15 1 ≠ 2 ∧ leAt (zeros 64) 15 1 ≠ 5 := by decide +kernel

theorem test_met_ManagementTimers :
    (let s := synced.onDev (fun d => (setMgmtKey 5 (zeros 32) d).onHem (fun h => { h with events := [{ index := 3, image := [], sent := 0 }] }));
      s.dev.vault.mgmtId ≠ 0 ∧ s.dev.mgmtOk = true ∧ s.dev.lanes.mgSync = [true, true] ∧
      s.dev.host.hem.events.filter (fun e => e.index = (3 : BitVec 32).toNat) = [{ index := 3, image := [], sent := 0 }] ∧
      s.dev.host.hem.events.find? (fun e => e.index = (4 : BitVec 32).toNat) = none) ∧
    live.dev.lanes.mgSync.length = 2 ∧ live.dev.lanes.mgSync.getD 1 false = false := by decide +kernel

/-! ### Lanes, time, frets, the course -/

def Tests.laneIn (l : Nat) (x : Lane) (s : State) : State := s.onDev (onLane l (fun _ => x))

theorem test_met_Lanes :
    (let s := laneIn 31 { phase := .acquire } live;
      31 < s.dev.lanes.lanes.length ∧ (s.dev.lane 31).phase = .acquire ∧ (s.dev.lane 31).held = none ∧ s.dev.adapting < 2 ∧
      (s.dev.lane 31).fails + 1 < 3 ∧ s.dev.eqFixed 31 = false ∧
      (withObj cLane 31 { f := [0, 0, 0, 2] } s).dev.eqFixed 31 = true) ∧
    (let s := laneIn 0 { phase := .adapt } (laneIn 1 { phase := .adapt } (laneIn 2 { phase := .acquire } live));
      (s.dev.lane 2).phase = .acquire ∧ 2 ≤ s.dev.adapting ∧ (s.dev.lane 0).phase = .adapt) ∧
    (let s := (laneIn 1 { phase := .waitLeave } (laneIn 0 { phase := .adapt } live)).onDev (fun d => d.onGov (fun g => { g with queue := [.lane 1] }));
      (s.dev.lane 0).phase = .adapt ∧ s.dev.firstWaiting = some 1 ∧ s.dev.eqFixed 1 = false) ∧
    (let s := laneIn 16 { phase := .align, use := some (16, 6) } live;
      (s.dev.lane 16).phase = .align ∧ (s.dev.lane 16).use = some (16, 6) ∧ s.dev.isGroup 16 = false ∧ (s.dev.lane 16).fails + 1 < 3) ∧
    (let s := laneIn 0 { phase := .align, use := some (0, 9), fails := 2 } (grouped live);
      (s.dev.lane 0).use = some (0, 9) ∧ s.dev.isGroup 0 = true ∧ s.dev.groupAdmits 0 0 0 0 7 = false ∧ 3 ≤ (s.dev.lane 0).fails + 1) ∧
    ((laneIn 0 { held := some 9 } live).dev.lane 0).held = some 9 ∧
    ((laneIn 0 { phase := .up } live).dev.lane 0).phase = .up ∧ ((laneIn 0 { phase := .relock } live).dev.lane 0).phase = .relock ∧
    (let s := laneIn 0 { phase := .test } live;
      (s.dev.lane 0).phase = .test ∧ (s.dev.lane 0).prbs.locked = false) ∧
    (let s := laneIn 0 { phase := .test, prbs := { locked := true, errors := some 5 } } live;
      (s.dev.lane 0).phase = .test ∧ (s.dev.lane 0).prbs.locked = true ∧ (s.dev.lane 0).prbs.errors = some 5) ∧
    (let s := withObj cFaultMirror 3 { f := [4] } live;
      s.dev.mirrorOf 3 = some 4 ∧ 4 < s.dev.lanes.links.length) := by decide +kernel

def Tests.tbWaits (i : Nat) (p : TbPending) : State := live.onDev (onTb i (fun b => { b with pending := [p] }))

theorem test_met_TimeSteps :
    (let p : TbPending := { cmd := none, edge := 9, step := true, offset := -5, inc := none, force := false, iova := 0 };
      7 < (tbWaits 7 p).dev.time.tbs.length ∧ ((tbWaits 7 p).dev.tb 7).pending = [p] ∧ 7 ≠ (tbWaits 7 p).dev.fretTb) ∧
    (let p : TbPending := { cmd := some (cmd0 0 1), edge := 9, step := false, offset := 0, inc := some 5, force := false, iova := 0 };
      ((tbWaits 0 p).dev.tb 0).pending = [p] ∧ p.step = false ∧ (live.dev.tb 0).pending = []) ∧
    (let d := (live.onDev (fun d => (d.onFret (fun f => { f with running := true, seen := 1 })).onTime (fun t => { t with
        tbs := t.tbs.map (fun b => { b with frac := 500000 * 2 ^ 32 }) }))).dev;
      d.fret.running = true ∧ d.fret.seen < d.derivedIndex ∧ d.cfg.doms.length = 33) ∧
    (let d := (live.onDev (fun d => d.onFret (fun f => { f with running := true, seen := 1 }))).dev;
      d.fret.running = true ∧ d.derivedIndex < d.fret.seen ∧ d.cfg.doms.length = 33) ∧
    (let d := (live.onDev (fun d => d.onFret (fun f => { f with running := true }))).dev;
      d.fret.running = true ∧ d.derivedIndex = d.fret.seen) := by decide +kernel

/-- Captures exactly 1 µs after the last one, and 1/16 ns sooner. -/
theorem test_met_TimePinRows :
    (let s := live.onDev (fun d => onPin 3 (fun x => { x with lastCapture := some 0 }) (advance 500 d));
      3 < s.dev.time.pins.length ∧ (s.dev.pinObj 3).n 0 = 0 ∧ (s.dev.pinObj 3).n 2 = 0 ∧
      (s.dev.time.pins.getD 3 {}).lastCapture = some 0 ∧ 0 + 16000 ≤ s.dev.now * 32 + 0 % 32 ∧ s.dev.servoPin 3 = false) ∧
    (let s := live.onDev (fun d => onPin 3 (fun x => { x with lastCapture := some 0 }) (advance 499 d));
      s.dev.now * 32 + 31 % 32 < 0 + 16000) ∧
    (withObj cTimeGlobal 0 { f := [8, 4, 0, 1000] } live).dev.servoPin 3 = true ∧
    (let s := withObj cTimePin 0 { f := [1, 0, 0, 0, 0, 1000, 10, 0] } live;
      (s.dev.pinObj 0).n 0 = 1 ∧ (s.dev.time.pins.getD 0 {}).level = false) ∧
    ((live.onDev (onPin 0 (fun x => { x with level := true }))).dev.time.pins.getD 0 {}).level = true := by decide +kernel

/-- A servo's time base with the source of pin 0, whose capture is so many ns after a whole second, and its step limit 1,000 ns. -/
def Tests.steered (st ns : Nat) : State := (withObj cTimeGlobal 0 { f := [8, 1, 0, 1000] } live).onDev (onTb 0 (fun b => { b with
  servo := { b.servo with state := st, captured := some (ns * 2 ^ 32) } }))

theorem test_met_ServoRows :
    (let s := steered 0 7;
      0 < s.dev.time.tbs.length ∧ s.dev.servoOwns 0 = true ∧ s.dev.halted = false ∧ (s.dev.tb 0).servo.state = 0 ∧
      s.dev.servoTheta 0 31 = some 7) ∧
    (let s := steered 2 1000;
      (s.dev.tb 0).servo.state ≠ 0 ∧ s.dev.servoTheta 0 31 = some 1000 ∧ s.dev.servoLimit 0 ≤ (1000 : Int).natAbs ∧
      (steered 2 999).dev.servoTheta 0 31 = some 999 ∧ ((999 : Int).natAbs : Int) < (steered 2 999).dev.servoLimit 0) ∧
    (withObj cTimeGlobal 0 { f := [8, 1, 0, 1000] } live).dev.servoTheta 0 31 = none ∧
    5 ≤ (withObj cTimeGlobal 0 { f := [8, 5, 0, 1000] } live).dev.servoSource 0 := by decide +kernel

theorem test_met_FretDuties :
    live.dev.fret.running = false ∧ (live.onDev (fun d => d.onFret (fun f => { f with running := true }))).dev.fret.running = true ∧
    live.dev.fret.change = none ∧ (live.onDev (fun d => d.onFret (fun f => { f with change := some (3, 9) }))).dev.fret.change = some (3, 9) ∧ live.dev.dutyWaits 1 = false ∧ live.dev.dutyWaits 2 = true ∧ 0 < (live.dev.dutyCharge 2).1 ∧
    0 < (live.dev.dutyCharge 2).2 ∧
    (let d := queueWrite (.rewrite 26 0) live.dev;
      d.dutyWaits 1 = true ∧ 0 < (d.dutyCharge 1).2 ∧ 0 < (d.dutyCharge 1).1 ∧ (d.dutyCharge 1).1 * (d.dutyCharge 1).2 ≤ 100000 ∧
      0 < (d.dutyCharge 1).1 * (d.dutyCharge 1).2 ∧ 1 ≤ d.fret.deferrals.length) := by decide +kernel

theorem test_met_Banks :
    ((cancelLosers live.dev).dueCommits = [] ∧ (cancelLosers live.dev).pgDue = [] ∧ (cancelLosers (armedAt 0).dev).dueCommits ≠ [] ∧
      live.dev.cfg.banks.length = 76 ∧ live.dev.dueCommits = [] ∧ live.dev.pgDue = [] ∧ (armedAt 0).dev.dueCommits ≠ [] ∧ ∀ t < 76, (live.dev.banks t).hold = 0) ∧
    (let s := live.onDev (fun d => d.onCfg (fun c => { c with banks := modAt c.banks 75 (fun b => { b with hold := 9 }) }));
      75 < s.dev.cfg.banks.length ∧ cGateList < 76 ∧ (∀ p < 32, (live.dev.egress p).gate.pending = none) ∧ ∀ t < 76, (s.dev.banks t).hold = 0 ↔ t ≠ 75) ∧
    (let s := staged.onDev (fun d => d.onDomCfg 32 (fun c => { c with copying := some copyRuns }));
      (s.dev.domCfg 32).copying = some copyRuns ∧ copyRuns.asap = true ∧ copyRuns.ends = 100 ∧
      (let a := advanceTo 100 s.dev; (1 : Nat) < a.fret.index + 2 ∧ a.fret.index + 2 ≤ 2 ∧ a.baseTooLate (a.changesOf 32) 2 = false ∧
        a.baseTooLate [{ cls := cGateList, key := 0, idx := 0, obj := some { f := [1, 0, 100, 0, 1000000] } }] 2 = true)) ∧
    (live.dev.domCfg 0).copying = none ∧ (live.dev.domCfg 0).rewrite = none ∧
    (let s := live.onDev (fun d => d.onDomCfg 0 (fun c => { c with rewrite := some { ends := 5, cmd := some (cmd0 0 1) } }));
      (s.dev.domCfg 0).rewrite = some { ends := 5, cmd := some (cmd0 0 1) }) := by decide +kernel

/-- A port whose gate list waits for its switch, one whose list runs, and entries that a scan gives back its age, takes out, and
thaws. -/
theorem test_met_GatesAndAgeing :
    (let s := live.onDev (fun d => { d with eg := { d.eg with ports := modAt d.eg.ports 31 (fun e => { e with gate := { e.gate with pending := some 500 } }) } });
      31 < s.dev.eg.ports.length ∧ (s.dev.egress 31).gate.pending = some 500) ∧
    live.dev.gateList 0 = none ∧ (live.dev.egress 0).gate.pending = none ∧
    ((withObj cGateList 0 { f := [1, 0, 0, 0, 1000000], l := [[[0xFF0003E8]]] } live).dev.gateList 0).isSome = true ∧
    live.dev.mac.scan = none ∧
    (let s := live.onDev (fun d => d.onMac (fun m => { m with scan := some { start := 0, old := 0, new := 20000, flushes := [] } }));
      s.dev.mac.scan = some { start := 0, old := 0, new := 20000, flushes := [] }) ∧
    (let fl : Flush := { cmd := cmd0 0 9, port := 2, statics := false };
      let d := (live.onDev (fun d => d.onMac (fun m => { m with scan := some { start := 0, old := 0, new := 20000, flushes := [fl] } }))).dev;
      d.mac.scan = some { start := 0, old := 0, new := 20000, flushes := [fl] } ∧
      [fl].find? (flushPicks d { key := ⟨1, 0, 5⟩, peer := 1, port := 2 }) = some fl ∧
      [fl].find? (flushPicks d { key := ⟨1, 0, 5⟩, peer := 1, port := 3 }) = none) ∧
    (let e : MacEntry := { key := ⟨1, 0, 5⟩, peer := 1, port := 2, age := 59 };
      let svc := live.dev.obj cService e.key.service;
      e.frozen = false ∧ e.sec12 = live.dev.second % 4096 ∧ e.age ≠ 0 ∧ e.static_ = false ∧ svc.n 3 ≠ 0 ∧
      svc.n 3 ≤ min 255 (e.age + ageTicks svc 0 20000)) ∧
    (let e : MacEntry := { key := ⟨1, 0, 5⟩, peer := 1, port := 2, frozen := true, sec12 := 2049 };
      e.frozen = true ∧ (live.dev.second + 4096 - e.sec12) % 4096 < 2048) := by decide +kernel

/-! ### The course, firmware, memories, monitors, resets -/

def Tests.strings (mode : CourseMode) (sts : List StringState) : State := live.onDev (fun d => d.onCourse (fun c => { c with
  mode := mode, strings := sts.map (fun x => { st := x }) }))
def Tests.triple : State := strings .triple [.inCourse, .inCourse, .inCourse]
def Tests.duplex : State := strings .duplex [.inCourse, .inCourse, .ready]
def Tests.aWrite (n : Nat) : StringWrite := { target := 1, addr := 0, data := n, enables := 255 }

theorem test_met_CourseVotes :
    (triple.dev.courseRuns = true ∧ (triple.dev.string 2).st = .inCourse ∧ triple.dev.course.windows = [] ∧ 0 ∈ triple.dev.unfenced) ∧
    (let s := triple.onDev (fun d => d.onCourse (fun c => { c with windows := [[(0, aWrite 1), (1, aWrite 1)]] }));
      (s.dev.string 2).st = .inCourse ∧ s.dev.course.windows = [[(0, aWrite 1), (1, aWrite 1)]] ∧
      [(0, aWrite 1), (1, aWrite 1)].any (fun p => decide (p.1 = 2)) = false ∧
      s.dev.complete ([(0, aWrite 1), (1, aWrite 1)] ++ [(2, aWrite 1)]) = true) ∧
    (duplex.dev.string 2).st ≠ .inCourse ∧
    soundpost triple.dev.unfenced [(0, aWrite 1), (1, aWrite 1), (2, aWrite 1)] = .pass (aWrite 1) ∧
    soundpost triple.dev.unfenced [(0, aWrite 1), (1, aWrite 2), (2, aWrite 1)] = .minority (aWrite 1) 1 ∧
    soundpost duplex.dev.unfenced [(0, aWrite 1), (1, aWrite 2)] = .halt ∧ aWrite 1 ≠ aWrite 2 ∧ aWrite 1 ≠ aWrite 3 := by
  decide +kernel

theorem test_met_CourseStates :
    (2 < 3 ∧ triple.dev.course.strings.length = 3 ∧ (triple.dev.string 2).st = .inCourse ∧ triple.dev.course.windows = [] ∧
      triple.dev.course.mode = .triple ∧ triple.dev.course.lead = 0 ∧
      triple.dev.course.succession.find? (fun i => decide (i ≠ 0) && triple.dev.unfenced.contains i) = some 1) ∧
    ((duplex.dev.string 1).st = .inCourse ∧ duplex.dev.course.mode = .duplex ∧ duplex.dev.cfg.doms.length = 33) ∧
    ((strings .duplex [.inCourse, .inCourse, .bist]).dev.string 2).st = .bist ∧
    (let s := duplex.onDev (fun d => d.onCourse (fun c => { c with resync := some 2 }));
      s.dev.course.resync = some 2) ∧
    (let s := (strings .halted [.inCourse, .inCourse, .retired]).onDev (fun d => d.onCourse (fun c => { c with restartAt := some 9 }));
      s.dev.course.restartAt = some 9 ∧ s.dev.course.mode = .halted ∧ (s.dev.string 0).st ≠ .retired ∧ s.dev.halted = true ∧
      s.dev.course.applied = false ∧ s.dev.course.haltBoundaries < s.dev.lossHold) ∧
    (let s := (strings .halted [.inCourse, .inCourse, .inCourse]).onDev (fun d => d.onCourse (fun c => { c with haltBoundaries := 4000 }));
      s.dev.halted = true ∧ s.dev.course.applied = false ∧ s.dev.lossHold ≤ s.dev.course.haltBoundaries) := by decide +kernel

/-- A restart after a halt, whose strings pass. -/
theorem test_met_CourseStates_restart :
    let s := (strings .restart [.bist, .bist, .bist]).onDev (fun d => d.onCourse (fun c => { c with afterHalt := true }));
    s.dev.course.mode = .restart ∧ s.dev.course.afterHalt = true ∧ s.dev.restartWaits = false ∧
      (courseUp [true, true, true] s.dev).halted = false := by decide +kernel

theorem test_met_FirmwareRows :
    (let a : Activation := { slot := 1, target := 2, order := [1, 2], running := true, inStep := true };
      let s := live.onDev (fun d => d.onFw (fun w => { w with act := some a }));
      s.dev.fw.act = some a ∧ s.dev.fwStep = some 1 ∧ a.order = 1 :: [2] ∧ s.dev.stepReady 1 = true ∧ s.dev.halted = false ∧
      s.dev.fw.slots.length = 2) ∧
    ((live.onDev (fun d => d.onFw (fun w => { w with trialEnd := some 9 }))).dev.fw.trialEnd = some 9) ∧
    (let w := live.dev.fw;
      w.current.dir = w.dir ∧ ({ w with trialEnd := some 9 } : FwSt).current.dir ≠ ({ w with trialEnd := some 9 } : FwSt).dir ∧
      ∃ a b, w.copies = [a, b] ∧ a.mark = 0x9669699633CCCC33 ∧ b.mark = 0x9669699633CCCC33) := by
  refine ⟨by decide +kernel, by decide +kernel, by decide +kernel, by decide +kernel, _, _, rfl, by decide +kernel, by decide +kernel⟩

theorem test_met_MemoryAndJournal :
    live.dev.power.up = true ∧ live.dev.course.scrub.ready = false ∧ (live.onDev scrubLeave).dev.course.scrub.ready = true ∧
    State.reset.dev.power.up = false ∧ live.dev.nvOk = true ∧ eccDecode 0 = .clean ∧ eccDecode 3 = .corrected ∧
    eccDecode 7 = .uncorrectable ∧ (0x0F : BitVec 8) ∈ stateCodes ∧ (0 : BitVec 8) ∉ stateCodes ∧
    (let s := live.onDev (fun d => d.onTamper (fun t => { t with jnlReady := true, lcPlan := some (1, 4), lcCmd := some (cmd0 0 1) }));
      s.dev.tamper.jnlReady = true ∧ s.dev.tamper.lcPlan = some (1, 4)) ∧
    (let s := fun step : Nat => (live.onDev (fun d => d.onTamper (fun t => { t with jnlReady := true, lcCmd := some (cmd0 0 1) }))).onDev
        (fun d => d.onMram (fun m => { m with block := { m.block with jnl := wd69, op := 1, target := 2, step := step } }));
      (s 2).dev.tamper.lcPlan = none ∧ (s 2).dev.mram.block.jnl = wd69 ∧ (s 2).dev.tamper.lcCmd = some (cmd0 0 1) ∧
      (s 2).dev.jnlStep = some .counter ∧ (s 3).dev.jnlStep = some (.lcState wd69) ∧ (s 4).dev.jnlStep = some .idle) := by decide +kernel

theorem test_met_AlarmsAndMonitors :
    ([2, 12] ≠ ([] : List Nat) ∧ (∀ a ∈ [2, 12], 2 ≤ a ∧ a ≤ 12) ∧ live.dev.tamper.bits.length = 11 ∧ live.dev.power.up = true ∧
      live.dev.tamper.loopRun.length = 2 ∧ live.dev.tamper.cond.length = 11 ∧ live.dev.tamper.loopRun.getD 1 0 = 0 ∧
      17 ∉ live.dev.tamper.clocksBad ∧ clockOut 17 0 = true ∧ clockOut 0 8640 = false ∧
      (17 ∈ (live.onDev (fun d => d.onTamper (fun t => { t with clocksBad := [17] }))).dev.tamper.clocksBad) ∧ live.dev.tamper.vbatRun ≠ 3 ∧ ([2, 12].map live.dev.alarmClass).foldl max 0 < 3 ∧
      ([2, 12].map live.dev.alarmClass).foldl max 0 ≠ 0) ∧
    ([7].map live.dev.alarmClass).foldl max 0 = 0 ∧ ([5].map live.dev.alarmClass).foldl max 0 = 3 ∧
    (let s := live.onDev (fun d => d.onTamper (fun t => { t with tempRun := 3, vbatRun := 3, loopRun := [1, 1] }));
      s.dev.tamper.tempRun = 3 ∧ s.dev.tamper.vbatRun = 3 ∧ s.dev.tamper.loopRun.getD 1 0 = 1) := by decide +kernel

/-- Both readings of a loop's last bit, of which one is the driven one. -/
theorem test_met_MonitorRows_loops : live.dev.loopBad 1 ⟨true, false, Config.loopBit 1 (live.dev.tamper.loopLfsr.getD 1 0)⟩ = false ∧
    live.dev.loopBad 1 ⟨false, false, false⟩ = true := ⟨by simp [Dev.loopBad], by simp [Dev.loopBad]⟩

/-- The limits of the rails, at the limit and one mV beyond. -/
theorem test_met_RailRows :
    live.dev.power.up = true ∧ live.dev.tamper.freeze.length = 6 ∧
    (∀ r < 6, (railLimits r).2 < (railLimits r).2 + 1 ∧ (railLimits r).1 - 1 < (railLimits r).1 ∧ 550 ≤ (railLimits r).1 - 1) ∧
    ((live.onDev (fun d => d.onTamper (fun t => { t with freeze := t.freeze.set 5 true }))).dev.tamper.freeze.getD 5 false = true) ∧
    live.dev.tamper.freeze.getD 5 false = false ∧ live.dev.railInside 0 650 = false ∧ live.dev.railInside 0 750 = true ∧
    ((live.onDev (fun d => d.onTamper (fun t => { t with railWarn := t.railWarn.set 0 true }))).dev.tamper.railWarn.getD 0 false = true) := by
  decide +kernel

/-- What a closed loop senses: the one, the zero and the bit that it is driven to. -/
def Tests.closed (loop : Nat) : LoopReads := ⟨true, false, Config.loopBit loop (State.reset.dev.tamper.loopLfsr.getD loop 0)⟩

/-- A sample with nothing wrong: the cycles of SMCLK in 32 ticks of BKCLK, and a code of the list. -/
def Tests.quiet : BackupSample := { loop0 := closed 0, loop1 := closed 1, coarseTemp := 25, vbatMv := 3000, smclkCycles := 39062, vaultCode := 0x0F }

theorem test_met_BackupRows_loops : State.reset.dev.loopBad 0 quiet.loop0 = false ∧ State.reset.dev.loopBad 1 quiet.loop1 = false ∧
    State.reset.dev.loopBad 1 ⟨false, false, false⟩ = true := by
  refine ⟨by simp [Dev.loopBad, quiet, closed], by simp [Dev.loopBad, quiet, closed], by simp [Dev.loopBad]⟩

theorem test_met_BackupRows :
    (State.reset.dev.power.up = false ∧ tempBad quiet.coarseTemp = false ∧ vbatBad quiet.vbatMv = false ∧
      quiet.vaultCode ∈ stateCodes ∧ smclkOut quiet.smclkCycles = false ∧ (0 : BitVec 8) ∉ stateCodes) ∧
    (let s := State.reset.onDev (fun d => d.onVault (fun v => { v with bkValid := true, bkClasses := v.bkClasses.set 7 3 }));
      s.dev.power.up = false ∧ s.dev.vault.bkValid = true ∧ s.dev.vault.pendClass ≠ 3 ∧ s.dev.vault.bkClasses.getD 7 0 = 3 ∧
      ∀ x ∈ s.dev.vault.bkClasses, x ≤ 3) ∧
    live.dev.vault.head ≤ live.dev.vault.copied ∧
    (let e : LogEntry := { secs := 0, ticks := 0, alarms := 1, cls := 1, phase := 0, value := 0, seq := 0 };
      let s := live.onDev (fun d => d.onVault (fun v => { v with head := 1, entries := [e] }));
      s.dev.vault.copied < s.dev.vault.head ∧ s.dev.vault.head - s.dev.vault.entries.length ≤ s.dev.vault.copied ∧
      s.dev.vault.entries.find? (fun e => decide (e.seq = s.dev.vault.copied)) = some e) := by decide +kernel

/-- A queue of two, of which the one of the lower priority number came later; and a grant withheld. -/
theorem test_met_GovernorRows :
    live.dev.power.gov.queue = [] ∧
    (let s := live.onDev (fun d => d.onGov (fun g => { g with queue := [.scrub, .zeroSlots] }));
      s.dev.power.gov.head = some .zeroSlots ∧ s.dev.mayGrant .zeroSlots = true) ∧
    (let s := live.onDev (fun d => d.onGov (fun g => { g with queue := [.scrub], holdUntil := 1 }));
      s.dev.power.gov.head = some .scrub ∧ s.dev.mayGrant .scrub = false) := by decide +kernel

def Tests.start : StartOps := { portmap0 := 3, portmap1 := 3, pcieBif := 0, bist := [true, true, true], bootFwOk := [true, true] }

theorem test_met_ResetsAndStart :
    live.dev.power.up = true ∧ live.dev.tamper.jnlReady = false ∧ live.dev.tamper.resetAt = none ∧ State.reset.dev.power.up = false ∧
    (live.onDev (fun d => d.onTamper (fun t => { t with resetAt := some 9 }))).dev.tamper.resetAt = some 9 ∧
    State.reset.dev.power.keepStraps = false ∧
    (let d1 := startMram (newSession (startRails start State.reset.dev));
      let d2 := fwBoot start.bootFwOk d1;
      d1.lc ≠ 4 ∧ (courseUp start.bist (if d2.power.noFw then d2 else loadGraph d2)).halted = false ∧
      (courseUp [true, false, false] (if d2.power.noFw then d2 else loadGraph d2)).halted = true) ∧
    (let s := State.reset.onDev (fun d => d.onMram (fun m => { m with block := { m.block with lc := wd99, lcN := ~~~wd99 } }));
      (startMram (newSession (startRails start s.dev))).lc = 4) := by decide +kernel

/-! ### Frames, key misses, learning, Smivia -/

def Tests.aFrame (f : Frame → Frame) : Frame := f { id := 4, bytes := zeros 60, port := 16, slice := 0, rx := false }
def Tests.holds (f : Frame) : State := live.onDev (setFrame f)
def Tests.isUp (p : Nat) (s : State) : State := s.onDev (onLink p (fun l => { l with up := true }))

/-- The least and the greatest frame of a host port, and a line port that is closed. -/
theorem test_met_FrameArrival :
    ((isUp 16 live).dev.isEth 16 = true ∧ ((isUp 16 live).dev.link 16).up = true ∧ (isUp 16 live).dev.rxTest 16 = false ∧
      (isUp 16 live).dev.held = false ∧ (isUp 16 live).dev.course.failClosed = false ∧ (zeros 60).length + 4 = 64 ∧
      (isUp 0 live).dev.secMode live.dev.cfg.epoch 0 = smCLOSED) ∧ (live.dev.link 16).up = false ∧
    (let s := isUp 0 (withObj cMacsecPort 0 { f := [1, 0] } live);
      s.dev.isEth 0 = true ∧ (s.dev.link 0).up = true ∧ s.dev.secMode s.dev.cfg.epoch 0 ≠ smCLOSED) ∧
    (let s := live.onDev (fun d => d.onCourse (fun c => { c with failClosed := true }));
      s.dev.held = false ∧ s.dev.course.failClosed = true) ∧
    (live.onDev (fun d => d.onTamper (fun t => { t with freeze := t.freeze.set 0 true }))).dev.held = true := by decide +kernel

theorem test_met_FramesIn :
    ((holds (aFrame id)).dev.frame 4 = some (aFrame id) ∧ (aFrame id).id = 4 ∧ (aFrame id).stage = .mac) ∧
    (let f := aFrame (fun f => { f with stage := .recirc });
      let s := (holds f).onDev (fun d => d.onFr (fun x => { x with recirc := [[4], []] }));
      s.dev.frame 4 = some f ∧ f.slice < s.dev.fr.recirc.length ∧ s.dev.fr.recirc.getD f.slice [] = 4 :: []) ∧
    (let f := aFrame (fun f => { f with stage := .parsing });
      (holds f).dev.frame 4 = some f ∧ (parseFrame (holds f).dev f).disp = 0 ∧ (f.ended && { f with parse := parseFrame (holds f).dev f }.lateBad) = false) ∧
    (let s := reached.onDev (fun d => d.onDom 0 (fun D => { D with held := [{ ring := 7, entry := .dump [], tag := 4 }] }));
      (s.dev.dom 0).held.any (fun h => decide (h.ring = 7 ∧ h.tag = 4)) = true) ∧
    ((reached.dev.dom 0).held = [] ∧ (reached.dev.page 0).dtuErr = false ∧ 0 < reached.dev.host.doms.length) ∧
    (let s := reached.onDev (fun d => d.onPage 0 (fun p => { p with dtuMode := 1 }));
      s.dev.ringUp 0 7 = true ∧ s.dev.ringFree 0 7 ≠ 0 ∧ s.dev.ringBlock 0 7 1 = some (4, 0x10000, .walk)) ∧
    (let s := reached.onDev (fun d => d.onRing 0 7 (fun r => { r with base := 2 ^ 48 }));
      s.dev.ringUp 0 7 = true ∧ s.dev.ringFree 0 7 ≠ 0 ∧ s.dev.ringBlock 0 7 1 = some (4, 2 ^ 48, .fault 5)) ∧
    (let f := aFrame (fun f => { f with stage := .punted });
      let s := (holds f).onDev (fun d => d.onFr (fun x => { x with punts := [[4], []] }));
      (s.dev.fr.punts.getD 0 []).head? = some 4 ∧ s.dev.ringUp f.owner 7 = false) := by decide +kernel

/-- A frame for the cipher of each direction, whose key stands, has gone, or disagrees with its complement. -/
theorem test_met_CipherRows :
    (let f := aFrame (fun f => { f with stage := .toCipher });
      (holds f).dev.frame 4 = some f ∧ f.slot = none) ∧
    (let f := aFrame (fun f => { f with stage := .toCipher, slot := some 9 });
      let s := withSlot 9 (key 0 5 1) (holds f);
      s.dev.frame 4 = some f ∧ (s.dev.slot 9).mark = true ∧ (s.dev.slot 9).pairOk = true ∧ f.rx = false ∧ ((holds f).dev.slot 9).mark = false ∧
      ((holds f).dev.slot 9).handed = false) ∧
    (let f := aFrame (fun f => { f with stage := .toCipher, slot := some 9 });
      let s := withSlot 9 { key 0 5 1 with keyN := zeros 32 } (holds f);
      (s.dev.slot 9).mark = true ∧ (s.dev.slot 9).pairOk = false) ∧
    (let f := aFrame (fun f => { f with stage := .toCipher, slot := some 9, rx := true, parse := { f.parse with stack := [⟨1, 14, 20, true⟩] } });
      let s := withSlot 9 (key 0 5 1) (holds f);
      (rxTag f).isSome = true ∧ s.dev.onPair f = none) ∧
    (let f := aFrame (fun f => { f with stage := .inCipher, slot := some 9, rx := true });
      (holds f).dev.frame 4 = some f ∧ (holds f).dev.mayStomp { f with slot := none, stage := .confirming } = false) ∧
    (let f := aFrame (fun f => { f with stage := .inCipher, slot := some 9 });
      (holds f).dev.frame 4 = some f ∧ f.rx = false) ∧
    (let f := aFrame (fun f => { f with stage := .waitEnd });
      f.ended = false ∧ f.lateBad = false ∧ ({ f with stage := .sending, protect := true } : Frame).lateBad = false) ∧
    (let f := aFrame (fun f => { f with stage := .waitEnd, bytes := zeros 513, parse := { f.parse with lateEnd := some 514 } });
      f.ended = false ∧ f.lateBad = true ∧ f.rx = false) ∧
    (let f := aFrame (fun f => { f with stage := .confirming, rx := true, protect := true, sa := some 0, pn := 1 });
      (holds f).dev.frame 4 = some f ∧ f.verdict = none ∧ f.mtrDrop = false ∧
      failureOf f 0 f.ctx.secy (holds f).dev = none) ∧
    (let f := aFrame (fun f => { f with stage := .sending, rx := true, protect := true, sa := some 0, pn := 1 });
      (holds f).dev.frame 4 = some f ∧ f.verdict = none ∧ f.mtrDrop = false ∧ f.gone = false ∧
      failureOf f 0 f.ctx.secy (holds f).dev = none) ∧
    (let f := aFrame (fun f => { f with stage := .confirming, rx := true, protect := true, tagOk := false, sa := some 0 });
      (failureOf f 0 f.ctx.secy (holds f).dev).isSome = true ∧ ((holds f).dev.sa 0).rxOk = true) := by
  decide +kernel

/-- A frame whose 25 VLAN tags pass the step limit, where its port drops such frames; a malformed one, which is punted; a punt whose
ring has room or none; a classified frame whose result is to drop it, to send it, or to send it to no port. -/
theorem test_met_FramesIn_ends :
    (let f := aFrame (fun f => { f with stage := .parsing, bytes := zeros 12 ++ (List.replicate 25 [0x81, 0, 0, 1]).flatten ++ zeros 60 });
      let s := withObj cParsePort 16 { f := [0, 1, 1, 0] } (holds f);
      (parseFrame s.dev f).disp = 1 ∧ dispAction (s.dev.parseSet f) 1 = 1) ∧
    (let f := aFrame (fun f => { f with stage := .parsing, bytes := zeros 12 ++ [8, 0] ++ zeros 46 });
      2 ≤ (parseFrame (holds f).dev f).disp ∧ 2 ≤ dispAction ((holds f).dev.parseSet f) (parseFrame (holds f).dev f).disp) ∧
    (let f := aFrame (fun f => { f with stage := .parsing, ended := true, bytes := zeros 12 ++ [8, 0, 0x45, 0, 0x07, 0xD0] ++ zeros 582 });
      let p := parseFrame (holds f).dev f;
      p.disp = 0 ∧ (f.ended && { f with parse := p }.lateBad) = true) ∧
    (reached.dev.ringUp 0 7 = true ∧ reached.dev.ringFree 0 7 ≠ 0 ∧ reached.dev.ringBlock 0 7 1 = none) ∧
    (let s := reached.onDev (fun d => d.onRing 0 7 (fun r => { r with devIndex := 256 }));
      s.dev.ringUp 0 7 = true ∧ s.dev.ringFree 0 7 = 0) ∧
    (let f := aFrame (fun f => { f with stage := .classifying });
      (classify f (scanAdvance (holds f).dev)).1 = none ∧
      (let s := withObj cClsPort 16 { f := 0 :: defaultResult true 0 } (holds f);
        (classify f (scanAdvance s.dev)).1 = some { action := 0 } ∧ s.dev.egressOk f.rx 0 = true ∧ s.dev.egressOk f.rx 17 = false)) := by decide +kernel

/-- A second pass that has stayed too long; a port with a frame to begin, one that has none, and one that sends; a frame of a pair whose
instant has passed, and one whose line is free. -/
theorem test_met_EgressRows :
    (let f := aFrame (fun f => { f with stage := .recirc });
      (holds f).dev.frame 4 = some f ∧ f.inRecirc = true) ∧
    (let s := isUp 0 live;
      s.dev.isEth 0 = true ∧ s.dev.canSend 0 = true ∧ (s.dev.egress 0).sending = none ∧ (selectFrame 0 s.dev).1 = none) ∧
    (let s := isUp 0 ((holds (aFrame (fun f => { f with stage := .queued }))).onDev (fun d => { d with eg := { d.eg with
          ports := modAt d.eg.ports 0 (fun e => { e with queues := modAt e.queues 7 (fun q => { q with frames := [4] }) }) } }));
      (selectFrame 0 s.dev).1.isSome = true ∧ s.dev.launchHolds 0 (aFrame id).sendLen = false ∧ s.dev.selectQueue 0 = some 7) ∧
    (let s := fun f => (holds f).onDev (fun d => { d with eg := { d.eg with
          ports := modAt d.eg.ports 31 (fun e => { e with sending := some 4 }) } });
      let f := aFrame (fun f => { f with stage := .sending, rx := true, protect := true });
      ((s f).dev.egress 31).sending.bind (s f).dev.frame = some f ∧ 31 < (s f).dev.eg.ports.length ∧ f.verdict = none ∧
      ((s f).dev.sa (f.sa.getD 0)).rxOk = true ∧
      (let g := { f with verdict := some true };
        ((s g).dev.egress 31).sending.bind (s g).dev.frame = some g ∧ g.verdict ≠ none) ∧
      ((s f).dev.portLanes 31).any (s f).dev.txTest = false) ∧
    (let s := withObj cLane 0 { f := List.replicate 28 0 ++ [1] } ((holds (aFrame id)).onDev (fun d => d.onPort 0 (fun e => { e with sending := some 4 })));
      (s.dev.egress 0).sending.bind s.dev.frame = some (aFrame id) ∧ (s.dev.portLanes 0).any s.dev.txTest = true) ∧
    (let f := aFrame (fun f => { f with stage := .onestep, launch := 80000 });
      (isUp 0 live).dev.canSend f.res.egress = true ∧ live.dev.canSend f.res.egress = false ∧ (holds f).dev.frame 4 = some f ∧ f.res.egress < (holds f).dev.eg.ports.length ∧ ((holds f).dev.egress f.res.egress).sending = none) ∧
    (let f := aFrame (fun f => { f with stage := .delayLine, launch := 800000 });
      let s := isUp 0 (holds f);
      let bt := byteInstants (s.dev.portRate f.res.egress);
      s.dev.frame 4 = some f ∧ (holds f).dev.canSend f.res.egress = false ∧ s.dev.canSend f.res.egress = true ∧
      s.dev.msec.llEnd.get 0 f.res.egress + 20 * bt ≤ f.launch ∧ 0 < s.dev.msec.llEnd.get 0 f.res.egress + 20 * bt) := by
  decide +kernel

/-- A job on a core: with more to come, at its end, and to be killed; and the operations of the public-key unit. -/
def Tests.onACore (r : LkRun) : State := live.onDev (fun d => d.onLk (fun k => { k with
  runs := [r], cores := modAt k.cores 7 (fun c => { c with job := some r.id }) }))

theorem test_met_UnitRows :
    ((live.dev.lk.cores.getD 7 {}).job.bind live.dev.lkRun = none ∧ live.dev.lk.pk = none) ∧
    (let s := live.onDev (fun d => d.onLk (fun k => { k with
        internal := [{ id := 5, work := .fw, at_ := .running }], cores := modAt k.cores 7 (fun c => { c with job := some 5 }) }));
      let c := s.dev.lk.cores.getD 7 {};
      c.job.bind s.dev.intRun = some { id := 5, work := .fw, at_ := .running } ∧ c.waits = false) ∧
    (let s := live.onDev (fun d => d.onLk (fun k => { k with cores := modAt k.cores 7 (fun c => { c with job := some 5 }) }));
      (s.dev.lk.cores.getD 7 {}).job = some 5 ∧ (s.dev.lk.cores.getD 7 {}).job.bind s.dev.intRun = none ∧ s.dev.lkRun 5 = none) ∧
    (let r := { run with at_ := .running };
      let c := (onACore r).dev.lk.cores.getD 7 {};
      c.job.bind (onACore r).dev.intRun = none ∧ c.job.bind (onACore r).dev.lkRun = some r ∧ c.waits = false ∧ (onACore r).dev.halted = false ∧ r.kill = false ∧ r.op ≠ 10 ∧
      ({ r with done := r.done + r.seg }).done = lkTotal r.op r.job) ∧
    (let r := { run with at_ := .running, job := { job with length := 70000 } };
      ({ r with done := r.done + r.seg }).done ≠ lkTotal r.op r.job) ∧
    (let r := { run with at_ := .running, cmd := { run.cmd with op := 0x0B0A } };
      r.op = 10 ∧ ({ r with done := r.done + r.seg }).done = lkTotal r.op r.job) ∧
    (∀ o ∈ [PkOp.fw 0 2, .fw 0 1, .fw 0 0, .pair 1 2, .pair 1 1, .pair 1 0, .job 0],
      (live.onDev (fun d => d.onLk (fun k => { k with pk := some o }))).dev.lk.pk = some o) := by decide +kernel

/-- What a segment of a job finds at the end of its writes: nothing in its way, a walk, a fault, a dead endpoint. -/
def Tests.after (r : LkRun) (s : State) : Option ((Nat × Nat × Bool) × Xl) :=
  let x := lkProcess 7 r s.dev
  let y := lkFlush x.1 x.2
  lkBlocked (setRun y.1 y.2) y.1

theorem test_met_UnitRows_writes :
    (let r := { run with at_ := .running, out := some [(0x3000, zeros 16)] };
      after r reached = none ∧ (after r (alive (onACore r))).map Prod.snd = some .walk ∧ (after r live).map Prod.snd = some .dead ∧
      r.out ≠ none) ∧
    (let r := { run with at_ := .running, out := some [(2 ^ 48, zeros 16)] };
      (after r reached).map Prod.snd = some (.fault 5)) ∧
    run.out = none ∧ ({ run with at_ := .walking } : LkRun).at_ ≠ .running := by decide +kernel

theorem test_met_BlobRows_ends :
    (let s := (fetch .reading [4]).onDev (fun d => d.onTamper (fun t => { t with freeze := t.freeze.set 5 true }));
      s.dev.frozen = true ∧ (s.dev.missRec 1 255).map MissRec.fetch = some .reading) ∧
    ((fetch .reading [4]).dev.frozen = false ∧ (fetch .reading [4]).dev.lockdown = false) ∧
    (let s := (fetch .reading [4]).onDev (fun d => d.onMram (fun m => { m with block := { m.block with tamper := wd0F, tamperN := ~~~wd0F } }));
      s.dev.frozen = false ∧ s.dev.lockdown = true ∧ (s.dev.missRec 1 255).map MissRec.fetch = some .reading) := by decide +kernel

theorem test_met_BlobRows :
    live.dev.missRec 1 255 = none ∧
    (((fetch .walking [4]).dev.missRec 1 255).isSome = true ∧
      walk ((fetch .walking [4]).dev.fetchIova 0 5) false goodWalk = .ok (1, 0x4000, true, true) ∧
      walk ((fetch .walking [4]).dev.fetchIova 0 5) false [0] = .error 2) ∧
    (((fetch .reading [4]).dev.missRec 1 255).map (fun m => (m.fetch, m.attempts, m.resumer))) = some (.reading, 1, none) ∧
    (((fetch .reading [4]).onDev (setRec 1 255 { dom := 0, handle := 5, attr := 1, keyLen := 0, attempts := 3 })).dev.missRec 1 255).map
      (fun m => m.attempts) = some 3 := by decide +kernel

/-- An opened key for which a way is free, or which another slot holds, or whose complement disagrees; installed and suspended fetches;
a parked frame and one that is not; a slot in ZEROING. -/
theorem test_met_MissRows :
    (let k := key 0 5 1;
      let s := fetch (.opened k) [4];
      (s.dev.missRec 1 255).isSome = true ∧ k.pairOk = true ∧ s.dev.lookupSlot 0 5 = none ∧
      (∃ n, s.dev.chooseWay 0 5 = some n ∧ (s.dev.slot n).state = .free)) ∧
    (let s := fetch (.opened (key 0 5 1)) [4] |>.onDev (fun d => forEach (setSlots (cacheSet 0 5)) (fun n => setSlot n (key 0 n 1)) d);
      s.dev.lookupSlot 0 5 = none ∧ ∃ n, s.dev.chooseWay 0 5 = some n ∧ (s.dev.slot n).state = .valid) ∧
    (let s := withObj cQuota 0 { (schemaReset cQuota) with f := (schemaReset cQuota).f.set 3 1 } (withSlot (4096 + 8 * ((cacheSet 0 5 + 1) % 1536)) (key 0 6 1) (fetch (.opened (key 0 5 1)) [4]));
      s.dev.lookupSlot 0 5 = none ∧ s.dev.chooseWay 0 5 = none ∧ s.dev.cacheCap 0 ≤ s.dev.cacheCount 0 ∧
      (s.dev.missRec 1 255).map MissRec.room = some none ∧ s.dev.oldestOwn 0 = some (4096 + 8 * ((cacheSet 0 5 + 1) % 1536))) ∧
    (let s := (fetch (.opened (key 0 5 1)) [4]).onDev (fun d => forEach (setSlots (cacheSet 0 5)) (fun n => setSlot n { key 0 n 1 with binds := 1 }) d);
      s.dev.lookupSlot 0 5 = none ∧ s.dev.chooseWay 0 5 = none ∧ s.dev.cacheCount 0 < s.dev.cacheCap 0) ∧
    (((fetch .lost [4]).dev.missRec 1 255).map MissRec.fetch = some .lost) ∧
    (let s := withSlot 9 (key 0 5 1) (fetch (.opened (key 0 5 1)) []);
      s.dev.lookupSlot 0 5 = some (9, key 0 5 1)) ∧
    ({ key 0 5 1 with keyN := [] } : Slot).pairOk = false ∧
    (((fetch (.installed 4096) [4]).dev.missRec 1 255).map MissRec.fetch = some (.installed 4096)) ∧
    (((fetch (.suspended 2 0) []).dev.missRec 1 255).map MissRec.frames = some []) ∧
    (let f := aFrame (fun f => { f with stage := .parked });
      (holds f).dev.frame 4 = some f) ∧
    (let s := withSlot 9 { key 0 5 1 with state := .zeroing } live;
      (s.dev.slot 9).state = .zeroing ∧ (s.dev.slot 9).waits = false ∧ (live.dev.slot 9).state ≠ .zeroing) :=
  ⟨⟨by decide +kernel, by decide +kernel, by decide +kernel, 4096 + 8 * cacheSet 0 5, by decide +kernel⟩,
   ⟨by decide +kernel, 4096 + 8 * cacheSet 0 5, by decide +kernel⟩, by decide +kernel, by decide +kernel, by decide +kernel,
   by decide +kernel, by decide +kernel, by decide +kernel, by decide +kernel, by decide +kernel, by decide +kernel⟩

/-- A record alone, of slice 0, with frames and without. -/
theorem test_met_MissRows_records :
    (let s := fun frames => live.onDev (setRec 0 255 { dom := 0, handle := 5, attr := 1, keyLen := 0, frames := frames });
      (s [4]).dev.msec.recs = [[(255, { dom := 0, handle := 5, attr := 1, keyLen := 0, frames := [4] })], []] ∧
      (s []).dev.msec.recs = [[(255, { dom := 0, handle := 5, attr := 1, keyLen := 0, frames := [] })], []]) := by decide +kernel

/-- Proposals stamped exactly 20 µs ago and 1 ns more; a move, a frozen and a static entry; messages of the bridge. -/
def Tests.prop (stamp : Nat) : Proposal := { key := ⟨1, 0, 5⟩, peer := 7, port := 3, slice := 0, stamp := stamp }
def Tests.learnt (e : MacEntry) : State := live.onDev (fun d => advance 15000 (putEntry 0 0 e false d))

theorem test_met_LearnRows :
    ((live.dev.mac.queues.getD 1 [] = [] ∧ live.dev.mac.inbox.getD 1 [] = [] ∧ live.dev.mac.caches.getD 1 [] = []) ∧
      (let s := live.onDev (fun d => d.onMac (fun m => { m with queues := [[], [prop 0]], inbox := [[], [.proposal (prop 0)]] }));
        s.dev.mac.queues.getD 1 [] = prop 0 :: [] ∧ s.dev.mac.inbox.getD 1 [] = .proposal (prop 0) :: [])) ∧
    (let e : MacEntry := { key := ⟨1, 0, 5⟩, peer := 6, port := 2 };
      let d := (learnt e).dev;
      let age := fun stamp => (d.stampNow + 2 ^ 32 - stamp) % 2 ^ 32;
      age (d.stampNow - 20000) = 20000 ∧ age (d.stampNow - 20001) = 20001 ∧ 20001 < 2 ^ 31 ∧
      (d.mac.caches.getD 0 []).find? (fun t => t.key = (prop 0).key) = none ∧ (d.mac.caches.getD 0 []).length < cacheSize ∧
      (d.rep 0).find e.key = some (0, e) ∧ e.peer ≠ (prop 0).peer ∧ e.frozen = false ∧ e.static_ = false) ∧
    (let q : Tracked := { key := ⟨1, 0, 5⟩, stamp := 1, slice := 0, port := 3, host := false, at_ := 0 };
      (some q).any (precedes (prop 0)) = true ∧ (some q).any (precedes (prop 2)) = false ∧
      ((learnt { key := ⟨1, 0, 5⟩, peer := 7, port := 2 }).dev.rep 0).find (prop 0).key = some (0, { key := ⟨1, 0, 5⟩, peer := 7, port := 2 })) ∧
    (let e : MacEntry := { key := ⟨1, 0, 5⟩, peer := 6, port := 2 };
      let s := fun m => (learnt e).onDev (fun d => d.onMac (fun x => { x with inbox := [[m], []] }));
      (∀ m ∈ [BridgeMsg.proposal (prop 0), .insert 0 e none true none, .update 0 e, .remove 0 e.key, .ages 0 [0], .withdrawn],
        (scanAdvance (s m).dev).mac.inbox.getD 0 [] = m :: []) ∧
      (s .withdrawn).dev.stands 0 0 e.key = true ∧ (s .withdrawn).dev.stands 0 1 e.key = false ∧
      (s .withdrawn).dev.proposalsOf 0 < 1024 ∧ (s (.insert 0 e none true none)).dev.claimsTo 0 0 ≠ [] ∧
      (s .withdrawn).dev.claimsTo 0 0 = [] ∧
      1024 ≤ ((s .withdrawn).onDev (fun d => d.onMac (fun x => { x with queues := [List.replicate 1024 (prop 0), []] }))).dev.proposalsOf 0) := by
  decide +kernel

/-! ### Smivia, pairing, descriptors, values -/

def Tests.group (f : Group → Group) : State := onSmv f (grouped live)

theorem test_met_SmiviaTx :
    0 < live.dev.smv.length ∧ live.dev.groupPort 0 = none ∧ (group id).dev.groupPort 0 = some 0 ∧
    ((group id).dev.portLanes 0).any (fun l => decide (((group id).dev.lane l).phase = .off)) = true ∧
    (let s := (group id).onDev (fun d => d.onLanes (fun x => { x with lanes := x.lanes.map (fun l => { l with phase := .up }) }));
      (s.dev.portLanes 0).any (fun l => decide ((s.dev.lane l).phase = .off)) = false ∧ (s.dev.portLanes 0).any s.dev.txTest = false) := by decide +kernel

theorem test_met_SmiviaTx_keys : ∀ n, (live.dev.slot n).mark = true → (live.dev.slot n).pairOk = true := by
  intro n h
  have e : live.dev.slot n = {} := rfl
  rw [e] at h
  cases h

/-- Runs of blocks whose alignment word has three wrong bits, four, or none; the present state of the alignment; frames that wait. -/
theorem test_met_SmiviaRx :
    (let wrong := fun b : Bytes => ((List.zipWith (fun (x y : Byte) => popCount 8 (x ^^^ y).toNat) ((scramble (b ++ zeros 10)).take 6) fas)).sum;
      wrong fas = 0 ∧ wrong (fas.set 0 0x3B) = 3 ∧ wrong (fas.set 0 0x33) = 4) ∧
    live.dev.groupPort 0 = none ∧ (group id).dev.groupPort 0 = some 0 ∧
    ((group (fun g => { g with align := .search })).dev.group 0).align = .search ∧
    (let s := group (fun g => { g with align := .inFrame, expAt := 255, fasErrs := 4 });
      (s.dev.group 0).align = .inFrame ∧ (511 : Nat) % 256 = (s.dev.group 0).expAt % 256 ∧ (256 : Nat) % 256 ≠ (s.dev.group 0).expAt % 256 ∧
      (s.dev.group 0).fasErrs = 4) ∧
    ((live.dev.group 0).align = .noStream ∧ (live.dev.group 0).confirming = []) ∧
    (let f : SmvRx := { bytes := zeros 8 ++ [0x80] ++ zeros 20, crcOk := true, arr := 0, tick := 0 };
      ((group (fun g => { g with confirming := [f] })).dev.group 0).confirming = f :: [] ∧ f.crcOk = true ∧ (leAt f.bytes 8 1).testBit 7 = true) ∧
    (let f : SmvRx := { bytes := zeros 30, crcOk := false, arr := 0, tick := 0 };
      let a := group (fun g => { g with label := some 0x10 });
      ¬(f.crcOk = true ∧ (leAt f.bytes 8 1).testBit 7 = true) ∧ a.dev.rxLabel 0 ≠ 0xFE ∧ a.dev.rxLabel 0 ≠ 0xFD ∧
      let b := withObj cSmvGroup 0 { f := [0, 0, 0xFE] } a;
      (b.onDev (fun d => d.onGroup 0 (fun g => { g with label := none }))).dev.rxLabel 0 = 0xFE ∧
      ((b.onDev (fun d => d.onGroup 0 (fun g => { g with label := none }))).dev.plm 0 &&
        !maskedBy ((group id).dev.group 0) 6) = false ∧ b.dev.lc = 3 ∧
      (b.onDev (fun d => d.onMram (fun m => { m with block := { m.block with lc := wd0F, lcN := ~~~wd0F } }))).dev.lc ≠ 3) := by decide +kernel

/-- A frame under a keyed label: no epoch loaded, another epoch, and the epoch of register 0, whose slot is marked, not marked, or
disagrees; a counter that can be recovered. -/
theorem test_met_SmiviaOpen :
    (let s := fun x => withSlot 9 x (group (fun g => { g with rx := [{ epoch := 1, slot := some 9 }, {}] }));
      (((group id).dev.group 0).rx.all (fun r => r.epoch = 0) = true) ∧ ((s (key 0 5 2)).dev.group 0).rx.all (fun r => r.epoch = 0) = false ∧
      ((s (key 0 5 2)).dev.rxReg 0 0).epoch = beAt (zeros 10 ++ [0, 1]) 10 2 ∧ beAt (zeros 12) 10 2 ≠ ((s (key 0 5 2)).dev.rxReg 0 0).epoch ∧
      ((s (key 0 5 2)).dev.slot 9).mark = true ∧ ((s (key 0 5 2)).dev.slot 9).pairOk = true ∧
      ((s { key 0 5 2 with mark := false }).dev.slot 9).mark = false ∧ ((s { key 0 5 2 with keyN := [] }).dev.slot 9).pairOk = false ∧
      recoverFc (rxBase ((s (key 0 5 2)).dev.rxReg 0 0) 0) 7 = some 7) ∧ recoverFc (2 ^ 64 - 1) 0 = none := by decide +kernel

/-- A defect that is due, one that is masked, and one that is declared. -/
theorem test_met_SmiviaDefects :
    defectPlace 0 = none ∧ defectPlace 2 = some 1 ∧ defectPlace 3 = some 3 ∧ (group id).dev.groupPort 0 ≠ none ∧
    (let s := group (fun g => { g with align := .search });
      ((s.dev.group 0).defects.getD 1 {}).declared = false ∧ maskedBy (s.dev.group 0) 1 = false ∧ s.dev.smvAnomaly 0 1 = true ∧
      ((s.onDev (advance 5000)).dev.smvObj 0).n (3 + 1) ≠ 0) ∧
    (let s := group (fun g => { g with align := .inFrame, mfIn := true, aisRun := 3 });
      ((s.dev.group 0).defects.getD 3 {}).declared = false ∧ maskedBy (s.dev.group 0) 3 = false ∧ s.dev.smvAnomaly 0 3 = true ∧
      (s.dev.smvObj 0).n (3 + 3) = 0) ∧
    (let s := group (fun g => { g with align := .inFrame, defects := g.defects.set 1 { declared := true, gone := some 0 } });
      ((s.dev.group 0).defects.getD 1 {}).declared = true ∧ ((s.dev.group 0).defects.getD 1 {}).active = false ∧
      s.dev.smvGone 0 1 = true ∧ 1 < (s.dev.group 0).defects.length ∧ 0 < s.dev.smv.length) := by decide +kernel

/-- Each message of a pairing in the state that takes it. -/
def Tests.paired (f : Pairing → Pairing) : State := group (fun g => { g with pair := f g.pair })

theorem test_met_PairRows :
    ((paired id).dev.group 0).pair.message = none ∧ live.dev.halted = false ∧
    (∀ x ∈ [((1 : Nat), PairSt.hello), (1, .keyed), (2, .kem), (3, .auth), (4, .finish), (0xF, .hello), (0xF, .off), (1, .idle)],
      let p := ((paired (fun p => { p with st := x.2, inCode := x.1, inSegs := [(0, [0, 1, 5])], inLen := some 1 })).dev.group 0).pair;
      p.message = some (x.1, [5]) ∧ p.step = none ∧ p.st = x.2) ∧
    (∀ code ∈ [2, 0xF], let p := ((paired (fun p => { p with
        st := .kem, step := some .kemIn, inCode := code, inSegs := [(0, [0, 1, 5])], inLen := some 1 })).dev.group 0).pair;
      p.message = some (code, [5]) ∧ p.step ≠ none) ∧
    (let m := pairFinished { st := .finish } (live.dev.smvChannel 0) true;
      ((paired (fun p => { p with st := .finish, step := some (.finIn m) })).dev.group 0).pair.step = some (.finIn m)) ∧
    ((paired (fun p => { p with st := .backoff, fails := 1 })).dev.group 0).pair.st = .backoff ∧
    (let s := (paired (fun p => { p with st := .keyed })).onDev (fun d => d.onGroup 0 (fun g => { g with align := .inFrame }));
      (s.dev.group 0).align = .inFrame ∧ (s.dev.group 0).pair.st = .keyed ∧ (s.dev.smvObj 0).n 18 ≠ 0 ∧ s.dev.halted = false) := by decide +kernel

/-- A command that waits behind none. -/
theorem test_met_CommandFrame : Comes false (.tblSearch dm (.channel 0)) managed (cmdIn (.tblSearch dm (.channel 0)) managed) ∧
    ∀ r ∈ hostRings, ((managed.dev.had false (cmdIn (.tblSearch dm (.channel 0)) managed)).ring 32 r).waiting = [] :=
  ⟨(meets (need := fun _ _ => True) (by decide +kernel) trivial).1, by decide +kernel⟩

theorem test_met_RowFrames : (hostRowParts (.laneAligned 0 false 0 0 0 0)).isSome = true ∧ (frameRowParts (.frameIngress 0)).isSome = true ∧
    (sysRowParts .fwTrialEnd).isSome = true := by decide

theorem test_met_CounterWidths : 0x150 ≤ (0x159 : Nat) ∧ 0x159 < 4096 ∧ live.dev.cntValue (cntId 0x159 0) < 2 ^ 48 ∧
    live.dev.cntValue (cntId 0x15A 0) < 2 ^ 48 := by decide +kernel

/-- The first bytes that 04 R98 gives for the scrambler, and the check value of the CRC that 04 names for OH_CRC. -/
theorem test_scrambler : scramble (zeros 12) = zeros 6 ++ [0xFF, 0xFF, 0x7F, 0x00, 0x00, 0x3E] := by decide +kernel
theorem test_met_Scrambling : ∃ f : Bytes, f.length = 8192 := ⟨List.replicate 8192 0, by rw [List.length_replicate]⟩
theorem test_oh_crc : ohCrc [0x31, 0x32, 0x33, 0x34, 0x35, 0x36, 0x37, 0x38, 0x39] = 0x29B1 := by decide +kernel

/-- The check value of CRC-32C (14 R436). -/
theorem test_crc32c : crc32c [0x31, 0x32, 0x33, 0x34, 0x35, 0x36, 0x37, 0x38, 0x39] = 0xE3069283 := by decide +kernel

/-! ### Well-formed commands, and descriptors -/

def Tests.ops : StageOps :=
  { index := 0, action := 0, isInline := false, force := false, length := 2, imageIova := 0x1000, image := [1, 2] }
def Tests.kops : KeyOps := { handle := 1, attr := 0, parent := 0xFFFF, slot := 0xFFFF, ownerTag := zeros 12, blobIova := 0x1000 }
def Tests.ljob : LkJob :=
  { dir := false, cont := false, more := false, fence := false, handle := 1, paramA := 0, length := 16, src := 0x1000, dst := 0x2000,
    aux := 0, auxLen := 0, stateIova := 0, paramB := 0, iv := zeros 16, srcData := [], auxData := [], stateData := [] }
def Tests.tstep : StepOps :=
  { tb := 0, subtract := false, force := false, newInc := false, seconds := 1, nanos := 0, fraction := 0, incWhole := 0, incFrac := 0, iova := 0 }
def Tests.next : NextOps := { cursor := 0, allServices := true, allPorts := true, select := 0, service := 0, port := 0, iova := 0 }
def Tests.look : Hdr := { own with ring := 3 }
def Tests.straps : StartOps := { portmap0 := 0, portmap1 := 0, pcieBif := 0, bist := [true, true, true], bootFwOk := [true, true] }

/-- Commands whose operands are all in range. -/
theorem test_well_formed : ∀ i ∈ [Instr.stageLpm own ops, .check dm, .tblNext own next, .keyGenerate own kops, .tbStep own tstep, .lkCtr look ljob,
    .lkSegmentEnd 7, .registerWrite 3 8 0xFF8 8 0, .descriptorFetchDone 31 6 true (zeros 64) [] [] [],
    .doorbellRecordRead 0 (List.replicate 9 ⟨0, 0⟩), .portRxFrame 31 [] true ⟨31, 7⟩ [], .stringWatchdogExpiry 2, .railLow 5 0, .startUp straps,
    .tamperConfig dm 0 0 (-40) 125], i.wf = true := by decide +kernel

/-- Operands out of their ranges: a header of domain 33, of DM on a ring, of a management command on a lookaside ring, of a job on the
command ring; each operand of a staging command. -/
theorem test_ill_formed_headers : ∀ i ∈ [Instr.check { own with dom := 33 }, .check { dm with ring := 3 }, .check { own with ring := 1 },
    .check look, .lkCtr own ljob, .stageLpm own { ops with index := 2 ^ 32 }, .stageLpm own { ops with action := 256 },
    .stageLpm own { ops with length := 3 }, .stageLpm own { ops with imageIova := 2 ^ 48 },
    .stageLpm own { ops with isInline := true, length := 41, image := zeros 41 }], i.wf = false := by decide +kernel

/-- The same for the commands of the tables, the keys, the time, and the lookaside engines. -/
theorem test_ill_formed_operands : ∀ i ∈ [Instr.armCommit own (2 ^ 64) false, .armCopyDone 33, .tblInsert own 0 0 (2 ^ 48) 0 0 false,
    .tblSearch own (.lpm 0 2 0), .tblSearch own (.channel 65536), .tblNext own { next with select := 4 },
    .keyGenerate own { kops with handle := 2 ^ 24 }, .keyGenerate own { kops with ownerTag := [] }, .keyUnpin own 65536,
    .saInit own (2 ^ 32) 0 0, .saSmvStop own 256, .tbStep own { tstep with seconds := 2 ^ 48 }, .tbApply 8, .cntSelect own 0 65536 0,
    .fwBegin own 256 0, .lcSetSupervisor own 256, .tamperConfig dm 0 0 (-32769) 0, .tamperConfig dm 0 0 0 32768, .tamperClear dm 65536,
    .resume own 256 0 0, .lkCtr look { ljob with iv := [] }, .lkCtr look { ljob with length := 2 ^ 32 }, .lkSegmentEnd 8],
    i.wf = false := by decide +kernel

/-- The same for the registers, the bus, the ports, the lanes and the units. -/
theorem test_ill_formed_events : ∀ i ∈ [Instr.registerWrite 4 0 0 4 0, .registerWrite 0 15 0 4 0, .registerWrite 0 0 4096 4 0, .registerWrite 0 0 0 2 0,
    .registerWrite 0 0 4 8 0, .domainReset 0 8, .ringEnable 0 0 9, .dtuModeWrite 0 0 4, .dtuInval 0 0 true (2 ^ 36), .msixVectorUnmask 0 64,
    .msixHoldoffExpiry 0 5, .doorbellRecordRead 0 [], .descriptorFetchDone 0 1 true (zeros 64) [] [] [],
    .descriptorFetchDone 0 0 true [] [] [] [], .dmaReadCompletion 0 .ringStructure [0, 0, 0, 0, 0] true, .dmaCompletionTimeout 32 .ringStructure,
    .commandSuspendTimeout 0 7 0, .pcieFlr 4, .mgSyncAcquired 2, .gateSwitch 32, .portRxFrame 0 [] true ⟨32, 0⟩ [], .portRxFrame 0 [] true ⟨0, 8⟩ [], .orderCacheRetire 2,
    .smvFrameRx 0 [] 0 false 0 [⟨32, 0, 0, 0, 0, 0⟩],
    .keyInstall 0 256, .zeroingDone 16384, .smvFrameTx ⟨2, []⟩, .smvFrameTx ⟨0, [⟨16, [0]⟩]⟩, .smvDefectClear 0 16, .laneAcquired 32, .timePinOutput 4,
    .stringFaultReport 3, .courseRestartDone [], .railHigh 6 0, .clockCheckWindow 18 0, .loopSample 2 ⟨true, false, true⟩,
    .startUp { straps with pcieBif := 4 }, .startUp { straps with bist := [] }], i.wf = false := by decide +kernel

/-- CHECK's descriptor: opcode 0x0201 and tag 1, all other bytes zero (14 R429, R443). -/
def Tests.checkWord : Bytes := [0x01, 0x02, 0, 0, 1] ++ zeros 59

theorem test_met_DescriptorRoundTrip :
    (let h : Hdr := { own with crc := crc32c checkWord };
      (Instr.check h).wf = true ∧ (Instr.check h).hdr = some h ∧ encodeDesc (.check h) = some checkWord ∧ h.bad = false ∧
      h.crc = crc32c checkWord) := by decide +kernel

/-- No command has an opcode that the table does not list, and a reserved byte must be zero (14 R429). -/
theorem test_no_descriptor : decodeDesc 0 0 ([0x0F, 0x02, 0, 0, 1] ++ zeros 59) [] [] [] = none ∧
    decodeDesc 0 0 (checkWord.set 63 1) [] [] [] = none := by decide +kernel

end
end

namespace Sys2Proof.Machine

section Rows

variable {x : Instr} {s : State} {f : Dev → Dev}

/-- A row that runs `f` does `g` where the two agree on the row's device. -/
theorem does_of_eq {g : Dev → Dev} (hx : exec x s = .next (s.onDev f)) (h : f s.dev = g s.dev) : Does x s g := by
  simp only [Does, hx, State.onDev, h]

/-- A row that leaves its device as it was idles. -/
theorem idles_of_eq (hx : exec x s = .next (s.onDev f)) (h : f s.dev = s.dev) : Idles x s := by
  simp only [Idles, hx, State.onDev, h]

/-- A row that runs `f` answers the state whose device `f` leaves. -/
theorem exec_of_eq {e : Dev} (hx : exec x s = .next (s.onDev f)) (h : f s.dev = e) : exec x s = .next { s with dev := e } := by
  rw [hx, ← h]; rfl

end Rows

/-! ### What changes counters only -/

/-- `e` is `d` but for its counters. -/
def CountsOnly (d e : Dev) : Prop := ∃ c, e = d.onCnt (fun _ => c)

namespace CountsOnly

theorem refl (d : Dev) : CountsOnly d d := ⟨d.cnt, rfl⟩

theorem trans {a b c : Dev} (h1 : CountsOnly a b) (h2 : CountsOnly b c) : CountsOnly a c := by
  obtain ⟨c1, rfl⟩ := h1
  obtain ⟨c2, rfl⟩ := h2
  exact ⟨c2, rfl⟩

theorem onCnt (d : Dev) (f : CntSt → CntSt) : CountsOnly d (d.onCnt f) := ⟨f d.cnt, rfl⟩

/-- A fold of steps that each change counters only. -/
theorem forEach {α : Type} (l : List α) (f : α → Dev → Dev) (d : Dev) (h : ∀ a d, CountsOnly d (f a d)) :
    CountsOnly d (forEach l f d) := by
  induction l generalizing d with
  | nil => exact refl d
  | cons a l ih => exact (h a d).trans (ih (f a d))

theorem bumpBy (code inst n : Nat) (d : Dev) : CountsOnly d (bumpBy code inst n d) := ⟨_, rfl⟩
theorem bump (code inst : Nat) (d : Dev) : CountsOnly d (bump code inst d) := ⟨_, rfl⟩
theorem bumpWrap (code inst n : Nat) (d : Dev) : CountsOnly d (bumpWrap code inst n d) := ⟨_, rfl⟩

theorem progEvent (ev slice bit n : Nat) (d : Dev) : CountsOnly d (progEvent ev slice bit n d) := by
  refine forEach _ _ _ fun a d => ?_
  split
  · exact bumpBy ..
  · exact refl d

theorem usedSlots (slice n : Nat) (d : Dev) : CountsOnly d (usedSlots slice n d) := by
  refine (bumpWrap ..).trans (forEach _ _ _ fun a d => ?_)
  split
  · exact onCnt ..
  · exact refl d

theorem countFec (p : Nat) (errs : List LaneErrs) (d : Dev) : CountsOnly d (countFec p errs d) := ⟨_, countFec_eq p errs d⟩

theorem countPort (code p : Nat) (b : Bytes) (d : Dev) : CountsOnly d (countPort code p b d) := by
  have hall : CountsOnly d (Machine.bumpBy (code + 1) p (b.length + 4) (Machine.bump code p d)) := (bump ..).trans (bumpBy ..)
  unfold Machine.countPort
  dsimp only
  split
  · exact hall.trans (bump ..)
  · split
    · exact hall.trans (bump ..)
    · exact hall

theorem countMeter (f : Frame) (d : Dev) : CountsOnly d (countMeter f d) := by
  unfold Machine.countMeter
  split
  · exact refl d
  · exact (bump ..).trans (bumpBy ..)

end CountsOnly

/-- A change of counters and of the frames in flight touches no other part. -/
theorem onlyParts_cnt_fr (d : Dev) (c : CntSt) (r : FrameSt) : OnlyParts [.cnt, .fr] d { d with cnt := c, fr := r } := by
  intro p hp
  cases p <;> simp [Part.same] at hp ⊢

/-! ### Frames in flight -/

@[simp] theorem onCnt_frame (d : Dev) (f : CntSt → CntSt) (j : Nat) : (d.onCnt f).frame j = d.frame j := rfl

@[simp] theorem setFrame_frame (f : Frame) (d : Dev) (j : Nat) :
    (setFrame f d).frame j = if f.id = j then some f else d.frame j := Tbl.find_put j f.id f d.fr.frames

/-- The frame that arrives at a port: its bytes, its moment, and its stamps. -/
def Dev.arriving (d : Dev) (p : Nat) (b : Bytes) (fcsOk : Bool) (x : RxStamp) : Frame :=
  let tb := (d.obj cStampPort p).n 0
  let l := d.sfdLane p x.lane
  { id := d.fr.next, bytes := b, port := p, slice := p % 16 / 8, rx := decide (p < 16), fcsOk := fcsOk,
    tick := d.now, phase := x.phase, lane := l, tb := tb, stamp := d.arrival p l tb x.phase,
    fretStamp := d.arrival p l d.fretTb x.phase / 2 ^ 32 % 2 ^ 32, since := d.now }

/-- What a port counts of a frame of a length that it takes (18 R531). -/
def countArrival (p : Nat) (b : Bytes) (fcsOk : Bool) (d : Dev) : Dev :=
  if fcsOk then countPort 0x024 p b d else bump 0x028 p d

theorem CountsOnly.countArrival (p : Nat) (b : Bytes) (fcsOk : Bool) (d : Dev) : CountsOnly d (countArrival p b fcsOk d) := by
  unfold Machine.countArrival
  split
  · exact countPort ..
  · exact bump ..

/-- A port that takes frames: an Ethernet port of the layout, up, and without a receive test. -/
structure Dev.Receives (d : Dev) (p : Nat) : Prop where
  eth : d.isEth p = true
  up : (d.link p).up = true
  noTest : d.rxTest p = false

/-- What becomes of a frame that its port has counted: it is dropped, or enters the MAC. -/
def admitFrame (p : Nat) (b : Bytes) (fcsOk : Bool) (x : RxStamp) (d : Dev) : Dev :=
  if d.held then bump 0x04C p d
  else if d.course.failClosed then bump 0x04D p d
  else if !decide (p < 16) ∧ !fcsOk then d
  else if decide (p < 16) ∧ d.secMode d.cfg.epoch p = smCLOSED then bump 0x0A0 p d
  else setFrame (d.arriving p b fcsOk x) (d.onFr (fun s => { s with next := d.fr.next + 1 }))

section Arrival

variable {p : Nat} {b : Bytes} {fcsOk : Bool} {x : RxStamp} {errs : List LaneErrs} {d : Dev}

theorem portRxFrame_idle (h : d.isEth p = false ∨ (d.link p).up = false ∨ d.rxTest p = true) :
    portRxFrame p b fcsOk x errs d = d := by
  have hgate : (d.isEth p && (d.link p).up && !d.rxTest p) = false := by
    rcases h with h | h | h <;> simp [h]
  have hstop : (!d.isEth p) = true ∨ (!(d.link p).up) = true ∨ d.rxTest p = true := by
    rcases h with h | h | h <;> simp [h]
  simp only [portRxFrame, receiveFrame, hgate, if_pos hstop, Bool.false_eq_true, if_false]

theorem portRxFrame_receives (h : d.Receives p) :
    portRxFrame p b fcsOk x errs d = receiveFrame p b fcsOk x (countFec p errs d) := by
  simp [portRxFrame, h.eth, h.up, h.noTest]

theorem Dev.Receives.counted {e : Dev} (h : d.Receives p) (hc : CountsOnly d e) : e.Receives p := by
  obtain ⟨c, rfl⟩ := hc
  exact ⟨h.eth, h.up, h.noTest⟩

theorem Dev.Receives.goes (h : d.Receives p) : ¬((!d.isEth p) = true ∨ (!(d.link p).up) = true ∨ d.rxTest p = true) := by
  simp [h.eth, h.up, h.noTest]

theorem receiveFrame_long (h : d.Receives p) (hl : 16032 < b.length + 4) : receiveFrame p b fcsOk x d = bump 0x029 p d := by
  simp only [receiveFrame, if_neg h.goes, if_pos hl]

theorem receiveFrame_runt (h : d.Receives p) (hl : b.length + 4 < 64) : receiveFrame p b fcsOk x d = bump 0x02A p d := by
  simp only [receiveFrame, if_neg h.goes, if_neg (show ¬16032 < b.length + 4 by omega), if_pos hl]

theorem receiveFrame_taken (h : d.Receives p) (hmin : 64 ≤ b.length + 4) (hmax : b.length + 4 ≤ 16032) :
    receiveFrame p b fcsOk x d = admitFrame p b fcsOk x (countArrival p b fcsOk d) := by
  simp only [receiveFrame, if_neg h.goes, if_neg (Nat.not_lt.2 hmin), if_neg (Nat.not_lt.2 hmax)]
  rfl

theorem portRxFrame_taken (h : d.Receives p) (hmin : 64 ≤ b.length + 4) (hmax : b.length + 4 ≤ 16032) :
    portRxFrame p b fcsOk x errs d = admitFrame p b fcsOk x (countArrival p b fcsOk (countFec p errs d)) :=
  (portRxFrame_receives h).trans (receiveFrame_taken (h.counted (.countFec p errs d)) hmin hmax)

theorem admitFrame_held (h : d.held = true) : admitFrame p b fcsOk x d = bump 0x04C p d := if_pos h

theorem admitFrame_closed (hh : d.held = false) (hc : d.course.failClosed = true) :
    admitFrame p b fcsOk x d = bump 0x04D p d := by
  simp [admitFrame, hh, hc]

theorem admitFrame_badHost (hh : d.held = false) (hc : d.course.failClosed = false) (hp : 16 ≤ p) (hf : fcsOk = false) :
    admitFrame p b fcsOk x d = d := by
  simp [admitFrame, hh, hc, hp, hf]

theorem admitFrame_closedPort (hh : d.held = false) (hc : d.course.failClosed = false) (hp : p < 16)
    (hm : d.secMode d.cfg.epoch p = smCLOSED) : admitFrame p b fcsOk x d = bump 0x0A0 p d := by
  simp [admitFrame, hh, hc, hp, hm]

theorem admitFrame_enters (hh : d.held = false) (hc : d.course.failClosed = false) (hf : 16 ≤ p → fcsOk = true)
    (hm : p < 16 → d.secMode d.cfg.epoch p ≠ smCLOSED) :
    admitFrame p b fcsOk x d = setFrame (d.arriving p b fcsOk x) (d.onFr (fun s => { s with next := d.fr.next + 1 })) := by
  have hhost : ¬((!decide (p < 16)) = true ∧ (!fcsOk) = true) := by
    rintro ⟨h1, h2⟩
    have hp : 16 ≤ p := by simpa using h1
    simp [hf hp] at h2
  have hline : ¬(decide (p < 16) = true ∧ d.secMode d.cfg.epoch p = smCLOSED) := fun h => hm (of_decide_eq_true h.1) h.2
  simp only [admitFrame, hh, hc, Bool.false_eq_true, if_false, if_neg hhost, if_neg hline]

end Arrival

theorem exec_portRxFrame (p : Nat) (b : Bytes) (fcsOk : Bool) (x : RxStamp) (errs : List LaneErrs) (s : State) :
    exec (.portRxFrame p b fcsOk x errs) s = .next (s.onDev (portRxFrame p b fcsOk x errs)) := rfl

theorem frameArrival : Claims.FrameArrival := by
  intro s p b fcsOk x errs
  have run := exec_portRxFrame p b fcsOk x errs s
  refine ⟨fun h => idles_of_eq run (portRxFrame_idle h), fun he hu ht => ?_⟩
  have hr : s.dev.Receives p := ⟨he, hu, ht⟩
  have hrec := hr.counted (.countFec p errs s.dev)
  refine ⟨fun hl => does_of_eq run ((portRxFrame_receives hr).trans (receiveFrame_long hrec hl)),
    fun hl => does_of_eq run ((portRxFrame_receives hr).trans (receiveFrame_runt hrec hl)), fun hmin hmax => ?_⟩
  have htaken := portRxFrame_taken (fcsOk := fcsOk) (x := x) (errs := errs) hr hmin hmax
  obtain ⟨c, hc⟩ := (CountsOnly.countFec p errs s.dev).trans (.countArrival p b fcsOk _)
  have hheld : (countArrival p b fcsOk (countFec p errs s.dev)).held = s.dev.held := by rw [hc]; rfl
  have hclosed : (countArrival p b fcsOk (countFec p errs s.dev)).course.failClosed = s.dev.course.failClosed := by rw [hc]; rfl
  have hmode : (countArrival p b fcsOk (countFec p errs s.dev)).secMode (countArrival p b fcsOk (countFec p errs s.dev)).cfg.epoch p =
      s.dev.secMode s.dev.cfg.epoch p := by rw [hc]; rfl
  refine ⟨fun h => does_of_eq run (htaken.trans (admitFrame_held (hheld.trans h))),
    fun h1 h2 => does_of_eq run (htaken.trans (admitFrame_closed (hheld.trans h1) (hclosed.trans h2))), fun h1 h2 => ?_⟩
  refine ⟨fun hp hf => does_of_eq run (htaken.trans (admitFrame_badHost (hheld.trans h1) (hclosed.trans h2) hp hf)),
    fun hp hm => does_of_eq run (htaken.trans (admitFrame_closedPort (hheld.trans h1) (hclosed.trans h2) hp (hmode.trans hm))),
    fun hf hm => ?_⟩
  have hin := htaken.trans (admitFrame_enters (hheld.trans h1) (hclosed.trans h2) hf (fun hp => hmode ▸ hm hp))
  refine ⟨_, run, ?_⟩
  simp only [State.onDev_dev, hin]
  refine ⟨?_, rfl, ?_, fun j hj => ?_, ?_⟩
  · rw [hc]; exact onlyParts_cnt_fr _ _ _
  · rw [hc]; rfl
  · rw [hc, setFrame_frame, if_neg (fun h => hj h.symm)]; rfl
  · rw [hc]; exact (setFrame_frame _ _ _).trans (if_pos rfl)

/-! ### A frame enters the parser (01 R20, R33) -/

/-- A frame is issued to its slice's pipeline from a source, and counted there. -/
def enterParser (f : Frame) (source : Nat) (d : Dev) : Dev :=
  progEvent 0x021 f.slice f.port (f.bytes.length + 4) (progEvent 0x020 f.slice f.port 1 (issueFrame f source d))

/-- An issue counts the frame's slots, and the frame keeps it. -/
theorem issueFrame_eq (f : Frame) (source : Nat) (d : Dev) : ∃ c, issueFrame f source d =
    setFrame { f with issue := some (source, (f.bytes.length + 4 + 63) / 64) } (d.onCnt (fun _ => c)) := by
  obtain ⟨c, hc⟩ := (CountsOnly.bumpWrap 0x154 (f.slice * 4 + source) (ceilDiv (f.bytes.length + 4) 64) d).trans
    ((CountsOnly.progEvent 0x010 f.slice source (ceilDiv (f.bytes.length + 4) 64) _).trans
      (CountsOnly.usedSlots f.slice (ceilDiv (f.bytes.length + 4) 64) _))
  exact ⟨c, by simp only [issueFrame, hc]; rfl⟩

theorem enterParser_eq (f : Frame) (source : Nat) (d : Dev) : ∃ c, enterParser f source d =
    setFrame { f with issue := some (source, (f.bytes.length + 4 + 63) / 64) } (d.onCnt (fun _ => c)) := by
  obtain ⟨c, hc⟩ := issueFrame_eq f source d
  obtain ⟨c', hc'⟩ := (CountsOnly.progEvent 0x020 f.slice f.port 1 (issueFrame f source d)).trans
    (CountsOnly.progEvent 0x021 f.slice f.port (f.bytes.length + 4) _)
  exact ⟨c', by rw [enterParser, hc', hc]; rfl⟩

theorem frameIngress_mac {id : Nat} {f : Frame} {d : Dev} (hf : d.frame id = some f) (hs : f.stage = .mac) :
    frameIngress id d = enterParser { f with stage := .parsing, epoch := d.cfg.epoch } (ledgerSource f.port) d := by
  simp only [frameIngress, hf, hs]
  rfl

theorem frameIngress_recirc {id : Nat} {f : Frame} {d : Dev} {rest : List Nat} (hf : d.frame id = some f)
    (hs : f.stage = .recirc) (hq : d.fr.recirc.getD f.slice [] = id :: rest) :
    frameIngress id d = enterParser { f with stage := .parsing, recirc := true, rx := false, ended := false } 2
      (d.onFr (fun s => { s with recirc := modAt s.recirc f.slice List.tail,
                                 recircCells := modAt s.recircCells f.slice (· - f.cells) })) := by
  simp only [frameIngress, hf, hs, hq, List.head?_cons, ne_eq, not_true_eq_false, if_false]
  rfl

theorem exec_frameIngress (id : Nat) (s : State) : exec (.frameIngress id) s = .next (s.onDev (frameIngress id)) := rfl

/-- A frame from its port enters the parser with the epoch of the moment. -/
theorem frameIngress_fromPort {id : Nat} {f : Frame} {s : State} (hf : s.dev.frame id = some f) (hid : f.id = id)
    (hs : f.stage = .mac) : ∃ t, exec (.frameIngress id) s = .next t ∧ OnlyParts [.cnt, .fr] s.dev t.dev ∧
      t.dev.frame id = some { f with
        stage := .parsing, epoch := s.dev.cfg.epoch, issue := some (if f.port < 16 then 0 else 1, (f.bytes.length + 4 + 63) / 64) } := by
  obtain ⟨c, hc⟩ := enterParser_eq { f with stage := .parsing, epoch := s.dev.cfg.epoch } (ledgerSource f.port) s.dev
  refine ⟨_, exec_frameIngress id s, ?_⟩
  rw [State.onDev_dev, frameIngress_mac hf hs, hc]
  exact ⟨onlyParts_cnt_fr _ _ _, (setFrame_frame _ _ _).trans (if_pos hid)⟩

/-- The head of its slice's recirculation queue enters the parser for its second pass. -/
theorem frameIngress_fromRecirc {id : Nat} {f : Frame} {s : State} {rest : List Nat} (hf : s.dev.frame id = some f)
    (hid : f.id = id) (hs : f.stage = .recirc) (hlen : f.slice < s.dev.fr.recirc.length)
    (hq : s.dev.fr.recirc.getD f.slice [] = id :: rest) : ∃ t, exec (.frameIngress id) s = .next t ∧
      OnlyParts [.cnt, .fr] s.dev t.dev ∧ t.dev.fr.recirc.getD f.slice [] = rest ∧
      t.dev.frame id = some { f with
        stage := .parsing, recirc := true, rx := false, ended := false, issue := some (2, (f.bytes.length + 4 + 63) / 64) } := by
  refine ⟨_, exec_frameIngress id s, ?_⟩
  rw [State.onDev_dev, frameIngress_recirc hf hs hq]
  obtain ⟨c, hc⟩ := enterParser_eq { f with stage := .parsing, recirc := true, rx := false, ended := false } 2
    (s.dev.onFr (fun s => { s with recirc := modAt s.recirc f.slice List.tail,
                                   recircCells := modAt s.recircCells f.slice (· - f.cells) }))
  rw [hc]
  refine ⟨onlyParts_cnt_fr _ _ _, ?_, (setFrame_frame _ _ _).trans (if_pos hid)⟩
  show (modAt s.dev.fr.recirc f.slice List.tail).getD f.slice [] = rest
  rw [getD_modAt, if_pos ⟨rfl, hlen⟩, hq, List.tail_cons]

/-! ### The parse, and what it disposes (05 R145 to R151) -/

theorem exec_parseComplete (id : Nat) (s : State) : exec (.parseComplete id) s = .next (s.onDev (parseComplete id)) := rfl

/-- What a parse's disposition makes of a frame `g` that holds the parse. -/
def disposeParsed (g : Frame) (d : Dev) : Dev :=
  let d := match g.parse.disp with
    | 0 => d
    | 1 => bump 0x048 g.port d
    | _ => bump 0x049 g.port d
  match dispAction (d.parseSet g) g.parse.disp with
  | 0 =>
    if g.ended && g.lateBad then dropFrame g.id (bump 0x04A g.port d)
    else setFrame { g with stage := .classifying } d
  | 1 => dropFrame g.id d
  | _ => puntFrame g d

theorem parseComplete_parsing {id : Nat} {f : Frame} {d : Dev} (hf : d.frame id = some f) (hid : f.id = id)
    (hs : f.stage = .parsing) :
    parseComplete id d = disposeParsed { f with parse := parseFrame d f } (setFrame { f with parse := parseFrame d f } d) := by
  subst hid
  simp only [parseComplete, hf, hs, ne_eq, not_true_eq_false, if_false]
  rfl

section Disposed

variable {g : Frame} {d : Dev}

theorem disposeParsed_goesOn (h : g.parse.disp = 0) (hl : (g.ended && g.lateBad) = false) :
    disposeParsed g d = setFrame { g with stage := .classifying } d := by
  simp only [disposeParsed, h, dispAction, hl, Bool.false_eq_true, if_false]

theorem disposeParsed_late (h : g.parse.disp = 0) (hl : (g.ended && g.lateBad) = true) :
    disposeParsed g d = dropFrame g.id (bump 0x04A g.port d) := by
  simp only [disposeParsed, h, dispAction, hl, if_true]

theorem disposeParsed_limitDrop (h : g.parse.disp = 1) (ha : dispAction (d.parseSet g) 1 = 1) :
    disposeParsed g d = dropFrame g.id (bump 0x048 g.port d) := by
  have ha : dispAction ((bump 0x048 g.port d).parseSet g) 1 = 1 := ha
  simp only [disposeParsed, h, ha]

theorem disposeParsed_punt (h : 2 ≤ g.parse.disp) (ha : 2 ≤ dispAction (d.parseSet g) g.parse.disp) :
    disposeParsed g d = puntFrame g (bump 0x049 g.port d) := by
  have ha : 2 ≤ dispAction ((bump 0x049 g.port d).parseSet g) g.parse.disp := ha
  obtain ⟨n, hn⟩ := Nat.exists_eq_add_of_le' h
  obtain ⟨m, hm⟩ := Nat.exists_eq_add_of_le' ha
  rw [hn] at hm
  simp only [disposeParsed, hn, hm]

end Disposed

/-- The parse of a frame disposes of it: on to classification, dropped, or punted. -/
theorem parseComplete_cases {id : Nat} {f : Frame} {s : State} (hf : s.dev.frame id = some f) (hid : f.id = id)
    (hs : f.stage = .parsing) :
    let p := parseFrame s.dev f
    let g := { f with parse := p }
    (p.disp = 0 → (f.ended && g.lateBad) = false → Does (.parseComplete id) s (fun d =>
      setFrame { g with stage := .classifying } (setFrame g d))) ∧
    (p.disp = 0 → (f.ended && g.lateBad) = true → Does (.parseComplete id) s (fun d =>
      dropFrame id (bump 0x04A f.port (setFrame g d)))) ∧
    (p.disp = 1 → dispAction (s.dev.parseSet f) 1 = 1 → Does (.parseComplete id) s (fun d =>
      dropFrame id (bump 0x048 f.port (setFrame g d)))) ∧
    (2 ≤ p.disp → 2 ≤ dispAction (s.dev.parseSet f) p.disp → Does (.parseComplete id) s (fun d =>
      puntFrame g (bump 0x049 f.port (setFrame g d)))) := by
  have run := exec_parseComplete id s
  have hgo := parseComplete_parsing hf hid hs
  subst hid
  exact ⟨fun h hl => does_of_eq run (hgo.trans (disposeParsed_goesOn h hl)),
    fun h hl => does_of_eq run (hgo.trans (disposeParsed_late h hl)),
    fun h ha => does_of_eq run (hgo.trans (disposeParsed_limitDrop h ha)),
    fun h ha => does_of_eq run (hgo.trans (disposeParsed_punt h ha))⟩

end Sys2Proof.Machine

namespace Sys2Proof.Machine

/-! ### Writes to a device-produced ring (13 R397 to R406) -/

/-- The log of what leaves the device has only grown. -/
def LogGrows (d e : Dev) : Prop := ∃ l, e.wire = l ++ d.wire

namespace LogGrows

theorem of_same {d e : Dev} (h : e.wire = d.wire) : LogGrows d e := ⟨[], h⟩

theorem trans {a b c : Dev} (h1 : LogGrows a b) (h2 : LogGrows b c) : LogGrows a c := by
  obtain ⟨l1, h1⟩ := h1
  obtain ⟨l2, h2⟩ := h2
  exact ⟨l2 ++ l1, by rw [h2, h1, List.append_assoc]⟩

theorem emit (o : Out) (d : Dev) : LogGrows d (emit o d) := ⟨[o], rfl⟩

end LogGrows

/-- What a write to a ring does: more leaves the device, and the writes held for each domain stay. -/
structure WritesOut (d e : Dev) : Prop where
  grows : LogGrows d e
  held : ∀ k, (e.dom k).held = (d.dom k).held

namespace WritesOut

theorem refl (d : Dev) : WritesOut d d := ⟨.of_same rfl, fun _ => rfl⟩

theorem trans {a b c : Dev} (h1 : WritesOut a b) (h2 : WritesOut b c) : WritesOut a c :=
  ⟨h1.grows.trans h2.grows, fun k => (h2.held k).trans (h1.held k)⟩

theorem forEach {α : Type} (l : List α) (f : α → Dev → Dev) (d : Dev) (h : ∀ a d, WritesOut d (f a d)) :
    WritesOut d (forEach l f d) := by
  induction l generalizing d with
  | nil => exact refl d
  | cons a l ih => exact (h a d).trans (ih (f a d))

theorem counts {d e : Dev} (h : CountsOnly d e) : WritesOut d e := by
  obtain ⟨c, rfl⟩ := h
  exact ⟨.of_same rfl, fun _ => rfl⟩

theorem dom (d : Dev) (i : Nat) (f : Dom → Dom) (h : ∀ D, (f D).held = D.held := by intro D; rfl) : WritesOut d (d.onDom i f) := by
  refine ⟨.of_same rfl, fun k => ?_⟩
  simp only [Dev.dom, Dev.onDom, getD_modAt]
  split
  · exact h _
  · rfl

theorem ring (d : Dev) (i r : Nat) (f : Ring → Ring) : WritesOut d (d.onRing i r f) := dom ..
theorem page (d : Dev) (i : Nat) (f : Page → Page) : WritesOut d (d.onPage i f) := dom ..
theorem ep (d : Dev) (i : Nat) (f : Endpoint → Endpoint) : WritesOut d (d.onEp i f) := ⟨.of_same rfl, fun _ => rfl⟩
theorem emit (o : Out) (d : Dev) : WritesOut d (emit o d) := ⟨.emit o d, fun _ => rfl⟩

theorem tlbTouch (dm a : Nat) (d : Dev) : WritesOut d (tlbTouch dm a d) := by
  unfold Machine.tlbTouch
  split
  · exact refl d
  · exact ⟨.of_same rfl, fun _ => rfl⟩

theorem countDma (dm cls n : Nat) (d : Dev) : WritesOut d (countDma dm cls n d) := by
  unfold Machine.countDma
  split
  · exact refl d
  · refine forEach _ _ _ fun a d => ?_
    dsimp only
    split
    · exact counts (.bumpBy ..)
    · split
      · exact counts (.bumpBy ..)
      · exact refl d

/-- What one write to host memory leaves. -/
theorem writeAt (dm cls n a : Nat) (o : Out) (d : Dev) :
    WritesOut d (Machine.countDma dm cls n (Machine.emit o (Machine.tlbTouch dm a d))) :=
  ((tlbTouch ..).trans (emit ..)).trans (countDma ..)

theorem sendMsi (dm src : Nat) (d : Dev) : WritesOut d (sendMsi dm src d) := by
  unfold Machine.sendMsi
  dsimp only
  split
  · exact refl d
  · split
    · exact dom ..
    · split
      · exact (ep ..).trans (dom ..)
      · exact (dom ..).trans ((emit ..).trans (countDma ..))

theorem notify (dm src : Nat) (d : Dev) : WritesOut d (notify dm src d) := by
  unfold Machine.notify
  dsimp only
  split
  · split
    · exact refl d
    · exact dom ..
  · split
    · exact sendMsi ..
    · split
      · exact dom ..
      · exact sendMsi ..

theorem emitIndex (dm r : Nat) (d : Dev) : WritesOut d (emitIndex dm r d) := by
  unfold Machine.emitIndex
  dsimp only
  split
  · exact writeAt ..
  · exact refl d

theorem putRingEntry (dm r : Nat) (e : RingEntry) (d : Dev) : WritesOut d (putRingEntry dm r e d) := by
  unfold Machine.putRingEntry
  dsimp only
  refine WritesOut.trans ?_ (ring ..)
  split
  · exact writeAt ..
  · exact refl d

theorem ringWriteNow (dm r : Nat) (e : RingEntry) (d : Dev) : WritesOut d (ringWriteNow dm r e d) := by
  unfold Machine.ringWriteNow
  split
  · exact emitIndex ..
  · exact ((forEach _ _ _ fun _ _ => putRingEntry ..).trans (emitIndex ..)).trans (notify ..)

end WritesOut

/-! ### The oldest held punt of a slice (05 R150) -/

theorem exec_puntEntryWrite (slice : Nat) (s : State) :
    exec (.puntEntryWrite slice) s = .next (s.onDev (puntEntryWrite slice)) := rfl

/-- The punt of a frame has been taken to its domain's ring, and its write is held there. -/
def Dev.puntHeld (d : Dev) (dom id : Nat) : Bool := (d.dom dom).held.any (fun h => decide (h.ring = 7 ∧ h.tag = id))

section Punts

variable {slice id : Nat} {f : Frame} {d : Dev}

theorem puntEntryWrite_waits (hq : (d.fr.punts.getD slice []).head? = some id) (hf : d.frame id = some f)
    (hw : d.puntHeld f.owner id = true) : puntEntryWrite slice d = d := by
  simp only [puntEntryWrite, hq, hf]
  exact if_pos hw

theorem puntEntryWrite_down (hq : (d.fr.punts.getD slice []).head? = some id) (hf : d.frame id = some f)
    (hw : d.puntHeld f.owner id = false) (hu : d.ringUp f.owner 7 = false) : puntEntryWrite slice d = dropFrame id d := by
  simp only [puntEntryWrite, hq, hf]
  exact (if_neg (ne_true_of_eq_false hw)).trans (if_pos (by simp [hu]))

theorem puntEntryWrite_full (hq : (d.fr.punts.getD slice []).head? = some id) (hf : d.frame id = some f)
    (hw : d.puntHeld f.owner id = false) (hu : d.ringUp f.owner 7 = true) (hn : d.ringFree f.owner 7 = 0) :
    puntEntryWrite slice d = dropFrame id (bump 0x043 f.owner d) := by
  simp only [puntEntryWrite, hq, hf]
  exact (if_neg (ne_true_of_eq_false hw)).trans ((if_neg (by simp [hu])).trans (if_pos hn))

/-- A punt whose ring has room: its write faults at the entry, or goes to the ring. -/
theorem puntEntryWrite_room (hq : (d.fr.punts.getD slice []).head? = some id) (hf : d.frame id = some f)
    (hw : d.puntHeld f.owner id = false) (hu : d.ringUp f.owner 7 = true) (hn : d.ringFree f.owner 7 ≠ 0) :
    (∀ iova c, d.ringBlock f.owner 7 1 = some (4, iova, .fault c) → puntEntryWrite slice d = puntFault f.owner id c iova d) ∧
    ((∀ iova c, d.ringBlock f.owner 7 1 ≠ some (4, iova, .fault c)) →
      let e := ringPut f.owner 7 (.punt (puntEntry f)) d (tag := id)
      puntEntryWrite slice d = if e.puntHeld f.owner id then e else dropFrame id (bump 0x040 f.owner e)) := by
  have hgo : ¬((!d.ringUp f.owner 7) = true) := by simp [hu]
  have hw : ¬(d.puntHeld f.owner id = true) := ne_true_of_eq_false hw
  refine ⟨fun iova c hb => ?_, fun hb => ?_⟩
  · simp only [puntEntryWrite, hq, hf]
    refine (if_neg hw).trans ((if_neg hgo).trans ((if_neg hn).trans ?_))
    simp only [hb]
  · simp only [puntEntryWrite, hq, hf]
    exact (if_neg hw).trans ((if_neg hgo).trans (if_neg hn))

end Punts

/-- A ring that holds nothing back and whose write translates takes it at once. -/
theorem ringPut_now {dom ring tag : Nat} {e : RingEntry} {d : Dev} (hh : (d.dom dom).held = []) (he : (d.page dom).dtuErr = false)
    (hb : d.ringBlock dom ring (entryCount e) = none) : ringPut dom ring e d tag = ringWriteNow dom ring e d := by
  have he : (d.dom dom).page.dtuErr = false := he
  simp only [ringPut, hh, he, hb, List.isEmpty_nil, Bool.not_true, Bool.or_false, Bool.false_eq_true, if_false]

/-- A write that needs a walk is held for it. -/
theorem ringPut_walk {dom ring tag acc iova : Nat} {e : RingEntry} {d : Dev} (hh : (d.dom dom).held = [])
    (he : (d.page dom).dtuErr = false) (hb : d.ringBlock dom ring (entryCount e) = some (acc, iova, .walk)) :
    ringPut dom ring e d tag = d.onDom dom (fun D => { D with
      held := D.held ++ [{ ring := ring, entry := e, tag := tag }], heldSince := if D.held = [] then d.now else D.heldSince }) := by
  have he : (d.dom dom).page.dtuErr = false := he
  simp only [ringPut, hh, he, hb, List.isEmpty_nil, Bool.not_true, Bool.or_false, Bool.false_eq_true, if_false]

theorem onDom_dom {d : Dev} {i : Nat} {f : Dom → Dom} (h : i < d.host.doms.length) : (d.onDom i f).dom i = f (d.dom i) := by
  simp only [Dev.dom, Dev.onDom, getD_modAt, h, and_self, if_true]

/-- A change of a domain touches only the host interface. -/
theorem onlyParts_onDom (d : Dev) (i : Nat) (f : Dom → Dom) : OnlyParts [.host] d (d.onDom i f) := by
  intro p hp
  cases p <;> simp [Part.same] at hp ⊢

/-- The oldest held punt of a slice is written, waits for a walk, or is lost. -/
theorem puntEntryWrite_cases {slice id : Nat} {f : Frame} {s : State} (hf : s.dev.frame id = some f)
    (hq : (s.dev.fr.punts.getD slice []).head? = some id) :
    let D := s.dev.dom f.owner
    (s.dev.puntHeld f.owner id = true → Idles (.puntEntryWrite slice) s) ∧
    (s.dev.puntHeld f.owner id = false → s.dev.ringUp f.owner 7 = false → Does (.puntEntryWrite slice) s (dropFrame id)) ∧
    (s.dev.puntHeld f.owner id = false → s.dev.ringUp f.owner 7 = true →
      (s.dev.ringFree f.owner 7 = 0 → Does (.puntEntryWrite slice) s (fun d => dropFrame id (bump 0x043 f.owner d))) ∧
      (s.dev.ringFree f.owner 7 ≠ 0 →
        (∀ iova c, s.dev.ringBlock f.owner 7 1 = some (4, iova, .fault c) →
          Does (.puntEntryWrite slice) s (puntFault f.owner id c iova)) ∧
        (D.held = [] → D.page.dtuErr = false → s.dev.ringBlock f.owner 7 1 = none → Does (.puntEntryWrite slice) s (fun d =>
          dropFrame id (bump 0x040 f.owner (ringWriteNow f.owner 7 (.punt (puntEntry f)) d)))) ∧
        (∀ acc iova, D.held = [] → D.page.dtuErr = false → f.owner < s.dev.host.doms.length →
          s.dev.ringBlock f.owner 7 1 = some (acc, iova, .walk) → ∃ t, exec (.puntEntryWrite slice) s = .next t ∧
            OnlyParts [.host] s.dev t.dev ∧ (t.dev.dom f.owner).held = [{ ring := 7, entry := .punt (puntEntry f), tag := id }]))) := by
  have run := exec_puntEntryWrite slice s
  refine ⟨fun hw => idles_of_eq run (puntEntryWrite_waits hq hf hw), fun hw hu => does_of_eq run (puntEntryWrite_down hq hf hw hu),
    fun hw hu => ⟨fun hn => does_of_eq run (puntEntryWrite_full hq hf hw hu hn), fun hn => ?_⟩⟩
  obtain ⟨hfault, hput⟩ := puntEntryWrite_room hq hf hw hu hn
  refine ⟨fun iova c hb => does_of_eq run (hfault iova c hb), fun hh he hb => does_of_eq run ?_, fun acc iova hh he hlen hb => ?_⟩
  · have hgone : (ringWriteNow f.owner 7 (.punt (puntEntry f)) s.dev).puntHeld f.owner id = false := by
      simp only [Dev.puntHeld, (WritesOut.ringWriteNow f.owner 7 _ s.dev).held, hh, List.any_nil]
    have h := hput (fun _ _ => by rw [hb]; simp)
    rw [ringPut_now hh he hb] at h
    exact h.trans (if_neg (ne_true_of_eq_false hgone))
  · have h := hput (fun _ _ => by rw [hb]; simp)
    rw [ringPut_walk hh he hb] at h
    have hheld := congrArg Dom.held (onDom_dom (f := fun D => { D with
      held := D.held ++ [{ ring := 7, entry := .punt (puntEntry f), tag := id }],
      heldSince := if D.held = [] then s.dev.now else D.heldSince }) hlen)
    simp only [hh, List.nil_append] at hheld
    refine ⟨_, run, ?_⟩
    rw [State.onDev_dev, h, if_pos (by simp only [Dev.puntHeld, hheld]; simp)]
    exact ⟨onlyParts_onDom _ _ _, hheld⟩

/-! ### Classification (06 R165 to R167) -/

theorem exec_classifyComplete (id : Nat) (s : State) :
    exec (.classifyComplete id) s = .next (s.onDev (classifyComplete id)) := rfl

theorem classifyComplete_dropped {id : Nat} {f : Frame} {d e : Dev} (hf : d.frame id = some f) (hs : f.stage = .classifying)
    (hc : classify f (scanAdvance d) = (none, e)) : classifyComplete id d = dropFrame id e := by
  simp only [classifyComplete, hf, hs, ne_eq, not_true_eq_false, if_false, hc]

/-- A classified frame with its result and its context, in the device that holds it. -/
theorem classifyComplete_result {id : Nat} {f : Frame} {d e : Dev} {r : Result} (hf : d.frame id = some f)
    (hs : f.stage = .classifying) (hc : classify f (scanAdvance d) = (some r, e)) :
    let h := { f with res := r, ctx := e.context { f with res := r } }
    let e := setFrame h (if f.ended = true then hostStamp h e else e)
    classifyComplete id d =
      if (!e.egressOk f.rx r.egress) = true then dropAs 0x090 f.port h e
      else if f.rx = true then classifyRx h e else classifyTx h e := by
  simp only [classifyComplete, hf, hs, ne_eq, not_true_eq_false, if_false, hc]

theorem frameParsing : Claims.FrameParsing := by
  intro s id f hf hid
  refine ⟨frameIngress_fromPort hf hid, fun rest => frameIngress_fromRecirc hf hid, parseComplete_cases hf hid,
    fun slice hq => puntEntryWrite_cases hf hq, fun hs => ⟨fun e hc => ?_, fun r e hc => ⟨fun ho => ?_, fun ho => ?_⟩⟩⟩
  · exact exec_of_eq (exec_classifyComplete id s) (classifyComplete_dropped hf hs hc)
  · exact exec_of_eq (exec_classifyComplete id s) ((classifyComplete_result hf hs hc).trans (if_pos (by rw [ho]; rfl)))
  · exact exec_of_eq (exec_classifyComplete id s) ((classifyComplete_result hf hs hc).trans (if_neg (by rw [ho]; simp)))

/-- Settles O45: a frame's arrival, its entry into the parser, its parse, its punt and its classification, each by what the
row finds. -/
theorem framesIn : Obligations.FramesIn := ⟨frameArrival, frameParsing⟩

end Sys2Proof.Machine

namespace Sys2Proof.Machine

/-! ### Proposals at the home slice (06 R179 to R181) -/

/-- How old a proposal is on the fret time base. -/
def Dev.proposalAge (d : Dev) (p : Proposal) : Nat := (d.stampNow + 2 ^ 32 - p.stamp) % 2 ^ 32

/-- The order cache's entry for the key of a proposal. -/
def Dev.trackedFor (d : Dev) (home : Nat) (p : Proposal) : Option Tracked :=
  (d.mac.caches.getD home []).find? (fun t => t.key = p.key)

/-- A proposal that is taken enters the order cache. -/
def trackProposal (home : Nat) (p : Proposal) (d : Dev) : Dev :=
  track home { key := p.key, stamp := p.stamp, slice := p.slice, port := p.port, host := false, at_ := d.now } d

/-- A proposal is taken: it is not late, no later write of its key precedes it, and the order cache has room for it. -/
structure Dev.TakesProposal (d : Dev) (home : Nat) (p : Proposal) : Prop where
  inTime : ¬(20000 < d.proposalAge p ∧ d.proposalAge p < 2 ^ 31)
  first : (d.trackedFor home p).any (precedes p) = false
  room : d.trackedFor home p = none → (d.mac.caches.getD home []).length < cacheSize

/-- What the home slice does of a proposal that it has tracked: its key is moved to the peer that it names, or inserted. -/
def learnAt (home : Nat) (p : Proposal) (d : Dev) : Dev :=
  let dom := d.svcDom p.key.service
  match (d.rep home).find p.key with
  | none =>
    let r := insertEntry home { key := p.key, peer := p.peer, port := p.port } true d
    match r.1 with
    | none => bump 0x088 dom r.2
    | some true => bump 0x08F dom r.2
    | some false => bump 0x084 dom r.2
  | some (pos, e) =>
    if e.peer = p.peer then d
    else if e.frozen then bump 0x08E dom d
    else if e.static_ then bump 0x08D dom d
    else bump 0x089 dom (bump 0x088 dom (moveEntry home pos e p.peer p.port d))

section HandleProposal

variable {home : Nat} {p : Proposal} {d : Dev}

theorem handleProposal_late (h : 20000 < d.proposalAge p ∧ d.proposalAge p < 2 ^ 31) :
    handleProposal home p d = bump 0x08B (d.svcDom p.key.service) d := if_pos h

theorem handleProposal_preceded (hage : ¬(20000 < d.proposalAge p ∧ d.proposalAge p < 2 ^ 31))
    (hq : (d.trackedFor home p).any (precedes p) = true) :
    handleProposal home p d = bump 0x08A (d.svcDom p.key.service) d := (if_neg hage).trans (if_pos hq)

theorem handleProposal_full (hage : ¬(20000 < d.proposalAge p ∧ d.proposalAge p < 2 ^ 31))
    (hq : d.trackedFor home p = none) (hfull : cacheSize ≤ (d.mac.caches.getD home []).length) :
    handleProposal home p d = bump 0x08C (d.svcDom p.key.service) d := by
  have hfirst : ¬ (d.trackedFor home p).any (precedes p) = true := by simp [hq]
  have hnone : (d.trackedFor home p).isNone ∧ cacheSize ≤ (d.mac.caches.getD home []).length := ⟨by simp [hq], hfull⟩
  exact (if_neg hage).trans ((if_neg hfirst).trans (if_pos hnone))

theorem handleProposal_taken (ht : d.TakesProposal home p) :
    handleProposal home p d = learnAt home p (trackProposal home p d) := by
  have hroom : ¬((d.trackedFor home p).isNone = true ∧ cacheSize ≤ (d.mac.caches.getD home []).length) := by
    rintro ⟨hn, hl⟩
    exact absurd (ht.room (Option.isNone_iff_eq_none.1 hn)) (by omega)
  have hfirst : ¬ (d.trackedFor home p).any (precedes p) = true := by rw [ht.first]; exact Bool.false_ne_true
  exact (if_neg ht.inTime).trans ((if_neg hfirst).trans (if_neg hroom))

end HandleProposal

theorem exec_learnProposalProcess (slice : Nat) (s : State) :
    exec (.learnProposalProcess slice) s = .next (s.onDev (learnProposalProcess slice)) := rfl

theorem exec_orderCacheRetire (slice : Nat) (s : State) :
    exec (.orderCacheRetire slice) s = .next (s.onDev (orderCacheRetire slice)) := rfl

/-- What the home slice does of a proposal, by its age and what the order cache holds for its key. -/
theorem handleProposal_cases (slice : Nat) (p : Proposal) (d : Dev) :
    let dom := d.svcDom p.key.service
    let q := d.trackedFor slice p
    let e := trackProposal slice p d
    (20000 < d.proposalAge p → d.proposalAge p < 2 ^ 31 → handleProposal slice p d = bump 0x08B dom d) ∧
    ((d.proposalAge p ≤ 20000 ∨ 2 ^ 31 ≤ d.proposalAge p) →
      (q.any (precedes p) = true → handleProposal slice p d = bump 0x08A dom d) ∧
      (q = none → cacheSize ≤ (d.mac.caches.getD slice []).length → handleProposal slice p d = bump 0x08C dom d) ∧
      (q.any (precedes p) = false → (q = none → (d.mac.caches.getD slice []).length < cacheSize) →
        handleProposal slice p d = learnAt slice p e)) := by
  refine ⟨fun h1 h2 => handleProposal_late ⟨h1, h2⟩, fun hage => ?_⟩
  have hage : ¬(20000 < d.proposalAge p ∧ d.proposalAge p < 2 ^ 31) := by omega
  exact ⟨handleProposal_preceded hage, handleProposal_full hage, fun h1 h2 => handleProposal_taken ⟨hage, h1, h2⟩⟩

theorem proposalRows : Claims.ProposalRows := by
  intro s slice
  refine ⟨fun h => ?_, fun p ps h => ?_, fun p d => ?_, fun h => ?_, fun t ts h => ?_⟩
  · exact idles_of_eq (exec_learnProposalProcess slice s) (by simp only [learnProposalProcess, h])
  · exact does_of_eq (exec_learnProposalProcess slice s) (by simp only [learnProposalProcess, h])
  · obtain ⟨hlate, hin⟩ := handleProposal_cases slice p d
    refine ⟨hlate, fun hage => ?_⟩
    obtain ⟨hprec, hfull, htaken⟩ := hin hage
    refine ⟨hprec, hfull, fun h1 h2 => ⟨fun pos o hfind => ?_, fun hfind => ?_⟩⟩
    · have hrun := htaken h1 h2
      simp only [learnAt, trackProposal, hfind] at hrun
      refine ⟨?_, ?_, ?_, ?_⟩ <;> intros <;> simp only [*] <;> rfl
    · have hrun := htaken h1 h2
      simp only [learnAt, trackProposal, hfind] at hrun
      refine ⟨?_, ?_, ?_⟩ <;> intros <;> simp only [*] <;> rfl
  · exact idles_of_eq (exec_orderCacheRetire slice s) (by simp only [orderCacheRetire, h])
  · exact does_of_eq (exec_orderCacheRetire slice s) (by simp only [orderCacheRetire, h]; rfl)

/-! ### Messages of the bridge (06 R168, R178 to R180, R183) -/

theorem exec_bridgeMessageRx (slice : Nat) (bad : Bool) (s : State) :
    exec (.bridgeMessageRx slice bad) s = .next (s.onDev (bridgeMessageRx slice bad)) := rfl

/-- The device once a slice has taken the first message of its inbox, which leaves `ms`. -/
def tookMessage (slice : Nat) (ms : List BridgeMsg) (d : Dev) : Dev :=
  (scanAdvance d).onMac (fun x => { x with inbox := x.inbox.set slice ms })

/-- What a message does that arrives whole. -/
def actOnMessage (slice : Nat) (m : BridgeMsg) (d : Dev) : Dev :=
  match m with
  | .proposal p =>
    if 1024 ≤ d.proposalsOf slice then bump 0x08C (d.svcDom p.key.service) d
    else d.onMac (fun x => { x with queues := modAt x.queues slice (· ++ [p]) })
  | .insert pos e v l o => if slice = 0 then insertAtZero pos e v l d else insertAtOne pos e v o d
  | .update pos e => if d.stands slice pos e.key then putEntry slice pos e false d else d
  | .remove pos k => if d.stands slice pos k then dropEntry slice pos d else d
  | .ages lo hits => ageResults slice lo hits d
  | .withdrawn => d

theorem bridgeMessageRx_empty {slice : Nat} {bad : Bool} {d : Dev} (h : (scanAdvance d).mac.inbox.getD slice [] = []) :
    bridgeMessageRx slice bad d = scanAdvance d := by
  simp only [bridgeMessageRx, h]

theorem bridgeMessageRx_bad {slice : Nat} {d : Dev} {m : BridgeMsg} {ms : List BridgeMsg}
    (h : (scanAdvance d).mac.inbox.getD slice [] = m :: ms) :
    bridgeMessageRx slice true d = raiseAlarm 12 0 (tookMessage slice ms d) := by
  simp only [bridgeMessageRx, h, if_true, tookMessage]

theorem bridgeMessageRx_good {slice : Nat} {d : Dev} {m : BridgeMsg} {ms : List BridgeMsg}
    (h : (scanAdvance d).mac.inbox.getD slice [] = m :: ms) :
    bridgeMessageRx slice false d = actOnMessage slice m (tookMessage slice ms d) := by
  simp only [bridgeMessageRx, h, Bool.false_eq_true, if_false, tookMessage]
  rfl

@[simp] theorem unbump_mac (code inst : Nat) (d : Dev) : (unbump code inst d).mac = d.mac := by
  unfold unbump
  dsimp only
  split <;> rfl

/-- An eviction that is withdrawn changes what the evictions are noted in, and no replica. -/
@[simp] theorem undoEvict_reps (v : Option MacEntry) (d : Dev) : (undoEvict v d).mac.reps = d.mac.reps := by
  cases v with
  | none => rfl
  | some e => simp [undoEvict, Dev.onMac]

/-- An insertion that slice 0 has beaten writes no replica (06 R168). -/
theorem insertAtZero_beaten (pos : Nat) (e : MacEntry) (v : Option MacEntry) (l : Bool) (d : Dev)
    (h : d.claimsTo 1 pos ≠ []) : (insertAtZero pos e v l d).mac.reps = d.mac.reps := by
  obtain ⟨c, cs, hc⟩ := List.exists_cons_of_ne_nil h
  simp only [insertAtZero, hc, onClaims, Dev.onMac]
  split
  · exact undoEvict_reps v d
  · rfl

/-- An insertion of slice 0 that has crossed no claim of slice 1 and beaten none is written (06 R168). -/
theorem insertAtOne_unclaimed (pos : Nat) (e : MacEntry) (v : Option MacEntry) (d : Dev) (h : d.claimsTo 0 pos = []) :
    insertAtOne pos e v none d = putEntry 1 pos e true (onClaims 0 pos (fun _ => .withdrawn) d) := by
  simp only [insertAtOne, h, List.getLast?_nil, Option.map_none]
  split
  · rename_i hc; exact absurd hc (by simp)
  · rfl

theorem bridgeRows : Claims.BridgeRows := by
  intro s slice
  refine ⟨fun h bad => does_of_eq (exec_bridgeMessageRx slice bad s) (bridgeMessageRx_empty h), fun m ms h => ?_,
    fun pos e v l d => ⟨fun h => ?_, insertAtZero_beaten pos e v l d⟩, fun pos e v o d h ho => ?_⟩
  · have good : ∀ {g : Dev → Dev}, actOnMessage slice m (tookMessage slice ms s.dev) = g s.dev →
        Does (.bridgeMessageRx slice false) s g := fun hg =>
      does_of_eq (exec_bridgeMessageRx slice false s) ((bridgeMessageRx_good h).trans hg)
    refine ⟨does_of_eq (exec_bridgeMessageRx slice true s) (bridgeMessageRx_bad h), fun p hm => ?_, fun pos e v l o hm => ?_,
      fun pos e hm => ?_, fun pos k hm => ?_, fun lo hits hm => good (hm ▸ rfl), fun hm => good (hm ▸ rfl)⟩ <;> subst hm
    · exact ⟨fun hroom => good (if_neg (Nat.not_le.2 hroom)), fun hfull => good (if_pos hfull)⟩
    · exact ⟨fun h0 => good (if_pos h0), fun h0 => good (if_neg h0)⟩
    · exact ⟨fun hs => good (if_pos hs), fun hs => good (if_neg (Bool.eq_false_iff.1 hs))⟩
    · exact ⟨fun hs => good (if_pos hs), fun hs => good (if_neg (Bool.eq_false_iff.1 hs))⟩
  · simp only [insertAtZero, h]
  · subst ho
    exact insertAtOne_unclaimed pos e v d h

/-- Settles O50: each row runs the home slice's handling of the first proposal, message or entry, split by what it finds. -/
theorem learnRows : Obligations.LearnRows := ⟨proposalRows, bridgeRows⟩

end Sys2Proof.Machine

namespace Sys2Proof.Machine

/-! ### What the way of a frame through the device changes

The frames in flight, the egress ports and their meters, the binds of key slots, the parked frames of miss records, the drops
of pairs, and the launches outstanding. -/

/-- `e` is `d` but for its frame side. -/
def FrameSide (d e : Dev) : Prop := ∃ c r g k o q l, e = { d with
  cnt := c, fr := r, eg := g, keys := k, time := { d.time with onestep := o }, msec := { d.msec with recs := q, llDrops := l } }

namespace FrameSide

theorem refl (d : Dev) : FrameSide d d := ⟨d.cnt, d.fr, d.eg, d.keys, d.time.onestep, d.msec.recs, d.msec.llDrops, rfl⟩

theorem trans {a b c : Dev} (h1 : FrameSide a b) (h2 : FrameSide b c) : FrameSide a c := by
  obtain ⟨_, _, _, _, _, _, _, rfl⟩ := h1
  obtain ⟨c, r, g, k, o, q, l, rfl⟩ := h2
  exact ⟨c, r, g, k, o, q, l, rfl⟩

theorem counts {d e : Dev} (h : CountsOnly d e) : FrameSide d e := by
  obtain ⟨c, rfl⟩ := h
  exact ⟨c, d.fr, d.eg, d.keys, d.time.onestep, d.msec.recs, d.msec.llDrops, rfl⟩

theorem bump (code inst : Nat) (d : Dev) : FrameSide d (bump code inst d) := counts (.bump ..)

theorem onFr (d : Dev) (f : FrameSt → FrameSt) : FrameSide d (d.onFr f) :=
  ⟨d.cnt, f d.fr, d.eg, d.keys, d.time.onestep, d.msec.recs, d.msec.llDrops, rfl⟩
theorem onEg (d : Dev) (f : EgressSt → EgressSt) : FrameSide d (d.onEg f) :=
  ⟨d.cnt, d.fr, f d.eg, d.keys, d.time.onestep, d.msec.recs, d.msec.llDrops, rfl⟩
theorem onPort (d : Dev) (p : Nat) (f : Egress → Egress) : FrameSide d (d.onPort p f) :=
  ⟨d.cnt, d.fr, _, d.keys, d.time.onestep, d.msec.recs, d.msec.llDrops, rfl⟩
theorem onQueue (d : Dev) (p q : Nat) (f : Queue → Queue) : FrameSide d (d.onQueue p q f) := onPort ..
theorem onKeys (d : Dev) (f : KeySt → KeySt) : FrameSide d (d.onKeys f) :=
  ⟨d.cnt, d.fr, d.eg, f d.keys, d.time.onestep, d.msec.recs, d.msec.llDrops, rfl⟩
theorem onestep (d : Dev) (f : List Nat → List Nat) : FrameSide d (d.onTime (fun t => { t with onestep := f t.onestep })) :=
  ⟨d.cnt, d.fr, d.eg, d.keys, f d.time.onestep, d.msec.recs, d.msec.llDrops, rfl⟩
theorem setFrame (f : Frame) (d : Dev) : FrameSide d (setFrame f d) := onFr ..

theorem onFrame (id : Nat) (g : Frame → Frame) (d : Dev) : FrameSide d (onFrame id g d) := by
  unfold Machine.onFrame
  split
  · exact setFrame ..
  · exact refl d

theorem settleSlot (n : Nat) (d : Dev) : FrameSide d (settleSlot n d) := by
  unfold Machine.settleSlot
  dsimp only
  split
  · exact onKeys ..
  · exact refl d

theorem unbindSlot (n : Nat) (d : Dev) : FrameSide d (unbindSlot n d) := (onKeys ..).trans (settleSlot ..)

theorem returnCharge (c : Charge) (d : Dev) : FrameSide d (returnCharge c d) := (onQueue ..).trans (onPort ..)

theorem takeCharge (c : Charge) (d : Dev) : FrameSide d (takeCharge c d) := (onQueue ..).trans (onPort ..)

theorem takeFromRecord (slice r id : Nat) (d : Dev) : FrameSide d (takeFromRecord slice r id d) := by
  unfold Machine.takeFromRecord
  split
  · exact refl d
  · exact ⟨d.cnt, d.fr, d.eg, d.keys, d.time.onestep, _, d.msec.llDrops, rfl⟩

theorem noteLl (l : Nat) (late : Bool) (d : Dev) : FrameSide d (noteLl l late d) :=
  ⟨d.cnt, d.fr, d.eg, d.keys, d.time.onestep, d.msec.recs, _, rfl⟩

end FrameSide

/-- What a frame gives back of its key slot. -/
def releaseSlot (f : Frame) (d : Dev) : Dev :=
  match f.slot with
  | some n => unbindSlot n d
  | none => d

/-- What a frame gives back of its cells. -/
def releaseCells (f : Frame) (d : Dev) : Dev :=
  match f.charge with
  | some c => returnCharge c (d.onQueue c.port c.queue (fun q => { q with frames := q.frames.erase f.id }))
  | none => d

/-- What a frame gives back of its place in a list, by its stage. -/
def releasePlace (f : Frame) (d : Dev) : Dev :=
  match f.stage with
  | .parked => d.onFr (fun s => { s with parkCells := modAt s.parkCells f.slice (· - f.cells) })
  | .recirc => d.onFr (fun s => { s with recircCells := modAt s.recircCells f.slice (· - f.cells),
                                         recirc := modAt s.recirc f.slice (·.erase f.id) })
  | .punted => d.onFr (fun s => { s with punts := modAt s.punts f.slice (·.erase f.id) })
  | .sending => d.onPort f.res.egress (fun e => if e.sending = some f.id then { e with sending := none } else e)
  | .onestep => d.onTime (fun t => { t with onestep := t.onestep.erase f.id })
  | _ => d

/-- What a frame gives back of its place in a miss record. -/
def releaseRecord (f : Frame) (d : Dev) : Dev :=
  match f.record with
  | some r => takeFromRecord f.slice r f.id d
  | none => d

theorem releaseFrame_eq (f : Frame) (d : Dev) :
    releaseFrame f d = releaseRecord f (releasePlace f (releaseCells f (releaseSlot f d))) := rfl

namespace FrameSide

theorem releaseSlot (f : Frame) (d : Dev) : FrameSide d (releaseSlot f d) := by
  unfold Machine.releaseSlot
  split
  · exact unbindSlot ..
  · exact refl d

theorem releaseCells (f : Frame) (d : Dev) : FrameSide d (releaseCells f d) := by
  unfold Machine.releaseCells
  split
  · exact (onQueue ..).trans (returnCharge ..)
  · exact refl d

theorem releasePlace (f : Frame) (d : Dev) : FrameSide d (releasePlace f d) := by
  unfold Machine.releasePlace
  split
  · exact onFr ..
  · exact onFr ..
  · exact onFr ..
  · exact onPort ..
  · exact onestep d (·.erase f.id)
  · exact refl d

theorem releaseRecord (f : Frame) (d : Dev) : FrameSide d (releaseRecord f d) := by
  unfold Machine.releaseRecord
  split
  · exact takeFromRecord ..
  · exact refl d

theorem releaseFrame (f : Frame) (d : Dev) : FrameSide d (releaseFrame f d) :=
  ((releaseSlot ..).trans (releaseCells ..)).trans ((releasePlace ..).trans (releaseRecord ..))

theorem resolveIssue (code id : Nat) (d : Dev) : FrameSide d (resolveIssue code id d) := by
  unfold Machine.resolveIssue
  split
  · exact refl d
  · split
    · exact refl d
    · exact (counts ((CountsOnly.bumpWrap ..).trans (.progEvent ..))).trans (setFrame ..)

theorem dropFrame (id : Nat) (d : Dev) : FrameSide d (dropFrame id d) := by
  unfold Machine.dropFrame
  dsimp only
  refine (resolveIssue tdDrop id d).trans ?_
  split
  · exact refl _
  · exact (releaseFrame ..).trans (onFr ..)

theorem dropAs (code inst : Nat) (f : Frame) (d : Dev) : FrameSide d (dropAs code inst f d) := (bump ..).trans (dropFrame ..)

theorem dropAtEgress (id : Nat) (d : Dev) : FrameSide d (dropAtEgress id d) := by
  unfold Machine.dropAtEgress
  split
  · exact refl d
  · split
    · exact (resolveIssue ..).trans ((releaseFrame ..).trans (setFrame ..))
    · exact dropFrame ..

theorem trimCharge (id : Nat) (d : Dev) : FrameSide d (trimCharge id d) := by
  unfold Machine.trimCharge
  split
  · exact refl d
  · split
    · exact refl d
    · dsimp only
      split
      · exact (returnCharge ..).trans (setFrame ..)
      · exact refl d

theorem emptyCharge (id : Nat) (d : Dev) : FrameSide d (emptyCharge id d) := by
  unfold Machine.emptyCharge
  split
  · exact refl d
  · split
    · exact (returnCharge ..).trans (setFrame ..)
    · exact refl d

theorem returnDebit (f : Frame) (d : Dev) : FrameSide d (returnDebit f d) := by
  unfold Machine.returnDebit
  split
  · exact refl d
  · exact (onEg ..).trans (setFrame ..)

theorem enterDelay (f : Frame) (l t : Nat) (d : Dev) : FrameSide d (enterDelay f l t d) := by
  have hissue : FrameSide d (if f.verdict.isSome then Machine.resolveIssue tdDelivered f.id d else d) := by
    split
    · exact resolveIssue ..
    · exact refl d
  unfold Machine.enterDelay
  dsimp only
  generalize (if f.verdict.isSome then Machine.resolveIssue tdDelivered f.id d else d) = e at hissue ⊢
  split
  · exact hissue.trans (((bump ..).trans (dropAtEgress ..)).trans (noteLl ..))
  · exact hissue.trans (onFrame ..)

theorem enterRecirc (f : Frame) (d : Dev) : FrameSide d (enterRecirc f d) := by
  unfold Machine.enterRecirc
  dsimp only
  split
  · exact dropAs ..
  · exact (resolveIssue ..).trans ((onFr ..).trans (setFrame ..))

theorem forEach {α : Type} (l : List α) (f : α → Dev → Dev) (d : Dev) (h : ∀ a d, FrameSide d (f a d)) :
    FrameSide d (forEach l f d) := by
  induction l generalizing d with
  | nil => exact refl d
  | cons a l ih => exact (h a d).trans (ih (f a d))

theorem refreshActive (p : Nat) (d : Dev) : FrameSide d (refreshActive p d) := forEach _ _ _ fun _ _ => onQueue ..

theorem enqueue (id : Nat) (d : Dev) : FrameSide d (enqueue id d) := by
  unfold Machine.enqueue
  split
  · exact refl d
  · dsimp only
    split
    · exact (bump ..).trans (dropAtEgress ..)
    · split
      · refine FrameSide.trans ?_ (dropAtEgress ..)
        split
        · exact (bump ..).trans (bump ..)
        · split
          · exact (bump ..).trans (bump ..)
          · exact bump ..
      · exact (((setFrame ..).trans (takeCharge ..)).trans (onQueue ..)).trans (refreshActive ..)

theorem toQueue (id : Nat) (d : Dev) : FrameSide d (toQueue id d) := by
  unfold Machine.toQueue
  dsimp only
  refine (enqueue id d).trans ?_
  split
  · exact refl _
  · split
    · exact resolveIssue ..
    · exact refl _

theorem sendOn (id : Nat) (d : Dev) : FrameSide d (sendOn id d) := by
  unfold Machine.sendOn
  split
  · exact refl d
  · split
    · exact enterDelay ..
    · split
      · exact ((setFrame ..).trans (resolveIssue ..)).trans (onestep _ (· ++ [id]))
      · split
        · exact enterRecirc ..
        · exact toQueue ..

theorem failFrame (resolution id : Nat) (d : Dev) : FrameSide d (failFrame resolution id d) := by
  unfold Machine.failFrame
  split
  · exact refl d
  · split
    · exact ((setFrame ..).trans (emptyCharge ..)).trans (resolveIssue ..)
    · exact (resolveIssue ..).trans (dropFrame ..)

/-- The way of a frame leaves every SA as it was. -/
theorem sa {d e : Dev} (h : FrameSide d e) (i : Nat) : e.sa i = d.sa i := by
  obtain ⟨_, _, _, _, _, _, _, rfl⟩ := h
  rfl

/-- The way of a frame that is not sent sends nothing. -/
theorem wire {d e : Dev} (h : FrameSide d e) : e.wire = d.wire := by
  obtain ⟨_, _, _, _, _, _, _, rfl⟩ := h
  rfl

end FrameSide

end Sys2Proof.Machine

namespace Sys2Proof.Machine

/-! ### A frame's own entry among the frames in flight -/

section OwnEntry

variable {id : Nat} {f : Frame} {d : Dev}

theorem resolveIssue_frame (hf : d.frame id = some f) (hid : f.id = id) (code : Nat) :
    ∃ o, (resolveIssue code id d).frame id = some { f with issue := o } := by
  unfold resolveIssue
  simp only [hf]
  split
  · exact ⟨f.issue, hf⟩
  · exact ⟨none, (setFrame_frame _ _ _).trans (if_pos hid)⟩

theorem trimCharge_frame (hf : d.frame id = some f) (hid : f.id = id) :
    ∃ c, (trimCharge id d).frame id = some { f with charge := c } := by
  unfold trimCharge
  simp only [hf]
  split
  · exact ⟨f.charge, hf⟩
  · split
    · exact ⟨_, (setFrame_frame _ _ _).trans (if_pos hid)⟩
    · exact ⟨f.charge, hf⟩

theorem emptyCharge_frame (hf : d.frame id = some f) (hid : f.id = id) :
    ∃ c, (emptyCharge id d).frame id = some { f with charge := c } := by
  unfold emptyCharge
  simp only [hf]
  split
  · exact ⟨_, (setFrame_frame _ _ _).trans (if_pos hid)⟩
  · exact ⟨f.charge, hf⟩

theorem returnDebit_frame (hf : d.frame id = some f) (hid : f.id = id) :
    ∃ b, (returnDebit f d).frame id = some { f with debit := b } := by
  unfold returnDebit
  split
  · exact ⟨f.debit, hf⟩
  · exact ⟨none, (setFrame_frame _ _ _).trans (if_pos hid)⟩

/-- A dropped frame is no longer in flight. -/
theorem dropFrame_frame (id : Nat) (d : Dev) : (dropFrame id d).frame id = none := by
  unfold dropFrame
  dsimp only
  split
  · rename_i h; exact h
  · exact (Tbl.find_drop id id _).trans (if_pos rfl)

/-- A frame that is being sent and fails ends with an inverted FCS (07 R228). -/
theorem failFrame_sending (hf : d.frame id = some f) (hid : f.id = id) (hs : f.stage = .sending) (resolution : Nat) :
    ∃ g, (failFrame resolution id d).frame id = some g ∧ g.verdict = some false ∧ g.stomp = true := by
  obtain ⟨c, hc⟩ := emptyCharge_frame (d := setFrame { f with stomp := true, verdict := some false, ended := true } d)
    ((setFrame_frame _ _ _).trans (if_pos hid)) hid
  obtain ⟨o, ho⟩ := resolveIssue_frame hc hid tdStomp
  simp only [failFrame, hf]
  rw [if_pos hs]
  exact ⟨_, ho, rfl, rfl⟩

/-- A frame that is not being sent and fails is dropped. -/
theorem failFrame_dropped (hf : d.frame id = some f) (hs : f.stage ≠ .sending) (resolution : Nat) :
    (failFrame resolution id d).frame id = none := by
  simp only [failFrame, hf, if_neg hs]
  exact dropFrame_frame id _

end OwnEntry

/-! ### Learning, and the records of stamps -/

/-- `e` is `d` but for its MAC table and its counters. -/
def MacSide (d e : Dev) : Prop := ∃ c m, e = { d with cnt := c, mac := m }

namespace MacSide

theorem refl (d : Dev) : MacSide d d := ⟨d.cnt, d.mac, rfl⟩

theorem trans {a b c : Dev} (h1 : MacSide a b) (h2 : MacSide b c) : MacSide a c := by
  obtain ⟨_, _, rfl⟩ := h1
  obtain ⟨c, m, rfl⟩ := h2
  exact ⟨c, m, rfl⟩

theorem counts {d e : Dev} (h : CountsOnly d e) : MacSide d e := by
  obtain ⟨c, rfl⟩ := h
  exact ⟨c, d.mac, rfl⟩

theorem bump (code inst : Nat) (d : Dev) : MacSide d (bump code inst d) := counts (.bump ..)
theorem onMac (d : Dev) (f : MacSt → MacSt) : MacSide d (d.onMac f) := ⟨d.cnt, f d.mac, rfl⟩
theorem onRep (d : Dev) (s : Nat) (f : Replica → Replica) : MacSide d (d.onRep s f) := onMac d _
theorem bridgeSend (dst : Nat) (m : BridgeMsg) (d : Dev) : MacSide d (bridgeSend dst m d) := onMac d _

theorem forEach {α : Type} (l : List α) (f : α → Dev → Dev) (d : Dev) (h : ∀ a d, MacSide d (f a d)) :
    MacSide d (forEach l f d) := by
  induction l generalizing d with
  | nil => exact refl d
  | cons a l ih => exact (h a d).trans (ih (f a d))

theorem decideRemoval (home pos : Nat) (k : MacKey) (d : Dev) : MacSide d (decideRemoval home pos k d) :=
  (onRep d home _).trans (bridgeSend ..)

theorem scanEntry (home : Nat) (hits : List Nat) (x : Nat × MacEntry) (d : Dev) : MacSide d (scanEntry home hits x d) := by
  unfold Machine.scanEntry
  split
  · exact refl d
  · split
    · exact ((onMac d _).trans (decideRemoval ..)).trans (bump ..)
    · exact onMac d _

theorem scanSlice (lo hi slice : Nat) (d : Dev) : MacSide d (scanSlice lo hi slice d) := by
  unfold Machine.scanSlice
  dsimp only
  have hread := fun l hits => (forEach l (Machine.scanEntry slice hits) d fun _ _ => scanEntry ..).trans
    (onRep _ slice (fun r => { r with hits := without (fun p => decide (lo ≤ p ∧ p < hi)) r.hits }))
  split
  · exact hread _ _
  · exact (hread _ _).trans ((onMac _ _).trans (forEach _ _ _ fun _ _ => bridgeSend ..))

theorem scanAdvance (d : Dev) : MacSide d (scanAdvance d) := by
  unfold Machine.scanAdvance
  split
  · exact refl d
  · dsimp only
    split
    · exact refl d
    · exact ((scanSlice ..).trans (scanSlice ..)).trans (onMac _ _)

theorem propose (p : Proposal) (d : Dev) : MacSide d (propose p d) := by
  unfold Machine.propose
  dsimp only
  refine (counts (.progEvent 0x050 p.slice 0 1 d)).trans ?_
  split
  · exact bump ..
  · split
    · exact onMac _ _
    · exact bridgeSend ..

/-- Learning changes the MAC table and counters only. -/
theorem learn (f : Frame) (peer : Nat) (d : Dev) : MacSide d (learn f peer d) := by
  unfold Machine.learn
  dsimp only
  refine (scanAdvance d).trans ?_
  split
  · exact refl _
  · split
    · exact propose ..
    · split
      · exact onRep _ _ _
      · split
        · exact bump ..
        · split
          · exact bump ..
          · exact propose ..

end MacSide

theorem HostSide.ite {c : Prop} [Decidable c] {d a b : Dev} (ha : HostSide d a) (hb : HostSide d b) :
    HostSide d (if c then a else b) := by
  split
  · exact ha
  · exact hb

theorem HostSide.raiseFrom (slice : Nat) (o : Option Nat) (e : Event) (d : Dev) : HostSide d (raiseFrom slice o e d) := by
  unfold Machine.raiseFrom
  dsimp only
  split
  · exact raise ..
  · split
    · exact (host d (fun h => { h with evLost := h.evLost ++ [o.getD d.sup] }) fun _ => rfl).trans (bump ..)
    · exact host _ _ fun _ => rfl

/-- A timestamp record stays on the host side. -/
theorem HostSide.stampRecord (f : Frame) (p : Nat) (rx : Bool) (tb stamp : Nat) (d : Dev) :
    HostSide d (stampRecord f p rx tb stamp d) := by
  unfold Machine.stampRecord
  split
  · exact refl d
  · next o _ =>
    dsimp only
    generalize (if rx then ptpType f.bytes o else ptpType f.bytes o + 4) = bit
    split
    · exact refl d
    · exact (ite (bump ..) (refl d)).trans (raiseFrom ..)

/-! ### The cipher stage (01 R14, R22, 07 R222) -/

theorem exec_cipherStageEntry (id : Nat) (s : State) :
    exec (.cipherStageEntry id) s = .next (s.onDev (cipherStageEntry id)) := rfl

theorem exec_cipherStageExit (id : Nat) (s : State) : exec (.cipherStageExit id) s = .next (s.onDev (cipherStageExit id)) := rfl

theorem exec_frameEndArrival (id : Nat) (s : State) : exec (.frameEndArrival id) s = .next (s.onDev (frameEndArrival id)) := rfl

theorem exec_rxConfirmation (id : Nat) (s : State) : exec (.rxConfirmation id) s = .next (s.onDev (rxConfirmation id)) := rfl

section Cipher

variable {id n : Nat} {f : Frame} {d : Dev}

theorem cipherStageEntry_unkeyed (hf : d.frame id = some f) (hs : f.stage = .toCipher) (hn : f.slot = none) :
    cipherStageEntry id d = revokedAtCipher false f d := by
  simp only [cipherStageEntry, hf, hs, hn, ne_eq, not_true_eq_false, if_false]

theorem cipherStageEntry_gone (hf : d.frame id = some f) (hs : f.stage = .toCipher) (hn : f.slot = some n)
    (hm : (d.slot n).mark = false) (hh : (d.slot n).handed = false) : cipherStageEntry id d = revokedAtCipher false f d := by
  simp [cipherStageEntry, hf, hs, hn, hm, hh]

/-- A frame that still has its key: a slot whose pair disagrees revokes it, and any other seals or opens it. -/
theorem cipherStageEntry_keyed (hf : d.frame id = some f) (hs : f.stage = .toCipher) (hn : f.slot = some n)
    (hk : (d.slot n).mark = true ∨ (d.slot n).handed = true) :
    ((d.slot n).pairOk = false → cipherStageEntry id d = keyMismatch n (revokedAtCipher true f d)) ∧
    ((d.slot n).pairOk = true → f.rx = false → cipherStageEntry id d = setFrame { f with
      stage := .inCipher, out := sealFrame (d.slot n).keyBytes f.ctx.secy f.ctx.sc f.ctx.sa f.pn f.bytes } d) ∧
    (∀ g, (d.slot n).pairOk = true → f.rx = true → rxTag f = some g →
      let r := openFrame (d.slot n).keyBytes f.ctx.secy f.ctx.sc f.ctx.sa g f.pn f.bytes
      (d.onPair f = none → cipherStageEntry id d = setFrame { f with stage := .inCipher, out := r.1, open_ := r.2 } d) ∧
      (∀ x, d.onPair f = some x → cipherStageEntry id d = setFrame { f with
        stage := .inCipher, out := correctPair f x.2.2 g.len r.1, open_ := r.2 } d)) := by
  have hlive : ((!(d.slot n).mark) && !(d.slot n).handed) = false := by rcases hk with h | h <;> simp [h]
  refine ⟨fun hp => ?_, fun hp hr => ?_, fun g hp hr hg => ⟨fun hx => ?_, fun x hx => ?_⟩⟩ <;>
    simp [cipherStageEntry, *]

theorem cipherStageExit_released (hf : d.frame id = some f) (hs : f.stage = .inCipher) (hn : f.slot = some n) :
    let g := { f with slot := none, stage := .confirming }
    cipherStageExit id d = if f.rx then (if d.mayStomp g then sendOn id (setFrame g (unbindSlot n d)) else setFrame g (unbindSlot n d))
      else sendOn id (countProtected g (setFrame g (unbindSlot n d))) := by
  intro g
  have hst : (setFrame g (unbindSlot n d)).mayStomp g = d.mayStomp g := by
    obtain ⟨_, _, _, _, _, _, _, he⟩ := (FrameSide.unbindSlot n d).trans (.setFrame g _)
    rw [he]; rfl
  simp only [cipherStageExit, hf, hs, hn, ne_eq, not_true_eq_false, if_false, ← hst]
  rfl

end Cipher

/-! ### The end of a frame (05 R141, R147) -/

/-- What the end of a frame does before its late checks. -/
def frameEnds (id : Nat) (f : Frame) (d : Dev) : Dev := trimCharge id (setFrame { f with ended := true } d)

section FrameEnd

variable {id : Nat} {f : Frame} {d : Dev}

theorem frameEndArrival_ended (hf : d.frame id = some f) (he : f.ended = true) : frameEndArrival id d = d := by
  simp [frameEndArrival, hf, he]

theorem frameEndArrival_waiting (hf : d.frame id = some f) (he : f.ended = false) (hl : f.lateBad = false)
    (hs : f.stage = .waitEnd) : frameEndArrival id d = plainOut id (hostStamp f (frameEnds id f d)) := by
  simp [frameEndArrival, hf, he, hl, hs, frameEnds]

theorem frameEndArrival_protected (hf : d.frame id = some f) (he : f.ended = false) (hl : f.lateBad = false)
    (hp : f.protect = true) (hs : f.stage = .inCipher ∨ f.stage = .confirming ∨ f.stage = .sending) :
    frameEndArrival id d = hostStamp f (frameEnds id f d) := by
  rcases hs with hs | hs | hs <;> simp [frameEndArrival, hf, he, hl, hp, hs, frameEnds]

theorem frameEndArrival_late (hf : d.frame id = some f) (he : f.ended = false) (hl : f.lateBad = true) (hr : f.rx = false)
    (hs : f.stage = .waitEnd) :
    frameEndArrival id d = failFrame tdDrop id (bump 0x04A f.port (frameEnds id f d)) := by
  simp [frameEndArrival, hf, he, hl, hr, hs, frameEnds]

end FrameEnd

end Sys2Proof.Machine

namespace Sys2Proof.Machine

/-! ### Confirmation (07 R217, R222 to R226) -/

theorem HostSide.fr_msec {d e : Dev} (h : HostSide d e) : e.fr = d.fr ∧ e.msec = d.msec := by
  obtain ⟨_, _, _, _, _, _, rfl⟩ := h.rest
  exact ⟨rfl, rfl⟩

theorem MacSide.fr_msec {d e : Dev} (h : MacSide d e) : e.fr = d.fr ∧ e.msec = d.msec := by
  obtain ⟨_, _, rfl⟩ := h
  exact ⟨rfl, rfl⟩

theorem CountsOnly.fr_msec {d e : Dev} (h : CountsOnly d e) : e.fr = d.fr ∧ e.msec = d.msec := by
  obtain ⟨_, rfl⟩ := h
  exact ⟨rfl, rfl⟩

/-- What is counted of a confirmed frame before its side effects. -/
def countConfirmed (f : Frame) (d : Dev) : Dev :=
  let i := f.sa.getD 0
  let d := progEvent 0x040 f.slice f.port 1 (bump 0x0AD i d)
  let t := (rxTag f).getD { off := 0, len := 0, tci := 0, sl := 0, pn := 0, sci := 0, data := 0 }
  let d := bumpBy (if t.tci.testBit 3 then 0x0AF else 0x0AE) f.res.secy t.data.toNat d
  if f.pn < (d.sa i).lowest.toNat then bump 0x142 f.res.secy d else d

theorem CountsOnly.ite {c : Prop} [Decidable c] {d a b : Dev} (ha : CountsOnly d a) (hb : CountsOnly d b) :
    CountsOnly d (if c then a else b) := by
  split
  · exact ha
  · exact hb

theorem CountsOnly.countConfirmed (f : Frame) (d : Dev) : CountsOnly d (countConfirmed f d) := by
  unfold Machine.countConfirmed
  exact (((bump 0x0AD (f.sa.getD 0) d).trans (progEvent 0x040 f.slice f.port 1 _)).trans (bumpBy _ f.res.secy _ _)).trans
    (ite (bump ..) (refl _))

/-- The side effects of a confirmed frame: its SA's window, learning, its meter and its record. -/
def confirmEffects (f : Frame) (d : Dev) : Dev :=
  stampRecord f f.port true f.tb f.stamp (countMeter f
    (learn f (f.ctx.sc.n 4) (confirmPn (f.sa.getD 0) f.pn f.ctx.secy (countConfirmed f d))))

/-- Where a frame goes once it is confirmed. -/
def confirmedOn (id : Nat) (f : Frame) (d : Dev) : Dev :=
  if f.gone then dropFrame id d
  else if f.mtrDrop then dropAs 0x10D (f.slice * 8192 + f.res.meter) f d
  else if f.stage = .confirming then sendOn id d
  else resolveIssue tdDelivered id d

theorem FrameSide.confirmedOn (id : Nat) (f : Frame) (d : Dev) : FrameSide d (confirmedOn id f d) := by
  unfold Machine.confirmedOn
  split
  · exact dropFrame ..
  · split
    · exact dropAs ..
    · split
      · exact sendOn ..
      · exact resolveIssue ..

/-- The side effects leave the frames in flight, and move the window of the frame's SA alone (07 R217). -/
theorem confirmEffects_fr_sa (f : Frame) (d : Dev) : (confirmEffects f d).fr = d.fr ∧
    ∀ j, (confirmEffects f d).sa j = (confirmPn (f.sa.getD 0) f.pn f.ctx.secy d).sa j := by
  obtain ⟨c, hc⟩ := CountsOnly.countConfirmed f d
  obtain ⟨hfr1, hms1⟩ := (MacSide.learn f (f.ctx.sc.n 4) (confirmPn (f.sa.getD 0) f.pn f.ctx.secy (countConfirmed f d))).fr_msec
  obtain ⟨hfr2, hms2⟩ := (CountsOnly.countMeter f (learn f (f.ctx.sc.n 4)
    (confirmPn (f.sa.getD 0) f.pn f.ctx.secy (countConfirmed f d)))).fr_msec
  obtain ⟨hfr3, hms3⟩ := (HostSide.stampRecord f f.port true f.tb f.stamp (countMeter f (learn f (f.ctx.sc.n 4)
    (confirmPn (f.sa.getD 0) f.pn f.ctx.secy (countConfirmed f d))))).fr_msec
  refine ⟨(hfr3.trans (hfr2.trans hfr1)).trans (by rw [hc]; rfl), fun j => ?_⟩
  have hms : (confirmEffects f d).msec = _ := hms3.trans (hms2.trans hms1)
  simp only [Dev.sa, hms]
  rw [hc]
  rfl

section Confirm

variable {id : Nat} {f : Frame} {d : Dev}

/-- A receive frame of the cipher stage whose verdict is to come, and which has come so far that it can be given. -/
structure Frame.AwaitsVerdict (f : Frame) : Prop where
  rx : f.rx = true
  protect : f.protect = true
  noVerdict : f.verdict = none
  ready : f.stage = .confirming ∨ f.stage = .sending

theorem rxConfirmation_confirms (hf : d.frame id = some f) (ha : f.AwaitsVerdict)
    (hc : failureOf f (f.sa.getD 0) f.ctx.secy d = none) :
    let g := { f with verdict := some true, ended := true, debit := none }
    rxConfirmation id d = confirmedOn id g (trimCharge id (setFrame g (confirmEffects f d))) := by
  rcases ha.ready with hs | hs <;>
    simp [rxConfirmation, hf, ha.rx, ha.protect, ha.noVerdict, hs, hc, confirmedOn, confirmEffects, countConfirmed]

theorem rxConfirmation_fails (hf : d.frame id = some f) (ha : f.AwaitsVerdict) {c : Option (Nat × Nat)}
    (hc : failureOf f (f.sa.getD 0) f.ctx.secy d = some c) :
    rxConfirmation id d = failFrame tdAuth id (countFailure f c d) := by
  rcases ha.ready with hs | hs <;> simp [rxConfirmation, hf, ha.rx, ha.protect, ha.noVerdict, hs, hc]

/-- A failed frame whose SA's counters agree is counted and gives its debit back: no SA changes. -/
theorem countFailure_eq (f : Frame) (c : Option (Nat × Nat)) (d : Dev) (hok : (d.sa (f.sa.getD 0)).rxOk = true) :
    CountsOnly (returnDebit f d) (countFailure f c d) := by
  unfold countFailure
  simp only [hok, Bool.not_true, Bool.and_false, Bool.false_eq_true, if_false]
  refine (CountsOnly.progEvent 0x041 f.slice f.port 1 _).trans ?_
  split
  · exact .bump ..
  · exact .refl _

end Confirm

/-- A frame that is confirmed moves its SA's window, and one that is being sent goes on with its verdict. -/
theorem rxConfirmation_passes {id : Nat} {f : Frame} {s : State} (hf : s.dev.frame id = some f) (hid : f.id = id)
    (ha : f.AwaitsVerdict) (hc : failureOf f (f.sa.getD 0) f.ctx.secy s.dev = none) (hm : f.mtrDrop = false) :
    ∃ t, exec (.rxConfirmation id) s = .next t ∧
      t.dev.sa (f.sa.getD 0) = (confirmPn (f.sa.getD 0) f.pn f.ctx.secy s.dev).sa (f.sa.getD 0) ∧
      (f.stage = .sending → f.gone = false →
        ∃ g, t.dev.frame id = some g ∧ g.verdict = some true ∧ g.stage = .sending ∧ g.ended = true) := by
  obtain ⟨-, hsa⟩ := confirmEffects_fr_sa f s.dev
  refine ⟨_, exec_rxConfirmation id s, ?_⟩
  rw [State.onDev_dev, rxConfirmation_confirms hf ha hc]
  refine ⟨?_, fun hs hg => ?_⟩
  · exact ((((FrameSide.setFrame _ _).trans (.trimCharge id _)).trans (.confirmedOn id _ _)).sa _).trans (hsa _)
  · obtain ⟨c, hcharge⟩ := trimCharge_frame (id := id)
      (d := setFrame { f with verdict := some true, ended := true, debit := none } (confirmEffects f s.dev))
      ((setFrame_frame _ _ _).trans (if_pos hid)) hid
    obtain ⟨o, ho⟩ := resolveIssue_frame hcharge hid tdDelivered
    have hon : ∀ e, confirmedOn id { f with verdict := some true, ended := true, debit := none } e = resolveIssue tdDelivered id e :=
      fun e => by simp [confirmedOn, hg, hm, hs]
    exact ⟨_, (congrArg (Dev.frame · id) (hon _)).trans ho, rfl, hs, rfl⟩

/-- A frame that fails leaves its SA; it is dropped, or ends with an inverted FCS where it is being sent. -/
theorem rxConfirmation_rejects {id : Nat} {f : Frame} {s : State} (hf : s.dev.frame id = some f) (hid : f.id = id)
    (ha : f.AwaitsVerdict) {c : Option (Nat × Nat)} (hc : failureOf f (f.sa.getD 0) f.ctx.secy s.dev = some c)
    (hok : (s.dev.sa (f.sa.getD 0)).rxOk = true) :
    ∃ t, exec (.rxConfirmation id) s = .next t ∧ t.dev.sa (f.sa.getD 0) = s.dev.sa (f.sa.getD 0) ∧
      (f.stage = .confirming → t.dev.frame id = none) ∧
      (f.stage = .sending → ∃ g, t.dev.frame id = some g ∧ g.verdict = some false ∧ g.stomp = true) := by
  have hcount := countFailure_eq f c s.dev hok
  obtain ⟨b, hb⟩ := returnDebit_frame hf hid
  have hb : (countFailure f c s.dev).frame id = some { f with debit := b } :=
    (congrArg (fun r : FrameSt => r.frames.find id) hcount.fr_msec.1).trans hb
  refine ⟨_, exec_rxConfirmation id s, ?_⟩
  rw [State.onDev_dev, rxConfirmation_fails hf ha hc]
  refine ⟨?_, fun hs => failFrame_dropped hb (by simp [hs]) tdAuth, fun hs => failFrame_sending hb hid hs tdAuth⟩
  exact (((FrameSide.returnDebit f s.dev).trans (.counts hcount)).trans (.failFrame tdAuth id _)).sa _

/-- Settles O46: the cipher stage's entry and exit, the end of a frame and its confirmation, each by what the row finds. -/
theorem cipherRows : Obligations.CipherRows := by
  intro s id f hf hid
  refine ⟨fun hs hn => does_of_eq (exec_cipherStageEntry id s) (cipherStageEntry_unkeyed hf hs hn),
    fun n hs hn hm hh => does_of_eq (exec_cipherStageEntry id s) (cipherStageEntry_gone hf hs hn hm hh),
    fun n hs hn hk hp => ?_, fun n hs hn hk hp => ?_, fun n hs hn => ?_, fun he hl hs => ?_, fun he hl hp hs => ?_,
    fun he hl hr hs => ?_, fun he => ?_, fun hr hp hv hs => ?_⟩
  · obtain ⟨-, hseal, hopen⟩ := cipherStageEntry_keyed hf hs hn hk
    refine ⟨fun hr => does_of_eq (exec_cipherStageEntry id s) (hseal hp hr), fun g hr hg => ?_⟩
    exact ⟨fun hx => does_of_eq (exec_cipherStageEntry id s) ((hopen g hp hr hg).1 hx),
      fun x hx => does_of_eq (exec_cipherStageEntry id s) ((hopen g hp hr hg).2 x hx)⟩
  · exact does_of_eq (exec_cipherStageEntry id s) ((cipherStageEntry_keyed hf hs hn hk).1 hp)
  · have hout := cipherStageExit_released hf hs hn
    refine ⟨fun hr => does_of_eq (exec_cipherStageExit id s) (hout.trans (if_neg (by simp [hr]))), fun hr hst => ?_⟩
    exact does_of_eq (exec_cipherStageExit id s) (hout.trans ((if_pos hr).trans (if_neg (by simp [hst]))))
  · exact does_of_eq (exec_frameEndArrival id s) (frameEndArrival_waiting hf he hl hs)
  · exact does_of_eq (exec_frameEndArrival id s) (frameEndArrival_protected hf he hl hp hs)
  · exact does_of_eq (exec_frameEndArrival id s) (frameEndArrival_late hf he hl hr hs)
  · exact idles_of_eq (exec_frameEndArrival id s) (frameEndArrival_ended hf he)
  · have ha : f.AwaitsVerdict := ⟨hr, hp, hv, hs⟩
    exact ⟨rxConfirmation_passes hf hid ha, fun c => rxConfirmation_rejects hf hid ha⟩

end Sys2Proof.Machine

namespace Sys2Proof.Machine

/-! ### The log grows where an event is raised -/

namespace LogGrows

theorem refl (d : Dev) : LogGrows d d := of_same rfl

theorem ite {c : Prop} [Decidable c] {d a b : Dev} (ha : LogGrows d a) (hb : LogGrows d b) : LogGrows d (if c then a else b) := by
  split
  · exact ha
  · exact hb

theorem dom (d : Dev) (i : Nat) (f : Dom → Dom) : LogGrows d (d.onDom i f) := of_same rfl
theorem bump (code inst : Nat) (d : Dev) : LogGrows d (bump code inst d) := of_same rfl

theorem structFault (dm r a c i : Nat) (d : Dev) : LogGrows d (structFault dm r a c i d) :=
  ((WritesOut.page ..).trans (WritesOut.notify ..)).grows

theorem ringPut (dm r : Nat) (e : RingEntry) (d : Dev) (tag : Nat) : LogGrows d (ringPut dm r e d tag) := by
  unfold Machine.ringPut
  dsimp only
  split
  · exact dom ..
  · split
    · exact (WritesOut.ringWriteNow ..).grows
    · exact (WritesOut.ringWriteNow ..).grows
    · exact (structFault ..).trans (dom ..)
    · exact dom ..

theorem hemSend (p ty n : Nat) (b x : Bytes) (d : Dev) : LogGrows d (hemSend p ty n b x d) := by
  unfold Machine.hemSend
  exact ite (refl d) (emit _ (d.onHem (fun h => { h with seq := h.seq + 1 })))

theorem raiseDm (e : Event) (d : Dev) : LogGrows d (raiseDm e d) := by
  unfold Machine.raiseDm
  dsimp only
  split
  · exact of_same rfl
  · refine LogGrows.trans ?_ (hemSend 1 ..)
    refine LogGrows.trans ?_ (hemSend 0 ..)
    exact of_same rfl

theorem skipEvent (dm : Nat) (d : Dev) : LogGrows d (skipEvent dm d) := ite (refl d) (dom ..)

theorem raiseNow (dm : Nat) (e : Event) (d : Dev) : LogGrows d (raiseNow dm e d) := by
  unfold Machine.raiseNow
  dsimp only
  refine ite (raiseDm ..) (ite (skipEvent ..) (ite (of_same rfl) ?_))
  exact LogGrows.trans (of_same rfl) (ringPut ..)

theorem raise (dm : Nat) (e : Event) (d : Dev) : LogGrows d (raise dm e d) := ite (of_same rfl) (raiseNow ..)

theorem raiseFrom (slice : Nat) (o : Option Nat) (e : Event) (d : Dev) : LogGrows d (raiseFrom slice o e d) :=
  ite (raise ..) (ite (of_same rfl) (of_same rfl))

theorem stampRecord (f : Frame) (p : Nat) (rx : Bool) (tb stamp : Nat) (d : Dev) : LogGrows d (stampRecord f p rx tb stamp d) := by
  unfold Machine.stampRecord
  split
  · exact refl d
  · exact ite (refl d) (LogGrows.trans (ite (bump ..) (refl d)) (raiseFrom ..))

end LogGrows

/-! ### The frame that a port is sending -/

/-- A change of a port that stops what it sends, or leaves it, leaves an idle port idle. -/
theorem onPort_idle {d : Dev} {p q : Nat} {f : Egress → Egress} (h : ∀ e, e.sending = none → (f e).sending = none)
    (hd : (d.egress p).sending = none) : ((d.onPort q f).egress p).sending = none := by
  simp only [Dev.egress, Dev.onPort, getD_modAt]
  split
  · exact h _ hd
  · exact hd

/-- A port that stops sending is idle. -/
theorem onPort_stops (d : Dev) (p : Nat) : ((d.onPort p (fun e => { e with sending := none })).egress p).sending = none := by
  simp only [Dev.egress, Dev.onPort, getD_modAt]
  split
  · rfl
  · next h =>
    have hp : d.eg.ports.length ≤ p := by simpa using h
    rw [List.getD_eq_default _ _ hp]

theorem resolveIssue_eg (code id : Nat) (d : Dev) : (resolveIssue code id d).eg = d.eg := by
  unfold resolveIssue
  split
  · rfl
  · split
    · rfl
    · exact progEvent_keeps Dev.eg (fun _ _ => rfl) _ _ _ _ _

section Release

variable {p : Nat} {d : Dev}

theorem releaseSlot_eg (f : Frame) (d : Dev) : (releaseSlot f d).eg = d.eg := by
  unfold releaseSlot
  split
  · unfold unbindSlot settleSlot
    dsimp only
    split <;> rfl
  · rfl

theorem releaseCells_idle (f : Frame) (hd : (d.egress p).sending = none) : ((releaseCells f d).egress p).sending = none := by
  unfold releaseCells
  split
  · exact onPort_idle (fun _ h => h) (onPort_idle (fun _ h => h) (onPort_idle (fun _ h => h) hd))
  · exact hd

theorem releasePlace_idle (f : Frame) (hd : (d.egress p).sending = none) : ((releasePlace f d).egress p).sending = none := by
  unfold releasePlace
  split
  case h_4 => exact onPort_idle (fun e h => by split <;> simp [h]) hd
  all_goals exact hd

theorem releaseRecord_eg (f : Frame) (d : Dev) : (releaseRecord f d).eg = d.eg := by
  unfold releaseRecord
  split
  · unfold takeFromRecord
    split <;> rfl
  · rfl

/-- A frame that is released leaves an idle port idle. -/
theorem releaseFrame_idle (f : Frame) (hd : (d.egress p).sending = none) : ((releaseFrame f d).egress p).sending = none := by
  have h : ((releaseSlot f d).egress p).sending = none := by rw [Dev.egress, releaseSlot_eg]; exact hd
  rw [releaseFrame_eq, Dev.egress, releaseRecord_eg]
  exact releasePlace_idle f (releaseCells_idle f h)

/-- A frame that is dropped leaves an idle port idle. -/
theorem dropFrame_idle (id : Nat) (hd : (d.egress p).sending = none) : ((dropFrame id d).egress p).sending = none := by
  have h : ((resolveIssue tdDrop id d).egress p).sending = none := by rw [Dev.egress, resolveIssue_eg]; exact hd
  unfold dropFrame
  dsimp only
  split
  · exact h
  · exact releaseFrame_idle _ h

end Release

/-! ### The end of a frame on the wire (07 R229) -/

/-- What is counted and recorded of a frame `f` of which the bytes `b` have left. -/
def countSent (p : Nat) (b : Bytes) (f : Frame) (d : Dev) : Dev :=
  let d := if f.charge.isSome then
      bumpBy 0x101 (p * 8 + f.res.tc) (b.length + 4) (bump 0x100 (p * 8 + f.res.tc) d)
    else d
  let d := progEvent 0x023 (p % 16 / 8) p (b.length + 4) (progEvent 0x022 (p % 16 / 8) p 1 d)
  if f.stomp then
    if 16 ≤ p then progEvent 0x042 f.slice f.port 1 (bump 0x0B0 p d) else d
  else
    let d := countPort 0x020 p b d
    stampRecord f p false (d.obj cStampPort p |>.n 0) f.depart d

theorem endSending_eq (p n : Nat) (f : Frame) (d : Dev) : endSending p n f d =
    dropFrame f.id ((countSent p (f.wireBytes.take n) f (emit (.frame p (f.wireBytes.take n) f.stomp) d)).onPort p
      (fun e => { e with sending := none })) := rfl

/-- A frame with an inverted FCS is only counted. -/
theorem countSent_stomp (p : Nat) (b : Bytes) {f : Frame} (d : Dev) (h : f.stomp = true) : CountsOnly d (countSent p b f d) := by
  unfold countSent
  simp only [h, if_true]
  refine CountsOnly.trans ?_ (.ite ((CountsOnly.bump ..).trans (.progEvent ..)) (.refl _))
  refine CountsOnly.trans ?_ ((CountsOnly.progEvent ..).trans (.progEvent ..))
  exact .ite ((CountsOnly.bump ..).trans (.bumpBy ..)) (.refl d)

theorem CountsOnly.logGrows {d e : Dev} (h : CountsOnly d e) : LogGrows d e := by
  obtain ⟨c, rfl⟩ := h
  exact .of_same rfl

theorem countSent_logGrows (p : Nat) (b : Bytes) (f : Frame) (d : Dev) : LogGrows d (countSent p b f d) := by
  by_cases hs : f.stomp = true
  · exact (countSent_stomp p b d hs).logGrows
  · unfold countSent
    simp only [hs, Bool.false_eq_true, if_false]
    refine LogGrows.trans ?_ (.stampRecord ..)
    refine LogGrows.trans ?_ (((CountsOnly.progEvent ..).trans (.progEvent ..)).trans (.countPort ..)).logGrows
    exact .ite (.of_same rfl) (.refl d)

/-- A frame that ends has left with the bytes sent, its port is idle, and it is no longer in flight. -/
theorem endSending_sent (p n : Nat) (f : Frame) (d : Dev) :
    (∃ later, (endSending p n f d).wire = later ++ .frame p (f.wireBytes.take n) f.stomp :: d.wire) ∧
    ((endSending p n f d).egress p).sending = none ∧ (endSending p n f d).frame f.id = none := by
  rw [endSending_eq]
  refine ⟨?_, dropFrame_idle f.id (onPort_stops _ p), dropFrame_frame f.id _⟩
  obtain ⟨l, hl⟩ := countSent_logGrows p (f.wireBytes.take n) f (emit (.frame p (f.wireBytes.take n) f.stomp) d)
  exact ⟨l, (FrameSide.dropFrame f.id _).wire.trans hl⟩

/-- A frame that ends with an inverted FCS is the last thing that has left. -/
theorem endSending_stomped (p n : Nat) {f : Frame} (d : Dev) (h : f.stomp = true) :
    (endSending p n f d).wire = .frame p (f.wireBytes.take n) true :: d.wire := by
  rw [endSending_eq]
  refine (FrameSide.dropFrame f.id _).wire.trans ?_
  refine (FrameSide.counts (countSent_stomp p (f.wireBytes.take n) _ h)).wire.trans ?_
  rw [h]
  rfl

/-- A frame without its verdict that ends leaves with an inverted FCS, as the last thing, and its port is idle. -/
theorem underrunEnds_sent (p n : Nat) (f : Frame) (d : Dev) :
    (underrunEnds p n f d).wire.head? = some (.frame p (f.wireBytes.take n) true) ∧
    ((underrunEnds p n f d).egress p).sending = none ∧
    ((d.sa (f.sa.getD 0)).rxOk = true → (underrunEnds p n f d).wire = .frame p (f.wireBytes.take n) true :: d.wire) := by
  have hwire := fun e => endSending_stomped p n (f := { f with stomp := true, verdict := some false, debit := none, issue := none }) e rfl
  refine ⟨by rw [underrunEnds, hwire]; rfl, (endSending_sent p n _ _).2.1, fun hok => ?_⟩
  refine (hwire _).trans (congrArg _ ?_)
  exact (((FrameSide.returnDebit f d).trans (.counts (countFailure_eq f _ d hok))).trans (.resolveIssue tdStomp f.id _)).wire

end Sys2Proof.Machine

namespace Sys2Proof.Machine

/-! ### Transmission selection (12 R360, R361) -/

/-- The eligible queues of a port that are served strictly, or by weight. -/
def Dev.eligibles (d : Dev) (p : Nat) (wfq : Bool) : List Nat :=
  ((List.range 8).filter (fun q => d.eligible p q)).filter (fun q => d.isWfq p q == wfq)

/-- The better of the best queue so far and another: the one with the lower tag, the earlier among equals. -/
def lowerTag (d : Dev) (p : Nat) (best : Option Nat) (q : Nat) : Option Nat :=
  match best with
  | none => some q
  | some b => if (d.queue p q).tag < (d.queue p b).tag then some q else some b

theorem mem_eligibles {d : Dev} {p q : Nat} {wfq : Bool} :
    q ∈ d.eligibles p wfq ↔ q < 8 ∧ d.eligible p q = true ∧ d.isWfq p q = wfq := by
  simp only [Dev.eligibles, List.mem_filter, List.mem_range, beq_iff_eq, and_assoc]

/-- The queue selected is the last strict one, or the one of lowest tag. -/
theorem selectQueue_eq (d : Dev) (p : Nat) : d.selectQueue p =
    match (d.eligibles p false).reverse with
    | q :: _ => some q
    | [] => (d.eligibles p true).foldl (lowerTag d p) none := by
  have hs : d.eligibles p false = ((List.range 8).filter (fun q => d.eligible p q)).filter (fun q => !d.isWfq p q) := by
    simp [Dev.eligibles]
  have hw : d.eligibles p true = ((List.range 8).filter (fun q => d.eligible p q)).filter (fun q => d.isWfq p q) := by
    simp [Dev.eligibles]
  rw [hs, hw]
  rfl

/-- What is kept of a list of queues, from a best one on, has the lowest tag of them all. -/
theorem foldl_lowerTag_some (d : Dev) (p : Nat) (l : List Nat) (b : Nat) : ∃ q, l.foldl (lowerTag d p) (some b) = some q ∧
    (q = b ∨ q ∈ l) ∧ ∀ r, r = b ∨ r ∈ l → (d.queue p q).tag ≤ (d.queue p r).tag := by
  induction l generalizing b with
  | nil => exact ⟨b, rfl, .inl rfl, fun r hr => by simp_all⟩
  | cons a l ih =>
    by_cases hlt : (d.queue p a).tag < (d.queue p b).tag
    · obtain ⟨q, hq, hmem, hmin⟩ := ih a
      refine ⟨q, by simpa [List.foldl, lowerTag, hlt] using hq, by simp [hmem], fun r hr => ?_⟩
      have ha := hmin a (.inl rfl)
      rcases hr with rfl | hr
      · omega
      · exact hmin r (by simpa using hr)
    · obtain ⟨q, hq, hmem, hmin⟩ := ih b
      refine ⟨q, by simpa [List.foldl, lowerTag, hlt] using hq, hmem.imp_right (List.mem_cons_of_mem a), fun r hr => ?_⟩
      have hb := hmin b (.inl rfl)
      rcases hr with rfl | hr
      · exact hb
      · rcases List.mem_cons.1 hr with rfl | hr
        · omega
        · exact hmin r (.inr hr)

theorem foldl_lowerTag {d : Dev} {p q : Nat} {l : List Nat} (h : l.foldl (lowerTag d p) none = some q) :
    q ∈ l ∧ ∀ r ∈ l, (d.queue p q).tag ≤ (d.queue p r).tag := by
  cases l with
  | nil => simp at h
  | cons a l =>
    obtain ⟨q', hq, hmem, hmin⟩ := foldl_lowerTag_some d p l a
    obtain rfl : q' = q := Option.some.inj (hq.symm.trans h)
    exact ⟨by simpa using hmem, fun r hr => hmin r (by simpa using hr)⟩

/-- The last strict queue is the highest. -/
theorem eligibles_last_le {d : Dev} {p q : Nat} {wfq : Bool} {l : List Nat} (h : (d.eligibles p wfq).reverse = q :: l) :
    ∀ r ∈ d.eligibles p wfq, r ≤ q := by
  have hsorted : (d.eligibles p wfq).reverse.Pairwise (fun a b => b < a) :=
    List.pairwise_reverse.2 ((List.pairwise_lt_range.filter _).filter _)
  rw [h, List.pairwise_cons] at hsorted
  intro r hr
  rcases List.mem_cons.1 (h ▸ List.mem_reverse.2 hr) with rfl | hr
  · exact Nat.le_refl _
  · exact (hsorted.1 r hr).le

theorem queueSelection : Claims.QueueSelection := by
  intro d p q h
  rw [selectQueue_eq] at h
  split at h
  · next a l hl =>
    obtain rfl : a = q := Option.some.inj h
    obtain ⟨hq, he, hw⟩ := mem_eligibles.1 (List.mem_reverse.1 (hl ▸ List.mem_cons_self))
    exact ⟨hq, he, fun _ r hr her hwr => eligibles_last_le hl r (mem_eligibles.2 ⟨hr, her, hwr⟩), fun hw' => by simp_all⟩
  · next hl =>
    have hnone : d.eligibles p false = [] := List.reverse_eq_nil_iff.1 hl
    obtain ⟨hmem, hmin⟩ := foldl_lowerTag h
    obtain ⟨hq, he, hw⟩ := mem_eligibles.1 hmem
    refine ⟨hq, he, fun hw' => by simp_all, fun _ r hr her => ?_⟩
    have hwr : d.isWfq p r = true := by
      by_contra hc
      have : r ∈ d.eligibles p false := mem_eligibles.2 ⟨hr, her, Bool.eq_false_iff.2 hc⟩
      simp [hnone] at this
    exact ⟨hwr, hmin r (mem_eligibles.2 ⟨hr, her, hwr⟩)⟩

/-! ### The rows of the egress -/

theorem exec_recircTimeout (id : Nat) (s : State) : exec (.recircTimeout id) s = .next (s.onDev (recircTimeout id)) := rfl

theorem exec_transmissionSelection (p : Nat) (s : State) :
    exec (.transmissionSelection p) s = .next (s.onDev (transmissionSelection p)) := rfl

theorem exec_frameTxDone (p : Nat) (s : State) : exec (.frameTxDone p) s = .next (s.onDev (frameTxDone p)) := rfl

theorem exec_egressUnderrun (p : Nat) (s : State) : exec (.egressUnderrun p) s = .next (s.onDev (egressUnderrun p)) := rfl

theorem exec_llRelease (id : Nat) (s : State) : exec (.llRelease id) s = .next (s.onDev (llReleaseFrame id)) := rfl

theorem exec_onestepLaunch (id : Nat) (s : State) : exec (.onestepLaunch id) s = .next (s.onDev (onestepLaunch id)) := rfl

theorem recircTimeout_in {id : Nat} {f : Frame} {d : Dev} (hf : d.frame id = some f) (hr : f.inRecirc = true) :
    recircTimeout id d = dropAs 0x04E f.slice f (advanceTo (f.since + 2000) d) := by
  simp only [recircTimeout, hf, hr, if_true, recircTicks]

/-- A frame of `l` bytes begins: the tags of its port and its weighted queue move on. -/
def chargeTag (p q l : Nat) (d : Dev) : Dev :=
  if d.isWfq p q then
    (d.onPort p (fun e => { e with vtime := (d.queue p q).tag })).onQueue p q
      (fun x => { x with tag := ((d.queue p q).tag + l * 65536 / max 1 ((d.qSet p q).n 1)) % 2 ^ 64 })
  else d

/-- A frame of `l` bytes begins: the shaper of its queue gives the bytes. -/
def chargeQueueShaper (p q l : Nat) (d : Dev) : Dev :=
  match d.qShaper p q with
  | some b => d.onQueue p q (fun x => { x with shaper := b.take l })
  | none => d

/-- A frame of `l` bytes begins: the shaper of its port gives the bytes. -/
def chargePortShaper (p l : Nat) (d : Dev) : Dev :=
  match d.pShaper p with
  | some b => d.onPort p (fun e => { e with shaper := b.take l })
  | none => d

theorem startFrame_eq (p q : Nat) (f : Frame) (d : Dev) : startFrame p q f d =
    let e := (chargePortShaper p (d.schedLen f) (chargeQueueShaper p q (d.schedLen f) (chargeTag p q (d.schedLen f) d))).onQueue p q
      (fun x => { x with frames := x.frames.erase f.id })
    setFrame { f with stage := .sending, launch := e.now } (e.onPort p (fun e => { e with sending := some f.id })) := by
  unfold startFrame chargePortShaper chargeQueueShaper chargeTag
  rfl

/-- The queues of a port before a selection: oversize heads are dropped, and those that have become eligible are active. -/
def readyQueues (p : Nat) (d : Dev) : Dev :=
  refreshActive p (forEach (List.range 8) (fun q d => dropOversize p q (d.queue p q).frames.length d) d)

/-- The head frame of the selected queue begins. -/
def beginSelected (p : Nat) (d : Dev) : Option Frame × Dev :=
  match d.selectQueue p with
  | none => (none, d)
  | some q =>
    match d.headOf p q with
    | none => (none, d)
    | some f => (some f, startFrame p q f d)

theorem selectFrame_eq (p : Nat) (d : Dev) : selectFrame p d = beginSelected p (readyQueues p d) := rfl

theorem CountsOnly.countUntagged (f : Frame) (d : Dev) : CountsOnly d (countUntagged f d) := ite (bump ..) (refl d)

namespace FrameSide

theorem dropOversize (p q n : Nat) (d : Dev) : FrameSide d (dropOversize p q n d) := by
  induction n generalizing d with
  | zero => exact refl d
  | succ n ih =>
    unfold Machine.dropOversize
    split
    · exact refl d
    · split
      · exact ((bump ..).trans (dropAtEgress ..)).trans (ih _)
      · exact refl d

theorem chargeTag (p q l : Nat) (d : Dev) : FrameSide d (chargeTag p q l d) := by
  unfold Machine.chargeTag
  split
  · exact (onPort ..).trans (onQueue ..)
  · exact refl d

theorem chargeQueueShaper (p q l : Nat) (d : Dev) : FrameSide d (chargeQueueShaper p q l d) := by
  unfold Machine.chargeQueueShaper
  split
  · exact onQueue ..
  · exact refl d

theorem chargePortShaper (p l : Nat) (d : Dev) : FrameSide d (chargePortShaper p l d) := by
  unfold Machine.chargePortShaper
  split
  · exact onPort ..
  · exact refl d

/-- A frame of a queue that begins changes its port, its queue and its own entry. -/
theorem startFrame (p q : Nat) (f : Frame) (d : Dev) : FrameSide d (startFrame p q f d) := by
  rw [startFrame_eq]
  exact (((chargeTag ..).trans (chargeQueueShaper ..)).trans (chargePortShaper ..)).trans
    ((onQueue ..).trans ((onPort ..).trans (setFrame ..)))

theorem readyQueues (p : Nat) (d : Dev) : FrameSide d (readyQueues p d) :=
  (forEach _ _ d fun q d => dropOversize p q _ d).trans (refreshActive p _)

theorem selectFrame (p : Nat) (d : Dev) : FrameSide d (selectFrame p d).2 := by
  rw [selectFrame_eq]
  refine (readyQueues p d).trans ?_
  rcases hq : (Machine.readyQueues p d).selectQueue p with _ | q
  · simp only [beginSelected, hq]
    exact refl _
  · rcases hf : (Machine.readyQueues p d).headOf p q with _ | f
    · simp only [beginSelected, hq, hf]
      exact refl _
    · simp only [beginSelected, hq, hf]
      exact startFrame p q f (Machine.readyQueues p d)

theorem portRate {d e : Dev} (h : FrameSide d e) (p : Nat) : e.portRate p = d.portRate p := by
  obtain ⟨_, _, _, _, _, _, _, rfl⟩ := h
  rfl

end FrameSide

section Selection

variable {p : Nat} {d : Dev}

/-- A port that can begin a frame. -/
structure Dev.ReadyToSend (d : Dev) (p : Nat) : Prop where
  eth : d.isEth p = true
  can : d.canSend p = true
  idle : (d.egress p).sending = none

theorem Dev.ReadyToSend.goes (h : d.ReadyToSend p) :
    ¬((!d.isEth p) = true ∨ (!d.canSend p) = true ∨ (d.egress p).sending.isSome = true) := by
  simp [h.eth, h.can, h.idle]

theorem transmissionSelection_none (h : d.ReadyToSend p) {e : Dev} (hs : selectFrame p d = (none, e)) :
    transmissionSelection p d = e := by
  simp only [transmissionSelection, if_neg h.goes, hs]

/-- The frame that a port begins: its launch, and the reading at which it departs. -/
theorem transmissionSelection_some (h : d.ReadyToSend p) {f : Frame} {e : Dev} (hs : selectFrame p d = (some f, e))
    (hl : d.launchHolds p f.sendLen = false) :
    let l := d.now * 800 + 8 * byteInstants (d.portRate p)
    transmissionSelection p d = (countUntagged f (onFrame f.id (fun g => { g with
      launch := l, depart := shiftPs (d.readingAt p l) (d.laneCorr p (d.txLane p) true) }) e.nextFree)).onMsec (fun m => { m with
        llEnd := m.llEnd.put p (l + f.sendLen * byteInstants (d.portRate p)) }) := by
  intro l
  have hrate : ∀ g, (countUntagged f (onFrame f.id g e.nextFree)).portRate p = d.portRate p := fun g =>
    ((FrameSide.onFrame f.id g e.nextFree).trans (.counts (.countUntagged f _))).portRate p |>.trans
      (by have := (FrameSide.selectFrame p d).portRate p; rwa [hs] at this)
  simp only [transmissionSelection, if_neg h.goes, hs, hl, Bool.false_eq_true, if_false, hrate]
  rfl

end Selection

/-! ### A frame's end on the wire (07 R229) -/

/-- A frame that was cut short frees its line from the cut on. -/
def freeFromCut (p : Nat) (f : Frame) (d e : Dev) : Dev :=
  match f.cut with
  | some t => e.onMsec (fun m => { m with llEnd := m.llEnd.put p (t * instantPerTick + 4 * byteInstants (d.portRate p)) })
  | none => e

theorem freeFromCut_keeps {β : Type} (g : Dev → β) (h : ∀ d f, g (Dev.onMsec d f) = g d) (p : Nat) (f : Frame) (d e : Dev) :
    g (freeFromCut p f d e) = g e := by
  unfold freeFromCut
  split
  · exact h _ _
  · rfl

/-- How many bytes of a frame that its port is sending leave: all, or those sent till it was cut. -/
def Dev.bytesLeft (d : Dev) (p : Nat) (f : Frame) : Nat := (f.cut.map (d.sentBytes p f)).getD f.wireBytes.length

section TxDone

variable {p : Nat} {f : Frame} {d : Dev}

theorem frameTxDone_tested (hf : (d.egress p).sending.bind d.frame = some f) (ht : (d.portLanes p).any d.txTest = true) :
    frameTxDone p d = dropAtEgress f.id (d.onPort p (fun e => { e with sending := none })) := by
  simp only [frameTxDone, hf, ht, if_true]

theorem frameTxDone_verdict (hf : (d.egress p).sending.bind d.frame = some f) (ht : (d.portLanes p).any d.txTest = false)
    (hv : f.verdict ≠ none ∨ f.rx = false ∨ f.protect = false) :
    frameTxDone p d = freeFromCut p f d (endSending p (d.bytesLeft p f) f d) := by
  have hgate : (f.rx && f.protect && f.verdict.isNone) = false := by
    rcases hv with hv | hv | hv
    · simp [Option.isNone_eq_false_iff.2 (Option.isSome_iff_ne_none.2 hv)]
    · simp [hv]
    · simp [hv]
  simp only [frameTxDone, hf, ht, hgate, Bool.false_eq_true, if_false]
  rfl

theorem frameTxDone_noVerdict (hf : (d.egress p).sending.bind d.frame = some f) (ht : (d.portLanes p).any d.txTest = false)
    (hv : f.verdict = none) (hr : f.rx = true) (hp : f.protect = true) :
    frameTxDone p d = freeFromCut p f d (underrunEnds p (d.bytesLeft p f) f d) := by
  simp only [frameTxDone, hf, ht, hv, hr, hp, Option.isNone_none, Bool.and_self, Bool.false_eq_true, if_false, if_true]
  rfl

theorem egressUnderrun_idle (hf : (d.egress p).sending.bind d.frame = some f) (h : f.verdict ≠ none ∨ f.rx = false) :
    egressUnderrun p d = d := by
  have hstop : f.verdict.isSome = true ∨ (!f.rx) = true := by
    simpa [Option.isSome_iff_ne_none] using h
  simp only [egressUnderrun, hf, if_pos hstop]

theorem egressUnderrun_ends (hf : (d.egress p).sending.bind d.frame = some f) (hv : f.verdict = none) (hr : f.rx = true) :
    egressUnderrun p d = (underrunEnds p (d.sentBytes p f d.now) f d).onMsec (fun m => { m with
      llEnd := m.llEnd.put p (d.now * instantPerTick + 4 * byteInstants (d.portRate p)) }) := by
  simp [egressUnderrun, hf, hv, hr]

end TxDone

/-- A frame that has wholly left, or was cut short, is sent with its verdict, and its port is free. -/
theorem frameTxDone_sent {p : Nat} {f : Frame} {s : State} (hf : (s.dev.egress p).sending.bind s.dev.frame = some f)
    (ht : (s.dev.portLanes p).any s.dev.txTest = false) (hv : f.verdict ≠ none ∨ f.rx = false ∨ f.protect = false) :
    ∃ t later, exec (.frameTxDone p) s = .next t ∧
      t.dev.wire = later ++ .frame p (f.wireBytes.take (s.dev.bytesLeft p f)) f.stomp :: s.dev.wire ∧
      (t.dev.egress p).sending = none ∧ t.dev.frame f.id = none := by
  obtain ⟨⟨later, hw⟩, hi, hg⟩ := endSending_sent p (s.dev.bytesLeft p f) f s.dev
  refine ⟨_, later, exec_frameTxDone p s, ?_⟩
  rw [State.onDev_dev, frameTxDone_verdict hf ht hv]
  exact ⟨(freeFromCut_keeps Dev.wire (fun _ _ => rfl) ..).trans hw,
    (freeFromCut_keeps (fun e => (e.egress p).sending) (fun _ _ => rfl) ..).trans hi,
    (freeFromCut_keeps (fun e => e.frame f.id) (fun _ _ => rfl) ..).trans hg⟩

/-- A frame without its verdict ends with an inverted FCS: at an underrun after the bytes sent so far, at its end after all. -/
theorem unconfirmed_ends {p : Nat} {f : Frame} {s : State} (hf : (s.dev.egress p).sending.bind s.dev.frame = some f)
    (hv : f.verdict = none) (hr : f.rx = true) :
    ∀ x ∈ [(Instr.egressUnderrun p, s.dev.sentBytes p f s.dev.now), (.frameTxDone p, s.dev.bytesLeft p f)],
      (x.1 = .frameTxDone p → f.protect = true ∧ (s.dev.portLanes p).any s.dev.txTest = false) → ∃ t, exec x.1 s = .next t ∧
        t.dev.wire.head? = some (.frame p (f.wireBytes.take x.2) true) ∧ (t.dev.egress p).sending = none ∧
        ((s.dev.sa (f.sa.getD 0)).rxOk = true → t.dev.wire = .frame p (f.wireBytes.take x.2) true :: s.dev.wire) := by
  intro x hx hdone
  rcases List.mem_pair.1 hx with rfl | rfl
  · refine ⟨_, exec_egressUnderrun p s, ?_⟩
    rw [State.onDev_dev, egressUnderrun_ends hf hv hr]
    exact underrunEnds_sent p _ f s.dev
  · obtain ⟨hp, ht⟩ := hdone rfl
    refine ⟨_, exec_frameTxDone p s, ?_⟩
    rw [State.onDev_dev, frameTxDone_noVerdict hf ht hv hr hp]
    have hw := freeFromCut_keeps Dev.wire (fun _ _ => rfl) p f s.dev (underrunEnds p (s.dev.bytesLeft p f) f s.dev)
    have hi := freeFromCut_keeps (fun e => (e.egress p).sending) (fun _ _ => rfl) p f s.dev
      (underrunEnds p (s.dev.bytesLeft p f) f s.dev)
    simp only [hw, hi]
    exact underrunEnds_sent p _ f s.dev

/-! ### Launches (07 R239, R242, 11 R352) -/

/-- The clock moves to a tick, or stays where it has passed it; besides the time only counters change. -/
theorem advanceTo_eq (t : Nat) (d : Dev) : ∃ c x, advanceTo t d = { d with cnt := c, time := x } ∧ x.tclk = max d.now t := by
  obtain ⟨c, hc⟩ : CountsOnly d (countTime (t - d.now) d) := .forEach _ _ _ fun _ _ => .bumpBy ..
  unfold advanceTo advance
  rw [hc]
  exact ⟨c, _, rfl, show d.time.tclk + (t - d.time.tclk) = max d.time.tclk t by omega⟩

/-- A launch from an idle port: besides the counters and the clock, its own entry, its port and its line's end change. -/
theorem startAt_eq {f : Frame} {d : Dev} (hf : d.frame f.id = some f) (hi : (d.egress f.res.egress).sending = none) :
    ∃ c x r, x.tclk = max d.now ((f.launch - 8 * byteInstants (d.portRate f.res.egress)) / 800) ∧
      startAt f d = ((setFrame { f with stage := .sending, depart := r } { d with cnt := c, time := x }).onPort f.res.egress
        (fun e => { e with sending := some f.id })).onMsec (fun m => { m with
          llEnd := m.llEnd.put f.res.egress (f.launch + f.sendLen * byteInstants (d.portRate f.res.egress)) }) := by
  obtain ⟨c, x, hadv, hx⟩ := advanceTo_eq ((f.launch - 8 * byteInstants (d.portRate f.res.egress)) / 800) d
  obtain ⟨c', hcnt⟩ := CountsOnly.countUntagged f { d with cnt := c, time := x }
  have hidle : (({ d with cnt := c, time := x } : Dev).egress f.res.egress).sending.isSome = false := by
    rw [show ({ d with cnt := c, time := x } : Dev).egress f.res.egress = d.egress f.res.egress from rfl, hi]
    rfl
  have hg : Dev.frame (({ d with cnt := c, time := x } : Dev).onCnt fun _ => c') f.id = some f := hf
  refine ⟨c', x, ({ d with cnt := c', time := x } : Dev).readingAt f.res.egress f.launch, hx, ?_⟩
  simp only [startAt, instantPerTick, hadv, hidle, hcnt, onFrame, hg, Bool.false_eq_true, if_false]
  rfl

/-- A row that starts a frame at its instant on an idle port sends it from then on. -/
theorem startAt_row {x : Instr} {run : Dev → Dev} {s : State} (hx : exec x s = .next (s.onDev run)) {id : Nat} {f : Frame} {d : Dev}
    (hrun : run s.dev = startAt f d) (hf : d.frame id = some f) (hid : f.id = id)
    (hp : f.res.egress < d.eg.ports.length) (hi : (d.egress f.res.egress).sending = none) :
    ∃ t g, exec x s = .next t ∧ (t.dev.egress f.res.egress).sending = some id ∧ t.dev.frame id = some g ∧
      g.stage = .sending ∧ g.bytes = f.bytes ∧
      t.dev.time.tclk = max d.now ((f.launch - 8 * byteInstants (d.portRate f.res.egress)) / 800) := by
  subst hid
  obtain ⟨c, x, r, htick, heq⟩ := startAt_eq hf hi
  refine ⟨_, { f with stage := .sending, depart := r }, hx, ?_⟩
  rw [State.onDev_dev, hrun, heq]
  refine ⟨?_, ?_, rfl, rfl, htick⟩
  · show ((modAt d.eg.ports _ _).getD f.res.egress {}).sending = some f.id
    rw [getD_modAt, if_pos ⟨rfl, hp⟩]
  · show (setFrame { f with stage := .sending, depart := r } { d with cnt := c, time := x }).frame f.id = _
    rw [setFrame_frame, if_pos rfl]

section Launches

variable {id : Nat} {f : Frame} {d : Dev}

theorem llReleaseFrame_closed (hf : d.frame id = some f) (hs : f.stage = .delayLine) (hc : d.canSend f.res.egress = false) :
    llReleaseFrame id d = dropAtEgress id d := by
  simp [llReleaseFrame, hf, hs, hc]

theorem llReleaseFrame_collision (hf : d.frame id = some f) (hs : f.stage = .delayLine) (hc : d.canSend f.res.egress = true)
    (h : f.launch < d.msec.llEnd.get 0 f.res.egress + 20 * byteInstants (d.portRate f.res.egress)) :
    let l := if f.res.egress < 16 then f.res.egress else f.port
    llReleaseFrame id d = noteLl l false (dropAtEgress id (bump 0x0B7 l d)) := by
  simp [llReleaseFrame, hf, hs, hc, h]

theorem llReleaseFrame_starts (hf : d.frame id = some f) (hs : f.stage = .delayLine) (hc : d.canSend f.res.egress = true)
    (h : d.msec.llEnd.get 0 f.res.egress + 20 * byteInstants (d.portRate f.res.egress) ≤ f.launch) :
    llReleaseFrame id d = startAt f d := by
  simp [llReleaseFrame, hf, hs, hc, h]

theorem onestepLaunch_lost (hf : d.frame id = some f) (hs : f.stage = .onestep) (hc : d.canSend f.res.egress = false) :
    onestepLaunch id d = dropFrame id (bump 0x0F1 f.res.egress d) := by
  simp [onestepLaunch, hf, hs, hc]

theorem onestepLaunch_starts (hf : d.frame id = some f) (hs : f.stage = .onestep) (hc : d.canSend f.res.egress = true) :
    onestepLaunch id d = startAt f (d.onTime (fun t => { t with onestep := t.onestep.erase id })) := by
  simp [onestepLaunch, hf, hs, hc]

end Launches

theorem egressRows : Claims.EgressRows := by
  intro s
  refine ⟨fun id f hf hr => does_of_eq (exec_recircTimeout id s) (recircTimeout_in hf hr), fun p he hc hi => ?_,
    fun p f hf _ => ?_, fun id f hf hid hp => ?_⟩
  · have hready : s.dev.ReadyToSend p := ⟨he, hc, hi⟩
    exact ⟨fun e hs => exec_of_eq (exec_transmissionSelection p s) (transmissionSelection_none hready hs),
      fun f e hs hl => exec_of_eq (exec_transmissionSelection p s) (transmissionSelection_some hready hs hl)⟩
  · exact ⟨fun ht => does_of_eq (exec_frameTxDone p s) (frameTxDone_tested hf ht), fun ht hv => frameTxDone_sent hf ht hv,
      fun hv hr => unconfirmed_ends hf hv hr, fun h => idles_of_eq (exec_egressUnderrun p s) (egressUnderrun_idle hf h)⟩
  · exact ⟨fun hs hc hi => startAt_row (d := s.dev.onTime (fun t => { t with onestep := t.onestep.erase id }))
        (exec_onestepLaunch id s) (onestepLaunch_starts hf hs hc) hf hid hp hi,
      fun hs hc => does_of_eq (exec_onestepLaunch id s) (onestepLaunch_lost hf hs hc),
      fun hs hc => does_of_eq (exec_llRelease id s) (llReleaseFrame_closed hf hs hc),
      fun hs hc h => does_of_eq (exec_llRelease id s) (llReleaseFrame_collision hf hs hc h),
      fun hs hc h hi => startAt_row (exec_llRelease id s) (llReleaseFrame_starts hf hs hc h) hf hid hp hi⟩

/-- Settles O47: each row of the egress by what it runs in the case at hand, and the selection by the sorted lists of eligible queues. -/
theorem framesOut : Obligations.FramesOut := ⟨egressRows, queueSelection⟩

end Sys2Proof.Machine

namespace Sys2Proof.Machine

/-! ### Commands whose checks are a list (14 R434) -/

/-- A command whose checks are all passed completes with what its body answers. -/
theorem runs_of_checks {i : Instr} {checks : Dev → Cmd → List (Bool × Nat)} {go : Cmd → Dev → Answer} {need : Dev → Cmd → Prop}
    {r : Dev → Cmd → Reply} {f : Cmd → Dev → Dev} (h : ∀ d c, effectOf i c d = checked (checks d c) d (go c))
    (hp : ∀ d c, need d c → Passes (checks d c)) (hg : ∀ d c, need d c → go c d = (f c d, some (r d c)) ∧ (r d c).outs = []) :
    Runs i need r f :=
  runs_plain _ _ _ _ fun d c hn => ⟨(h d c).trans ((checked_passes _ d _ (hp d c hn)).trans (hg d c hn).1), (hg d c hn).2⟩

/-! ### Staging sets and commits (02 R50 to R55, R561, 19 R551) -/

theorem stageDiscard_checks (h : Hdr) (o : StageOps) (d : Dev) (c : Cmd) :
    effectOf (.stageDiscard h o) c d = checked [(!noOperands o, eRange), (d.frozenSet c.dom, eBusy)] d
      (fun d => answer {} (setStaging c.dom (fun _ => []) d)) := rfl

theorem discardStaged : Claims.DiscardStaged := by
  intro h o
  have hchecks := stageDiscard_checks h o
  refine ⟨?_, ?_, ?_⟩
  · refine runs_of_checks hchecks (fun d c hn => ?_) fun d c _ => ⟨rfl, rfl⟩
    obtain ⟨hops, hfree⟩ := hn
    simp [hops, hfree]
  · refine runs_plain _ _ _ _ fun d c hn => ⟨(hchecks d c).trans (checked_fails _ d _ eBusy ?_), rfl⟩
    obtain ⟨hops, hfrozen⟩ := hn
    simp [firstFail, hops, hfrozen]
  · refine runs_plain _ _ _ _ fun d c hn => ⟨(hchecks d c).trans (checked_fails _ d _ eRange ?_), rfl⟩
    simp [firstFail, hn]

/-- CHECK changes nothing, and answers the rule that fails first or the words that a copy writes. -/
theorem check_runs (h : Hdr) : Runs (.check h) (fun _ _ => True)
    (fun d c => (d.checkFail c.dom).getD
      { result := leBytes (d.copyWords (affected (d.changesOf c.dom)) (d.armedBut [c.dom] ++ [d.changesOf c.dom])).1 2 ++
          leBytes (d.copyWords (affected (d.changesOf c.dom)) (d.armedBut [c.dom] ++ [d.changesOf c.dom])).2 2 })
    (fun _ d => d) := by
  refine runs_plain _ _ _ _ fun d c _ => ?_
  show checkBody c d = _ ∧ _
  unfold checkBody
  cases hv : d.checkFail c.dom with
  | none => exact ⟨rfl, rfl⟩
  | some r =>
    obtain ⟨v, -, rfl⟩ := Option.map_eq_some_iff.1 hv
    exact ⟨rfl, rfl⟩

theorem armBody_fails {c : Cmd} {target : Nat} {asap : Bool} {v : Option Reply} {d : Dev} {e : Nat}
    (h : firstFail (armFails d c.dom target asap) = some e) : armBody c target asap v d = (d, some (fail e)) := by
  unfold armBody
  exact checked_fails _ d _ e h

theorem armBody_copies {c : Cmd} {target : Nat} {asap : Bool} {d : Dev} (hp : Passes (armFails d c.dom target asap))
    (hb : asap = true ∨ d.baseTooLate (d.changesOf c.dom) target = false) :
    armBody c target asap none d = armCopy c target asap d := by
  have hgoes : ¬((!asap) = true ∧ d.baseTooLate (d.changesOf c.dom) target = true) := by
    rcases hb with hb | hb <;> simp [hb]
  unfold armBody
  simp only [checked_passes _ d _ hp, if_neg hgoes]

theorem effectOf_armCommit (h : Hdr) (target : Nat) (asap : Bool) (c : Cmd) (d : Dev) :
    effectOf (.armCommit h target asap) c d = armBody c target asap (d.checkFail c.dom) d := rfl

theorem armCommit_begins (h : Hdr) (target : Nat) (asap : Bool) : Begins (.armCommit h target asap)
    (fun d c => Passes (armFails d c.dom target asap) ∧ d.checkFail c.dom = none ∧
      (asap = true ∨ d.baseTooLate (d.changesOf c.dom) target = false) ∧ d.copyLate c target asap = false)
    (fun c d => d.onDomCfg c.dom (fun x => { x with copying := some (d.copyOf c target asap) })) := by
  refine begins_of _ _ _ fun d c hn => ?_
  obtain ⟨hpass, hverdict, hbase, hlate⟩ := hn
  rw [effectOf_armCommit, hverdict, armBody_copies hpass hbase, armCopy, if_neg (by simp [hlate])]

theorem armCommit_fails (h : Hdr) (target : Nat) (asap : Bool) (e : Nat) :
    Fails (.armCommit h target asap) (fun d c => firstFail (armFails d c.dom target asap) = some e) e :=
  runs_plain _ _ _ _ fun d c hn => ⟨(effectOf_armCommit h target asap c d).trans (armBody_fails hn), rfl⟩

/-! A CANCEL_COMMIT under a copy in progress waits for it; else the armed commit decides. -/

theorem effectOf_cancelCommit (h : Hdr) (c : Cmd) (d : Dev) : effectOf (.cancelCommit h) c d = cancelBody c d := rfl

theorem cancelBody_armed {c : Cmd} {d : Dev} (h : (d.domCfg c.dom).copying = none) : cancelBody c d = cancelNow c d := by
  simp only [cancelBody, h]

theorem cancelCommit_waits (h : Hdr) (y : Copying) : Begins (.cancelCommit h) (fun d c => (d.domCfg c.dom).copying = some y)
    (fun c d => d.onDomCfg c.dom (fun x => { x with copying := some { y with cancels := y.cancels ++ [c] } })) :=
  begins_of _ _ _ fun d c hn => by simp only [effectOf_cancelCommit, cancelBody, hn]

theorem cancelCommit_disarms (h : Hdr) : Runs (.cancelCommit h)
    (fun d c => (d.domCfg c.dom).copying = none ∧
      ∃ f, (d.domCfg c.dom).armed = some f ∧ d.fret.index + 2 ≤ f ∧ d.sharers c.dom f = [])
    (fun _ _ => {}) (fun c => disarm c.dom) := by
  refine runs_plain _ _ _ _ fun d c hn => ⟨?_, rfl⟩
  obtain ⟨hcopy, f, harmed, hearly, halone⟩ := hn
  simp only [effectOf_cancelCommit, cancelBody_armed hcopy, cancelNow, harmed, halone, if_neg (Nat.not_lt.2 hearly), if_true]

theorem cancelCommit_late (h : Hdr) : Fails (.cancelCommit h)
    (fun d c => (d.domCfg c.dom).copying = none ∧ ∃ f, (d.domCfg c.dom).armed = some f ∧ f < d.fret.index + 2) eLate := by
  refine runs_plain _ _ _ _ fun d c hn => ⟨?_, rfl⟩
  obtain ⟨hcopy, f, harmed, hlate⟩ := hn
  simp only [effectOf_cancelCommit, cancelBody_armed hcopy, cancelNow, harmed, if_pos hlate]

theorem cancelCommit_unarmed (h : Hdr) : Fails (.cancelCommit h)
    (fun d c => (d.domCfg c.dom).copying = none ∧ (d.domCfg c.dom).armed = none) eState := by
  refine runs_plain _ _ _ _ fun d c hn => ⟨?_, rfl⟩
  obtain ⟨hcopy, harmed⟩ := hn
  simp only [effectOf_cancelCommit, cancelBody_armed hcopy, cancelNow, harmed]

theorem standingSave_begins (h : Hdr) : Begins (.standingSave h) (fun d c => Passes (standFails d c.dom d.saveSet.size))
    (fun c d => askLeave (.mram 8 0) (d.onCfg (fun k => { k with saves := k.saves ++ [(c, some d.saveSet)] }))) :=
  begins_of _ _ _ fun d c hn => by
    show standingSaveBody c d = _
    unfold standingSaveBody
    exact checked_passes _ d _ hn

theorem standingClear_begins (h : Hdr) : Begins (.standingClear h) (fun d c => Passes (standFails d c.dom 0))
    (fun c d => askLeave (.mram 8 0) (d.onCfg (fun k => { k with saves := k.saves ++ [(c, none)] }))) :=
  begins_of _ _ _ fun d c hn => by
    show standingClearBody c d = _
    unfold standingClearBody
    exact checked_passes _ d _ hn

theorem commitRows : Claims.CommitRows := fun h target asap =>
  ⟨check_runs h, armCommit_begins h target asap, armCommit_fails h target asap, cancelCommit_waits h, cancelCommit_disarms h,
    cancelCommit_late h, cancelCommit_unarmed h, standingSave_begins h, standingClear_begins h⟩

/-- Settles O15: each command by its checks in their order, and by what its body does where they are passed. -/
theorem commitCommands : Obligations.CommitCommands := ⟨discardStaged, commitRows⟩

/-! ### The table commands (02 R43, 06 R183, R190 to R193) -/

theorem tblInsert_begins (h : Hdr) (service fid mac peer port : Nat) (isStatic : Bool) :
    Begins (.tblInsert h service fid mac peer port isStatic)
      (fun d c => macKeyOk service fid mac = true ∧ peer < 16384 ∧ port < 32 ∧ d.ownsService c.dom service = true ∧
        quotaPort (d.quota c.dom) port = true)
      (fun c => queueWrite (.macInsert (some c) service fid mac peer port isStatic)) := by
  refine begins_of _ _ _ fun d c hn => ?_
  obtain ⟨hkey, hpeer, hport, howns, hquota⟩ := hn
  show tblInsertBody c service fid mac peer port isStatic d = _
  have hrange : ¬((!macKeyOk service fid mac) = true ∨ 16384 ≤ peer ∨ 32 ≤ port) := by simp [hkey]; omega
  rw [tblInsertBody, if_neg hrange, if_neg (by simp [howns, hquota])]

theorem tblInsert_denied (h : Hdr) (service fid mac peer port : Nat) (isStatic : Bool) :
    Fails (.tblInsert h service fid mac peer port isStatic)
      (fun d c => macKeyOk service fid mac = true ∧ peer < 16384 ∧ port < 32 ∧
        (d.ownsService c.dom service = false ∨ quotaPort (d.quota c.dom) port = false)) ePerm := by
  refine runs_plain _ _ _ _ fun d c hn => ⟨?_, rfl⟩
  obtain ⟨hkey, hpeer, hport, hdenied⟩ := hn
  show tblInsertBody c service fid mac peer port isStatic d = _
  have hrange : ¬((!macKeyOk service fid mac) = true ∨ 16384 ≤ peer ∨ 32 ≤ port) := by simp [hkey]; omega
  rw [tblInsertBody, if_neg hrange, if_pos (by rcases hdenied with hd | hd <;> simp [hd])]

theorem tblDelete_begins (h : Hdr) (service fid mac : Nat) : Begins (.tblDelete h service fid mac)
    (fun d c => macKeyOk service fid mac = true ∧ d.ownsService c.dom service = true)
    (fun c => queueWrite (.macDelete c service fid mac)) := by
  refine begins_of _ _ _ fun d c hn => ?_
  obtain ⟨hkey, howns⟩ := hn
  show tblDeleteBody c service fid mac d = _
  rw [tblDeleteBody, if_neg (by simp [hkey]), if_neg (by simp [howns])]

theorem tblSearch_runs (h : Hdr) (service fid mac : Nat) : Runs (.tblSearch h (.mac service fid mac))
    (fun d c => macKeyOk service fid mac = true ∧ d.ownsService c.dom service = true)
    (fun d _ => match ((scanAdvance d).rep 0).find { service := service, fid := fid, mac := mac } with
      | none => {}
      | some (pos, e) => { flags := flagFound, result := macImage e (((scanAdvance d).rep 0).hits.contains pos) })
    (fun _ => scanAdvance) := by
  refine runs_plain _ _ _ _ fun d c hn => ?_
  obtain ⟨hkey, howns⟩ := hn
  show tblSearchBody c (.mac service fid mac) d = _ ∧ _
  simp only [tblSearchBody, if_neg (show ¬((!macKeyOk service fid mac) = true) by simp [hkey]),
    if_neg (show ¬((!d.ownsService c.dom service) = true) by simp [howns])]
  rcases ((scanAdvance d).rep 0).find { service := service, fid := fid, mac := mac } with _ | ⟨pos, e⟩ <;> exact ⟨rfl, rfl⟩

theorem tblSearch_lpm (h : Hdr) (service family addr : Nat) : Runs (.tblSearch h (.lpm service family addr))
    (fun d c => service < 1024 ∧ family < 2 ∧ d.ownsService c.dom service = true)
    (fun d _ => match lpmLookup (d.table cLpm) service family addr with
      | (none, n) => { detail := n }
      | (some o, n) => { flags := flagFound, detail := o.n 2 * 256 + n, value := o.n 4, result := beBytes (o.n 3) 16 })
    (fun _ d => d) := by
  refine runs_plain _ _ _ _ fun d c hn => ?_
  obtain ⟨hservice, hfamily, howns⟩ := hn
  show tblSearchBody c (.lpm service family addr) d = _ ∧ _
  simp only [tblSearchBody, if_neg (show ¬(1024 ≤ service ∨ 2 ≤ family) by omega),
    if_neg (show ¬((!d.ownsService c.dom service) = true) by simp [howns])]
  rcases lpmLookup (d.table cLpm) service family addr with ⟨_ | o, n⟩ <;> exact ⟨rfl, rfl⟩

theorem tblSearch_channel (h : Hdr) (index : Nat) : Runs (.tblSearch h (.channel index))
    (fun d c => index < 4096 ∧ quotaChannel (d.quota c.dom) index = true)
    (fun d _ => if (d.obj cChannel index).b 0 then
        { flags := flagFound, result := padTo 16 (writeImage cChannel (d.obj cChannel index)) } else {}) (fun _ d => d) := by
  refine runs_plain _ _ _ _ fun d c hn => ?_
  obtain ⟨hindex, howns⟩ := hn
  show tblSearchBody c (.channel index) d = _ ∧ _
  simp only [tblSearchBody, if_neg (Nat.not_le.2 hindex),
    if_neg (show ¬((!quotaChannel (d.quota c.dom) index) = true) by simp [howns])]
  cases (d.obj cChannel index).b 0 <;> exact ⟨rfl, rfl⟩

theorem macImage_length (e : MacEntry) (hit : Bool) : (macImage e hit).length = 16 := by
  simp [macImage]

/-- A walk answers at most 64 entries, which a frame of the management channel holds (06 R192, 14 R438). -/
theorem nextReply_small (o : NextOps) (d : Dev) (dom : Nat) :
    ((nextReply o d dom).outs.map (fun o => o.2.length)).sum ≤ 1024 := by
  unfold nextReply
  dsimp only
  generalize hgot : List.take 64 _ = got
  have hlen : got.length ≤ 64 := by rw [← hgot]; exact List.length_take_le ..
  split
  · simp
  · simp only [List.map_cons, List.map_nil, List.sum_cons, List.sum_nil]
    rw [flatten_map_length_const got _ 16 fun e _ => macImage_length _ _]
    omega

theorem tblNext_runs (h : Hdr) (o : NextOps) : Runs (.tblNext h o)
    (fun d c => o.cursor ≤ lastPosition ∧ 1 ≤ o.select ∧ o.select ≤ 3 ∧ (o.allPorts = true ∨ o.port < 32) ∧
      (o.allServices = true ∨ (o.service < 1024 ∧ d.ownsService c.dom o.service = true)) ∧
      (o.allPorts = true ∨ quotaPort (d.quota c.dom) o.port = true))
    (fun d c => nextReply o (scanAdvance d) c.dom) (fun _ => scanAdvance) := by
  refine runs_read _ _ _ _ rfl fun d c hn => ⟨?_, nextReply_small ..⟩
  obtain ⟨hcursor, hlow, hhigh, hport, hservice, hquota⟩ := hn
  show tblNextBody c o d = _
  have hrange : ¬(lastPosition < o.cursor ∨ o.select = 0 ∨ 3 < o.select ∨ ((!o.allServices) = true ∧ 1024 ≤ o.service) ∨
      ((!o.allPorts) = true ∧ 32 ≤ o.port)) := by
    rintro (hc | hc | hc | ⟨hall, hc⟩ | ⟨hall, hc⟩)
    · omega
    · omega
    · omega
    · rcases hservice with hs | ⟨hs, -⟩
      · simp [hs] at hall
      · omega
    · rcases hport with hs | hs
      · simp [hs] at hall
      · omega
  have hperm : ¬(((!o.allServices && !d.ownsService c.dom o.service) || (!o.allPorts && !quotaPort (d.quota c.dom) o.port)) = true) := by
    rcases hservice with hs | ⟨-, hs⟩ <;> rcases hquota with hq | hq <;> simp [hs, hq]
  rw [tblNextBody, if_neg hrange, if_neg hperm]

theorem tblFlushPort_begins (h : Hdr) (port : Nat) (statics : Bool) : Begins (.tblFlushPort h port statics)
    (fun d c => port < 32 ∧ quotaPort (d.quota c.dom) port = true)
    (fun c d => askLeave .flushScan (d.onMac (fun m => { m with
      flushes := m.flushes ++ [{ cmd := c, port := port, statics := statics }] }))) := by
  refine begins_of _ _ _ fun d c hn => ?_
  obtain ⟨hport, hquota⟩ := hn
  show tblFlushPortBody c port statics d = _
  rw [tblFlushPortBody, if_neg (Nat.not_le.2 hport), if_neg (by simp [hquota])]

/-- Settles O16: each command by the checks that it passes or fails, and by what its body then does. -/
theorem tableCommands : Obligations.TableCommands := fun h service fid mac peer port isStatic =>
  ⟨tblInsert_begins h service fid mac peer port isStatic, tblDelete_begins h service fid mac,
    tblInsert_denied h service fid mac peer port isStatic, tblSearch_runs h service fid mac, tblSearch_lpm h service,
    tblSearch_channel h, tblNext_runs h, tblFlushPort_begins h port isStatic⟩

/-! ### Security associations, and the epochs of a Smivia group (07 R218, 08 R260 to R262) -/

theorem saBody_queues {c : Cmd} {sa : Nat} {w : QueuedWrite} {d : Dev} (h : saChecks c sa d = none) :
    saBody c sa w d = (queueWrite w d, none) := by
  simp only [saBody, h]

theorem saBody_fails {c : Cmd} {sa : Nat} {w : QueuedWrite} {d : Dev} {e : Nat} (h : saChecks c sa d = some e) :
    saBody c sa w d = (d, some (fail e)) := by
  simp only [saBody, h, answer]

theorem saRecord_length (d : Dev) (i : Nat) : (saRecord d i).length = 128 := by
  unfold saRecord
  exact padTo_length ..

theorem saRead_runs (h : Hdr) (sa iova : Nat) : Runs (.saRead h sa iova) (fun d c => saChecks c sa d = none)
    (fun d _ => { outs := [(iova, saRecord d sa)] }) (fun _ d => d) := by
  refine runs_small _ _ _ _ fun d c hn => ⟨?_, by simp [saRecord_length]⟩
  show saReadBody c sa iova d = _
  simp only [saReadBody, hn]

theorem saQueue : Claims.SaQueue := fun h sa _ _ iova =>
  ⟨begins_of _ _ _ fun _ _ hn => saBody_queues hn, begins_of _ _ _ fun _ _ hn => saBody_queues hn,
    begins_of _ _ _ fun _ _ hn => saBody_queues hn, begins_of _ _ _ fun _ _ hn => saBody_queues hn, saRead_runs h sa iova,
    fun _ => runs_plain _ _ _ _ fun _ _ hn => ⟨saBody_fails hn, rfl⟩⟩

theorem saSmvArm_arms (h : Hdr) (slice epoch tx rx target : Nat) : Runs (.saSmvArm h slice epoch tx rx target)
    (fun d c => Passes (groupFails d c.dom slice) ∧
      (d.group slice).armed ≠ some (epoch, tx, rx, target) ∧ Passes (smvArmFails d c.dom slice epoch tx rx target))
    (fun _ _ => {})
    (fun c d => (setRx slice (epoch % 2) { epoch := epoch, slot := d.smvSlot c.dom rx 2 } d).onGroup slice (fun g => { g with
      nextEpoch := epoch, nextSlot := d.smvSlot c.dom tx 1, armed := some (epoch, tx, rx, target),
      releaseRx := if g.releaseRx = some (epoch % 2) then none else g.releaseRx })) := by
  refine runs_plain _ _ _ _ fun d c hn => ⟨?_, rfl⟩
  obtain ⟨hgroup, hnew, harm⟩ := hn
  show smvArmBody c slice epoch tx rx target d = _
  unfold smvArmBody
  rw [checked_passes _ _ _ hgroup]
  dsimp only
  rw [if_neg hnew, checked_passes _ _ _ harm]
  rfl

theorem saSmvArm_repeats (h : Hdr) (slice epoch tx rx target : Nat) : Runs (.saSmvArm h slice epoch tx rx target)
    (fun d c => Passes (groupFails d c.dom slice) ∧ (d.group slice).armed = some (epoch, tx, rx, target))
    (fun _ _ => {}) (fun _ d => d) := by
  refine runs_plain _ _ _ _ fun d c hn => ⟨?_, rfl⟩
  obtain ⟨hgroup, hsame⟩ := hn
  show smvArmBody c slice epoch tx rx target d = _
  unfold smvArmBody
  rw [checked_passes _ _ _ hgroup]
  exact if_pos hsame

theorem saSmvCancel_disarms (h : Hdr) (slice : Nat) : Runs (.saSmvCancel h slice)
    (fun d c => Passes (groupFails d c.dom slice) ∧ ∃ x, (d.group slice).armed = some x ∧ d.fret.index + 1 < x.2.2.2)
    (fun _ _ => {}) (fun _ => disarmSwitch slice) := by
  refine runs_plain _ _ _ _ fun d c hn => ⟨?_, rfl⟩
  obtain ⟨hgroup, x, harmed, hearly⟩ := hn
  show smvCancelBody c slice d = _
  unfold smvCancelBody
  rw [checked_passes _ _ _ hgroup]
  simp only [harmed, if_neg (Nat.not_le.2 hearly)]

theorem saSmvCancel_late (h : Hdr) (slice : Nat) : Fails (.saSmvCancel h slice)
    (fun d c => Passes (groupFails d c.dom slice) ∧ ∃ x, (d.group slice).armed = some x ∧ x.2.2.2 ≤ d.fret.index + 1) eLate := by
  refine runs_plain _ _ _ _ fun d c hn => ⟨?_, rfl⟩
  obtain ⟨hgroup, x, harmed, hlate⟩ := hn
  show smvCancelBody c slice d = _
  unfold smvCancelBody
  rw [checked_passes _ _ _ hgroup]
  simp only [harmed, if_pos hlate, answer]

theorem smvRecord_length (g : Group) : (smvRecord g).length = 128 := by
  unfold smvRecord
  exact padTo_length ..

theorem saSmvRead_runs (h : Hdr) (slice iova : Nat) : Runs (.saSmvRead h slice iova)
    (fun d c => Passes (groupFails d c.dom slice)) (fun d _ => { outs := [(iova, smvRecord (d.group slice))] }) (fun _ d => d) := by
  refine runs_small _ _ _ _ fun d c hn => ⟨?_, by simp [smvRecord_length]⟩
  show smvReadBody c slice iova d = _
  unfold smvReadBody
  exact checked_passes _ _ _ hn

theorem saSmvStop_stops (h : Hdr) (slice : Nat) : Runs (.saSmvStop h slice)
    (fun d c => Passes (groupFails d c.dom slice) ∧ (d.group slice).stopDue = false ∧
      ((d.group slice).txEpoch ≠ 0 ∨ ∃ r ∈ (d.group slice).rx, r.epoch ≠ 0))
    (fun _ _ => {}) (fun _ d => d.onGroup slice (fun g => { g with stopDue := true })) := by
  refine runs_plain _ _ _ _ fun d c hn => ⟨?_, rfl⟩
  obtain ⟨hgroup, hdue, hkeyed⟩ := hn
  show smvStopBody c slice d = _
  have hgoes : ¬((d.group slice).stopDue = true ∨
      ((d.group slice).txEpoch = 0 ∧ (d.group slice).rx.all (fun r => decide (r.epoch = 0)) = true)) := by
    rintro (hs | ⟨htx, hrx⟩)
    · simp [hdue] at hs
    · rcases hkeyed with hk | ⟨r, hr, hk⟩
      · exact hk htx
      · exact hk (of_decide_eq_true (List.all_eq_true.1 hrx r hr))
  unfold smvStopBody
  rw [checked_passes _ _ _ hgroup]
  exact if_neg hgoes

theorem saSmvStop_unkeyed (h : Hdr) (slice : Nat) : Fails (.saSmvStop h slice)
    (fun d c => Passes (groupFails d c.dom slice) ∧ (d.group slice).txEpoch = 0 ∧ ∀ r ∈ (d.group slice).rx, r.epoch = 0)
    eState := by
  refine runs_plain _ _ _ _ fun d c hn => ⟨?_, rfl⟩
  obtain ⟨hgroup, htx, hrx⟩ := hn
  show smvStopBody c slice d = _
  unfold smvStopBody
  rw [checked_passes _ _ _ hgroup]
  exact if_pos (.inr ⟨htx, List.all_eq_true.2 fun r hr => decide_eq_true (hrx r hr)⟩)

theorem smvEpochs : Claims.SmvEpochs := fun h slice epoch tx rx target iova =>
  ⟨saSmvArm_arms h slice epoch tx rx target, saSmvArm_repeats h slice epoch tx rx target, saSmvCancel_disarms h slice,
    saSmvCancel_late h slice, saSmvRead_runs h slice iova, saSmvStop_stops h slice, saSmvStop_unkeyed h slice⟩

/-- Settles O19: the SA commands by their two checks, the epoch commands by those of the group and their own. -/
theorem saCommands : Obligations.SaCommands := ⟨saQueue, smvEpochs⟩

end Sys2Proof.Machine

namespace Sys2Proof.Machine

/-! ### Changes that leave parts of the device as they were -/

namespace OnlyParts

variable {ps qs : List Part} {d e f : Dev}

theorem refl : OnlyParts ps d d := fun p _ => by cases p <;> rfl

theorem trans (h1 : OnlyParts ps d e) (h2 : OnlyParts ps e f) : OnlyParts ps d f := by
  intro p hp
  have h1 := h1 p hp
  have h2 := h2 p hp
  cases p <;> exact Eq.trans h2 h1

theorem mono (h : OnlyParts qs d e) (hs : qs ⊆ ps := by decide) : OnlyParts ps d e := fun p hp => h p fun hq => hp (hs hq)

/-- A change within `ps`, and then one of a function that changes less. -/
theorem seq (h1 : OnlyParts ps d e) (h2 : OnlyParts qs e f) (hs : qs ⊆ ps := by decide) : OnlyParts ps d f :=
  h1.trans (h2.mono hs)

/-- A fold of steps that each stay within `ps`. -/
theorem forEach {α : Type} {l : List α} {g : α → Dev → Dev} (h : ∀ a d, OnlyParts ps d (g a d)) :
    OnlyParts ps d (forEach l g d) := by
  induction l generalizing d with
  | nil => exact refl
  | cons a l ih => exact (h a d).trans ih

theorem ite {c : Prop} [Decidable c] (h1 : OnlyParts ps d e) (h2 : OnlyParts ps d f) : OnlyParts ps d (if c then e else f) := by
  split
  · exact h1
  · exact h2

/-! Writing one part of the device leaves every other. -/

theorem host {x : HostSt} : OnlyParts [.host] d { d with host := x } := by intro p hp; cases p <;> simp [Part.same] at hp ⊢
theorem cfg {x : CfgSt} : OnlyParts [.cfg] d { d with cfg := x } := by intro p hp; cases p <;> simp [Part.same] at hp ⊢
theorem fret {x : FretSt} : OnlyParts [.fret] d { d with fret := x } := by intro p hp; cases p <;> simp [Part.same] at hp ⊢
theorem time {x : TimeSt} : OnlyParts [.time] d { d with time := x } := by intro p hp; cases p <;> simp [Part.same] at hp ⊢
theorem cnt {x : CntSt} : OnlyParts [.cnt] d { d with cnt := x } := by intro p hp; cases p <;> simp [Part.same] at hp ⊢
theorem course {x : CourseSt} : OnlyParts [.course] d { d with course := x } := by intro p hp; cases p <;> simp [Part.same] at hp ⊢
theorem tamper {x : TamperSt} : OnlyParts [.tamper] d { d with tamper := x } := by intro p hp; cases p <;> simp [Part.same] at hp ⊢
theorem mram {x : Mram} : OnlyParts [.mram] d { d with mram := x } := by intro p hp; cases p <;> simp [Part.same] at hp ⊢
theorem vault {x : Vault} : OnlyParts [.vault] d { d with vault := x } := by intro p hp; cases p <;> simp [Part.same] at hp ⊢
theorem keys {x : KeySt} : OnlyParts [.keys] d { d with keys := x } := by intro p hp; cases p <;> simp [Part.same] at hp ⊢
theorem fw {x : FwSt} : OnlyParts [.fw] d { d with fw := x } := by intro p hp; cases p <;> simp [Part.same] at hp ⊢
theorem power {x : PowerSt} : OnlyParts [.power] d { d with power := x } := by intro p hp; cases p <;> simp [Part.same] at hp ⊢
theorem msec {x : MsecSt} : OnlyParts [.msec] d { d with msec := x } := by intro p hp; cases p <;> simp [Part.same] at hp ⊢
theorem fr {x : FrameSt} : OnlyParts [.fr] d { d with fr := x } := by intro p hp; cases p <;> simp [Part.same] at hp ⊢
theorem eg {x : EgressSt} : OnlyParts [.eg] d { d with eg := x } := by intro p hp; cases p <;> simp [Part.same] at hp ⊢
theorem lk {x : LkSt} : OnlyParts [.lk] d { d with lk := x } := by intro p hp; cases p <;> simp [Part.same] at hp ⊢
theorem smv {x : _} : OnlyParts [.smv] d { d with smv := x } := by intro p hp; cases p <;> simp [Part.same] at hp ⊢
theorem mac {x : MacSt} : OnlyParts [.mac] d { d with mac := x } := by intro p hp; cases p <;> simp [Part.same] at hp ⊢
theorem lanes {x : LaneSt} : OnlyParts [.lanes] d { d with lanes := x } := by intro p hp; cases p <;> simp [Part.same] at hp ⊢
theorem freeCtr {x : Nat} : OnlyParts [.freeCtr] d { d with freeCtr := x } := by intro p hp; cases p <;> simp [Part.same] at hp ⊢
theorem wire {x : _} : OnlyParts [.wire] d { d with wire := x } := by intro p hp; cases p <;> simp [Part.same] at hp ⊢

end OnlyParts

/-! ### The fret boundary (02 R36 to R42) -/

/-- Whole seconds and the rest of a reading count their frets apart (02 R37). -/
theorem derivedIndex_eq (d : Dev) : d.derivedIndex = d.tbNs d.fretTb / 1000000000 * d.fretRate +
    d.tbNs d.fretTb % 1000000000 * d.fretRate / 1000000000 := by
  unfold Dev.derivedIndex
  generalize d.tbNs d.fretTb = n
  generalize d.fretRate = r
  have hsplit : n * r = n % 1000000000 * r + 1000000000 * (n / 1000000000 * r) := by
    rw [← Nat.mul_assoc, ← Nat.add_mul, Nat.mod_add_div]
  rw [show (10 : Nat) ^ 9 = 1000000000 from rfl, hsplit, Nat.add_mul_div_left _ _ (by decide), Nat.add_comm]

theorem exec_fretBoundary (s : State) : exec .fretBoundary s = .next (s.onDev fretBoundary) := rfl

theorem advanceTo_now (t : Nat) (d : Dev) : (advanceTo t d).now = max d.now t := by
  obtain ⟨_, _, he, hclk⟩ := advanceTo_eq t d
  rw [he]; exact hclk

namespace OnlyParts

variable {d : Dev}

theorem countTime {n d} : OnlyParts [.cnt] d (countTime n d) := forEach fun _ _ => cnt

theorem advance {n d} : OnlyParts [.time, .cnt] d (advance n d) := refl.seq countTime |>.seq time

theorem advanceTo {t d} : OnlyParts [.time, .cnt] d (advanceTo t d) := advance

theorem ageFailed {d} : OnlyParts [.msec] d (ageFailed d) := msec

theorem sweepAges {g d} : OnlyParts [.keys] d (sweepAges g d) := keys

theorem restartAges {d} : OnlyParts [.keys] d (restartAges d) := sweepAges

theorem clampAges {d} : OnlyParts [.keys] d (clampAges d) := ite refl sweepAges

end OnlyParts

theorem HostSide.fretStepEvent (old derived : Nat) (d : Dev) : HostSide d (fretStepEvent old derived d) := raiseAll ..

/-- A fret is opened with the index that its reading gives, also after a change of source, and then ages and events follow. -/
theorem openFret_opens (d : Dev) : ∃ x : Dev, x.fret.index = d.derivedIndex ∧ x.time = d.time ∧
    OnlyParts [.host, .cnt, .wire, .course, .freeCtr, .keys] x (openFret d) := by
  unfold openFret
  dsimp only
  split
  · exact ⟨_, by rfl, by rfl, OnlyParts.clampAges.mono⟩
  split
  · exact ⟨_, by rfl, by rfl, OnlyParts.restartAges.mono⟩
  · exact ⟨_, by rfl, by rfl, OnlyParts.restartAges.mono.seq (HostSide.fretStepEvent ..).onlyParts⟩

theorem openFret_index (d : Dev) : (openFret d).fret.index = d.derivedIndex := by
  obtain ⟨x, hindex, -, hx⟩ := openFret_opens d
  have hfret : (openFret d).fret = x.fret := hx .fret (by decide)
  rw [hfret, hindex]

theorem openFret_time (d : Dev) : (openFret d).time = d.time := by
  obtain ⟨x, -, htime, hx⟩ := openFret_opens d
  have hsame : (openFret d).time = x.time := hx .time (by decide)
  rw [hsame, htime]

/-- A fret whose source has not changed is opened without an event. -/
theorem openFret_parts {d : Dev} (h : d.fret.change = none) : OnlyParts [.time, .cnt, .fret, .keys, .msec] d (openFret d) := by
  unfold openFret
  dsimp only
  rw [show (ageFailed (d.onFret fun x => { x with index := d.derivedIndex, seen := d.derivedIndex })).fret.change = none from h]
  exact OnlyParts.refl.seq .fret |>.seq .ageFailed |>.seq .clampAges

theorem toBoundary_parts (d : Dev) : OnlyParts [.time, .cnt] d (toBoundary d) := .advanceTo

theorem toBoundary_tclk (d : Dev) : (toBoundary d).time.tclk = max (d.now + 1) (d.boundaryTick d.nextIndex) := by
  have hclk := advanceTo_now (max (d.now + 1) (d.boundaryTick d.nextIndex)) d
  exact hclk.trans (Nat.max_eq_right (le_trans (Nat.le_succ _) (Nat.le_max_left ..)))

theorem fretBoundary_runs {d : Dev} (h : d.fret.running = true) : fretBoundary d =
    fwStepBegin (courseDuties (openFret (toBoundary d)).spanClear (hardwareDuties d.fret.index (openFret (toBoundary d)))) := by
  simp [fretBoundary, h]

theorem nextIndex_unchanged {d : Dev} (h : d.fret.change = none) : d.nextIndex = d.fret.seen + 1 := by
  simp only [Dev.nextIndex, h]

theorem nextIndex_changed {d : Dev} {old at_ : Nat} (h : d.fret.change = some (old, at_)) : d.nextIndex =
    if (d.boundaryTick (d.fret.seen + 1) - at_) * 4 * d.fretRate < 1000000000 then d.fret.seen + 2 else d.fret.seen + 1 := by
  simp only [Dev.nextIndex, h]
  rfl

theorem fretBoundary_row : Claims.FretBoundary := by
  intro s
  refine ⟨derivedIndex_eq _, fun hr => idles_of_eq (exec_fretBoundary s) (by simp [fretBoundary, hr]),
    fun hr => ⟨does_of_eq (exec_fretBoundary s) (fretBoundary_runs hr), openFret_index _, ?_, fun old at_ => nextIndex_changed,
      fun hc => ⟨nextIndex_unchanged hc, ?_⟩⟩⟩
  · rw [openFret_time, toBoundary_tclk]
  · have hfret : (toBoundary s.dev).fret = s.dev.fret := toBoundary_parts s.dev .fret (by decide)
    exact (toBoundary_parts s.dev).mono.trans (openFret_parts (by rw [hfret, hc]))

/-! ### The duties of the course (02 R43 to R45) -/

section Duties

variable {r : Nat} {rs : List Nat} {d : Dev}

theorem runDuties_idle (left : Option Nat) (h : d.dutyWaits r = false) :
    runDuties (r :: rs) left d = runDuties rs left (setDeferred r 0 d) := by
  simp [runDuties, h]

/-- A duty that waits runs the units that fit, and is deferred where some are left. -/
theorem runDuties_waits (left : Option Nat) (h : d.dutyWaits r = true) :
    let n := match left with
      | some b => min (d.dutyCharge r).1 (b / max 1 (d.dutyCharge r).2)
      | none => 0
    runDuties (r :: rs) left d =
      if n = (d.dutyCharge r).1 then runDuties rs (left.map (· - n * (d.dutyCharge r).2)) (setDeferred r 0 (runDuty r n d))
      else runDuties rs none (deferDuty r (runDuty r n d)) := by
  simp only [runDuties, h, Bool.not_true, Bool.false_eq_true, if_false] <;> rfl

theorem runDuties_fits {b : Nat} (h : d.dutyWaits r = true) (hc : 0 < (d.dutyCharge r).2)
    (hb : (d.dutyCharge r).1 * (d.dutyCharge r).2 ≤ b) : runDuties (r :: rs) (some b) d =
      runDuties rs (some (b - (d.dutyCharge r).1 * (d.dutyCharge r).2)) (setDeferred r 0 (runDuty r (d.dutyCharge r).1 d)) := by
  have hmax : max 1 (d.dutyCharge r).2 = (d.dutyCharge r).2 := Nat.max_eq_right hc
  have hall : min (d.dutyCharge r).1 (b / (d.dutyCharge r).2) = (d.dutyCharge r).1 :=
    Nat.min_eq_left ((Nat.le_div_iff_mul_le hc).2 hb)
  simp only [runDuties_waits (some b) h, hmax, hall, if_true, Option.map_some]

theorem runDuties_overruns {b : Nat} (h : d.dutyWaits r = true) (hc : 0 < (d.dutyCharge r).2)
    (hb : b < (d.dutyCharge r).1 * (d.dutyCharge r).2) : runDuties (r :: rs) (some b) d =
      runDuties rs none (deferDuty r (runDuty r (b / (d.dutyCharge r).2) d)) := by
  have hmax : max 1 (d.dutyCharge r).2 = (d.dutyCharge r).2 := Nat.max_eq_right hc
  have hpart : b / (d.dutyCharge r).2 < (d.dutyCharge r).1 := (Nat.div_lt_iff_lt_mul hc).2 hb
  simp only [runDuties_waits (some b) h, hmax, Nat.min_eq_right hpart.le, if_neg hpart.ne]

theorem runDuties_spent (h : d.dutyWaits r = true) (hc : 0 < (d.dutyCharge r).1) :
    runDuties (r :: rs) none d = runDuties rs none (deferDuty r (runDuty r 0 d)) := by
  simp only [runDuties_waits none h, if_neg hc.ne]

/-- A duty that is put off counts one more deferral. -/
theorem deferDuty_deferred (h1 : 1 ≤ r) (h2 : r ≤ d.fret.deferrals.length) : (deferDuty r d).deferred r = d.deferred r + 1 := by
  have hfret : (deferDuty r d).fret = (setDeferred r (d.deferred r + 1) d).fret :=
    ((HostSide.raise ..).trans (.progEvent ..)).onlyParts .fret (by decide)
  simp only [Dev.deferred, hfret, setDeferred, Dev.onFret_fret]
  simp only [List.getD_eq_getElem?_getD]
  rw [List.getElem?_set_self (by omega), Option.getD_some]

end Duties

theorem duties : Claims.Duties := fun _ _ _ =>
  ⟨fun left => runDuties_idle left, fun _ => runDuties_fits, fun _ => runDuties_overruns, runDuties_spent, deferDuty_deferred⟩

/-- Settles O34: the boundary step by step, and the duties by the units that fit in what is left of the budget. -/
theorem fretDuties : Obligations.FretDuties := ⟨fretBoundary_row, duties⟩

end Sys2Proof.Machine

namespace Sys2Proof.Machine

-- One proof at a time: side by side, the threads of so many need more memory than the check allows.
set_option Elab.async false

/-! ### The parts that each function of the model may change

One lemma per function, composed along the steps of the function: `seq` for a call after another, `ite` for a branch,
`forEach` for a fold, a split for a match, and the lemma of a part where the function writes the part itself. -/

/-- What a write to a ring or a register page of a domain may change. -/
abbrev ringParts : List Part := [.host, .cnt, .wire]

/-- What an event or a completion may change: it waits for a resynchronisation, or goes to a ring. -/
abbrev eventParts : List Part := [.host, .cnt, .course, .wire]

/-- What the way of a frame through the device may change. -/
abbrev frameParts : List Part := [.time, .cnt, .keys, .msec, .fr, .eg]

/-- What the failure of a fetch may change: its event, and the frames that it drops. -/
abbrev fetchParts : List Part := [.host, .time, .cnt, .course, .keys, .msec, .fr, .eg, .wire]

/-- What a tamper alarm and its response may change. -/
abbrev alarmParts : List Part :=
  [.host, .time, .cnt, .course, .tamper, .mram, .vault, .keys, .power, .msec, .fr, .eg, .lk, .smv, .wire]

/-- What the reset of a domain may change. -/
abbrev resetParts : List Part := [.host, .cfg, .time, .cnt, .course, .keys, .fw, .msec, .fr, .eg, .lk, .wire]

theorem CountsOnly.parts {d e : Dev} (h : CountsOnly d e) : OnlyParts [.cnt] d e := by
  obtain ⟨_, rfl⟩ := h
  exact .cnt

theorem FrameSide.parts {d e : Dev} (h : FrameSide d e) : OnlyParts frameParts d e := by
  obtain ⟨_, _, _, _, _, _, _, rfl⟩ := h
  intro p hp
  cases p <;> simp [frameParts, Part.same] at hp ⊢

theorem MacSide.parts {d e : Dev} (h : MacSide d e) : OnlyParts [.cnt, .mac] d e := by
  obtain ⟨_, _, rfl⟩ := h
  intro p hp
  cases p <;> simp [Part.same] at hp ⊢

namespace OnlyParts

/-! ### Repeated steps -/

theorem iter {f : Dev → Dev} {ps n d} (h : ∀ d, OnlyParts ps d (f d)) : OnlyParts ps d (iter f n d) := by
  induction n generalizing d with
  | zero => exact refl
  | succ n ih => exact (h d).trans ih

theorem draw {n d} : OnlyParts [.freeCtr] d (draw n d).2 := freeCtr

/-! ### Translation and interrupts (13 R406 to R410) -/

theorem tlbTouch {dom iova d} : OnlyParts [.host] d (tlbTouch dom iova d) := by
  unfold Machine.tlbTouch
  split
  · exact refl
  · exact host

theorem countDma {dom cls bytes d} : OnlyParts [.cnt] d (countDma dom cls bytes d) := by
  unfold Machine.countDma
  dsimp only
  split
  · exact refl
  · exact forEach fun _ _ => ite cnt <| ite cnt refl

theorem tableReads {dom cls iova es d} : OnlyParts [.cnt, .wire] d (tableReads dom cls iova es d) :=
  forEach fun _ _ => refl.seq wire |>.seq countDma

theorem dmaRead {dom cls iova len d} : OnlyParts ringParts d (dmaRead dom cls iova len d) := by
  unfold Machine.dmaRead
  split
  · exact refl.seq tlbTouch |>.seq wire |>.seq countDma
  · exact refl

theorem badRead {dom d} : OnlyParts [.cnt] d (badRead dom d) := by
  unfold Machine.badRead
  split
  · exact cnt
  · exact refl

theorem msixWrite {dom ep v d} : OnlyParts [.cnt, .wire] d (msixWrite dom ep v d) := refl.seq wire |>.seq countDma

theorem sendMsi {dom src d} : OnlyParts ringParts d (sendMsi dom src d) := by
  unfold Machine.sendMsi
  dsimp only
  split
  · exact refl
  · exact ite host.mono <| ite host.mono (refl.seq host |>.seq msixWrite)

theorem notify {dom src d} : OnlyParts ringParts d (notify dom src d) := by
  unfold Machine.notify
  dsimp only
  split
  · exact ite refl host.mono
  split
  · exact sendMsi
  · exact ite host.mono sendMsi

/-! ### Rings that the device produces (13 R397 to R405, R417) -/

theorem ringError {dom ring d} : OnlyParts ringParts d (ringError dom ring d) := refl.seq host |>.seq notify

theorem structFault {dom ring access cause iova d} : OnlyParts ringParts d (structFault dom ring access cause iova d) :=
  refl.seq host |>.seq notify

theorem emitIndex {dom ring d} : OnlyParts ringParts d (emitIndex dom ring d) := by
  unfold Machine.emitIndex
  dsimp only
  split
  · exact refl.seq tlbTouch |>.seq wire |>.seq countDma
  · exact refl

theorem putRingEntry {dom ring e d} : OnlyParts ringParts d (putRingEntry dom ring e d) := by
  unfold Machine.putRingEntry
  dsimp only
  refine seq ?_ host
  split
  · exact refl.seq tlbTouch |>.seq wire |>.seq countDma
  · exact refl

theorem ringWriteNow {dom ring e d} : OnlyParts ringParts d (ringWriteNow dom ring e d) :=
  ite emitIndex ((forEach fun _ _ => putRingEntry).seq emitIndex |>.seq notify)

theorem ringPut {dom ring e d tag} : OnlyParts ringParts d (ringPut dom ring e d tag) := by
  unfold Machine.ringPut
  dsimp only
  split
  · exact host.mono
  split
  · exact ringWriteNow
  · exact ringWriteNow
  · exact structFault.seq host
  · exact host.mono

theorem flushHeld {dom n d} : OnlyParts ringParts d (flushHeld dom n d) := by
  induction n generalizing d with
  | zero => exact refl
  | succ n ih =>
    unfold Machine.flushHeld
    split
    · exact refl
    refine ite refl ?_
    split
    · exact ite refl structFault
    · exact host.mono
    · exact refl.seq host |>.seq ringWriteNow |>.trans ih

/-! ### Events (14 R432, R447, R448) -/

theorem hemSend {port ty count body data d} : OnlyParts [.host, .wire] d (hemSend port ty count body data d) :=
  ite refl (refl.seq host |>.seq wire)

theorem raiseDm {e d} : OnlyParts ringParts d (raiseDm e d) :=
  ite (refl.seq host |>.seq cnt) (refl.seq host |>.seq hemSend |>.seq hemSend)

theorem skipEvent {dom d} : OnlyParts [.host] d (skipEvent dom d) := ite refl host

theorem raiseNow {dom e d} : OnlyParts ringParts d (raiseNow dom e d) :=
  ite raiseDm <| ite skipEvent.mono <| ite (refl.seq host |>.seq cnt) (refl.seq host |>.seq ringPut)

theorem raise {dom e d} : OnlyParts eventParts d (raise dom e d) := ite course.mono raiseNow.mono

theorem raiseTo {owner e d} : OnlyParts eventParts d (raiseTo owner e d) := raise

theorem raiseFrom {slice owner e d} : OnlyParts eventParts d (raiseFrom slice owner e d) :=
  ite raise <| ite (refl.seq host |>.seq cnt) host.mono

theorem raiseAll {e d} : OnlyParts eventParts d (raiseAll e d) := forEach fun _ _ => raise

/-! ### Completions (14 R431, R436, R437) -/

theorem hemFlush {d} : OnlyParts [.host, .wire] d (hemFlush d) := by
  unfold Machine.hemFlush
  dsimp only
  refine refl.seq host |>.trans (forEach fun _ _ => ?_)
  split
  · exact wire.mono
  · exact hemSend

theorem post {c comp data d} : OnlyParts ringParts d (post c comp data d) :=
  ite (refl.seq host |>.seq hemFlush) (refl.seq host |>.trans (ite ringPut refl))

theorem recordTag {c comp data d} : OnlyParts [.host] d (recordTag c comp data d) := ite refl host

theorem finish {c r d} : OnlyParts eventParts d (finish c r d) := by
  unfold Machine.finish
  dsimp only
  split
  · exact refl
  split
  · exact course.mono
  split
  · exact refl
  · exact refl.seq host |>.seq post |>.seq recordTag |>.trans (forEach fun _ _ => post.mono)

/-! ### Key slots, and frames that end (09 R294, 18 R524) -/

theorem settleSlot {n d} : OnlyParts [.keys] d (settleSlot n d) := ite keys refl

theorem retireSlot {waits n d} : OnlyParts [.keys, .msec] d (retireSlot waits n d) :=
  ite refl (refl.seq msec |>.seq keys |>.seq settleSlot)

theorem unbindSlot {n d} : OnlyParts [.keys] d (unbindSlot n d) := keys.seq settleSlot

theorem zeroAllSlots {d} : OnlyParts [.keys, .msec] d (zeroAllSlots d) := refl.seq msec |>.seq keys

theorem onFrame {id g d} : OnlyParts [.fr] d (onFrame id g d) := by
  unfold Machine.onFrame
  split
  · exact fr
  · exact refl

theorem issueFrame {f source d} : OnlyParts [.cnt, .fr] d (issueFrame f source d) :=
  refl.seq cnt |>.seq (CountsOnly.progEvent ..).parts |>.seq (CountsOnly.usedSlots ..).parts |>.seq fr

theorem emptyCharge {id d} : OnlyParts [.fr, .eg] d (emptyCharge id d) := by
  unfold Machine.emptyCharge
  split
  · exact refl
  split
  · exact refl.seq eg |>.seq fr
  · exact refl

theorem stompNow {id d} : OnlyParts [.fr, .eg] d (stompNow id d) := refl.seq onFrame |>.seq emptyCharge

theorem dropAll {code d} : OnlyParts frameParts d (dropAll code d) :=
  forEach fun _ _ => ite stompNow.mono ((ite refl cnt.mono).seq (FrameSide.dropFrame ..).parts)

theorem holdFrames {d} : OnlyParts frameParts d (holdFrames d) := dropAll

theorem refreshActive {p d} : OnlyParts [.eg] d (refreshActive p d) := forEach fun _ _ => eg

theorem withdraw {p d} : OnlyParts [.power] d (withdraw p d) := power

/-! ### Lookaside jobs, key fetches and Smivia groups given up -/

theorem loseCmd {c d} : OnlyParts [.host] d (loseCmd c d) := by
  unfold Machine.loseCmd
  dsimp only
  split
  · exact refl
  · exact host

theorem lkLeave {r d} : OnlyParts [.keys, .lk] d (lkLeave r d) := by
  unfold Machine.lkLeave
  dsimp only
  refine seq ?_ lk
  split
  · exact ite unbindSlot.mono refl
  · exact refl

theorem lkDiscard {r d} : OnlyParts [.host, .keys, .lk] d (lkDiscard r d) := refl.seq lkLeave |>.seq loseCmd

theorem lkStop {d} : OnlyParts [.host, .keys, .power, .lk] d (lkStop d) :=
  (forEach fun _ _ => lkDiscard.mono).seq withdraw |>.seq lk

theorem failFetch {slice r cause d} : OnlyParts fetchParts d (failFetch slice r cause d) := by
  unfold Machine.failFetch
  dsimp only
  split
  · exact refl
  · exact refl.seq raise |>.trans (forEach fun _ _ => refl.seq cnt |>.seq (FrameSide.dropFrame ..).parts) |>.seq msec

theorem releaseKey {slice n d} : OnlyParts [.keys, .msec] d (releaseKey slice n d) := ite retireSlot refl

theorem releaseOpt {slice n d} : OnlyParts [.keys, .msec] d (releaseOpt slice n d) := by
  unfold Machine.releaseOpt
  split
  · exact releaseKey
  · exact refl

theorem unkeyGroup {slice d} : OnlyParts [.keys, .msec, .smv] d (unkeyGroup slice d) :=
  (forEach fun _ _ => releaseOpt.mono).trans (forEach fun _ _ => releaseKey.mono) |>.seq smv

theorem pairEvent {slice result cause epoch peer d} : OnlyParts eventParts d (pairEvent slice result cause epoch peer d) :=
  raiseTo

theorem abortPairing {slice d} : OnlyParts (.lk :: .smv :: eventParts) d (abortPairing slice d) :=
  ite refl (refl.seq lk |>.seq cnt |>.seq pairEvent |>.seq smv)

/-! ### The tamper log and the response to an alarm (16 R478 to R488) -/

theorem mramLog {e d} : OnlyParts [.mram] d (mramLog e d) := mram

theorem vaultLog {e d} : OnlyParts [.vault] d (vaultLog e d) := vault

theorem logEntry {e d} : OnlyParts [.tamper, .mram, .vault] d (logEntry e d) := by
  unfold Machine.logEntry
  dsimp only
  split
  · exact refl.seq mramLog |>.seq tamper
  · exact refl.seq mramLog |>.seq vaultLog |>.seq vault

theorem abortKeyOps {d} : OnlyParts (.power :: .lk :: .smv :: fetchParts) d (abortKeyOps d) := by
  unfold Machine.abortKeyOps
  dsimp only
  exact (forEach fun _ _ => refl.seq host |>.seq finish).trans (forEach fun _ _ => finish.mono) |>.seq lk
    |>.trans (forEach fun _ _ => finish.mono) |>.seq keys |>.seq withdraw |>.trans (forEach fun _ _ => finish.mono)
    |>.seq keys |>.trans (forEach fun _ _ => forEach fun _ _ => failFetch.mono)
    |>.trans (forEach fun _ _ => abortPairing.mono)

theorem cryptoErase {d} : OnlyParts [.vault, .keys, .msec] d (cryptoErase d) :=
  refl.seq vault |>.seq keys |>.seq zeroAllSlots

theorem dueScrub {d} : OnlyParts [.tamper, .power] d (dueScrub d) := ite (refl.seq tamper |>.seq power) refl

theorem doLockdown {d} : OnlyParts [.host, .mram, .keys, .power, .msec, .lk, .smv] d (doLockdown d) :=
  refl.seq withdraw |>.seq zeroAllSlots |>.seq lkStop |>.trans (forEach fun _ _ => refl.seq unkeyGroup |>.seq smv)
    |>.seq keys |>.seq mram

theorem doZeroize {e d} : OnlyParts [.tamper, .mram, .vault, .keys, .power, .msec] d (doZeroize e d) :=
  refl.seq mram |>.seq cryptoErase |>.seq vault |>.seq tamper |>.seq dueScrub

theorem respond {cls e d} :
    OnlyParts [.host, .time, .cnt, .tamper, .mram, .vault, .keys, .power, .msec, .fr, .eg, .lk, .smv] d (respond cls e d) :=
  (ite holdFrames.mono refl).trans (ite (refl.seq power |>.seq doLockdown) refl) |>.trans (ite doZeroize.mono refl)

theorem raiseAlarms {alarms phase value d} : OnlyParts alarmParts d (raiseAlarms alarms phase value d) :=
  ite refl ((ite abortKeyOps.mono refl).trans (forEach fun _ _ => tamper.mono) |>.seq logEntry |>.seq raise |>.seq respond)

theorem raiseAlarm {alarm value d} : OnlyParts alarmParts d (raiseAlarm alarm value d) := raiseAlarms

theorem dwkAlarm {cause d} : OnlyParts alarmParts d (dwkAlarm cause d) := ite raiseAlarm refl

theorem keyMismatch {n d} : OnlyParts alarmParts d (keyMismatch n d) :=
  ite raiseAlarm (refl.seq retireSlot |>.seq raiseAlarm)

/-! ### Learning (06 R176 to R181) -/

theorem placeEntry {home dom k d} : OnlyParts [.freeCtr] d (placeEntry home dom k d).2 := by
  unfold Machine.placeEntry
  dsimp only
  split
  · exact refl
  split
  · exact refl
  split
  · exact freeCtr
  split
  · exact refl
  · exact refl

theorem noteEvict {e d} : OnlyParts [.cnt, .mac] d (noteEvict e d) := refl.seq mac |>.seq cnt

theorem insertEntry {home e learned d} : OnlyParts [.cnt, .mac, .freeCtr] d (insertEntry home e learned d).2 := by
  have hr : OnlyParts [.freeCtr] d (Machine.placeEntry home (d.svcDom e.key.service) e.key d).2 := placeEntry
  unfold Machine.insertEntry
  generalize Machine.placeEntry home (d.svcDom e.key.service) e.key d = r at hr
  obtain ⟨_ | ⟨_, _ | _⟩, x⟩ := r
  · exact hr.mono
  · exact hr.mono.seq mac
  · exact hr.mono.seq noteEvict |>.seq mac

theorem moveEntry {home pos e peer port d} : OnlyParts (.mac :: eventParts) d (moveEntry home pos e peer port d) :=
  ite (refl.seq mac |>.seq raiseFrom) mac.mono

theorem handleProposal {home p d} : OnlyParts (.mac :: .freeCtr :: eventParts) d (handleProposal home p d) := by
  unfold Machine.handleProposal
  dsimp only
  split
  · exact cnt.mono
  split
  · exact cnt.mono
  split
  · exact cnt.mono
  split
  · split
    · exact refl.seq mac |>.seq insertEntry |>.seq cnt
    · exact refl.seq mac |>.seq insertEntry |>.seq cnt
    · exact refl.seq mac |>.seq insertEntry |>.seq cnt
  · exact refl.seq mac |>.trans (ite refl <| ite cnt.mono <| ite cnt.mono (refl.seq moveEntry |>.seq cnt))

theorem learnProposalProcess {slice d} : OnlyParts (.mac :: .freeCtr :: eventParts) d (learnProposalProcess slice d) := by
  unfold Machine.learnProposalProcess
  split
  · exact refl
  · exact refl.seq (MacSide.scanAdvance ..).parts |>.seq mac |>.seq handleProposal

theorem orderCacheRetire {slice d} : OnlyParts [.time, .cnt, .mac] d (orderCacheRetire slice d) := by
  unfold Machine.orderCacheRetire
  dsimp only
  split
  · exact refl
  · exact refl.seq advanceTo |>.seq mac

/-! ### Parsing and punting -/

theorem policePunt {dom d} : OnlyParts [.eg] d (policePunt dom d).2 := eg

theorem puntFrame {f d} : OnlyParts frameParts d (puntFrame f d) := by
  unfold Machine.puntFrame
  dsimp only
  split
  · exact (FrameSide.dropFrame ..).parts
  · exact refl.seq policePunt |>.trans (ite (refl.seq cnt |>.seq (FrameSide.dropFrame ..).parts) <|
      ite (refl.seq cnt |>.seq (FrameSide.dropFrame ..).parts) (refl.seq fr |>.seq (FrameSide.resolveIssue ..).parts))

theorem parseComplete {id d} : OnlyParts frameParts d (parseComplete id d) := by
  unfold Machine.parseComplete
  dsimp only
  split
  · exact refl
  split
  · exact refl
  split
  · split
    · refine trans ?_ (refl.seq cnt |>.seq (FrameSide.dropFrame ..).parts)
      split
      · exact fr.mono
      · exact refl.seq fr |>.seq cnt
      · exact refl.seq fr |>.seq cnt
    refine seq ?_ fr
    split
    · exact fr.mono
    · exact refl.seq fr |>.seq cnt
    · exact refl.seq fr |>.seq cnt
  · refine seq ?_ (FrameSide.dropFrame ..).parts
    split
    · exact fr.mono
    · exact refl.seq fr |>.seq cnt
    · exact refl.seq fr |>.seq cnt
  refine seq ?_ puntFrame
  split
  · exact fr.mono
  · exact refl.seq fr |>.seq cnt
  · exact refl.seq fr |>.seq cnt

theorem puntFault {dom id cause iova d} : OnlyParts fetchParts d (puntFault dom id cause iova d) :=
  refl.seq cnt |>.seq (FrameSide.dropFrame ..).parts |>.trans (ite refl (refl.seq host |>.seq raise))

theorem puntEntryWrite {slice d} : OnlyParts fetchParts d (puntEntryWrite slice d) := by
  unfold Machine.puntEntryWrite
  dsimp only
  split
  · exact refl
  split
  · exact fr.mono
  split
  · exact refl
  split
  · exact (FrameSide.dropFrame ..).parts.mono
  split
  · exact refl.seq cnt |>.seq (FrameSide.dropFrame ..).parts
  split
  · exact puntFault
  · exact refl.seq ringPut |>.trans (ite refl (refl.seq cnt |>.seq (FrameSide.dropFrame ..).parts))

theorem countMarkers {p errs d} : OnlyParts [.cnt] d (countMarkers p errs d) := forEach fun _ _ => cnt

/-! ### Links and lanes (03 R70 to R85) -/

theorem dropLaunches {p d} : OnlyParts frameParts d (dropLaunches p d) :=
  forEach fun _ _ => refl.seq cnt |>.seq (FrameSide.dropFrame ..).parts

theorem smvStream {slice d} : OnlyParts [.smv] d (smvStream slice d) := ite refl <| ite smv smv

theorem refreshLinks {d} : OnlyParts (.smv :: .lanes :: frameParts) d (refreshLinks d) :=
  (forEach fun _ _ => refl.seq lanes |>.trans (ite dropLaunches.mono refl)).trans (forEach fun _ _ => smvStream.mono)

theorem setFault {q d} : OnlyParts [.lanes, .wire] d (setFault q d) := ite refl (refl.seq lanes |>.seq wire)

theorem faultMirrorTimer {p d} : OnlyParts [.time, .cnt, .lanes, .wire] d (faultMirrorTimer p d) := by
  unfold Machine.faultMirrorTimer
  dsimp only
  split
  · exact refl
  · exact refl.seq advanceTo |>.seq lanes |>.seq setFault

theorem laneDown {l cause d} : OnlyParts eventParts d (laneDown l cause d) := raiseFrom

theorem laneUpEvent {l fast d} : OnlyParts eventParts d (laneUpEvent l fast d) := raiseFrom

theorem startAdapt {l d} : OnlyParts [.power, .lanes, .freeCtr] d (startAdapt l d) :=
  refl.seq power |>.trans (ite (refl.seq freeCtr |>.seq lanes) lanes.mono)

theorem passOn {n d} : OnlyParts [.power, .lanes, .freeCtr] d (passOn n d) := by
  induction n generalizing d with
  | zero => exact refl
  | succ n ih =>
    unfold Machine.passOn
    split
    · exact refl
    · exact ite (startAdapt.trans ih) startAdapt

theorem passPlace {d} : OnlyParts [.power, .lanes, .freeCtr] d (passPlace d) := passOn

theorem laneAcquired {l d} : OnlyParts [.power, .lanes, .freeCtr] d (laneAcquired l d) :=
  ite refl <| ite startAdapt (refl.seq lanes |>.seq power)

theorem laneAdaptDone {l gearboxPs d} : OnlyParts [.power, .lanes, .freeCtr] d (laneAdaptDone l gearboxPs d) :=
  ite refl (refl.seq freeCtr |>.seq lanes |>.seq passPlace)

theorem laneOrder {p cause d} : OnlyParts eventParts d (laneOrder p cause d) := raiseFrom

theorem portCame {p d} : OnlyParts eventParts d (portCame p d) := ite refl <| ite laneOrder <| ite laneOrder refl

theorem laneAligned {l inverted position groupTag laneCount skewNs d} :
    OnlyParts (.smv :: .lanes :: fetchParts) d (laneAligned l inverted position groupTag laneCount skewNs d) := by
  unfold Machine.laneAligned
  dsimp only
  split
  · exact refl
  · exact ite refl <| ite laneOrder.mono (refl.seq lanes |>.seq laneUpEvent |>.seq portCame |>.seq refreshLinks)

theorem laneAlignTimeout {l d} : OnlyParts (.time :: .lanes :: eventParts) d (laneAlignTimeout l d) :=
  ite refl (refl.seq advanceTo |>.trans (ite lanes.mono (refl.seq lanes |>.seq laneDown)))

theorem laneRetryTimer {l d} : OnlyParts [.time, .cnt, .lanes] d (laneRetryTimer l d) := by
  unfold Machine.laneRetryTimer
  split
  · exact refl
  · exact refl.seq advanceTo |>.seq lanes

theorem laneLockLoss {l cause d} : OnlyParts (.smv :: .lanes :: fetchParts) d (laneLockLoss l cause d) :=
  ite refl ((ite cnt.mono refl).seq lanes |>.seq cnt |>.seq laneDown |>.seq refreshLinks)

theorem laneRelocked {l d} : OnlyParts (.smv :: .lanes :: fetchParts) d (laneRelocked l d) := by
  unfold Machine.laneRelocked
  dsimp only
  split
  · exact refl
  refine seq ?_ refreshLinks
  cases (d.lane l).use with
  | none => exact refl.seq lanes |>.seq laneUpEvent
  | some u => exact refl.seq lanes |>.seq laneUpEvent |>.seq portCame

theorem laneRelockTimeout {l d} : OnlyParts [.time, .cnt, .lanes] d (laneRelockTimeout l d) :=
  ite refl (refl.seq advanceTo |>.seq lanes)

theorem prbsCheckerLock {l gained inverted errors d} : OnlyParts [.lanes] d (prbsCheckerLock l gained inverted errors d) :=
  ite refl <| ite lanes <| ite lanes refl

theorem mgSyncLoss {port receiving d} : OnlyParts [.cnt, .lanes] d (mgSyncLoss port receiving d) :=
  ite (refl.seq lanes |>.trans (ite cnt.mono refl)) refl

/-! ### The servo and the time pins (11 R339 to R344) -/

theorem servoState {i st d} : OnlyParts (.time :: eventParts) d (servoState i st d) :=
  ite refl (refl.seq time |>.seq raiseTo)

theorem servoAct {i th d} : OnlyParts (.time :: eventParts) d (servoAct i th d) :=
  ite (refl.seq time |>.seq servoState) (refl.seq time |>.trans (ite servoState <| ite servoState refl))

theorem servoEvent {i phase d} : OnlyParts (.time :: eventParts) d (servoEvent i phase d) := by
  unfold Machine.servoEvent
  split
  · exact refl
  split
  · exact servoAct
  · exact refl

theorem servoHoldover {i d} : OnlyParts (.time :: eventParts) d (servoHoldover i d) :=
  ite refl (refl.seq time |>.seq servoState)

theorem captureFor {p phase d} : OnlyParts [.time] d (captureFor p phase d) := forEach fun _ _ => time

theorem timePinEdge {p rising x d} : OnlyParts (.time :: eventParts) d (timePinEdge p rising x d) :=
  ite refl <| ite cnt.mono (refl.seq time |>.trans (ite captureFor.mono raiseTo.mono))

theorem drivePin {p level phase d} : OnlyParts [.time, .wire] d (drivePin p level phase d) := refl.seq time |>.seq wire

theorem timePinOutput {p d} : OnlyParts [.time, .cnt, .wire] d (timePinOutput p d) :=
  ite (refl.seq advanceTo |>.seq drivePin) <| ite (refl.seq advanceTo |>.seq drivePin) refl

/-! ### Key misses (07 R231 to R238) -/

theorem rxPnBad {i d} : OnlyParts alarmParts d (rxPnBad i d) := refl.seq msec |>.seq raiseAlarm

theorem startFetch {slice r d} : OnlyParts fetchParts d (startFetch slice r d) := by
  unfold Machine.startFetch
  dsimp only
  split
  · exact refl
  split
  · exact refl.seq tlbTouch |>.seq wire |>.seq countDma |>.seq msec
  · exact msec.mono
  · exact refl.seq raise |>.seq msec
  · exact (iter fun _ => badRead.mono).seq failFetch

theorem openFetch {slice r m blob d} : OnlyParts alarmParts d (openFetch slice r m blob d) := by
  unfold Machine.openFetch
  split
  · exact failFetch.mono
  split
  · exact dwkAlarm.seq failFetch
  · exact msec.mono

theorem blobReadCompletion {slice r es ok blob d} : OnlyParts alarmParts d (blobReadCompletion slice r es ok blob d) := by
  unfold Machine.blobReadCompletion
  dsimp only
  split
  · exact refl
  split
  · split
    · split
      · exact (ite badRead.mono refl).trans (ite tableReads.mono refl) |>.seq host |>.seq msec |>.seq startFetch
        |>.seq finish
      · exact (ite badRead.mono refl).trans (ite tableReads.mono refl) |>.seq host |>.seq msec |>.seq startFetch
    split
    · exact (ite badRead.mono refl).trans (ite tableReads.mono refl) |>.seq raise |>.seq msec |>.seq finish
    · exact (ite badRead.mono refl).trans (ite tableReads.mono refl) |>.seq raise |>.seq msec
  · exact (ite badRead.mono refl).trans (ite tableReads.mono refl)
    |>.trans (ite (ite (refl.seq msec |>.seq startFetch) failFetch.mono) <| ite msec.mono openFetch)
  · exact (ite badRead.mono refl).trans (ite tableReads.mono refl)

theorem parkTimeout {id d} : OnlyParts frameParts d (parkTimeout id d) := by
  unfold Machine.parkTimeout
  dsimp only
  split
  · exact refl
  · exact ite refl (refl.seq advanceTo |>.seq (FrameSide.dropAs ..).parts)

theorem suspendedFetchAbort {slice r d} : OnlyParts fetchParts d (suspendedFetchAbort slice r d) := by
  unfold Machine.suspendedFetchAbort
  split
  · exact refl
  split
  · exact ite refl (refl.seq advanceTo |>.seq failFetch)
  · exact refl

/-! ### Frames on their way in, and without the cipher stage (07 R563) -/

theorem receiveFrame {p b fcsOk x d} : OnlyParts [.cnt, .fr] d (receiveFrame p b fcsOk x d) :=
  ite refl <| ite cnt.mono <| ite cnt.mono <| (ite (CountsOnly.countPort ..).parts.mono cnt.mono).trans
    (ite cnt.mono <| ite cnt.mono <| ite refl <| ite cnt.mono fr.mono)

theorem portRxFrame {p b fcsOk stamp errs d} : OnlyParts [.cnt, .fr] d (portRxFrame p b fcsOk stamp errs d) :=
  (ite (CountsOnly.countFec ..).parts.mono refl).seq receiveFrame

theorem frameIngress {id d} : OnlyParts [.cnt, .fr] d (frameIngress id d) := by
  unfold Machine.frameIngress
  dsimp only
  split
  · exact refl
  split
  · exact issueFrame.seq (CountsOnly.progEvent ..).parts |>.seq (CountsOnly.progEvent ..).parts
  · split
    · exact refl
    · exact refl.seq fr |>.seq issueFrame |>.seq (CountsOnly.progEvent ..).parts |>.seq (CountsOnly.progEvent ..).parts
  · exact refl

theorem stampRecord {f p rx tb stamp d} : OnlyParts eventParts d (stampRecord f p rx tb stamp d) := by
  unfold Machine.stampRecord
  dsimp only
  split
  · exact refl
  · exact ite refl ((ite cnt.mono refl).seq raiseFrom)

theorem plainRx {f d} : OnlyParts (.fr :: eventParts) d (plainRx f d) :=
  (ite cnt.mono refl).seq stampRecord |>.seq (CountsOnly.countMeter ..).parts |>.seq onFrame

theorem hostStamp {f d} : OnlyParts eventParts d (hostStamp f d) := ite refl stampRecord

theorem plainOut {id d} : OnlyParts fetchParts d (plainOut id d) := by
  unfold Machine.plainOut
  dsimp only
  split
  · exact refl
  split
  · exact (ite (FrameSide.returnDebit ..).parts.mono refl).seq (FrameSide.dropFrame ..).parts
  exact (ite plainRx.mono refl).trans
    (ite (FrameSide.dropFrame ..).parts.mono <| ite (FrameSide.dropAs ..).parts.mono (FrameSide.sendOn ..).parts.mono)

/-! ### The cipher stage and the end of a frame (07 R222 to R226) -/

theorem countProtected {f d} : OnlyParts [.cnt] d (countProtected f d) := ite cnt cnt

theorem cipherStageExit {id d} : OnlyParts frameParts d (cipherStageExit id d) := by
  unfold Machine.cipherStageExit
  split
  · exact refl
  split
  · exact refl
  extract_lets d1 g d2
  have h1 : OnlyParts frameParts d d1 := by
    dsimp only [d1]
    split
    · exact (FrameSide.unbindSlot ..).parts
    · exact refl
  have h2 : OnlyParts frameParts d d2 := h1.seq fr
  split
  · exact h2.trans (ite (FrameSide.sendOn ..).parts refl)
  · exact h2.seq countProtected |>.seq (FrameSide.sendOn ..).parts

theorem frameEndArrival {id d} : OnlyParts fetchParts d (frameEndArrival id d) := by
  unfold Machine.frameEndArrival
  dsimp only
  split
  · exact refl
  split
  · exact refl
  refine refl.seq fr |>.seq (FrameSide.trimCharge ..).parts |>.trans (ite refl <| ite ?_ <| ite refl ?_)
  · exact refl.seq cnt |>.trans (ite (FrameSide.returnDebit ..).parts.mono refl) |>.seq (FrameSide.failFrame ..).parts
  · refine refl.seq hostStamp |>.trans (ite plainOut <| ite refl <| ite ?_ <| ite plainRx.mono refl)
    exact (ite (FrameSide.returnDebit ..).parts.mono refl).seq (FrameSide.failFrame ..).parts

theorem countFailure {f cause d} : OnlyParts alarmParts d (countFailure f cause d) := by
  unfold Machine.countFailure
  dsimp only
  split
  · refine seq ?_ rxPnBad
    split
    · exact refl.seq (FrameSide.returnDebit ..).parts |>.seq (CountsOnly.progEvent ..).parts |>.seq cnt
    · exact refl.seq (FrameSide.returnDebit ..).parts |>.seq (CountsOnly.progEvent ..).parts
  split
  · exact refl.seq (FrameSide.returnDebit ..).parts |>.seq (CountsOnly.progEvent ..).parts |>.seq cnt
  · exact refl.seq (FrameSide.returnDebit ..).parts |>.seq (CountsOnly.progEvent ..).parts

theorem recircTimeout {id d} : OnlyParts frameParts d (recircTimeout id d) := by
  unfold Machine.recircTimeout
  split
  · exact refl
  · exact ite (refl.seq advanceTo |>.seq (FrameSide.dropAs ..).parts) refl

/-! ### The egress MAC (12 R360, R361) -/

theorem endSending {p n f d} : OnlyParts fetchParts d (endSending p n f d) := by
  unfold Machine.endSending
  extract_lets b d1 d2 d3 d4 d5
  have h3 : OnlyParts fetchParts d d3 :=
    refl.seq wire |>.trans (ite cnt.mono refl) |>.seq (CountsOnly.progEvent ..).parts |>.seq (CountsOnly.progEvent ..).parts
  have h5 : OnlyParts fetchParts d d5 := by
    dsimp only [d5]
    split
    · exact h3.trans (ite (refl.seq cnt |>.seq (CountsOnly.progEvent ..).parts) refl)
    · exact h3.seq (CountsOnly.countPort ..).parts |>.seq stampRecord
  exact h5.seq eg |>.seq (FrameSide.dropFrame ..).parts

theorem underrunEnds {p n f d} : OnlyParts alarmParts d (underrunEnds p n f d) :=
  countFailure.seq (FrameSide.resolveIssue ..).parts |>.seq endSending

theorem egressUnderrun {p d} : OnlyParts alarmParts d (egressUnderrun p d) := by
  unfold Machine.egressUnderrun
  split
  · exact refl
  · exact ite refl (underrunEnds.seq msec)

theorem frameTxDone {p d} : OnlyParts alarmParts d (frameTxDone p d) := by
  unfold Machine.frameTxDone
  dsimp only
  split
  · exact refl
  split
  · exact refl.seq eg |>.seq (FrameSide.dropAtEgress ..).parts
  split
  · exact (ite underrunEnds endSending.mono).seq msec
  · exact ite underrunEnds endSending.mono

theorem transmissionSelection {p d} : OnlyParts (.freeCtr :: frameParts) d (transmissionSelection p d) := by
  unfold Machine.transmissionSelection
  dsimp only
  split
  · exact refl
  split
  · exact (FrameSide.selectFrame ..).parts.mono
  split
  · exact refl
  exact refl.seq (FrameSide.selectFrame ..).parts |>.seq freeCtr |>.seq (FrameSide.onFrame ..).parts
    |>.seq (CountsOnly.countUntagged ..).parts |>.seq msec

theorem startAt {f d} : OnlyParts alarmParts d (startAt f d) :=
  refl.seq advanceTo |>.trans (ite frameTxDone refl) |>.seq (CountsOnly.countUntagged ..).parts
    |>.seq (FrameSide.onFrame ..).parts |>.seq eg |>.seq msec

theorem llReleaseFrame {id d} : OnlyParts alarmParts d (llReleaseFrame id d) := by
  unfold Machine.llReleaseFrame
  dsimp only
  split
  · exact refl
  split
  · exact refl
  split
  · exact (FrameSide.dropAtEgress ..).parts.mono
  · exact ite (refl.seq cnt |>.seq (FrameSide.dropAtEgress ..).parts |>.seq msec) startAt

theorem onestepLaunch {id d} : OnlyParts alarmParts d (onestepLaunch id d) := by
  unfold Machine.onestepLaunch
  split
  · exact refl
  · exact ite refl <| ite (refl.seq cnt |>.seq (FrameSide.dropFrame ..).parts) (refl.seq time |>.seq startAt)

/-! ### The lookaside unit (10 R312 to R330) -/

theorem lkEnd {r rep d} : OnlyParts (.keys :: .lk :: eventParts) d (lkEnd r rep d) :=
  ite lkDiscard.mono (refl.seq lkLeave |>.seq cnt |>.seq finish)

theorem lkSuspend {r a cause d} : OnlyParts (.lk :: eventParts) d (lkSuspend r a cause d) := refl.seq raise |>.seq lk

theorem lkFetch {r d} : OnlyParts ringParts d (lkFetch r d).2 := by
  unfold Machine.lkFetch
  dsimp only
  split
  · exact refl
  · exact forEach fun _ _ => dmaRead

theorem pkTake {d} : OnlyParts [.lk] d (pkTake d) := by
  unfold Machine.pkTake
  dsimp only
  split
  · exact lk
  split
  · exact lk
  · exact lk

theorem pkAsk {o d} : OnlyParts [.lk] d (pkAsk o d) := lk.trans (ite pkTake refl)

theorem lkDead {r d} : OnlyParts (.keys :: .lk :: eventParts) d (lkDead r d) := (ite badRead.mono refl).seq lkEnd

theorem lkGo {id d} : OnlyParts (.keys :: .lk :: eventParts) d (lkGo id d).2 := by
  unfold Machine.lkGo
  dsimp only
  split
  · exact refl
  split
  · exact refl.seq lkFetch |>.seq lk |>.seq lkSuspend
  · exact refl.seq lkFetch |>.seq lk |>.seq lkDead
  · exact refl.seq lkFetch |>.seq lk
  split
  · exact refl.seq lkFetch |>.seq lk
  split
  · exact refl.seq lkFetch |>.seq lk |>.seq lkEnd
  split
  · exact refl.seq lkFetch |>.seq lk |>.seq lkEnd
  split
  · exact refl.seq lkFetch |>.seq lk |>.seq pkAsk
  · exact refl.seq lkFetch |>.seq lk

theorem lkBegin {id d} : OnlyParts alarmParts d (lkBegin id d).2 := by
  unfold Machine.lkBegin
  dsimp only
  split
  · exact refl
  split
  · exact refl.seq lkEnd |>.seq keyMismatch
  split
  · exact lkEnd.mono
  refine trans ?_ (refl.seq lk |>.seq lkGo)
  split
  · exact keys.mono
  · exact refl

theorem lkStartOn {c p d} : OnlyParts alarmParts d (lkStartOn c p d) := by
  unfold Machine.lkStartOn
  dsimp only
  split
  · exact lk.mono
  · exact lkBegin.seq lk

theorem lkAssign {c p d} : OnlyParts [.power, .lk] d (lkAssign c p d) := by
  unfold Machine.lkAssign
  dsimp only
  split
  · exact refl.seq lk |>.seq power
  · exact refl.seq lk |>.seq power

theorem lkFill {c d} : OnlyParts alarmParts d (lkFill c d) := by
  unfold Machine.lkFill
  dsimp only
  split
  · exact refl
  split
  · exact refl
  · exact ite lkAssign.mono lkStartOn

theorem lkDispatch {d} : OnlyParts alarmParts d (lkDispatch d) :=
  (iter fun _ => refl.seq lk |>.trans (forEach fun _ _ => lkFill)).seq lk

theorem lkInternal {w d} : OnlyParts alarmParts d (lkInternal w d) := refl.seq lk |>.seq lkDispatch

theorem lkKill {dom d} : OnlyParts [.host, .keys, .lk] d (lkKill dom d) :=
  forEach fun _ _ => ite lk.mono (lkDiscard.seq lk)

theorem zeroingDone {n d} : OnlyParts [.keys, .lk] d (zeroingDone n d) := ite (refl.seq keys |>.seq lk) refl

/-! ### Pairing -/

theorem dropRx {slice i d} : OnlyParts [.keys, .msec, .smv] d (dropRx slice i d) := refl.seq smv |>.seq releaseOpt

theorem pairFail {slice cause send d} :
    OnlyParts [.host, .cnt, .course, .keys, .msec, .lk, .smv, .wire] d (pairFail slice cause send d) :=
  refl.seq cnt |>.seq pairEvent |>.trans (ite dropRx.mono refl) |>.seq lk |>.seq smv

theorem pairHello {slice rekey d} : OnlyParts [.lk, .smv, .freeCtr] d (pairHello slice rekey d) := by
  unfold Machine.pairHello
  extract_lets a kem n h d1
  have hn : OnlyParts [.freeCtr] d n.2 := draw.trans (freeCtr.trans draw)
  have h1 : OnlyParts [.lk] n.2 d1 := refl.seq lk |>.seq pkAsk
  exact hn.mono.seq h1 |>.seq smv

theorem pairCheck {slice d} : OnlyParts (.lk :: .smv :: .freeCtr :: eventParts) d (pairCheck slice d) :=
  ite refl <| ite (ite refl (refl.seq lk |>.seq smv)) <|
  ite ((ite refl (refl.seq lk |>.seq smv)).trans (ite (refl.seq smv |>.seq pairEvent) refl)) <| ite pairHello.mono refl

theorem putPairKey {slice attr key d} : OnlyParts [.keys] d (putPairKey slice attr key d).2 := keys

theorem pairKeyed {slice d} : OnlyParts (.keys :: .smv :: eventParts) d (pairKeyed slice d) :=
  refl.seq putPairKey |>.seq smv |>.seq pairEvent |>.seq smv

theorem pairStepDone {slice d} :
    OnlyParts [.host, .cnt, .course, .keys, .msec, .lk, .smv, .freeCtr, .wire] d (pairStepDone slice d) := by
  unfold Machine.pairStepDone
  dsimp only
  split
  · exact smv.mono
  · exact smv.mono
  · exact refl.seq smv |>.seq draw |>.seq smv
  · exact refl.seq smv |>.seq draw |>.seq freeCtr |>.seq smv
  · split
    · exact refl.seq smv |>.seq pairFail
    · exact refl.seq smv |>.seq dropRx |>.seq putPairKey |>.seq smv
  · exact refl.seq smv |>.trans (ite pairKeyed.mono pairFail.mono)

theorem pairHash {slice d} : OnlyParts (.freeCtr :: alarmParts) d (pairHash slice d) := by
  unfold Machine.pairHash
  split
  · exact lkInternal.mono
  · exact lkInternal.mono
  · exact lkInternal.mono
  · exact pairStepDone.mono

theorem pairAsk {slice n st f d} : OnlyParts [.lk, .smv] d (pairAsk slice n st f d) := refl.seq smv |>.seq pkAsk

theorem pairMessage {slice d} : OnlyParts (.freeCtr :: alarmParts) d (pairMessage slice d) := by
  unfold Machine.pairMessage
  dsimp only
  split
  · exact refl
  split
  · exact refl
  split
  · exact refl.seq smv |>.trans (ite pairFail.mono refl)
  split
  · exact ite (refl.seq smv |>.seq pairFail) (refl.seq smv |>.seq pairAsk)
  · exact refl.seq smv |>.seq pairHello
  · exact refl.seq smv |>.seq pairAsk
  · exact refl.seq smv |>.seq pairAsk
  · exact refl.seq smv |>.seq pairHash
  · exact smv.mono

theorem pairTimeout {slice d} :
    OnlyParts [.host, .time, .cnt, .course, .keys, .msec, .lk, .smv, .wire] d (pairTimeout slice d) :=
  ite (refl.seq advanceTo |>.seq pairFail) refl

theorem pairBackoff {slice d} :
    OnlyParts [.host, .time, .cnt, .course, .lk, .smv, .freeCtr, .wire] d (pairBackoff slice d) :=
  ite refl (refl.seq advanceTo |>.seq smv |>.seq pairCheck)

theorem rekeyInterval {slice d} : OnlyParts [.time, .cnt, .lk, .smv, .freeCtr] d (rekeyInterval slice d) :=
  ite refl (refl.seq advanceTo |>.seq pairHello)

theorem disarmSwitch {slice d} : OnlyParts [.smv] d (disarmSwitch slice d) := (ite smv refl).seq smv

/-! ### Commits and their cancelling (02 R51 to R55) -/

theorem writeBanks {sets ts d} : OnlyParts [.cfg] d (writeBanks sets ts d) := forEach fun _ _ => cfg

theorem writeWords {slice l n d} : OnlyParts [.cfg] d (writeWords slice l n d) := by
  induction l generalizing n d with
  | nil => exact refl
  | cons x l ih => exact ite refl (cfg.trans ih)

theorem cutCopy {sets ts spans d} : OnlyParts [.cfg] d (cutCopy sets ts spans d) := writeWords.seq writeWords

theorem cancelEvent {dom target cause kind slice d} : OnlyParts eventParts d (cancelEvent dom target cause kind slice d) :=
  raise

theorem dropActivation {d} : OnlyParts [.cfg, .fw] d (dropActivation d) := by
  unfold Machine.dropActivation
  dsimp only
  split
  · exact refl
  · exact refl.seq writeBanks |>.trans (ite fw.mono fw.mono)

theorem cancelActivation {cause d} : OnlyParts (.cfg :: .fw :: eventParts) d (cancelActivation cause d) := by
  unfold Machine.cancelActivation
  split
  · exact ite refl (refl.seq dropActivation |>.seq cancelEvent)
  · exact refl

theorem cancelNow {c d} : OnlyParts [.cfg] d (cancelNow c d).1 := by
  unfold Machine.cancelNow
  dsimp only
  split
  · exact refl
  split
  · exact refl
  split
  · exact cfg
  split
  · exact refl
  · exact writeBanks.seq cfg

theorem takeOut {n gone f cs d} : OnlyParts (.cfg :: .fw :: eventParts) d (takeOut n gone f cs d) := by
  induction n generalizing gone cs d with
  | zero => exact refl
  | succ n ih =>
    unfold Machine.takeOut
    dsimp only
    exact ite refl <| ite ((forEach fun _ _ => ite cancelActivation.mono (refl.seq cfg |>.seq cancelEvent)).trans ih)
      (refl.seq writeBanks |>.seq cfg)

theorem stopCopy {dom d} : OnlyParts [.cfg] d (stopCopy dom d) := by
  unfold Machine.stopCopy
  dsimp only
  split
  · exact refl
  · exact cutCopy.seq cfg

theorem resetCommit {dom d} : OnlyParts (.cfg :: .fw :: eventParts) d (resetCommit dom d) := by
  unfold Machine.resetCommit
  dsimp only
  split
  · exact refl.seq stopCopy |>.trans (ite refl takeOut) |>.seq cfg
  · exact refl.seq cancelNow |>.trans (ite refl cfg.mono)

theorem concludeCancel {c d} : OnlyParts (.cfg :: eventParts) d (conclude c (Machine.cancelNow c d)) := by
  unfold Machine.conclude
  split
  · exact refl.seq cancelNow |>.seq finish
  · exact cancelNow.mono

theorem armCopyDone {dom d} : OnlyParts (.cfg :: .time :: eventParts) d (armCopyDone dom d) := by
  unfold Machine.armCopyDone
  dsimp only
  split
  · exact refl
  exact refl.seq advanceTo |>.seq cfg |>.seq writeBanks
    |>.trans
      (ite (refl.seq writeBanks |>.seq finish) <| ite (refl.seq writeBanks |>.seq finish) (refl.seq cfg |>.seq finish))
      |>.trans (forEach fun _ _ => concludeCancel.mono)

theorem cancelRewriteDone {dom d} : OnlyParts (.cfg :: .time :: eventParts) d (cancelRewriteDone dom d) := by
  unfold Machine.cancelRewriteDone
  dsimp only
  split
  · exact refl
  split
  · exact refl.seq advanceTo |>.seq cfg |>.seq finish
  · exact refl.seq advanceTo |>.seq cfg

/-! ### Polls, fetches and rings (13 R399 to R417) -/

theorem dumpFault {dom cause iova d} : OnlyParts eventParts d (dumpFault dom cause iova d) :=
  ite refl (refl.seq host |>.seq raise)

theorem dtuModeWrite {dom mode d} : OnlyParts [.host, .course] d (dtuModeWrite dom mode d) :=
  ite refl (refl.seq host |>.seq course)

theorem dtuInval {dom all page d} : OnlyParts [.host] d (dtuInval dom all page d) := ite refl host

theorem pollRead {dom bus d} : OnlyParts ringParts d (pollRead dom bus d) := refl.seq host |>.seq wire |>.seq countDma

theorem pollNow {dom d} : OnlyParts ringParts d (pollNow dom d) := by
  unfold Machine.pollNow
  dsimp only
  split
  · exact refl.seq host |>.seq tlbTouch |>.seq pollRead
  · exact host.mono
  · exact refl.seq host |>.seq structFault
  · exact refl.seq host |>.seq badRead

theorem fetchRead {dom ring bus d} : OnlyParts ringParts d (fetchRead dom ring bus d) :=
  refl.seq host |>.seq wire |>.seq countDma

theorem issueFetch {dom ring d} : OnlyParts ringParts d (issueFetch dom ring d) := by
  unfold Machine.issueFetch
  dsimp only
  split
  · exact refl
  split
  · exact refl.seq tlbTouch |>.seq host |>.seq fetchRead
  · exact host.mono
  · exact structFault
  · exact refl.seq host |>.seq badRead

theorem heldDone {dom h d} : OnlyParts frameParts d (heldDone dom h d) := by
  unfold Machine.heldDone
  split
  · exact refl.seq cnt |>.seq (FrameSide.dropFrame ..).parts
  · exact refl

theorem heldLost {dom cause iova d} : OnlyParts fetchParts d (heldLost dom cause iova d) := by
  unfold Machine.heldLost
  dsimp only
  split
  · exact refl
  split
  · exact refl.seq host |>.seq puntFault
  · exact refl.seq host |>.seq cnt |>.seq dumpFault

theorem goHeld {dom n d} : OnlyParts fetchParts d (goHeld dom n d) := by
  induction n generalizing d with
  | zero => exact refl
  | succ n ih =>
    unfold Machine.goHeld
    dsimp only
    split
    · exact ite (refl.seq flushHeld |>.trans (forEach fun _ _ => heldDone.mono) |>.seq heldLost |>.trans ih)
        (refl.seq flushHeld |>.trans (forEach fun _ _ => heldDone.mono))
    · exact refl.seq flushHeld |>.trans (forEach fun _ _ => heldDone.mono)

theorem structGo {dom again rings d} : OnlyParts fetchParts d (structGo dom again rings d) :=
  goHeld.trans (ite pollNow.mono refl) |>.trans (ite refl (forEach fun _ _ => issueFetch.mono))

theorem dtuErrClear {dom d} : OnlyParts fetchParts d (dtuErrClear dom d) := ite refl (refl.seq host |>.seq structGo)

theorem ringDisable {dom ring d} : OnlyParts [.host] d (ringDisable dom ring d) := ite refl host

theorem ringEnable {dom ring d} : OnlyParts ringParts d (ringEnable dom ring d) :=
  ite refl ((ite host.mono host.mono).seq ringPut |>.trans (ite refl ringError))

/-! ### Resets and register writes (13 R394, R396) -/

theorem dropPunts {dom d} : OnlyParts (.host :: frameParts) d (dropPunts dom d) :=
  refl.seq host |>.trans (forEach fun _ _ => (FrameSide.dropFrame ..).parts.mono) |>.seq cnt

theorem abortFetches {dom d} : OnlyParts fetchParts d (abortFetches dom d) :=
  forEach fun _ _ => forEach fun _ _ => failFetch

theorem domainReset {dom d} : OnlyParts resetParts d (domainReset dom d) :=
  refl.seq dropPunts |>.seq host |>.seq abortFetches |>.seq lkKill |>.seq resetCommit

theorem domainResetDone {dom d} : OnlyParts [.host] d (domainResetDone dom d) := ite refl host

theorem resetDomains {ep d} : OnlyParts resetParts d (resetDomains ep d) := forEach fun _ _ => domainReset

theorem dueSources {dom d} : OnlyParts ringParts d (dueSources dom d) := forEach fun _ _ => ite notify refl

theorem write32 {dom off v d} : OnlyParts resetParts d (write32 dom off v d) := by
  unfold Machine.write32
  dsimp only
  split
  · exact refl.seq host |>.trans (forEach fun _ _ => ite ringEnable.mono ringDisable.mono) |>.trans (ite domainReset refl)
  · exact refl.seq host |>.trans (ite dtuErrClear.mono refl)
  · exact host.mono
  · exact dtuModeWrite.mono
  · exact refl.seq host |>.seq dueSources
  · exact host.mono
  split
  · exact ite refl host.mono
  · exact refl

theorem write64 {dom off v d} : OnlyParts [.host] d (write64 dom off v d) := by
  unfold Machine.write64
  split
  · exact host
  · exact host
  · exact dtuInval
  split
  · exact ite refl host
  · exact refl

theorem registerWrite {dom off width v d} : OnlyParts resetParts d (registerWrite dom off width v d) :=
  ite write64.mono <| ite refl <| ite host.mono <| ite (refl.seq host |>.seq write64) write32

theorem atSlot {ep slot f ps d} (h : ∀ k d, OnlyParts ps d (f k d)) : OnlyParts ps d (atSlot ep slot f d) := by
  unfold Machine.atSlot
  split
  · exact h _ _
  · exact refl

theorem msixUnmask {ep vector d} : OnlyParts ringParts d (msixUnmask ep vector d) := by
  unfold Machine.msixUnmask
  dsimp only
  split
  · exact refl
  split
  · exact ite (refl.seq host |>.seq msixWrite) host.mono
  · exact host.mono

theorem msixStore {ep off v d} : OnlyParts ringParts d (msixStore ep off v d) := by
  unfold Machine.msixStore
  dsimp only
  split
  · exact host.mono
  · exact host.mono
  · exact host.mono
  · exact ite host.mono msixUnmask
  · exact refl

theorem msixTableWrite {ep off width v d} : OnlyParts ringParts d (msixTableWrite ep off width v d) :=
  ite refl <| ite msixStore <| ite (msixStore.seq msixStore) refl

theorem doorbellPoll {dom d} : OnlyParts (.time :: ringParts) d (doorbellPoll dom d) :=
  ite refl (refl.seq advanceTo |>.seq pollNow)

theorem msixHoldoff {dom src d} : OnlyParts (.time :: ringParts) d (msixHoldoff dom src d) :=
  ite refl (refl.seq advanceTo |>.seq sendMsi)

/-! ### PCIe endpoints and the Hemuner channel (13 R385 to R387, R418 to R425) -/

theorem pcieFlr {ep d} : OnlyParts resetParts d (pcieFlr ep d) := refl.seq host |>.seq resetDomains

theorem pcieDown {ep d} : OnlyParts resetParts d (pcieDown ep d) := refl.seq host |>.seq resetDomains

theorem pcieUp {ep d} : OnlyParts [.host] d (pcieUp ep d) := ite host refl

theorem pcieConfig {ep w d} : OnlyParts [.host] d (pcieConfig ep w d) := ite refl host

theorem announceTo {port da d} : OnlyParts [.host, .wire] d (announceTo port da d) :=
  ite refl (refl.seq host |>.seq wire)

theorem announce {d} : OnlyParts alarmParts d (announce d) :=
  refl.seq advanceTo |>.seq host |>.trans (ite raiseAlarm refl) |>.trans (forEach fun _ _ => announceTo.mono)

theorem hemAccept {port f d} : OnlyParts alarmParts d (hemAccept port f d).2 := by
  unfold Machine.hemAccept
  dsimp only
  split
  · exact cnt.mono
  split
  · exact cnt.mono
  split
  · exact refl.seq cnt |>.seq raiseAlarm
  split
  · exact cnt.mono
  split
  · exact refl.seq cnt |>.seq announceTo
  split
  · exact cnt.mono
  · exact host.mono

theorem hemBuffer {port f d} : OnlyParts [.host, .cnt] d (hemBuffer port f d) := ite cnt.mono host.mono

theorem hemArrive {port f go d} (h : ∀ d, OnlyParts alarmParts d (go d)) :
    OnlyParts alarmParts d (hemArrive port f go d) :=
  ite refl <| ite cnt.mono <| ite hemBuffer.mono <| ite (hemAccept.trans (h _)) hemAccept

theorem hemunerAck {port f d} : OnlyParts alarmParts d (hemunerAck port f d) := ite refl (hemArrive fun _ => host.mono)

theorem hemunerOther {port f d} : OnlyParts [.cnt] d (hemunerOther port f d) := ite cnt refl

theorem dmResend {index d} : OnlyParts (.time :: ringParts) d (dmResend index d) := by
  unfold Machine.dmResend
  dsimp only
  split
  · exact refl
  · exact refl.seq advanceTo |>.seq host |>.seq hemSend |>.seq hemSend

/-! ### Firmware (17 R512 to R515) -/

theorem fwEvent {slot part state cause version d} :
    OnlyParts (.fw :: eventParts) d (fwEvent slot part state cause version d) :=
  refl.seq fw |>.seq raise

theorem fwGoBack {slot parts d} : OnlyParts (.fw :: .lk :: eventParts) d (fwGoBack slot parts d) :=
  refl.seq fw |>.trans (ite lk.mono refl) |>.seq fw |>.trans (forEach fun _ _ => fwEvent.mono)

theorem fwHalt {d} : OnlyParts (.cfg :: .fw :: .lk :: eventParts) d (fwHalt d) := by
  unfold Machine.fwHalt
  dsimp only
  split
  · exact ite fwGoBack.mono cancelActivation.mono
  · exact ite fwGoBack.mono refl

theorem fwTrialEnd {d} : OnlyParts (.time :: .fw :: eventParts) d (fwTrialEnd d) := by
  unfold Machine.fwTrialEnd
  dsimp only
  split
  · exact refl
  · exact refl.seq advanceTo |>.seq fw |>.seq fwEvent

/-! ### Smivia reception and defects (04 R112 to R118) -/

theorem outOfFrame {slice d} : OnlyParts [.cnt, .smv] d (outOfFrame slice d) := refl.seq smv |>.seq cnt

theorem searchFrame {slice hit pos mfas d} : OnlyParts [.smv] d (searchFrame slice hit pos mfas d) := by
  unfold Machine.searchFrame
  dsimp only
  split
  · exact smv
  · exact ite smv <| ite smv smv

theorem multiframe {slice crcOk mfas d} : OnlyParts [.cnt, .smv] d (multiframe slice crcOk mfas d) :=
  (ite (ite smv.mono <| ite smv.mono ((ite cnt.mono refl).seq smv)) <| ite smv.mono smv.mono).seq smv

theorem defectEvent {slice i cleared d} : OnlyParts eventParts d (defectEvent slice i cleared d) := raiseFrom

theorem endDefect {slice i d} : OnlyParts (.smv :: eventParts) d (endDefect slice i d) :=
  ite refl (refl.seq smv |>.trans (ite defectEvent.mono <| ite refl cnt.mono) |>.trans (forEach fun _ _ => smv.mono))

theorem smvDeclare {slice code d} : OnlyParts (.smv :: .lanes :: fetchParts) d (smvDeclare slice code d) := by
  unfold Machine.smvDeclare
  dsimp only
  split
  · exact refl
  split
  · exact refl
  exact (ite refl advanceTo.mono).seq smv |>.trans (forEach fun _ _ => endDefect.mono) |>.seq smv
    |>.trans (ite defectEvent.mono refl) |>.seq refreshLinks

theorem smvHoldoff {slice code d} : OnlyParts (.smv :: .lanes :: fetchParts) d (smvHoldoff slice code d) := by
  unfold Machine.smvHoldoff
  dsimp only
  split
  · exact refl
  · exact ite refl (refl.seq advanceTo |>.seq smv |>.seq defectEvent |>.seq refreshLinks)

theorem smvClear {slice code d} : OnlyParts (.smv :: .lanes :: fetchParts) d (smvClear slice code d) := by
  unfold Machine.smvClear
  dsimp only
  split
  · exact refl
  · exact ite refl ((ite refl advanceTo.mono).seq endDefect |>.seq refreshLinks)

theorem deliverUnit {slice pos u d} : OnlyParts [.smv] d (deliverUnit slice pos u d) := ite smv <| ite smv refl

theorem slotEnd {slice pos d} : OnlyParts [.cnt, .smv] d (slotEnd slice pos d) :=
  refl.seq smv |>.trans (ite cnt.mono <| ite refl deliverUnit.mono)

theorem inFrameRx {slice b crcOk d} : OnlyParts [.cnt, .smv] d (inFrameRx slice b crcOk d) :=
  (ite refl cnt.mono).seq multiframe |>.trans (ite smv.mono refl) |>.trans (ite smv.mono refl) |>.trans (ite smv.mono refl)
    |>.seq smv |>.trans (ite slotEnd refl)

theorem receiveBlocks {slice frame badBlocks fasBad pos d} :
    OnlyParts (.lk :: .smv :: .freeCtr :: eventParts) d (receiveBlocks slice frame badBlocks fasBad pos d) := by
  unfold Machine.receiveBlocks
  dsimp only
  split
  · exact refl
  refine seq (ite (refl.seq cnt |>.seq searchFrame) <| ite cnt.mono <| ite ?_ ?_) pairCheck
  · exact refl.seq cnt |>.seq smv |>.seq inFrameRx
  · exact refl.seq cnt |>.trans (ite outOfFrame.mono (refl.seq smv |>.seq inFrameRx))

theorem smvFrameRx {slice frame badBlocks fasBad pos errs d} :
    OnlyParts (.lk :: .smv :: .freeCtr :: eventParts) d (smvFrameRx slice frame badBlocks fasBad pos errs d) := by
  unfold Machine.smvFrameRx
  refine seq ?_ receiveBlocks
  split
  · exact refl
  · exact refl.seq (CountsOnly.countFec ..).parts |>.seq countMarkers

/-! ### The course (15 R450 to R462, 02 R57) -/

theorem courseEvent {string cause d} : OnlyParts eventParts d (courseEvent string cause d) := raiseAll

theorem applyFallback {d} : OnlyParts fetchParts d (applyFallback d) :=
  refl.seq course |>.seq courseEvent |>.trans (ite (refl.seq course |>.seq dropAll) refl)

theorem haltCommits {d} : OnlyParts (.cfg :: eventParts) d (haltCommits d) := by
  unfold Machine.haltCommits
  dsimp only
  refine seq ((forEach fun _ _ => stopCopy.mono) |>.trans (forEach fun _ _ => ?_)) cfg
  split
  · exact refl.seq cfg |>.seq cancelEvent
  · exact refl

theorem enterHalt {string cause d} : OnlyParts (.power :: resetParts) d (enterHalt string cause d) := by
  unfold Machine.enterHalt
  dsimp only
  exact refl.seq course |>.trans (forEach fun _ _ => withdraw.mono) |>.seq haltCommits |>.seq fwHalt |>.seq courseEvent
    |>.trans (ite applyFallback.mono refl)

theorem courseHalt {d} : OnlyParts (.power :: resetParts) d (courseHalt d) := enterHalt

theorem fence {s d} : OnlyParts (.power :: eventParts) d (fence s d) :=
  refl.seq course |>.seq cnt |>.seq courseEvent |>.trans (ite refl power.mono)

theorem decideWindow {ps d} : OnlyParts (.power :: resetParts) d (decideWindow ps d) := by
  unfold Machine.decideWindow
  split
  · exact wire.mono
  · exact refl.seq wire |>.seq fence
  · exact courseHalt

theorem settleWindows {n d} : OnlyParts (.power :: resetParts) d (settleWindows n d) := by
  induction n generalizing d with
  | zero => exact refl
  | succ n ih =>
    unfold Machine.settleWindows
    split
    · exact refl
    · exact ite (refl.seq course |>.seq decideWindow |>.trans ih) refl

theorem stringPresents {s w d} : OnlyParts (.power :: resetParts) d (stringPresents s w d) :=
  ite refl (refl.seq course |>.seq settleWindows)

theorem windowExpiry {d} : OnlyParts (.power :: resetParts) d (windowExpiry d) := by
  unfold Machine.windowExpiry
  dsimp only
  split
  · exact refl
  · exact refl.seq course |>.seq decideWindow |>.seq settleWindows

theorem stringFault {s d} : OnlyParts (.power :: resetParts) d (stringFault s d) :=
  ite refl <| ite (refl.seq fence |>.seq settleWindows) <| ite courseHalt refl

theorem stringBistDone {s pass d} : OnlyParts [.course] d (stringBistDone s pass d) := ite refl course

theorem restartTimer {d} : OnlyParts [.time, .cnt, .course, .power] d (restartTimer d) := by
  unfold Machine.restartTimer
  dsimp only
  split
  · exact refl
  · exact ite refl (refl.seq advanceTo |>.seq course |>.seq power)

theorem holdReached {d} : OnlyParts fetchParts d (holdReached d) := ite applyFallback refl

/-! ### Monitors and the backup domain (16 R473 to R485) -/

theorem envWarn {quantity rail value cleared d} : OnlyParts eventParts d (envWarn quantity rail value cleared d) :=
  raise

theorem railWarning {rail mv d} : OnlyParts (.tamper :: eventParts) d (railWarning rail mv d) :=
  ite refl <| ite tamper.mono (refl.seq tamper |>.seq envWarn)

theorem backupAlarm {alarms vbatLow value d} : OnlyParts [.vault, .keys, .msec] d (backupAlarm alarms vbatLow value d) :=
  ite refl <| ite (cryptoErase.seq vault) (refl.seq vaultLog |>.trans (ite refl vault.mono))

theorem backupSample {b d} : OnlyParts [.time, .tamper, .vault, .keys, .msec] d (backupSample b d) :=
  ite refl (refl.seq tamper |>.seq time |>.seq tamper |>.seq backupAlarm)

theorem bkclkStopped {d} : OnlyParts [.vault, .keys, .msec] d (bkclkStopped d) := ite refl backupAlarm

/-! ### The tamper log and the journal (16 R488, R496 to R499) -/

theorem copyEntry {d} : OnlyParts (.mram :: .vault :: eventParts) d (copyEntry d) := by
  unfold Machine.copyEntry
  dsimp only
  split
  · exact refl
  split
  · exact refl.seq vault |>.seq mramLog |>.seq raise
  · exact vault.mono

theorem eraseRegion {r how d} : OnlyParts [.mram, .fw] d (eraseRegion r how d) := by
  unfold Machine.eraseRegion
  split
  · exact mram.mono
  · exact mram.mono
  · exact fw.mono
  · exact mram.mono
  · exact ite mram.mono mram.mono
  · exact mram.mono
  · exact mram.mono
  · exact ite mram.mono mram.mono
  · exact mram.mono

theorem appendLog {d} : OnlyParts [.mram, .vault] d (appendLog d) := (forEach fun _ _ => mramLog.mono).seq vault

theorem jnlWrite {j d} : OnlyParts [.tamper, .mram, .vault, .keys, .fw, .msec] d (jnlWrite j d) := by
  unfold Machine.jnlWrite
  split
  · exact refl
  · exact refl
  · exact mram.mono
  · exact appendLog.mono
  · exact cryptoErase.mono
  · exact eraseRegion.mono
  · exact mram.mono
  · exact refl.seq mram |>.seq tamper
  · exact mram.mono

theorem lcEvent {old new step cause d} : OnlyParts eventParts d (lcEvent old new step cause d) := raise

theorem jnlEnd {d} : OnlyParts (.tamper :: .mram :: eventParts) d (jnlEnd d) := by
  unfold Machine.jnlEnd
  dsimp only
  split
  · exact refl.seq mram |>.seq lcEvent
  · exact refl.seq mram |>.seq lcEvent |>.seq finish |>.seq tamper

theorem jnlBurst {d} : OnlyParts [.host, .cnt, .course, .tamper, .mram, .vault, .keys, .fw, .msec, .wire] d (jnlBurst d) := by
  unfold Machine.jnlBurst
  dsimp only
  split
  · exact refl
  · exact jnlEnd.mono
  · exact ite mram.mono (refl.seq jnlWrite |>.seq mram)

theorem jnlOpen {op target d} : OnlyParts [.tamper, .mram] d (jnlOpen op target d) := refl.seq mram |>.seq tamper

theorem journalStep {d} :
    OnlyParts [.host, .cnt, .course, .tamper, .mram, .vault, .keys, .fw, .power, .msec, .wire] d (journalStep d) := by
  unfold Machine.journalStep
  split
  · exact refl
  extract_lets d1 d2
  have h2 : OnlyParts [.host, .cnt, .course, .tamper, .mram, .vault, .keys, .fw, .power, .msec, .wire] d d2 := by
    dsimp only [d1, d2]
    split
    · exact refl.seq tamper |>.seq jnlOpen
    · exact refl.seq tamper |>.trans (ite jnlBurst.mono refl)
  exact ite (h2.seq power) h2

/-! ### Time bases, banks and gates (11 R338, 02 R39, R60, 12 R365 to R368) -/

theorem fretStepEvent {old derived d} : OnlyParts eventParts d (fretStepEvent old derived d) := raiseAll

theorem cancelAll {d} : OnlyParts (.cfg :: .fw :: .smv :: eventParts) d (cancelAll d) := by
  unfold Machine.cancelAll
  dsimp only
  refine seq (trans ?_ (forEach fun _ _ => ?_)) cancelActivation
  · refine forEach fun _ _ => ?_
    split
    · exact refl.seq cfg |>.seq cancelEvent
    · exact refl
  · split
    · exact refl.seq disarmSwitch |>.seq cancelEvent
    · exact refl

theorem fretStep {back force d} :
    OnlyParts [.host, .cfg, .fret, .cnt, .course, .fw, .smv, .wire] d (fretStep back force d) :=
  ite refl <| ite raiseAll.mono <| ite refl <| ite (refl.seq fret |>.seq cancelAll |>.seq fretStepEvent) <|
  ite refl fretStepEvent.mono

theorem countOverrun {p before after_ d} : OnlyParts [.cnt, .fr, .smv] d (countOverrun p before after_ d) := by
  unfold Machine.countOverrun
  dsimp only
  split
  · split
    · exact ite (refl.seq smv |>.seq cnt) refl
    · exact refl
  split
  · exact ite (refl.seq fr |>.seq cnt) refl
  · exact refl

theorem switchGates {p s before d} : OnlyParts (.fr :: .eg :: .smv :: eventParts) d (switchGates p s before d) :=
  refl.seq eg |>.seq countOverrun |>.seq raiseFrom |>.seq refreshActive

theorem stepGates {i o d} : OnlyParts (.fr :: .eg :: .smv :: eventParts) d (stepGates i o d) := by
  unfold Machine.stepGates
  dsimp only
  refine forEach fun _ _ => ?_
  split
  · exact switchGates
  split
  · exact refl
  · exact ite refl (refl.seq eg |>.seq countOverrun |>.seq refreshActive)

theorem tbApply {i d} :
    OnlyParts [.host, .cfg, .fret, .time, .cnt, .course, .fw, .fr, .eg, .smv, .freeCtr, .wire] d (tbApply i d) := by
  unfold Machine.tbApply
  dsimp only
  split
  · exact refl
  split
  · exact refl.seq advanceTo |>.seq time |>.seq stepGates |>.trans (ite fretStep.mono refl)
  exact refl.seq advanceTo |>.seq time |>.seq stepGates |>.trans (ite fretStep.mono refl)
    |>.seq (HostSide.deliver _ HostSide.finish ..).onlyParts

theorem dropOldEpoch {ts d} : OnlyParts frameParts d (dropOldEpoch ts d) :=
  forEach fun _ _ => refl.seq cnt |>.seq (FrameSide.dropFrame ..).parts

theorem bankRelease {d} : OnlyParts (.cfg :: frameParts) d (bankRelease d) := by
  unfold Machine.bankRelease
  dsimp only
  split
  · exact refl
  · exact refl.seq advanceTo |>.seq cfg |>.seq dropOldEpoch

theorem gateSwitch {p d} : OnlyParts [.host, .time, .cnt, .course, .fr, .eg, .smv, .wire] d (gateSwitch p d) := by
  unfold Machine.gateSwitch
  dsimp only
  split
  · exact refl
  · exact refl.seq advanceTo |>.seq switchGates

theorem gateEntryChange {p d} : OnlyParts [.time, .cnt, .fr, .eg, .smv] d (gateEntryChange p d) := by
  unfold Machine.gateEntryChange
  dsimp only
  split
  · exact refl
  · exact refl.seq advanceTo |>.seq eg |>.seq countOverrun |>.seq refreshActive

end OnlyParts

/-! ### What the effects of the host's commands change (02 R47 to R55, 09 R294) -/

namespace OnlyParts

theorem setSlot {n s d} : OnlyParts [.keys] d (setSlot n s d) := keys

theorem handOver {n d} : OnlyParts [.keys, .msec] d (handOver n d) := ite (refl.seq msec |>.seq keys |>.seq settleSlot) refl

theorem validRecords {dom handle n d} : OnlyParts [.msec] d (validRecords dom handle n d) :=
  forEach fun _ _ => forEach fun _ _ => ite msec msec

theorem installPinned {n s d} : OnlyParts [.keys, .msec] d (installPinned n s d) := by
  unfold Machine.installPinned
  dsimp only
  split
  · exact refl.seq setSlot |>.seq validRecords |>.seq handOver
  · exact refl.seq setSlot |>.seq validRecords

theorem takeSeal {dom d} : OnlyParts [.mram, .keys] d (takeSeal dom d).2 := seq (ite mram.mono refl) keys

theorem sealBlob {attr dom handle parent tag key d} :
    OnlyParts [.mram, .keys] d (sealBlob attr dom handle parent tag key d).2 := takeSeal

theorem newSession {d} : OnlyParts [.host, .freeCtr] d (newSession d) := refl.seq freeCtr |>.seq host

theorem setActivation {slot target order revert dom d} :
    OnlyParts [.cfg, .fw] d (setActivation slot target order revert dom d) :=
  ite (refl.seq fw |>.seq writeBanks) fw.mono

end OnlyParts

/-- The configuration work of every other domain is as it was. -/
theorem onDomCfg_domCfg_of_ne {dom k : Nat} (f : DomCfg → DomCfg) (d : Dev) (h : k ≠ dom) :
    (d.onDomCfg dom f).domCfg k = d.domCfg k := by
  simp only [Dev.domCfg, Dev.onDomCfg, getD_modAt, h.symm, false_and, if_false]

/-- Every other Smivia group is as it was. -/
theorem onGroup_group_of_ne {slice k : Nat} (f : Group → Group) (d : Dev) (h : k ≠ slice) :
    (d.onGroup slice f).group k = d.group k := by
  simp only [Dev.group, Dev.onGroup, getD_modAt, h.symm, false_and, if_false]

/-- Every other key slot is as it was. -/
theorem setSlot_slot_of_ne {n k : Nat} (s : Slot) (d : Dev) (h : k ≠ n) : (setSlot n s d).slot k = d.slot k := by
  simp only [Dev.slot, setSlot, Dev.onKeys, Tbl.get_set, h.symm, if_false]

theorem settleSlot_slot_of_ne {n k : Nat} (d : Dev) (h : k ≠ n) : (settleSlot n d).slot k = d.slot k := by
  unfold settleSlot
  dsimp only
  split
  · exact setSlot_slot_of_ne _ d h
  · rfl

theorem retireSlot_slot_of_ne {waits : Bool} {n k : Nat} (d : Dev) (h : k ≠ n) :
    (retireSlot waits n d).slot k = d.slot k := by
  unfold retireSlot
  dsimp only
  split
  · rfl
  · exact (settleSlot_slot_of_ne _ h).trans (setSlot_slot_of_ne _ _ h)

theorem disarmSwitch_group_of_ne {n k : Nat} (d : Dev) (h : k ≠ n) : (disarmSwitch n d).group k = d.group k := by
  unfold disarmSwitch
  dsimp only
  split
  · exact (onGroup_group_of_ne _ _ h).trans (onGroup_group_of_ne _ d h)
  · exact onGroup_group_of_ne _ d h

/-- Settles O57: each effect writes the parts named by its own steps; in a table that domains, slots or groups share, its own
entry. -/
theorem effectFrames : Obligations.EffectFrames := fun d _ _ =>
  ⟨fun _ => ⟨.cfg, rfl, fun _ h => onDomCfg_domCfg_of_ne _ d h⟩, ⟨.cfg, rfl, fun _ h => onDomCfg_domCfg_of_ne _ d h⟩,
    fun _ => .fret, fun _ => .power, .draw, fun _ _ _ _ _ _ => .sealBlob, fun _ => .installPinned,
    fun _ => ⟨.retireSlot, fun _ h => retireSlot_slot_of_ne d h⟩, fun _ => .keys, .newSession, fun _ => .vault,
    fun _ _ => ⟨.smv, fun _ h => onGroup_group_of_ne _ d h⟩, .disarmSwitch, fun _ h => disarmSwitch_group_of_ne d h,
    fun _ _ _ _ _ _ => .time, .cnt, .lanes, fun _ => .cnt, fun _ => .fw, fun _ => .pkAsk, fun _ _ _ => .setActivation,
    .dropActivation⟩

/-! ### The frames of the rows -/

/-- A row that runs `f` on the device changes the parts that `f` changes, and nothing of the queue. -/
theorem KeepsTo.of_row {x : Instr} {f : Dev → Dev} {qs rs ps : List Part} (h : some rs = some ps)
    (hx : ∀ s, exec x s = .next (s.onDev f)) (hf : ∀ {d}, OnlyParts qs d (f d)) (hs : qs ⊆ rs := by decide) :
    KeepsTo ps x := by
  cases h
  intro s t ht
  rw [hx s] at ht
  cases ht
  exact ⟨hf.mono hs, State.onDev_pending ..⟩

/-- A row that is said to change any part. -/
theorem KeepsTo.of_every {x : Instr} {f : Dev → Dev} {rs ps : List Part} (h : some rs = some ps)
    (hx : ∀ s, exec x s = .next (s.onDev f)) (hs : ∀ p : Part, p ∈ rs) : KeepsTo ps x := by
  cases h
  intro s t ht
  rw [hx s] at ht
  cases ht
  exact ⟨fun p hp => absurd (hs p) hp, State.onDev_pending ..⟩

theorem hostRowFrames : Claims.HostRowFrames := by
  intro x ps h
  cases x
  case domainResetDone => exact .of_row h (fun _ => rfl) .domainResetDone
  case ringDisable => exact .of_row h (fun _ => rfl) (.atSlot fun _ _ => .ringDisable)
  case dtuInvalDone => exact .of_row h (fun _ => rfl) .host
  case pcieLinkUp => exact .of_row h (fun _ => rfl) .pcieUp
  case pcieConfigWrite => exact .of_row h (fun _ => rfl) .pcieConfig
  case dtuInval => exact .of_row h (fun _ => rfl) (.atSlot fun _ _ => .dtuInval)
  case dtuModeWrite => exact .of_row h (fun _ => rfl) (.atSlot fun _ _ => .dtuModeWrite)
  case ringEnable => exact .of_row h (fun _ => rfl) (.atSlot fun _ _ => .ringEnable)
  case msixVectorUnmask => exact .of_row h (fun _ => rfl) .msixUnmask
  case dtuErrClear => exact .of_row h (fun _ => rfl) (.atSlot fun _ _ => .dtuErrClear)
  case msixHoldoffExpiry => exact .of_row h (fun _ => rfl) .msixHoldoff
  case doorbellPoll => exact .of_row h (fun _ => rfl) .doorbellPoll
  case dmEventResend => exact .of_row h (fun _ => rfl) .dmResend
  case announceTimer => exact .of_row h (fun _ => rfl) .announce
  case hemunerAckFrame => exact .of_row h (fun _ => rfl) .hemunerAck
  case hemunerOtherFrame => exact .of_row h (fun _ => rfl) .hemunerOther
  case servoEvent => exact .of_row h (fun _ => rfl) .servoEvent
  case servoHoldover => exact .of_row h (fun _ => rfl) .servoHoldover
  case timePinEdge => exact .of_row h (fun _ => rfl) .timePinEdge
  case timePinOutput => exact .of_row h (fun _ => rfl) .timePinOutput
  case registerWrite =>
    exact .of_row h (fun _ => rfl) (.ite (.atSlot fun _ _ => .registerWrite) (.ite (.mono .msixTableWrite) .refl))
  case domainReset => exact .of_row h (fun _ => rfl) (.atSlot fun _ _ => .domainReset)
  case pcieFlr => exact .of_row h (fun _ => rfl) .pcieFlr
  case pcieLinkDown => exact .of_row h (fun _ => rfl) .pcieDown
  case perstNAssert => exact .of_row h (fun _ => rfl) .pcieDown
  case mgSyncLoss => exact .of_row h (fun _ => rfl) .mgSyncLoss
  case mgSyncAcquired => exact .of_every h (fun _ => rfl) fun p => by cases p <;> decide
  case prbsCheckerLock => exact .of_row h (fun _ => rfl) .prbsCheckerLock
  case laneAcquired => exact .of_row h (fun _ => rfl) .laneAcquired
  case laneAdaptDone => exact .of_row h (fun _ => rfl) .laneAdaptDone
  case laneRetryTimer => exact .of_row h (fun _ => rfl) .laneRetryTimer
  case laneRelockTimeout => exact .of_row h (fun _ => rfl) .laneRelockTimeout
  case faultMirrorTimer => exact .of_row h (fun _ => rfl) .faultMirrorTimer
  case laneAlignTimeout => exact .of_row h (fun _ => rfl) .laneAlignTimeout
  case laneAligned => exact .of_row h (fun _ => rfl) .laneAligned
  case laneLockLoss => exact .of_row h (fun _ => rfl) .laneLockLoss
  case laneRelocked => exact .of_row h (fun _ => rfl) .laneRelocked
  case armCopyDone => exact .of_row h (fun _ => rfl) .armCopyDone
  case cancelRewriteDone => exact .of_row h (fun _ => rfl) .cancelRewriteDone
  all_goals nomatch h

theorem frameRowFrames : Claims.FrameRowFrames := by
  intro x ps h
  cases x
  case frameIngress => exact .of_row h (fun _ => rfl) .frameIngress
  case portRxFrame => exact .of_row h (fun _ => rfl) .portRxFrame
  case parseComplete => exact .of_row h (fun _ => rfl) .parseComplete
  case recircTimeout => exact .of_row h (fun _ => rfl) .recircTimeout
  case parkTimeout => exact .of_row h (fun _ => rfl) .parkTimeout
  case puntEntryWrite => exact .of_row h (fun _ => rfl) .puntEntryWrite
  case suspendedFetchAbort => exact .of_row h (fun _ => rfl) .suspendedFetchAbort
  case cipherStageExit => exact .of_row h (fun _ => rfl) .cipherStageExit
  case bankRelease => exact .of_row h (fun _ => rfl) .bankRelease
  case frameEndArrival => exact .of_row h (fun _ => rfl) .frameEndArrival
  case transmissionSelection => exact .of_row h (fun _ => rfl) .transmissionSelection
  case frameTxDone => exact .of_row h (fun _ => rfl) .frameTxDone
  case egressUnderrun => exact .of_row h (fun _ => rfl) .egressUnderrun
  case llRelease => exact .of_row h (fun _ => rfl) .llReleaseFrame
  case onestepLaunch => exact .of_row h (fun _ => rfl) .onestepLaunch
  case gateSwitch => exact .of_row h (fun _ => rfl) .gateSwitch
  case gateEntryChange => exact .of_row h (fun _ => rfl) .gateEntryChange
  case blobReadCompletion => exact .of_row h (fun _ => rfl) .blobReadCompletion
  case zeroingDone => exact .of_row h (fun _ => rfl) .zeroingDone
  case learnProposalProcess => exact .of_row h (fun _ => rfl) .learnProposalProcess
  case orderCacheRetire => exact .of_row h (fun _ => rfl) .orderCacheRetire
  case smvFrameRx => exact .of_row h (fun _ => rfl) .smvFrameRx
  case pairMessageAssembled => exact .of_row h (fun _ => rfl) (.seq (ps := .freeCtr :: alarmParts) .pairMessage .pairCheck)
  case smvDefectDeclare => exact .of_row h (fun _ => rfl) .smvDeclare
  case smvDefectHoldoffExpiry => exact .of_row h (fun _ => rfl) .smvHoldoff
  case smvDefectClear => exact .of_row h (fun _ => rfl) .smvClear
  case pairTimeout => exact .of_row h (fun _ => rfl) .pairTimeout
  case pairBackoffExpiry => exact .of_row h (fun _ => rfl) .pairBackoff
  case rekeyIntervalExpiry => exact .of_row h (fun _ => rfl) .rekeyInterval
  all_goals nomatch h

theorem systemRowFrames : Claims.SystemRowFrames := by
  intro x ps h
  cases x
  case ctlLossHoldReached => exact .of_row h (fun _ => rfl) .holdReached
  case stringWritePresented => exact .of_row h (fun _ => rfl) .stringPresents
  case voteWindowExpiry => exact .of_row h (fun _ => rfl) .windowExpiry
  case stringFaultReport => exact .of_row h (fun _ => rfl) .stringFault
  case stringWatchdogExpiry => exact .of_row h (fun _ => rfl) .stringFault
  case stringBistDone => exact .of_row h (fun _ => rfl) .stringBistDone
  case courseRestartTimer => exact .of_row h (fun _ => rfl) .restartTimer
  case fwTrialEnd => exact .of_row h (fun _ => rfl) .fwTrialEnd
  case railWarningTimer => exact .of_row h (fun _ => rfl) .railWarning
  case backupSample => exact .of_row h (fun _ => rfl) .backupSample
  case tamperLogCopy => exact .of_row h (fun _ => rfl) (.ite .copyEntry .refl)
  case governorSample => exact .of_row h (fun _ => rfl) .power
  case lcJournalStep => exact .of_row h (fun _ => rfl) .journalStep
  case bkclkStopped => exact .of_row h (fun _ => rfl) .bkclkStopped
  case tbApply => exact .of_row h (fun _ => rfl) .tbApply
  all_goals nomatch h

/-- Settles O58: each row by the frame of the function that it runs on the device. -/
theorem rowFrames : Obligations.RowFrames := ⟨hostRowFrames, frameRowFrames, systemRowFrames⟩

end Sys2Proof.Machine

namespace Sys2Proof.Machine

/-! ### One lane, and what leaves it as it was (03 R70) -/

theorem onLane_lane (l m : Nat) (f : Lane → Lane) (d : Dev) :
    (onLane l f d).lane m = if l = m ∧ m < d.lanes.lanes.length then f (d.lane m) else d.lane m := getD_modAt ..

theorem onLane_lane_same {l : Nat} {d : Dev} (h : l < d.lanes.lanes.length) (f : Lane → Lane) :
    (onLane l f d).lane l = f (d.lane l) := by rw [onLane_lane, if_pos ⟨rfl, h⟩]

theorem onLane_lane_other {l m : Nat} (h : m ≠ l) (f : Lane → Lane) (d : Dev) : (onLane l f d).lane m = d.lane m := by
  rw [onLane_lane, if_neg fun e => h e.1.symm]

theorem setPhase_lane_same {l : Nat} {d : Dev} (h : l < d.lanes.lanes.length) (p : LanePhase) :
    (setPhase l p d).lane l = { d.lane l with phase := p, since := d.now } := onLane_lane_same h _

theorem setPhase_lane_other {l m : Nat} (h : m ≠ l) (p : LanePhase) (d : Dev) : (setPhase l p d).lane m = d.lane m :=
  onLane_lane_other h _ d

/-- A change of other parts than the lanes leaves each lane. -/
theorem OnlyParts.lane {ps : List Part} {d e : Dev} (h : OnlyParts ps d e) (m : Nat) (hp : Part.lanes ∉ ps := by decide) :
    e.lane m = d.lane m := congrArg (fun x : LaneSt => x.lanes.getD m {}) (h .lanes hp)

@[simp] theorem advanceTo_lanes (t : Nat) (d : Dev) : (advanceTo t d).lanes = d.lanes :=
  OnlyParts.advanceTo .lanes (by decide)

@[simp] theorem advanceTo_lane (t m : Nat) (d : Dev) : (advanceTo t d).lane m = d.lane m := OnlyParts.advanceTo.lane m

@[simp] theorem advanceTo_wire (t : Nat) (d : Dev) : (advanceTo t d).wire = d.wire := OnlyParts.advanceTo .wire (by decide)

@[simp] theorem laneDown_lane (l cause m : Nat) (d : Dev) : (laneDown l cause d).lane m = d.lane m := OnlyParts.laneDown.lane m

@[simp] theorem laneDown_time (l cause : Nat) (d : Dev) : (laneDown l cause d).time = d.time :=
  OnlyParts.laneDown .time (by decide)

@[simp] theorem laneUpEvent_lane (l m : Nat) (fast : Bool) (d : Dev) : (laneUpEvent l fast d).lane m = d.lane m :=
  OnlyParts.laneUpEvent.lane m

@[simp] theorem portCame_lane (p m : Nat) (d : Dev) : (portCame p d).lane m = d.lane m := OnlyParts.portCame.lane m

@[simp] theorem bumpBy_lane (code inst n m : Nat) (d : Dev) : (bumpBy code inst n d).lane m = d.lane m := rfl

@[simp] theorem withdrawLane_lane (l m : Nat) (d : Dev) : (withdrawLane l d).lane m = d.lane m := rfl

@[simp] theorem nextFree_lane (m : Nat) (d : Dev) : d.nextFree.lane m = d.lane m := rfl

@[simp] theorem askLeave_lane (x : Leave) (m : Nat) (d : Dev) : (askLeave x d).lane m = d.lane m := rfl

/-- The links follow the lanes, and change none. -/
@[simp] theorem refreshLinks_lane (m : Nat) (d : Dev) : (refreshLinks d).lane m = d.lane m := by
  refine (forEach_keeps (·.lane m) _ _ _ fun k d => OnlyParts.smvStream.lane m).trans
    (forEach_keeps (·.lane m) _ _ _ fun p d => ?_)
  dsimp only
  split
  · exact OnlyParts.dropLaunches.lane m
  · rfl

/-! ### Leave to adapt (03 R76, R77, R79) -/

theorem withdrawLane_queue (l : Nat) (d : Dev) : Leave.lane l ∉ (withdrawLane l d).power.gov.queue := by
  simp [withdrawLane, without]

/-- A lane that asks for leave is in the governor's queue. -/
theorem askLeave_queue (x : Leave) (d : Dev) : x ∈ (askLeave x d).power.gov.queue := by
  simp only [askLeave, Dev.onGov_power]
  split
  case isTrue h => simpa using h
  case isFalse => simp

theorem startAdapt_queue (l : Nat) (d : Dev) : Leave.lane l ∉ (startAdapt l d).power.gov.queue := by
  unfold startAdapt
  dsimp only
  split <;> exact withdrawLane_queue l d

theorem startAdapt_lane_other {l m : Nat} (h : m ≠ l) (d : Dev) : (startAdapt l d).lane m = d.lane m := by
  unfold startAdapt
  dsimp only
  split <;> exact onLane_lane_other h _ _

theorem startAdapt_adapts {l : Nat} {d : Dev} (hf : d.eqFixed l = false) :
    startAdapt l d = setPhase l .adapt (withdrawLane l d) := by
  have hf : (withdrawLane l d).eqFixed l = false := hf
  simp [startAdapt, hf]

theorem startAdapt_fixed {l : Nat} {d : Dev} (hf : d.eqFixed l = true) : startAdapt l d =
    enterAlign l (Config.freeBits 32 d.freeCtr).toNat (d.eqStaged l) (withdrawLane l d).nextFree :=
  if_pos (show (withdrawLane l d).eqFixed l = true from hf)

theorem enterAlign_lane_same {l : Nat} {d : Dev} (h : l < d.lanes.lanes.length) (ps : Nat) (eq : List Int) :
    (enterAlign l ps eq d).lane l = { d.lane l with phase := .align, since := d.now, gearbox := ps % 2 ^ 32, eq := eq,
                                                    eqSince := if d.eqAuto l then some d.now else none } := onLane_lane_same h _

/-- A lane of a phase other than OFF is one of the device's. -/
theorem lane_lt_of_phase {m : Nat} {d : Dev} (h : (d.lane m).phase ≠ .off) : m < d.lanes.lanes.length := by
  by_contra hm
  exact h (by rw [Dev.lane, List.getD_eq_default _ _ (Nat.le_of_not_lt hm)])

/-- One more element of a list meets a predicate. -/
theorem filter_modAt_length {α : Type} (p : α → Bool) (f : α → α) (e : α) (l : List α) (i : Nat) (hi : i < l.length)
    (h0 : p (l.getD i e) = false) (h1 : p (f (l.getD i e)) = true) :
    ((modAt l i f).filter p).length = (l.filter p).length + 1 := by
  induction l generalizing i with
  | nil => exact absurd hi (Nat.not_lt_zero _)
  | cons a l ih =>
    cases i with
    | zero =>
      have h0 : p a = false := h0
      have h1 : p (f a) = true := h1
      simp [modAt, h0, h1]
    | succ i =>
      have hl := ih i (Nat.lt_of_succ_lt_succ hi) h0 h1
      simp only [modAt] at hl
      simp only [modAt, List.modify_succ_cons, List.filter_cons]
      split <;> simp [hl]

theorem setPhase_adapting {m : Nat} {d : Dev} (hm : m < d.lanes.lanes.length) (h : (d.lane m).phase ≠ .adapt) :
    (setPhase m .adapt d).adapting = d.adapting + 1 :=
  filter_modAt_length (fun x : Lane => decide (x.phase = .adapt)) (fun x => { x with phase := .adapt, since := d.now }) {} _ m hm
    (decide_eq_false h) (decide_eq_true rfl)

theorem firstWaiting_phase {m : Nat} {d : Dev} (h : d.firstWaiting = some m) : (d.lane m).phase = .waitLeave := by
  obtain ⟨x, -, hx⟩ := List.exists_of_findSome?_eq_some h
  cases x with
  | lane k =>
    dsimp only at hx
    split at hx
    case isTrue hk => exact Option.some.inj hx ▸ hk
    case isFalse => exact nomatch hx
  | _ => exact nomatch hx

/-- Which lane has waited longest depends on the queue, and on which lanes wait. -/
theorem firstWaiting_congr {d e : Dev} (hq : e.power.gov.queue = d.power.gov.queue)
    (hp : ∀ m, (e.lane m).phase = .waitLeave ↔ (d.lane m).phase = .waitLeave) : e.firstWaiting = d.firstWaiting := by
  unfold Dev.firstWaiting
  rw [hq]
  congr 1
  funext x
  cases x <;> simp [hp]

theorem passPlace_none {d : Dev} (h : d.firstWaiting = none) : passPlace d = d := by simp [passPlace, passOn, h]

/-- The place goes to the lane that has waited longest, and ends there where that lane has to adapt. -/
theorem passPlace_some {m : Nat} {d : Dev} (h : d.firstWaiting = some m) (hf : d.eqFixed m = false) :
    passPlace d = startAdapt m d := by
  have hphase := firstWaiting_phase h
  have hcount : (startAdapt m d).adapting = d.adapting + 1 := by
    rw [startAdapt_adapts hf]
    exact setPhase_adapting (d := withdrawLane m d) (lane_lt_of_phase (d := d) (by simp [hphase])) (by simp [hphase])
  simp [passPlace, passOn, h, hcount]

/-! ### The rows of a lane (03 R70 to R77) -/

theorem exec_laneAcquired (l : Nat) (s : State) : exec (.laneAcquired l) s = .next (s.onDev (laneAcquired l)) := rfl
theorem exec_laneAdaptDone (l ps : Nat) (s : State) : exec (.laneAdaptDone l ps) s = .next (s.onDev (laneAdaptDone l ps)) := rfl
theorem exec_laneAligned (l : Nat) (inv : Bool) (pos tag n skew : Nat) (s : State) :
    exec (.laneAligned l inv pos tag n skew) s = .next (s.onDev (laneAligned l inv pos tag n skew)) := rfl
theorem exec_laneAlignTimeout (l : Nat) (s : State) :
    exec (.laneAlignTimeout l) s = .next (s.onDev (laneAlignTimeout l)) := rfl
theorem exec_laneRetryTimer (l : Nat) (s : State) : exec (.laneRetryTimer l) s = .next (s.onDev (laneRetryTimer l)) := rfl
theorem exec_laneLockLoss (l cause : Nat) (s : State) :
    exec (.laneLockLoss l cause) s = .next (s.onDev (laneLockLoss l cause)) := rfl
theorem exec_laneRelocked (l : Nat) (s : State) : exec (.laneRelocked l) s = .next (s.onDev (laneRelocked l)) := rfl
theorem exec_laneRelockTimeout (l : Nat) (s : State) :
    exec (.laneRelockTimeout l) s = .next (s.onDev (laneRelockTimeout l)) := rfl
theorem exec_prbsCheckerLock (l : Nat) (gained inverted : Bool) (errors : Nat) (s : State) :
    exec (.prbsCheckerLock l gained inverted errors) s = .next (s.onDev (prbsCheckerLock l gained inverted errors)) := rfl

section Lane

variable {l : Nat} {d : Dev}

theorem laneAcquired_starts (hp : (d.lane l).phase = .acquire) (hh : (d.lane l).held = none) (ha : d.adapting < 2) :
    laneAcquired l d = startAdapt l d := by
  simp [laneAcquired, hp, hh, freeAdapt, ha]

theorem laneAcquired_waits (hp : (d.lane l).phase = .acquire) (hh : (d.lane l).held = none) (ha : 2 ≤ d.adapting) :
    laneAcquired l d = askLeave (.lane l) (setPhase l .waitLeave d) := by
  simp [laneAcquired, hp, hh, freeAdapt, Nat.not_lt.2 ha]

/-- A lane that has adapted enters ALIGN, and its place passes on. -/
theorem laneAdaptDone_aligns (ps : Nat) (hp : (d.lane l).phase = .adapt) :
    laneAdaptDone l ps d = passPlace (enterAlign l ps (d.eqFound l) d.nextFree) := by
  simp [laneAdaptDone, hp]

/-- No lane waits, or no longer waits, because another has adapted. -/
theorem enterAlign_firstWaiting (ps : Nat) (eq : List Int) (hp : (d.lane l).phase = .adapt) :
    (enterAlign l ps eq d).firstWaiting = d.firstWaiting := by
  refine firstWaiting_congr rfl fun m => ?_
  simp only [enterAlign, onLane_lane]
  split
  case isTrue h => obtain ⟨rfl, -⟩ := h; simp [hp]
  case isFalse => rfl

theorem laneAdaptDone_alone (ps : Nat) (hp : (d.lane l).phase = .adapt) (hw : d.firstWaiting = none) :
    laneAdaptDone l ps d = enterAlign l ps (d.eqFound l) d.nextFree := by
  rw [laneAdaptDone_aligns ps hp]
  exact passPlace_none ((enterAlign_firstWaiting ps _ (d := d.nextFree) hp).trans hw)

theorem laneAdaptDone_passes (ps : Nat) {m : Nat} (hp : (d.lane l).phase = .adapt) (hw : d.firstWaiting = some m)
    (hf : d.eqFixed m = false) :
    laneAdaptDone l ps d = startAdapt m (enterAlign l ps (d.eqFound l) d.nextFree) := by
  rw [laneAdaptDone_aligns ps hp]
  exact passPlace_some ((enterAlign_firstWaiting ps _ (d := d.nextFree) hp).trans hw) hf

theorem laneAligned_refused {inv : Bool} {pos tag n skew p code : Nat} (hp : (d.lane l).phase = .align)
    (hu : (d.lane l).use = some (p, code)) (hg : d.isGroup p = true) (ha : d.groupAdmits (p / 8) l pos tag n = false) :
    laneAligned l inv pos tag n skew d = laneOrder p 1 d := by
  simp [laneAligned, hp, hu, hg, ha]

/-- A lane that is taken comes up; events and the links follow it. -/
theorem laneAligned_lane {inv : Bool} {pos tag n skew p code : Nat} (hp : (d.lane l).phase = .align)
    (hu : (d.lane l).use = some (p, code)) (hg : d.isGroup p = false) (m : Nat) :
    (laneAligned l inv pos tag n skew d).lane m = (onLane l (fun x => { x with
      phase := .up, since := d.now, fails := 0, inverted := inv, position := pos, skew := skew }) d).lane m := by
  simp [laneAligned, hp, hu, hg]

theorem laneAlignTimeout_retries (hp : (d.lane l).phase = .align) (hf : (d.lane l).fails + 1 < 3) :
    laneAlignTimeout l d = let e := advanceTo ((d.lane l).since + nsTicks (laneBound (d.lane l).use)) d
      onLane l (fun x => { x with phase := .acquire, since := e.now, fails := x.fails + 1 }) e := by
  simp [laneAlignTimeout, hp, hf]

theorem laneAlignTimeout_holds (hp : (d.lane l).phase = .align) (hf : 3 ≤ (d.lane l).fails + 1) :
    laneAlignTimeout l d = let e := advanceTo ((d.lane l).since + nsTicks (laneBound (d.lane l).use)) d
      laneDown l 7 (onLane l (fun x => { x with
        phase := .acquire, since := e.now, fails := 0, held := some (e.now + 50000000) }) e) := by
  have h100ms : nsTicks 100000000 = 50000000 := rfl
  simp [laneAlignTimeout, hp, Nat.not_lt.2 hf, h100ms]

theorem laneRetryTimer_ends {u : Nat} (hh : (d.lane l).held = some u) :
    laneRetryTimer l d = onLane l (fun x => { x with held := none }) (advanceTo u d) := by
  simp [laneRetryTimer, hh]

/-- A lane that loses its lock relocks; counters, its event and the links follow. -/
theorem laneLockLoss_lane {cause : Nat} (hp : (d.lane l).phase = .up) (hmin : 2 ≤ cause) (hmax : cause ≤ 6) (m : Nat) :
    (laneLockLoss l cause d).lane m = (setPhase l .relock d).lane m := by
  have hgo : ¬((d.lane l).phase ≠ .up ∨ cause < 2 ∨ 6 < cause) := by simp [hp, Nat.not_lt.2, hmin, hmax]
  simp only [laneLockLoss, if_neg hgo, refreshLinks_lane, laneDown_lane, bump, bumpBy_lane]
  split <;> rfl

theorem laneRelocked_lane (hp : (d.lane l).phase = .relock) (m : Nat) :
    (laneRelocked l d).lane m = (setPhase l .up d).lane m := by
  simp only [laneRelocked, hp, ne_eq, not_true_eq_false, if_false, refreshLinks_lane]
  cases (d.lane l).use <;> simp

theorem laneRelockTimeout_acquires (hp : (d.lane l).phase = .relock) : laneRelockTimeout l d =
    setPhase l .acquire (advanceTo ((d.lane l).since + nsTicks (laneBound (d.lane l).use)) d) := by
  simp [laneRelockTimeout, hp]

end Lane

/-! ### What each row does to its lane, and to the others -/

section LaneRow

variable {l : Nat} {d : Dev}

/-- A lane with leave adapts, or aligns at once with its staged coefficients; it asks for leave no longer. -/
theorem laneAcquired_leave (hl : l < d.lanes.lanes.length) (hp : (d.lane l).phase = .acquire) (hh : (d.lane l).held = none)
    (ha : d.adapting < 2) :
    (d.eqFixed l = false → (laneAcquired l d).lane l = { d.lane l with phase := .adapt, since := d.now }) ∧
    (d.eqFixed l = true → ∃ depth < 2 ^ 32, (laneAcquired l d).lane l = { d.lane l with
      phase := .align, since := d.now, gearbox := depth, eq := d.eqStaged l, eqSince := if d.eqAuto l then some d.now else none }) ∧
    Leave.lane l ∉ (laneAcquired l d).power.gov.queue := by
  rw [laneAcquired_starts hp hh ha]
  refine ⟨fun hf => ?_, fun hf => ⟨(Config.freeBits 32 d.freeCtr).toNat % 2 ^ 32, Nat.mod_lt _ (Nat.two_pow_pos 32), ?_⟩,
    startAdapt_queue l d⟩
  · rw [startAdapt_adapts hf]
    exact setPhase_lane_same (d := withdrawLane l d) hl _
  · rw [startAdapt_fixed hf]
    exact enterAlign_lane_same (d := (withdrawLane l d).nextFree) hl _ _

theorem laneAcquired_asks (hl : l < d.lanes.lanes.length) (hp : (d.lane l).phase = .acquire) (hh : (d.lane l).held = none)
    (ha : 2 ≤ d.adapting) : (laneAcquired l d).lane l = { d.lane l with phase := .waitLeave, since := d.now } ∧
      Leave.lane l ∈ (laneAcquired l d).power.gov.queue := by
  rw [laneAcquired_waits hp hh ha]
  exact ⟨setPhase_lane_same hl _, askLeave_queue _ _⟩

/-- The lane that has adapted aligns, the one that has waited longest adapts, and every other stays. -/
theorem laneAdaptDone_lanes (ps : Nat) (hl : l < d.lanes.lanes.length) (hp : (d.lane l).phase = .adapt)
    (hf : ∀ m, d.firstWaiting = some m → d.eqFixed m = false) :
    (laneAdaptDone l ps d).lane l = { d.lane l with phase := .align, since := d.now, gearbox := ps % 2 ^ 32, eq := d.eqFound l,
                                                    eqSince := if d.eqAuto l then some d.now else none } ∧
    (∀ m, d.firstWaiting = some m → ((laneAdaptDone l ps d).lane m).phase = .adapt ∧
      Leave.lane m ∉ (laneAdaptDone l ps d).power.gov.queue) ∧
    (∀ m, m ≠ l → d.firstWaiting ≠ some m → (laneAdaptDone l ps d).lane m = d.lane m) := by
  have halign := enterAlign_lane_same (d := d.nextFree) hl ps (d.eqFound l)
  have hrest : ∀ m, m ≠ l → (enterAlign l ps (d.eqFound l) d.nextFree).lane m = d.lane m := fun m hm => onLane_lane_other hm _ _
  cases hw : d.firstWaiting with
  | none =>
    rw [laneAdaptDone_alone ps hp hw]
    exact ⟨halign, fun m h => (nomatch h), fun m hm _ => hrest m hm⟩
  | some w =>
    have hwait := firstWaiting_phase hw
    have hwl : w ≠ l := by
      rintro rfl
      exact absurd (hp.symm.trans hwait) (by decide)
    have hin : w < (enterAlign l ps (d.eqFound l) d.nextFree).lanes.lanes.length :=
      lane_lt_of_phase (by simp [hrest w hwl, hwait])
    rw [laneAdaptDone_passes ps hp hw (hf w hw)]
    refine ⟨(startAdapt_lane_other hwl.symm _).trans halign, ?_, fun m hm hmw => ?_⟩
    · rintro m ⟨⟩
      refine ⟨?_, startAdapt_queue w _⟩
      rw [startAdapt_adapts (d := enterAlign l ps (d.eqFound l) d.nextFree) (hf w hw)]
      exact congrArg Lane.phase (setPhase_lane_same (d := withdrawLane w _) hin .adapt)
    · exact (startAdapt_lane_other (fun h => hmw (congrArg some h.symm)) _).trans (hrest m hm)

/-- A lane that has not aligned in time acquires again at that tick. -/
theorem laneAlignTimeout_again (hl : l < d.lanes.lanes.length) (hp : (d.lane l).phase = .align) (hf : (d.lane l).fails + 1 < 3) :
    (laneAlignTimeout l d).time.tclk = max d.now ((d.lane l).since + nsTicks (laneBound (d.lane l).use)) ∧
    (laneAlignTimeout l d).lane l = { d.lane l with
      phase := .acquire, since := (laneAlignTimeout l d).time.tclk, fails := (d.lane l).fails + 1 } := by
  rw [laneAlignTimeout_retries hp hf]
  refine ⟨advanceTo_now _ d, (onLane_lane_same (by simpa using hl) _).trans ?_⟩
  rw [advanceTo_lane]
  rfl

/-- The third failure in succession holds the lane for 100 ms. -/
theorem laneAlignTimeout_third (hl : l < d.lanes.lanes.length) (hp : (d.lane l).phase = .align) (hf : 3 ≤ (d.lane l).fails + 1) :
    (laneAlignTimeout l d).lane l = { d.lane l with
      phase := .acquire, since := (laneAlignTimeout l d).time.tclk, fails := 0,
      held := some ((laneAlignTimeout l d).time.tclk + 50000000) } := by
  rw [laneAlignTimeout_holds hp hf]
  dsimp only
  rw [laneDown_lane, laneDown_time, onLane_lane_same (by simpa using hl), advanceTo_lane]
  rfl

theorem laneRetryTimer_lane (hl : l < d.lanes.lanes.length) {u : Nat} (hh : (d.lane l).held = some u) :
    (laneRetryTimer l d).lane l = { d.lane l with held := none } ∧ (laneRetryTimer l d).time.tclk = max d.now u := by
  rw [laneRetryTimer_ends hh]
  refine ⟨(onLane_lane_same (by simpa using hl) _).trans ?_, advanceTo_now u d⟩
  rw [advanceTo_lane]

/-- A lane that has not relocked in time acquires again at that tick. -/
theorem laneRelockTimeout_lane (hl : l < d.lanes.lanes.length) (hp : (d.lane l).phase = .relock) :
    (laneRelockTimeout l d).lane l = { d.lane l with phase := .acquire, since := (laneRelockTimeout l d).time.tclk } ∧
    (laneRelockTimeout l d).time.tclk = max d.now ((d.lane l).since + nsTicks (laneBound (d.lane l).use)) := by
  rw [laneRelockTimeout_acquires hp]
  refine ⟨(setPhase_lane_same (by simpa using hl) _).trans ?_, advanceTo_now _ d⟩
  rw [advanceTo_lane]
  rfl

theorem prbsCheckerLock_locks (hl : l < d.lanes.lanes.length) (inverted : Bool) (errors : Nat) (hp : (d.lane l).phase = .test)
    (hk : (d.lane l).prbs.locked = false) : (prbsCheckerLock l true inverted errors d).lane l = { d.lane l with
      prbs := { (d.lane l).prbs with locked := true, inverted := inverted, errors := some ((d.lane l).prbs.errors.getD 0) } } := by
  simp [prbsCheckerLock, hp, onLane_lane_same hl, hk]

theorem prbsCheckerLock_counts (hl : l < d.lanes.lanes.length) (inverted : Bool) (errors : Nat) {e : Nat}
    (hp : (d.lane l).phase = .test) (hk : (d.lane l).prbs.locked = true) (he : (d.lane l).prbs.errors = some e) :
    (prbsCheckerLock l true inverted errors d).lane l = { d.lane l with
      prbs := { (d.lane l).prbs with errors := some (min (2 ^ 48 - 1) (e + errors)) } } := by
  simp [prbsCheckerLock, hp, onLane_lane_same hl, hk, he, satAdd, Nat.min_comm]

theorem prbsCheckerLock_loses (hl : l < d.lanes.lanes.length) (inverted : Bool) (errors : Nat) {e : Nat}
    (hp : (d.lane l).phase = .test) (hk : (d.lane l).prbs.locked = true) (he : (d.lane l).prbs.errors = some e) :
    (prbsCheckerLock l false inverted errors d).lane l = { d.lane l with prbs := { (d.lane l).prbs with
      locked := false, losses := min (2 ^ 16 - 1) ((d.lane l).prbs.losses + 1),
      errors := some (min (2 ^ 48 - 1) (e + errors)) } } := by
  simp [prbsCheckerLock, hp, onLane_lane_same hl, hk, he, satAdd, Nat.min_comm]

end LaneRow

theorem laneRows : Claims.LaneRows := by
  intro s l hl x now
  refine ⟨fun hp hh ha => ⟨_, exec_laneAcquired l s, laneAcquired_leave hl hp hh ha⟩,
    fun hp hh ha => ⟨_, exec_laneAcquired l s, laneAcquired_asks hl hp hh ha⟩,
    fun ps hp hf => ⟨_, exec_laneAdaptDone l ps s, laneAdaptDone_lanes ps hl hp hf⟩,
    fun inv pos tag n skew p code hp hu hg => ⟨_, exec_laneAligned l inv pos tag n skew s, ?_, fun m hm => ?_⟩,
    fun inv pos tag n skew p code hp hu hg ha => does_of_eq (exec_laneAligned ..) (laneAligned_refused hp hu hg ha),
    fun hp hf => ⟨_, exec_laneAlignTimeout l s, laneAlignTimeout_again hl hp hf⟩,
    fun hp hf => ⟨_, exec_laneAlignTimeout l s, laneAlignTimeout_third hl hp hf⟩,
    fun u hh => ⟨_, exec_laneRetryTimer l s, laneRetryTimer_lane hl hh⟩,
    fun cause hp hmin hmax => ⟨_, exec_laneLockLoss l cause s, ?_, fun m hm => ?_⟩,
    fun hp => ⟨_, exec_laneRelocked l s, ?_, fun m hm => ?_⟩,
    fun hp => ⟨_, exec_laneRelockTimeout l s, laneRelockTimeout_lane hl hp⟩,
    fun inverted errors hp hk => ⟨_, exec_prbsCheckerLock .., prbsCheckerLock_locks hl inverted errors hp hk⟩,
    fun inverted errors e hp hk he => ⟨_, exec_prbsCheckerLock .., prbsCheckerLock_counts hl inverted errors hp hk he⟩,
    fun inverted errors e hp hk he => ⟨_, exec_prbsCheckerLock .., prbsCheckerLock_loses hl inverted errors hp hk he⟩⟩
  · exact (laneAligned_lane hp hu hg l).trans (onLane_lane_same hl _)
  · exact (laneAligned_lane hp hu hg m).trans (onLane_lane_other hm _ _)
  · exact (laneLockLoss_lane hp hmin hmax l).trans (setPhase_lane_same hl _)
  · exact (laneLockLoss_lane hp hmin hmax m).trans (setPhase_lane_other hm _ _)
  · exact (laneRelocked_lane hp l).trans (setPhase_lane_same hl _)
  · exact (laneRelocked_lane hp m).trans (setPhase_lane_other hm _ _)

/-! ### The fault mirror (03 R80) -/

theorem exec_faultMirrorTimer (p : Nat) (s : State) : exec (.faultMirrorTimer p) s = .next (s.onDev (faultMirrorTimer p)) := rfl

theorem onLink_link (p q : Nat) (f : Link → Link) (d : Dev) :
    (onLink p f d).link q = if p = q ∧ q < d.lanes.links.length then f (d.link q) else d.link q := getD_modAt ..

@[simp] theorem advanceTo_tclk (t : Nat) (d : Dev) : (advanceTo t d).time.tclk = max d.now t := advanceTo_now t d

theorem advanceTo_link (t k : Nat) (d : Dev) : (advanceTo t d).link k = d.link k :=
  congrArg (fun x : LaneSt => x.links.getD k {}) (advanceTo_lanes t d)

/-- Whether the mirror of some port makes a transmitter send Local Fault. -/
def Dev.faultMade (d : Dev) (q : Nat) : Bool := d.lanes.links.any (fun k => decide (k.mirror = some q))

theorem setFault_same {q : Nat} {d : Dev} (h : (d.link q).localFault = d.faultMade q) : setFault q d = d := if_pos h

theorem setFault_changes {q : Nat} {d : Dev} (h : (d.link q).localFault ≠ d.faultMade q) :
    setFault q d = emit (.localFault q (d.faultMade q)) (onLink q (fun x => { x with localFault := d.faultMade q }) d) := if_neg h

@[simp] theorem setFault_time (q : Nat) (d : Dev) : (setFault q d).time = d.time := OnlyParts.setFault .time (by decide)

/-- The transmitter of a port follows the mirrors: a change leaves the device, and no mirror moves. -/
theorem setFault_spec {q : Nat} {d : Dev} (hq : q < d.lanes.links.length) :
    ((setFault q d).link q).localFault = d.faultMade q ∧ (∀ p, ((setFault q d).link p).mirror = (d.link p).mirror) ∧
    (setFault q d).wire = (if (d.link q).localFault = d.faultMade q then [] else [.localFault q (d.faultMade q)]) ++ d.wire := by
  by_cases h : (d.link q).localFault = d.faultMade q
  · rw [setFault_same h, if_pos h]
    exact ⟨h, fun _ => rfl, rfl⟩
  · rw [setFault_changes h, if_neg h]
    have hlink : ∀ p, (emit (.localFault q (d.faultMade q)) (onLink q (fun x => { x with localFault := d.faultMade q }) d)).link p =
        if q = p ∧ p < d.lanes.links.length then { d.link p with localFault := d.faultMade q } else d.link p := fun p =>
      onLink_link q p _ d
    refine ⟨by rw [hlink, if_pos ⟨rfl, hq⟩], fun p => ?_, rfl⟩
    rw [hlink]
    split <;> rfl

theorem faultMade_iff (q : Nat) (d : Dev) :
    d.faultMade q = true ↔ ∃ k < d.lanes.links.length, (d.link k).mirror = some q := by
  simp only [Dev.faultMade, List.any_eq_true, decide_eq_true_eq, List.mem_iff_getElem, Dev.link]
  constructor
  · rintro ⟨_, ⟨k, hk, rfl⟩, hm⟩
    exact ⟨k, hk, by rwa [List.getD_eq_getElem _ _ hk]⟩
  · rintro ⟨k, hk, hm⟩
    exact ⟨_, ⟨k, hk, rfl⟩, by rwa [List.getD_eq_getElem _ _ hk] at hm⟩

/-- The mirror of a port makes a partner send Local Fault, or none. -/
def setMirror (p : Nat) (m : Option Nat) (d : Dev) : Dev := onLink p (fun x => { x with mirror := m }) d

theorem setMirror_mirror_same {p : Nat} {d : Dev} (hp : p < d.lanes.links.length) (m : Option Nat) :
    ((setMirror p m d).link p).mirror = m := by rw [setMirror, onLink_link, if_pos ⟨rfl, hp⟩]

theorem setMirror_mirror_other {p k : Nat} (hk : k ≠ p) (m : Option Nat) (d : Dev) :
    ((setMirror p m d).link k).mirror = (d.link k).mirror := by rw [setMirror, onLink_link, if_neg fun h => hk h.1.symm]

@[simp] theorem setMirror_localFault (p k : Nat) (m : Option Nat) (d : Dev) :
    ((setMirror p m d).link k).localFault = (d.link k).localFault := by
  rw [setMirror, onLink_link]
  split <;> rfl

@[simp] theorem setMirror_links_length (p : Nat) (m : Option Nat) (d : Dev) :
    (setMirror p m d).lanes.links.length = d.lanes.links.length := modAt_length ..

@[simp] theorem setMirror_time (p : Nat) (m : Option Nat) (d : Dev) : (setMirror p m d).time = d.time := rfl

@[simp] theorem setMirror_wire (p : Nat) (m : Option Nat) (d : Dev) : (setMirror p m d).wire = d.wire := rfl

/-- With one port's mirror set, a transmitter's fault is made by that port, or by another that made it before. -/
theorem setMirror_faultMade {p q : Nat} {d : Dev} (hp : p < d.lanes.links.length) (m : Option Nat) :
    (setMirror p m d).faultMade q = (decide (m = some q) ||
      (List.range d.lanes.links.length).any (fun k => k != p && decide ((d.link k).mirror = some q))) := by
  rw [Bool.eq_iff_iff, faultMade_iff, setMirror_links_length]
  simp only [Bool.or_eq_true, decide_eq_true_eq, List.any_eq_true, List.mem_range, Bool.and_eq_true, bne_iff_ne, ne_eq]
  constructor
  · rintro ⟨k, hk, hm⟩
    by_cases hkp : k = p
    · subst hkp
      exact .inl ((setMirror_mirror_same hp m).symm.trans hm)
    · exact .inr ⟨k, hk, hkp, by rwa [setMirror_mirror_other hkp] at hm⟩
  · rintro (hm | ⟨k, hk, hkp, hm⟩)
    · exact ⟨p, hp, (setMirror_mirror_same hp m).trans hm⟩
    · exact ⟨k, hk, by rwa [setMirror_mirror_other hkp]⟩

theorem faultMirrorTimer_mirrors {p q : Nat} {d : Dev} (hm : d.mirrorOf p = some q) : faultMirrorTimer p d =
    setFault q (setMirror p (if (d.link p).bad then some q else none) (advanceTo ((d.link p).since + 500000) d)) := by
  have h1ms : nsTicks 1000000 = 500000 := rfl
  simp only [faultMirrorTimer, hm, h1ms, setMirror]

theorem faultMirror : Claims.FaultMirror := by
  intro s p q hm hp hq on
  have hlanes := advanceTo_lanes ((s.dev.link p).since + 500000) s.dev
  have hlink := fun k => advanceTo_link ((s.dev.link p).since + 500000) k s.dev
  rw [← hlanes] at hp hq
  have hmade : (setMirror p (if (s.dev.link p).bad then some q else none)
      (advanceTo ((s.dev.link p).since + 500000) s.dev)).faultMade q = on := by
    rw [setMirror_faultMade hp]
    simp only [hlanes, hlink, on]
    cases (s.dev.link p).bad <;> simp
  obtain ⟨hfault, hkeeps, hwire⟩ := setFault_spec (q := q) ((setMirror_links_length p _ _).symm ▸ hq)
  refine ⟨_, exec_faultMirrorTimer p s, ?_⟩
  rw [State.onDev_dev, faultMirrorTimer_mirrors hm]
  refine ⟨?_, (hkeeps p).trans (setMirror_mirror_same hp _), hfault.trans hmade, ?_⟩
  · rw [setFault_time, setMirror_time, advanceTo_tclk]
  · rw [hwire, hmade, setMirror_localFault, hlink, setMirror_wire, advanceTo_wire]

/-- Settles O31: each row by what it does to its lane and to the others, and the mirror by what it makes a transmitter send. -/
theorem lanes : Obligations.Lanes := ⟨laneRows, faultMirror⟩

end Sys2Proof.Machine

namespace Sys2Proof.Machine

/-! ### A frame under a keyed label (08 R254 to R257) -/

/-- The receive register that a frame names. -/
def SmvRx.regIndex (f : SmvRx) : Nat := leAt f.bytes 8 1 / 32 % 2

/-- That register of a slice, and the slot that holds its key. -/
def Dev.frameReg (d : Dev) (slice : Nat) (f : SmvRx) : RxReg := d.rxReg slice f.regIndex
def Dev.frameSlot (d : Dev) (slice : Nat) (f : SmvRx) : Slot := ((d.frameReg slice f).slot.map d.slot).getD {}

/-- The counter that a frame's low half recovers, where the frame has waited behind `k` received frames. -/
def Dev.frameCounter (d : Dev) (slice : Nat) (f : SmvRx) (k : Nat) : Option Nat :=
  recoverFc (rxBase (d.frameReg slice f) k) (beAt f.bytes 12 4)

/-- A frame opened under its register's key and a counter. -/
def Dev.frameOpened (d : Dev) (slice : Nat) (f : SmvRx) (c : Nat) : Bytes × Bool :=
  gcmOpen (d.frameSlot slice f).keyBytes (beBytes (d.smvChannel slice) 4 ++ beBytes c 8) (f.bytes.take 62)
    ((f.bytes.drop 64).take 8112) (bytesAt f.bytes 8176 16)

/-- A frame whose tag does not verify it, or whose counter is not above the last confirmed, fails; any other is confirmed. -/
def confirmAt (slice : Nat) (f : SmvRx) (c : Nat) (d : Dev) : Option Bytes × Dev :=
  if (d.frameOpened slice f c).2 = false then (none, tagFailed slice f.regIndex 0 f.crcOk d)
  else if (d.frameReg slice f).last.any (fun l => decide (c ≤ l)) then (none, tagFailed slice f.regIndex 0x0C2 f.crcOk d)
  else (some (d.frameOpened slice f c).1, rxConfirmed slice f.regIndex c f.crcOk d)

/-- A frame under an epoch of its group that its register holds. -/
structure Dev.HoldsEpoch (d : Dev) (slice : Nat) (f : SmvRx) : Prop where
  keyed : (d.group slice).rx.all (fun r => r.epoch = 0) = false
  loaded : (d.frameReg slice f).epoch ≠ 0
  same : (d.frameReg slice f).epoch = beAt f.bytes 10 2

section Open

variable {slice k : Nat} {f : SmvRx} {d : Dev}

theorem openSmv_unkeyed (hk : (d.group slice).rx.all (fun r => r.epoch = 0) = true) :
    openSmv slice f k d = (none, bump 0x0C4 slice d) := if_pos hk

theorem openSmv_otherEpoch (hk : (d.group slice).rx.all (fun r => r.epoch = 0) = false)
    (he : (d.frameReg slice f).epoch = 0 ∨ (d.frameReg slice f).epoch ≠ beAt f.bytes 10 2) :
    openSmv slice f k d = (none, tagFailed slice f.regIndex 0x0C3 f.crcOk d) :=
  (if_neg (Bool.eq_false_iff.1 hk)).trans (if_pos he)

theorem Dev.HoldsEpoch.goes (he : d.HoldsEpoch slice f) :
    ¬((d.frameReg slice f).epoch = 0 ∨ (d.frameReg slice f).epoch ≠ beAt f.bytes 10 2) :=
  not_or.2 ⟨he.loaded, not_not.2 he.same⟩

/-- Under its register's epoch a frame is decided by the slot, then by its counter. -/
theorem openSmv_holds (he : d.HoldsEpoch slice f) : openSmv slice f k d =
    if (d.frameSlot slice f).mark = false then (none, tagFailed slice f.regIndex 0 f.crcOk d)
    else if (d.frameSlot slice f).pairOk = false then
      (none, keyMismatch ((d.frameReg slice f).slot.getD 0) (tagFailed slice f.regIndex 0 f.crcOk d))
    else (d.frameCounter slice f k).elim (none, tagFailed slice f.regIndex 0 f.crcOk d) (fun c => confirmAt slice f c d) := by
  refine (if_neg (Bool.eq_false_iff.1 he.keyed)).trans ((if_neg he.goes).trans ?_)
  simp only [Bool.not_eq_true']
  refine ite_congr rfl (fun _ => rfl) fun _ => ite_congr rfl (fun _ => rfl) fun _ => ?_
  rw [show recoverFc (rxBase (d.rxReg slice (leAt f.bytes 8 1 / 32 % 2)) k) (beAt f.bytes 12 4) = d.frameCounter slice f k from rfl]
  cases d.frameCounter slice f k with
  | none => rfl
  | some c => rfl

theorem openSmv_unmarked (he : d.HoldsEpoch slice f) (hm : (d.frameSlot slice f).mark = false) :
    openSmv slice f k d = (none, tagFailed slice f.regIndex 0 f.crcOk d) := by
  rw [openSmv_holds he, if_pos hm]

theorem openSmv_mismatch (he : d.HoldsEpoch slice f) (hm : (d.frameSlot slice f).mark = true)
    (hp : (d.frameSlot slice f).pairOk = false) : openSmv slice f k d =
      (none, keyMismatch ((d.frameReg slice f).slot.getD 0) (tagFailed slice f.regIndex 0 f.crcOk d)) := by
  rw [openSmv_holds he, if_neg (by simp [hm]), if_pos hp]

theorem openSmv_noCounter (he : d.HoldsEpoch slice f) (hm : (d.frameSlot slice f).mark = true)
    (hp : (d.frameSlot slice f).pairOk = true) (hc : d.frameCounter slice f k = none) :
    openSmv slice f k d = (none, tagFailed slice f.regIndex 0 f.crcOk d) := by
  rw [openSmv_holds he, if_neg (by simp [hm]), if_neg (by simp [hp]), hc, Option.elim_none]

theorem openSmv_counter (he : d.HoldsEpoch slice f) (hm : (d.frameSlot slice f).mark = true)
    (hp : (d.frameSlot slice f).pairOk = true) {c : Nat} (hc : d.frameCounter slice f k = some c) :
    openSmv slice f k d = confirmAt slice f c d := by
  rw [openSmv_holds he, if_neg (by simp [hm]), if_neg (by simp [hp]), hc, Option.elim_some]

end Open

theorem recoverFc_iff (b low c : Nat) (h : low < 2 ^ 32) :
    recoverFc b low = some c ↔ c % 2 ^ 32 = low ∧ b ≤ c ∧ c < b + 2 ^ 32 ∧ c < 2 ^ 64 := by
  have h32 : 2 ^ 32 = 4294967296 := rfl
  have h64 : 2 ^ 64 = 18446744073709551616 := rfl
  simp only [h32, h64, recoverFc] at h ⊢
  split <;> split <;> simp only [reduceCtorEq, false_iff, Option.some.injEq] <;> omega

theorem smiviaOpen : Claims.SmiviaOpen := fun _ _ _ _ =>
  ⟨openSmv_unkeyed, fun hk => ⟨openSmv_otherEpoch hk, fun hl he =>
    ⟨openSmv_unmarked ⟨hk, hl, he⟩, openSmv_mismatch ⟨hk, hl, he⟩, fun hm hp =>
      ⟨openSmv_noCounter ⟨hk, hl, he⟩ hm hp, fun _ => openSmv_counter ⟨hk, hl, he⟩ hm hp⟩⟩⟩, recoverFc_iff⟩

/-! ### A run of blocks (04 R90, R113 to R115) -/

/-- A run of transcoded blocks, descrambled. -/
def smvFrameOf (b : Bytes) : Bytes := scramble (padTo frameLen b)

/-- The overhead's CRC fits (04 R94). -/
def ohCrcFits (x : Bytes) : Bool := decide (beAt x 62 2 = (ohCrc ((x.take 62).drop 6)).toNat)

/-- The wrong bits of an alignment word. -/
def fasWrong (x : Bytes) : Nat := ((List.zipWith (fun (x y : Byte) => popCount 8 (x ^^^ y).toNat) (x.take 6) fas)).sum

theorem CountsOnly.countMarkers (p : Nat) (errs : List LaneErrs) (d : Dev) : CountsOnly d (countMarkers p errs d) :=
  ⟨_, countMarkers_eq p errs d⟩

theorem CountsOnly.group {d e : Dev} (h : CountsOnly d e) (slice : Nat) : e.group slice = d.group slice := by
  obtain ⟨_, rfl⟩ := h
  rfl

theorem CountsOnly.groupPort {d e : Dev} (h : CountsOnly d e) (slice : Nat) : e.groupPort slice = d.groupPort slice := by
  obtain ⟨_, rfl⟩ := h
  rfl

section Run

variable {slice n at_ p : Nat} {b : Bytes} {bad : Bool} {errs : List LaneErrs} {d : Dev}

/-- A group with a port takes a run after the counts of its lanes. -/
theorem smvFrameRx_port (hp : d.groupPort slice = some p) : smvFrameRx slice b n bad at_ errs d =
    receiveBlocks slice b n bad at_ (countMarkers p errs (countFec p errs d)) := by
  simp only [smvFrameRx, hp]

theorem receiveBlocks_stops (h : (d.group slice).align = .noStream ∨ d.groupPort slice = none) :
    receiveBlocks slice b n bad at_ d = d :=
  if_pos (h.imp_right fun hp => Option.isNone_iff_eq_none.2 hp)

theorem smvFrameRx_noPort (hp : d.groupPort slice = none) : smvFrameRx slice b n bad at_ errs d = d := by
  simp only [smvFrameRx, hp]
  exact receiveBlocks_stops (.inr hp)

/-- What becomes of a run in a stream: it is searched, or passed over, or taken at its expected place. -/
def takeRun (slice : Nat) (x : Bytes) (bad : Bool) (at_ : Nat) (g : Group) (d : Dev) : Dev :=
  if g.align ≠ .inFrame then searchFrame slice (decide (x.take 6 = fas) && ohCrcFits x) at_ (leAt x 6 1) d
  else if at_ % 256 ≠ g.expAt % 256 then d
  else if fasWrong x ≤ 3 ∧ !bad then
    inFrameRx slice x (ohCrcFits x) (d.onGroup slice (fun g => { g with fasErrs := 0 }))
  else if g.fasErrs = 4 then outOfFrame slice (bump 0x061 slice d)
  else inFrameRx slice x (ohCrcFits x) ((bump 0x061 slice d).onGroup slice (fun g => { g with fasErrs := g.fasErrs + 1 }))

theorem receiveBlocks_stream (ha : (d.group slice).align ≠ .noStream) (hp : d.groupPort slice = some p) :
    receiveBlocks slice b n bad at_ d =
      pairCheck slice (takeRun slice (smvFrameOf b) bad at_ (d.group slice) (bumpBy 0x060 slice n d)) := by
  have hgo : ¬((d.group slice).align = .noStream ∨ (d.groupPort slice).isNone = true) := by simp [ha, hp]
  exact if_neg hgo

section TakeRun

variable {x : Bytes} {g : Group}

theorem takeRun_searches (ha : g.align ≠ .inFrame) :
    takeRun slice x bad at_ g d = searchFrame slice (decide (x.take 6 = fas) && ohCrcFits x) at_ (leAt x 6 1) d := if_pos ha

theorem takeRun_elsewhere (ha : g.align = .inFrame) (he : at_ % 256 ≠ g.expAt % 256) : takeRun slice x bad at_ g d = d :=
  (if_neg (not_not.2 ha)).trans (if_pos he)

/-- At the expected place the alignment word decides. -/
theorem takeRun_expected (ha : g.align = .inFrame) (he : at_ % 256 = g.expAt % 256) : takeRun slice x bad at_ g d =
    if fasWrong x ≤ 3 ∧ !bad then inFrameRx slice x (ohCrcFits x) (d.onGroup slice (fun g => { g with fasErrs := 0 }))
    else if g.fasErrs = 4 then outOfFrame slice (bump 0x061 slice d)
    else inFrameRx slice x (ohCrcFits x) ((bump 0x061 slice d).onGroup slice (fun g => { g with fasErrs := g.fasErrs + 1 })) :=
  (if_neg (not_not.2 ha)).trans (if_neg (not_not.2 he))

theorem takeRun_aligned (ha : g.align = .inFrame) (he : at_ % 256 = g.expAt % 256) (hw : fasWrong x ≤ 3) (hb : bad = false) :
    takeRun slice x bad at_ g d =
      inFrameRx slice x (ohCrcFits x) (d.onGroup slice (fun g => { g with fasErrs := 0 })) := by
  rw [takeRun_expected ha he, if_pos ⟨hw, by rw [hb]; rfl⟩]

theorem fas_errored (hw : 3 < fasWrong x ∨ bad = true) : ¬(fasWrong x ≤ 3 ∧ (!bad) = true) := by
  rintro ⟨h3, hb⟩
  rcases hw with h | h
  · omega
  · simp [h] at hb

theorem takeRun_fifth (ha : g.align = .inFrame) (he : at_ % 256 = g.expAt % 256) (hw : 3 < fasWrong x ∨ bad = true)
    (hn : g.fasErrs = 4) : takeRun slice x bad at_ g d = outOfFrame slice (bump 0x061 slice d) := by
  rw [takeRun_expected ha he, if_neg (fas_errored hw), if_pos hn]

theorem takeRun_errored (ha : g.align = .inFrame) (he : at_ % 256 = g.expAt % 256) (hw : 3 < fasWrong x ∨ bad = true)
    (hn : g.fasErrs ≠ 4) : takeRun slice x bad at_ g d = inFrameRx slice x (ohCrcFits x)
      ((bump 0x061 slice d).onGroup slice (fun g => { g with fasErrs := g.fasErrs + 1 })) := by
  rw [takeRun_expected ha he, if_neg (fas_errored hw), if_neg hn]

end TakeRun

/-- The counts of the lanes leave the group and its port. -/
theorem seen_counts : CountsOnly d (countMarkers p errs (countFec p errs d)) := (CountsOnly.countFec ..).trans (.countMarkers ..)

theorem smvFrameRx_noStream (hp : d.groupPort slice = some p) (ha : (d.group slice).align = .noStream) :
    smvFrameRx slice b n bad at_ errs d = countMarkers p errs (countFec p errs d) :=
  (smvFrameRx_port hp).trans (receiveBlocks_stops (.inl ((congrArg Group.align (seen_counts.group slice)).trans ha)))

theorem smvFrameRx_stream (hp : d.groupPort slice = some p) (ha : (d.group slice).align ≠ .noStream) :
    smvFrameRx slice b n bad at_ errs d = pairCheck slice (takeRun slice (smvFrameOf b) bad at_ (d.group slice)
      (bumpBy 0x060 slice n (countMarkers p errs (countFec p errs d)))) := by
  have hc := seen_counts (d := d) (p := p) (errs := errs)
  rw [smvFrameRx_port hp, receiveBlocks_stream (by rwa [hc.group]) ((hc.groupPort slice).trans hp), hc.group]

end Run

/-! ### The decision on the oldest frame (04 R106, R107, R110, R111, 08 R256, R274) -/

section Decide

variable {slice : Nat} {f : SmvRx} {rest : List SmvRx} {d : Dev}

/-- A confirmed payload goes to the elements, unless the payload mismatches or the frame is lost. -/
def takePayload (slice label : Nat) (pt : Bytes) (d : Dev) : Dev :=
  if (d.plm slice && !maskedBy (d.group slice) 6) = true ∨ (d.group slice).align ≠ .inFrame then
    d.onGroup slice (fun g => { g with walk := none })
  else extract slice label pt d

/-- A test sequence goes to the checker. -/
def takeTest (slice : Nat) (pt : Bytes) (d : Dev) : Dev :=
  bumpBy 0x06C slice (prbsCheck (d.group slice).prbsRx pt).1
    (d.onGroup slice (fun g => { g with prbsRx := (prbsCheck (d.group slice).prbsRx pt).2 }))

/-- A frame that is not confirmed breaks the walk, and the checker steps over it. -/
def skipFrame (slice label : Nat) (d : Dev) : Dev :=
  if label = 0xFD then (breakWalk slice d).onGroup slice (fun g => { g with prbsRx := prbsSkip g.prbsRx }) else breakWalk slice d

theorem decideSmv_keyed {label k : Nat} (hl : label ≠ 0xFE) : decideSmv slice label f k d = openSmv slice f k d := if_pos hl

theorem decideSmv_production {k : Nat} (hc : d.lc = 3) : decideSmv slice 0xFE f k d = (none, d) :=
  (if_neg (not_not.2 rfl)).trans (if_pos hc)

theorem decideSmv_clear {k : Nat} (hc : d.lc ≠ 3) :
    decideSmv slice 0xFE f k d = (some ((f.bytes.drop 64).take 8112), bump 0x0C0 slice d) :=
  (if_neg (not_not.2 rfl)).trans (if_neg hc)

theorem smvConfirm_empty (hq : (d.group slice).confirming = []) : smvConfirm slice d = d := by
  simp only [smvConfirm, hq]

/-- The device once the oldest frame has left its queue. -/
def dequeued (slice : Nat) (rest : List SmvRx) (d : Dev) : Dev := d.onGroup slice (fun g => { g with confirming := rest })

/-- A frame is an AIS frame: its overhead is valid, and says so. -/
abbrev SmvRx.ais (f : SmvRx) : Prop := f.crcOk = true ∧ (leAt f.bytes 8 1).testBit 7 = true

theorem smvConfirm_ais (hq : (d.group slice).confirming = f :: rest) (ha : f.ais) :
    smvConfirm slice d = breakWalk slice (takeRequest slice f true (dequeued slice rest d)) := by
  simp only [smvConfirm, hq]
  exact if_pos ha

section Decided

variable {label : Nat} {e : Dev}

theorem smvConfirm_refused (hq : (d.group slice).confirming = f :: rest) (ha : ¬f.ais)
    (hl : (dequeued slice rest d).rxLabel slice = label)
    (hr : decideSmv slice label f (rest.length + 1) (dequeued slice rest d) = (none, e)) :
    smvConfirm slice d = skipFrame slice label e := by
  subst hl
  simp only [smvConfirm, hq]
  refine (if_neg ha).trans ?_
  simp only [dequeued] at hr
  simp only [List.length_cons, hr]
  rfl

theorem smvConfirm_confirmed (hq : (d.group slice).confirming = f :: rest) (ha : ¬f.ais) {pt : Bytes}
    (hl : (dequeued slice rest d).rxLabel slice = label)
    (hr : decideSmv slice label f (rest.length + 1) (dequeued slice rest d) = (some pt, e)) :
    smvConfirm slice d = if label = 0xFD then takeTest slice pt (takeRequest slice f (decide (label = 0xFE)) e)
      else takePayload slice label pt (takeRequest slice f (decide (label = 0xFE)) e) := by
  subst hl
  simp only [smvConfirm, hq]
  refine (if_neg ha).trans ?_
  simp only [dequeued] at hr
  simp only [List.length_cons, hr, takePayload, Bool.and_eq_true]
  rfl

theorem smvConfirm_clear (hq : (d.group slice).confirming = f :: rest) (ha : ¬f.ais)
    (hl : (dequeued slice rest d).rxLabel slice = 0xFE) (hc : (dequeued slice rest d).lc ≠ 3) :
    smvConfirm slice d = takePayload slice 0xFE ((f.bytes.drop 64).take 8112)
      (takeRequest slice f true (bump 0x0C0 slice (dequeued slice rest d))) :=
  (smvConfirm_confirmed hq ha hl (decideSmv_clear hc)).trans (if_neg (by decide))

theorem smvConfirm_keyed (hq : (d.group slice).confirming = f :: rest) (ha : ¬f.ais) {pt : Bytes}
    (hl : (dequeued slice rest d).rxLabel slice ≠ 0xFE)
    (ho : openSmv slice f (rest.length + 1) (dequeued slice rest d) = (some pt, e)) :
    smvConfirm slice d = if (dequeued slice rest d).rxLabel slice = 0xFD then takeTest slice pt (takeRequest slice f false e)
      else takePayload slice ((dequeued slice rest d).rxLabel slice) pt (takeRequest slice f false e) := by
  rw [smvConfirm_confirmed hq ha rfl ((decideSmv_keyed hl).trans ho), decide_eq_false hl]

end Decided

end Decide

theorem exec_smvFrameRx (slice n at_ : Nat) (b : Bytes) (bad : Bool) (errs : List LaneErrs) (s : State) :
    exec (.smvFrameRx slice b n bad at_ errs) s = .next (s.onDev (smvFrameRx slice b n bad at_ errs)) := rfl

theorem exec_smvFrameConfirm (slice : Nat) (s : State) :
    exec (.smvFrameConfirm slice) s = .next (s.onDev (smvConfirm slice)) := rfl

theorem smiviaFrames : Claims.SmiviaFrames := by
  intro s slice
  refine ⟨fun b n bad at_ errs hp => idles_of_eq (exec_smvFrameRx ..) (smvFrameRx_noPort hp),
    fun b n bad at_ errs p hp => ?_, fun hq => idles_of_eq (exec_smvFrameConfirm ..) (smvConfirm_empty hq),
    fun f rest hq => ?_⟩
  · have run := exec_smvFrameRx slice n at_ b bad errs s
    have hrun := smvFrameRx_stream (n := n) (at_ := at_) (b := b) (bad := bad) (errs := errs) hp
    refine ⟨fun ha => does_of_eq run (smvFrameRx_noStream hp ha), fun ha => ?_, fun ha he => ?_, fun ha he => ?_⟩
    · have hs : (s.dev.group slice).align ≠ .noStream := by rcases ha with h | h <;> simp [h]
      have hf : (s.dev.group slice).align ≠ .inFrame := by rcases ha with h | h <;> simp [h]
      exact does_of_eq run ((hrun hs).trans (congrArg _ (takeRun_searches hf)))
    · have hs : (s.dev.group slice).align ≠ .noStream := by simp [show (s.dev.group slice).align = .inFrame from ha]
      exact does_of_eq run ((hrun hs).trans (congrArg _ (takeRun_elsewhere ha he)))
    · have hs : (s.dev.group slice).align ≠ .noStream := by simp [show (s.dev.group slice).align = .inFrame from ha]
      exact ⟨fun hw hb => does_of_eq run ((hrun hs).trans (congrArg _ (takeRun_aligned ha he hw hb))),
        fun hw hn => does_of_eq run ((hrun hs).trans (congrArg _ (takeRun_fifth ha he hw hn))),
        fun hw hn => does_of_eq run ((hrun hs).trans (congrArg _ (takeRun_errored ha he hw hn)))⟩
  · have run := exec_smvFrameConfirm slice s
    refine ⟨fun ha => exec_of_eq run (smvConfirm_ais hq (of_decide_eq_true ha)), fun ha hl hc => ?_, fun ha hl hc => ?_,
      fun ha hl => ⟨fun e he => ?_, fun pt e he => ⟨fun ht => ?_, fun ht => ?_⟩⟩⟩
    · exact exec_of_eq run (smvConfirm_refused hq (of_decide_eq_false ha) hl (decideSmv_production hc))
    · exact exec_of_eq run ((smvConfirm_clear hq (of_decide_eq_false ha) hl hc).trans (hl ▸ rfl))
    · exact exec_of_eq run (smvConfirm_refused hq (of_decide_eq_false ha) rfl ((decideSmv_keyed hl).trans he))
    · exact exec_of_eq run ((smvConfirm_keyed hq (of_decide_eq_false ha) hl he).trans (if_neg ht))
    · exact exec_of_eq run ((smvConfirm_keyed hq (of_decide_eq_false ha) hl he).trans (if_pos ht))

/-- Settles O52: a run by its alignment and its alignment word, the oldest frame by its overhead, its label and what opens it. -/
theorem smiviaRx : Obligations.SmiviaRx := ⟨smiviaFrames, smiviaOpen⟩

end Sys2Proof.Machine

namespace Sys2Proof.Machine

/-! ### The scrambler (04 R98) -/

/-- The register of the scrambler after `k` bits of a frame. -/
def scrambleReg (s k : Nat) : Nat := scrambleStep^[k] s

theorem scrambleReg_succ (s k : Nat) : scrambleReg s (k + 1) = scrambleStep (scrambleReg s k) :=
  Function.iterate_succ_apply' ..

theorem scrambleReg_add (s j k : Nat) : scrambleReg (scrambleReg s j) k = scrambleReg s (j + k) := by
  rw [Nat.add_comm]
  exact (Function.iterate_add_apply ..).symm

/-- A register that starts as the scrambler's and feeds back its bits 22 and 17 is the scrambler's. -/
theorem scrambleReg_unique {s : Nat → Nat} {s0 : Nat} (h0 : s 0 = s0)
    (h : ∀ k, s (k + 1) = (s k * 2 + (if (s k).testBit 22 = (s k).testBit 17 then 0 else 1)) % 2 ^ 23) (k : Nat) :
    s k = scrambleReg s0 k := by
  induction k with
  | zero => exact h0
  | succ k ih =>
    rw [h, scrambleReg_succ, ← ih, scrambleStep]
    cases (s k).testBit 22 <;> cases (s k).testBit 17 <;> rfl

/-- What `n` bits of the sequence have gathered, least significant first, and the register after them. -/
def scrambleBits (s n : Nat) : Nat × Nat :=
  (List.range n).foldl (fun x k => (x.1 + b2n (x.2.testBit 22) * 2 ^ k, scrambleStep x.2)) (0, s)

theorem scrambleBits_succ (s n : Nat) : scrambleBits s (n + 1) =
    ((scrambleBits s n).1 + b2n ((scrambleBits s n).2.testBit 22) * 2 ^ n, scrambleStep (scrambleBits s n).2) := by
  simp only [scrambleBits, List.range_succ, List.foldl_append, List.foldl_cons, List.foldl_nil]

theorem scrambleBits_reg (s n : Nat) : (scrambleBits s n).2 = scrambleReg s n := by
  induction n with
  | zero => rfl
  | succ n ih => rw [scrambleBits_succ, ih, scrambleReg_succ]

theorem b2n_le_one (b : Bool) : b2n b ≤ 1 := by cases b <;> decide

theorem b2n_testBit_zero (b : Bool) : (b2n b).testBit 0 = b := by cases b <;> rfl

theorem scrambleBits_lt (s n : Nat) : (scrambleBits s n).1 < 2 ^ n := by
  induction n with
  | zero => exact Nat.one_pos
  | succ n ih =>
    have hb := Nat.mul_le_mul_right (2 ^ n) (b2n_le_one ((scrambleBits s n).2.testBit 22))
    rw [scrambleBits_succ, Nat.pow_succ]
    dsimp only
    omega

/-- Bit `k` gathered is what the register puts out after `k` bits. -/
theorem scrambleBits_testBit (s n k : Nat) (hk : k < n) : (scrambleBits s n).1.testBit k = (scrambleReg s k).testBit 22 := by
  induction n with
  | zero => omega
  | succ n ih =>
    rw [scrambleBits_succ, Nat.mul_comm, Nat.add_comm, Nat.testBit_two_pow_mul_add _ (scrambleBits_lt s n)]
    rcases Nat.lt_succ_iff_lt_or_eq.1 hk with hlt | rfl
    · rw [if_pos hlt, ih hlt]
    · rw [if_neg (Nat.lt_irrefl k), scrambleBits_reg, Nat.sub_self, b2n_testBit_zero]

theorem scrambleByte_eq (s : Nat) : scrambleByte s = scrambleBits s 8 := rfl

@[simp] theorem scrambleSeq_length (s n : Nat) : (scrambleSeq s n).length = n := by
  induction n generalizing s with
  | zero => rfl
  | succ n ih => simp [scrambleSeq, ih]

/-- Bit `k` of byte `i` of the sequence is the output of the register after `8 * i + k` bits. -/
theorem scrambleSeq_getLsbD (s n i k : Nat) (hi : i < n) (hk : k < 8) :
    ((scrambleSeq s n).getD i 0).getLsbD k = (scrambleReg s (i * 8 + k)).testBit 22 := by
  induction n generalizing s i with
  | zero => omega
  | succ n ih =>
    cases i with
    | zero =>
      rw [scrambleSeq, List.getD_cons_zero, BitVec.getLsbD_ofNat, scrambleByte_eq, scrambleBits_testBit s 8 k hk]
      simp [hk]
    | succ i =>
      rw [scrambleSeq, List.getD_cons_succ, ih _ _ (by omega), scrambleByte_eq, scrambleBits_reg, scrambleReg_add]
      congr 2
      omega

/-! ### A frame scrambled -/

/-- The sequence as long as what a frame has from byte 6 on. -/
def frameSeq (f : Bytes) : Bytes := scrambleSeq 0x7FFFFF (f.length - 6)

theorem scramble_eq (f : Bytes) : scramble f = f.take 6 ++ xorBytes (f.drop 6) (frameSeq f) := rfl

theorem frameSeq_length (f : Bytes) : (frameSeq f).length = (f.drop 6).length := by simp [frameSeq]

/-- A frame that is no longer than its clear bytes has nothing to scramble. -/
theorem scramble_short {f : Bytes} (h : f.length < 6) : scramble f = f := by
  simp [scramble_eq, xorBytes, List.take_of_length_le h.le, List.drop_eq_nil_of_le h.le]

theorem xorBytes_length_of_eq {a b : Bytes} (h : b.length = a.length) : (xorBytes a b).length = a.length := by
  simp [xorBytes, h]

theorem xorBytes_cancel {a b : Bytes} (h : b.length = a.length) : xorBytes (xorBytes a b) b = a := by
  refine List.ext_getElem (by simp [xorBytes, h]) fun i h1 h2 => ?_
  simp [xorBytes]

theorem xorBytes_getD {a b : Bytes} {i : Nat} (h : b.length = a.length) (hi : i < a.length) :
    (xorBytes a b).getD i 0 = a.getD i 0 ^^^ b.getD i 0 := by
  simp [xorBytes, hi, h]

@[simp] theorem scramble_length (f : Bytes) : (scramble f).length = f.length := by
  rw [scramble_eq, List.length_append, xorBytes_length_of_eq (frameSeq_length f), ← List.length_append, List.take_append_drop]

theorem scramble_take (f : Bytes) : (scramble f).take 6 = f.take 6 := by
  rcases Nat.lt_or_ge f.length 6 with h | h
  · rw [scramble_short h]
  · exact List.take_left' (by simp [h])

theorem scramble_drop (f : Bytes) : (scramble f).drop 6 = xorBytes (f.drop 6) (frameSeq f) := by
  rcases Nat.lt_or_ge f.length 6 with h | h
  · rw [scramble_short h, List.drop_eq_nil_of_le h.le, xorBytes, List.zipWith_nil_left]
  · exact List.drop_left' (by simp [h])

/-- The same sequence descrambles. -/
theorem scramble_scramble (f : Bytes) : scramble (scramble f) = f := by
  have hseq : frameSeq (scramble f) = frameSeq f := by rw [frameSeq, scramble_length, frameSeq]
  rw [scramble_eq, scramble_take, scramble_drop, hseq, xorBytes_cancel (frameSeq_length f), List.take_append_drop]

/-- A byte that is scrambled, bit by bit. -/
theorem scramble_getLsbD {f : Bytes} {j k : Nat} (hj : 6 ≤ j) (hlen : j < f.length) (hk : k < 8) :
    ((scramble f).getD j 0).getLsbD k =
      ((f.getD j 0).getLsbD k != (scrambleReg 0x7FFFFF ((j - 6) * 8 + k)).testBit 22) := by
  have hdrop : ∀ g : Bytes, g.getD j 0 = (g.drop 6).getD (j - 6) 0 := fun g => by
    simp [List.getD_eq_getElem?_getD, Nat.add_sub_cancel' hj]
  have hin : j - 6 < (f.drop 6).length := by simp; omega
  rw [hdrop, hdrop f, scramble_drop, xorBytes_getD (frameSeq_length f) hin, BitVec.getLsbD_xor, frameSeq,
    scrambleSeq_getLsbD _ _ _ _ (by omega) hk]

/-- Bytes of the length asked for are neither cut nor filled. -/
theorem padTo_of_length {n : Nat} {b : Bytes} (h : b.length = n) : padTo n b = b := by
  simp [padTo, bytesAt, ← h]

/-- Settles O53: the bits by the register that the sequence is shifted out of, the way back by the sequence that cancels itself. -/
theorem scrambling : Obligations.Scrambling := fun f =>
  ⟨scramble_length f, scramble_take f,
    fun s h0 hs j k hj hlen hk => by rw [scramble_getLsbD hj hlen hk, scrambleReg_unique h0 hs],
    rfl, fun hf => by rw [padTo_of_length ((scramble_length f).trans hf), scramble_scramble]⟩

end Sys2Proof.Machine

namespace Sys2Proof.Machine

/-! ### Defects of a Smivia group (04 R116 to R118) -/

theorem exec_smvDefectDeclare (slice code : Nat) (s : State) :
    exec (.smvDefectDeclare slice code) s = .next (s.onDev (smvDeclare slice code)) := rfl

theorem exec_smvDefectHoldoffExpiry (slice code : Nat) (s : State) :
    exec (.smvDefectHoldoffExpiry slice code) s = .next (s.onDev (smvHoldoff slice code)) := rfl

theorem exec_smvDefectClear (slice code : Nat) (s : State) :
    exec (.smvDefectClear slice code) s = .next (s.onDev (smvClear slice code)) := rfl

theorem detectTicks_eq (i : Nat) : detectTicks i = if i = 0 then 1000 else if i = 1 then 5000 else 0 := by
  match i with
  | 0 => rfl
  | 1 => rfl
  | i + 2 => rfl

theorem clearTicks_eq (i : Nat) : clearTicks i = if i = 0 ∨ i = 1 then 5000 else 0 := by
  match i with
  | 0 => rfl
  | 1 => rfl
  | i + 2 => rfl

/-- A defect of a group. -/
def Dev.defect (d : Dev) (slice i : Nat) : Defect := (d.group slice).defects.getD i {}

/-- The moment from `since` on, which has lasted for its ticks where it must last. -/
def afterTicks (since : Option Nat) (ticks : Nat) (d : Dev) : Dev := if ticks = 0 then d else advanceTo (since.getD 0 + ticks) d

/-- A defect is declared, its consequent actions at once or not, and what it masks ends. -/
def declareDefect (slice i : Nat) (on : Bool) (d : Dev) : Dev :=
  holdRuns slice (forEach (maskedOf i) (endDefect slice)
    (onDefect slice i (fun x => { x with declared := true, active := on, at_ := d.now }) d))

/-- A defect is due: its group has a port, it is neither declared nor masked, and its anomaly is there. -/
structure Dev.DefectDue (d : Dev) (slice i : Nat) : Prop where
  port : d.groupPort slice ≠ none
  fresh : (d.defect slice i).declared = false
  clear : maskedBy (d.group slice) i = false
  anomaly : d.smvAnomaly slice i = true

section Row

variable {slice code i : Nat} {d : Dev}

theorem smvDeclare_unknown (h : defectPlace code = none) : smvDeclare slice code d = d := by
  simp only [smvDeclare, h]

theorem smvHoldoff_unknown (h : defectPlace code = none) : smvHoldoff slice code d = d := by
  simp only [smvHoldoff, h]

theorem smvClear_unknown (h : defectPlace code = none) : smvClear slice code d = d := by
  simp only [smvClear, h]

theorem smvDeclare_idle (h : defectPlace code = some i) (hi : d.groupPort slice = none ∨ (d.defect slice i).declared = true ∨
    maskedBy (d.group slice) i = true ∨ d.smvAnomaly slice i = false) : smvDeclare slice code d = d := by
  simp only [smvDeclare, h]
  exact if_pos (by simpa [Dev.defect] using hi)

/-- A defect that is due is declared after its detection time; with no hold-off its event follows at once. -/
theorem smvDeclare_due (h : defectPlace code = some i) (hd : d.DefectDue slice i) {a : Dev}
    (ha : a = afterTicks (d.defect slice i).since (detectTicks i) d) : smvDeclare slice code d =
      refreshLinks (if (a.smvObj slice).n (3 + i) = 0
        then defectEvent slice i false (declareDefect slice i (decide ((a.smvObj slice).n (3 + i) = 0)) a)
        else declareDefect slice i (decide ((a.smvObj slice).n (3 + i) = 0)) a) := by
  have hgo : ¬((d.groupPort slice).isNone = true ∨ (d.defect slice i).declared = true ∨ maskedBy (d.group slice) i = true ∨
      (!d.smvAnomaly slice i) = true) := by
    simp [hd.port, hd.fresh, hd.clear, hd.anomaly]
  subst ha
  simp only [smvDeclare, h, Nat.max_zero]
  exact if_neg hgo

theorem smvDeclare_atOnce (h : defectPlace code = some i) (hd : d.DefectDue slice i) {a : Dev}
    (ha : a = afterTicks (d.defect slice i).since (detectTicks i) d) (hold : (a.smvObj slice).n (3 + i) = 0) :
    smvDeclare slice code d = refreshLinks (defectEvent slice i false (declareDefect slice i true a)) := by
  rw [smvDeclare_due h hd ha, if_pos hold, decide_eq_true hold]

theorem smvDeclare_heldOff (h : defectPlace code = some i) (hd : d.DefectDue slice i) {a : Dev}
    (ha : a = afterTicks (d.defect slice i).since (detectTicks i) d) (hold : (a.smvObj slice).n (3 + i) ≠ 0) :
    smvDeclare slice code d = refreshLinks (declareDefect slice i false a) := by
  rw [smvDeclare_due h hd ha, if_neg hold, decide_eq_false hold]

theorem smvHoldoff_idle (h : defectPlace code = some i)
    (hi : (d.defect slice i).declared = false ∨ (d.defect slice i).active = true) : smvHoldoff slice code d = d := by
  simp only [smvHoldoff, h]
  exact if_pos (by simpa [Dev.defect] using hi)

theorem smvHoldoff_expires (h : defectPlace code = some i) (hd : (d.defect slice i).declared = true)
    (ha : (d.defect slice i).active = false) : smvHoldoff slice code d =
      refreshLinks (defectEvent slice i false (onDefect slice i (fun x => { x with active := true })
        (advanceTo ((d.defect slice i).at_ + (d.smvObj slice).n (3 + i) * 500) d))) := by
  have hgo : ¬((!(d.defect slice i).declared) = true ∨ (d.defect slice i).active = true) := by simp [hd, ha]
  simp only [smvHoldoff, h]
  exact if_neg hgo

theorem smvClear_idle (h : defectPlace code = some i)
    (hi : (d.defect slice i).declared = false ∨ d.smvGone slice i = false) : smvClear slice code d = d := by
  simp only [smvClear, h]
  exact if_pos (by simpa [Dev.defect] using hi)

theorem smvClear_gone (h : defectPlace code = some i) (hd : (d.defect slice i).declared = true)
    (hg : d.smvGone slice i = true) : smvClear slice code d =
      refreshLinks (endDefect slice i (afterTicks (d.defect slice i).gone (clearTicks i) d)) := by
  have hgo : ¬((!(d.defect slice i).declared) = true ∨ (!d.smvGone slice i) = true) := by simp [hd, hg]
  simp only [smvClear, h]
  exact if_neg hgo

end Row

/-! ### A defect that ends -/

theorem endDefect_fresh {slice i : Nat} {d : Dev} (h : (d.defect slice i).declared = false) : endDefect slice i d = d :=
  if_pos (by simpa [Dev.defect] using h)

/-- A change of other parts than the groups leaves each defect. -/
theorem OnlyParts.defect {ps : List Part} {d e : Dev} (h : OnlyParts ps d e) (slice i : Nat) (hp : Part.smv ∉ ps := by decide) :
    e.defect slice i = d.defect slice i :=
  congrArg (fun x : List Group => (x.getD slice {}).defects.getD i {}) (h .smv hp)

/-- A change of a group reaches it. -/
theorem onGroup_group_same {slice : Nat} {d : Dev} (hs : slice < d.smv.length) (f : Group → Group) :
    (d.onGroup slice f).group slice = f (d.group slice) := (getD_modAt ..).trans (if_pos ⟨rfl, hs⟩)

theorem onDefect_defect_same {slice i : Nat} {d : Dev} (hs : slice < d.smv.length)
    (hi : i < (d.group slice).defects.length) (f : Defect → Defect) :
    (onDefect slice i f d).defect slice i = f (d.defect slice i) := by
  rw [Dev.defect, onDefect, onGroup_group_same hs]
  exact (getD_modAt ..).trans (if_pos ⟨rfl, hi⟩)

/-- What a change of one defect leaves of it is left of every defect of the device. -/
theorem onDefect_keeps {β : Type} (g : Defect → β) {f : Defect → Defect} (h : ∀ x, g (f x) = g x) (slice i j : Nat) (d : Dev) :
    g ((onDefect slice j f d).defect slice i) = g (d.defect slice i) := by
  simp only [Dev.defect, Dev.group, onDefect, Dev.onGroup, getD_modAt]
  split
  · rw [getD_modAt]
    split
    · exact h _
    · rfl
  · rfl

/-- What the end of a defect tells: its event where its hold-off had expired, else its count while the group has a stream. -/
def noteEnd (slice i : Nat) (active : Bool) (d : Dev) : Dev :=
  if active then defectEvent slice i true d else if (d.group slice).align = .noStream then d else bump 0x06A slice d

theorem OnlyParts.noteEnd {slice i : Nat} {active : Bool} {d : Dev} : OnlyParts eventParts d (noteEnd slice i active d) :=
  ite defectEvent <| ite refl cnt.mono

theorem endDefect_declared {slice i : Nat} {d : Dev} (h : (d.defect slice i).declared = true) : endDefect slice i d =
    forEach (maskedOf i) (fun j d => onDefect slice j (fun x => { x with since := some d.now }) d)
      (noteEnd slice i (d.defect slice i).active (onDefect slice i (fun x => { x with declared := false, active := false }) d)) :=
  if_neg (by simpa [Dev.defect] using h)

/-- A declared defect that ends is neither declared nor active. -/
theorem endDefect_off {slice i : Nat} {d : Dev} (hs : slice < d.smv.length) (hi : i < (d.group slice).defects.length)
    (h : (d.defect slice i).declared = true) :
    ((endDefect slice i d).defect slice i).declared = false ∧ ((endDefect slice i d).defect slice i).active = false := by
  have hoff (g : Defect → Bool) (hg : ∀ x t, g { x with since := t } = g x) :
      g ((endDefect slice i d).defect slice i) = g { d.defect slice i with declared := false, active := false } := by
    rw [endDefect_declared h]
    refine (forEach_keeps (fun e => g (e.defect slice i)) _ _ _ fun j e => onDefect_keeps g (fun x => hg x _) ..).trans ?_
    rw [OnlyParts.noteEnd.defect, onDefect_defect_same hs hi]
  exact ⟨hoff Defect.declared fun _ _ => rfl, hoff Defect.active fun _ _ => rfl⟩

/-- Settles O54: each row by whether its defect is due, declared or gone, and the end of a defect by what is left of its fields. -/
theorem smiviaDefects : Obligations.SmiviaDefects := by
  intro s slice code
  have declares := exec_smvDefectDeclare slice code s
  have expires := exec_smvDefectHoldoffExpiry slice code s
  have clears := exec_smvDefectClear slice code s
  refine ⟨fun h => ⟨idles_of_eq declares (smvDeclare_unknown h), idles_of_eq expires (smvHoldoff_unknown h),
    idles_of_eq clears (smvClear_unknown h)⟩, fun i h => ?_,
    fun i d _ hi hs => ⟨endDefect_fresh, endDefect_off hs hi⟩⟩
  simp only [← detectTicks_eq, ← clearTicks_eq]
  refine ⟨fun hi => idles_of_eq declares (smvDeclare_idle h hi), fun hp hf hc ha => ?_,
    fun hi => idles_of_eq expires (smvHoldoff_idle h hi), fun hd ha => does_of_eq expires (smvHoldoff_expires h hd ha),
    fun hi => idles_of_eq clears (smvClear_idle h hi), fun hd hg => does_of_eq clears (smvClear_gone h hd hg)⟩
  have hdue : s.dev.DefectDue slice i := ⟨hp, hf, hc, ha⟩
  exact ⟨fun hold => exec_of_eq declares (smvDeclare_atOnce h hdue rfl hold),
    fun hold => exec_of_eq declares (smvDeclare_heldOff h hdue rfl hold)⟩

end Sys2Proof.Machine

namespace Sys2Proof.Machine

/-! ### What the transmission of a Smivia frame leaves of its group (04 R86, R99) -/

/-- What filling a Smivia frame may change. -/
abbrev txParts : List Part := [.host, .time, .cnt, .course, .keys, .msec, .fr, .eg, .smv, .wire]

/-- A change within those parts in which the group of a slice goes on sending. -/
structure SendsOn (slice : Nat) (d e : Dev) : Prop where
  parts : OnlyParts txParts d e
  size : e.smv.length = d.smv.length
  sending : (e.group slice).sending = (d.group slice).sending

namespace SendsOn

variable {slice : Nat} {d e f : Dev}

theorem refl : SendsOn slice d d := ⟨.refl, rfl, rfl⟩

theorem trans (h1 : SendsOn slice d e) (h2 : SendsOn slice e f) : SendsOn slice d f :=
  ⟨h1.parts.trans h2.parts, h2.size.trans h1.size, h2.sending.trans h1.sending⟩

theorem ite {c : Prop} [Decidable c] (h1 : SendsOn slice d e) (h2 : SendsOn slice d f) : SendsOn slice d (if c then e else f) := by
  split
  · exact h1
  · exact h2

theorem forEach {α : Type} {l : List α} {g : α → Dev → Dev} (h : ∀ a d, SendsOn slice d (g a d)) :
    SendsOn slice d (forEach l g d) := by
  induction l generalizing d with
  | nil => exact refl
  | cons a l ih => exact (h a d).trans ih

/-- What changes none of the groups. -/
theorem of_parts {ps : List Part} (h : OnlyParts ps d e) (hs : Part.smv ∉ ps := by decide) (hp : ps ⊆ txParts := by decide) :
    SendsOn slice d e :=
  ⟨h.mono hp, congrArg List.length (h .smv hs), congrArg (fun x : List Group => (x.getD slice {}).sending) (h .smv hs)⟩

/-- What changes a group that goes on sending. -/
theorem onGroup {g : Group → Group} (h : ∀ x, (g x).sending = x.sending := by exact fun _ => rfl) :
    SendsOn slice d (d.onGroup slice g) := by
  refine ⟨OnlyParts.smv.mono, modAt_length .., ?_⟩
  simp only [Dev.group, Dev.onGroup, getD_modAt]
  split
  · exact h _
  · rfl

theorem txBoundary : SendsOn slice d (txBoundary slice d) :=
  ite onGroup <| ite (trans onGroup (of_parts OnlyParts.raiseFrom)) refl

theorem takeCbr {label : Nat} {x : CbrBlocks} : SendsOn slice d (takeCbr slice label x d) := by
  unfold Machine.takeCbr
  refine ite refl ?_
  split
  · exact onGroup
  · exact refl

theorem nextUnit {m : Nat} {keyed : Bool} : SendsOn slice d (nextUnit slice m keyed d) := by
  refine onGroup fun g => ?_
  split
  · rfl
  · split <;> rfl

theorem selectFrame {p : Nat} : SendsOn slice d (selectFrame p d).2 := of_parts (FrameSide.selectFrame p d).parts

theorem dropFrame {id : Nat} : SendsOn slice d (dropFrame id d) := of_parts (FrameSide.dropFrame id d).parts

theorem bumpBy {code inst n : Nat} : SendsOn slice d (bumpBy code inst n d) := of_parts OnlyParts.cnt

theorem discardUnkeyed {p n room : Nat} : SendsOn slice d (discardUnkeyed slice p n room d) := by
  induction n generalizing room d with
  | zero => exact refl
  | succ n ih =>
    have hsel : ∀ {x}, Machine.selectFrame p d = x → SendsOn slice d x.2 := fun h => h ▸ selectFrame
    unfold Machine.discardUnkeyed
    split
    case h_1 e he => exact hsel he
    case h_2 f e he =>
      have hdrop : SendsOn slice d (bump 0x0C5 slice (Machine.dropFrame f.id e)) :=
        (hsel he).trans (dropFrame.trans bumpBy)
      exact ite hdrop (hdrop.trans ih)

theorem nextCbr {x : Bytes × Dev} (h : nextCbr slice d = some x) : SendsOn slice d x.2 := by
  obtain ⟨_, _, rfl⟩ := Option.map_eq_some_iff.1 h
  exact onGroup

theorem nextElem {p label : Nat} : SendsOn slice d (nextElem slice p label d).2 := by
  unfold Machine.nextElem
  split
  · exact bumpBy
  split
  · cases h : Machine.nextCbr slice d with
    | none => exact bumpBy
    | some x => exact nextCbr h
  dsimp only
  split
  · exact selectFrame.trans (bumpBy.trans (bumpBy.trans (trans onGroup dropFrame)))
  · exact selectFrame.trans bumpBy

theorem fillArea {p label t n : Nat} {acc : Bytes} : SendsOn slice d (fillArea slice p label t n acc d).2 := by
  induction n generalizing acc d with
  | zero => exact refl
  | succ n ih =>
    unfold Machine.fillArea
    split
    · exact refl
    · exact (of_parts OnlyParts.advanceTo).trans (nextElem.trans ih)

theorem txPayload {p label : Nat} : SendsOn slice d (txPayload slice p label d).2 := by
  unfold Machine.txPayload
  dsimp only
  split
  · exact onGroup
  · exact fillArea.trans onGroup

end SendsOn

/-! ### The steps of a transmission -/

/-- A group that has not been sending begins a stream. -/
def startStream (slice : Nat) (d : Dev) : Dev :=
  d.onGroup slice (fun g => if g.sending then g else
    { g with sending := true, mfas := 0, txElem := [], txFrame := none, txBlk := 0, cbr := [] })

/-- The device at which a frame begins: the boundary of its multiframe passed, its key checked. -/
def beginFrame (slice : Nat) (d : Dev) : Dev :=
  checkTxKey slice (if (d.group slice).mfas = 0 then txBoundary slice d else d)

/-- What goes into frame `m` is gathered: the CBR blocks received, the unit of the handshake channel, and, without a usable key,
the client frames released, which are discarded. -/
def gatherFrame (slice p m label : Nat) (cbr : List CbrBlocks) (ais : Bool) (d : Dev) : Dev :=
  let d := forEach cbr (takeCbr slice label) (d.onGroup slice (fun g => { g with ais := ais }))
  let d := if m % 16 = 0 then nextUnit slice m (!ais && decide (label ≠ 0xFE)) d else d
  if d.usableKey slice then d else discardUnkeyed slice p 128 areaLen d

/-- The payload of frame `m`, and the device that has given it. -/
def fillFrame (slice p m : Nat) (cbr : List CbrBlocks) (ais : Bool) (d : Dev) : Bytes × Dev :=
  let label := if ais then 0xFF else (d.smvObj slice).n 2
  let d := gatherFrame slice p m label cbr ais d
  if ais then (List.replicate 8112 (0xFF : Byte), d) else txPayload slice p label d

/-- A frame leaves whole, unless a lane of its port sends a test pattern (03 R81). -/
def sendFrame (slice p : Nat) (frame : Bytes) (d : Dev) : Dev :=
  if (d.portLanes p).any d.txTest then d else emit (.smivia slice (scramble frame)) d

/-- The last value of a frame counter raises its event. -/
def noteLast (last : Bool) (slice : Nat) (e : Event) (d : Dev) : Dev :=
  if last then raiseFrom slice (d.groupOwner slice) e d else d

section Transmission

variable {slice p : Nat} {cbr : List CbrBlocks} {d : Dev}

theorem startStream_group (hs : slice < d.smv.length) : ((startStream slice d).group slice).sending = true ∧
    ((startStream slice d).group slice).mfas = if (d.group slice).sending then (d.group slice).mfas else 0 := by
  rw [startStream, onGroup_group_same hs]
  cases h : (d.group slice).sending <;> simp [h]

/-- A key whose complement agrees, or that is not marked, raises no alarm. -/
theorem checkTxKey_agrees (hk : ∀ n, (d.slot n).mark = true → (d.slot n).pairOk = true) : checkTxKey slice d = d := by
  unfold checkTxKey
  split
  · rfl
  case h_2 n _ =>
    refine if_neg fun h => ?_
    obtain ⟨hmark, hpair⟩ := (Bool.and_eq_true ..).mp h
    simp [hk n hmark] at hpair

theorem OnlyParts.txBoundary : OnlyParts (.smv :: eventParts) d (txBoundary slice d) :=
  ite smv.mono <| ite (refl.seq smv |>.seq raiseFrom) refl

/-- Where no complement disagrees, a frame begins with the boundary of its multiframe only. -/
theorem beginFrame_agrees (hk : ∀ n, (d.slot n).mark = true → (d.slot n).pairOk = true) :
    beginFrame slice d = if (d.group slice).mfas = 0 then txBoundary slice d else d := by
  have hparts : OnlyParts (.smv :: eventParts) d (if (d.group slice).mfas = 0 then txBoundary slice d else d) :=
    .ite .txBoundary .refl
  have hslot (n : Nat) : Dev.slot (if (d.group slice).mfas = 0 then txBoundary slice d else d) n = d.slot n :=
    congrArg (fun k : KeySt => k.slots.get ({} : Slot) n) (hparts .keys (by decide))
  exact checkTxKey_agrees fun n => by rw [hslot]; exact hk n

theorem beginFrame_sendsOn (hk : ∀ n, (d.slot n).mark = true → (d.slot n).pairOk = true) : SendsOn slice d (beginFrame slice d) := by
  rw [beginFrame_agrees hk]
  exact .ite .txBoundary .refl

theorem gatherFrame_sendsOn {m label : Nat} {ais : Bool} : SendsOn slice d (gatherFrame slice p m label cbr ais d) :=
  .trans (.trans (.trans .onGroup (.forEach fun _ _ => .takeCbr)) (.ite .nextUnit .refl)) (.ite .refl .discardUnkeyed)

theorem fillFrame_sendsOn {m : Nat} {ais : Bool} : SendsOn slice d (fillFrame slice p m cbr ais d).2 := by
  unfold fillFrame
  dsimp only
  split
  · exact gatherFrame_sendsOn
  · exact gatherFrame_sendsOn.trans .txPayload

/-- A group whose lanes all transmit sends a frame that begins with the alignment word and its MFAS, and goes on to the next. -/
theorem smvFrameTx_eq (hp : d.groupPort slice = some p)
    (hon : (d.portLanes p).any (fun l => decide ((d.lane l).phase = .off)) = false) {m : Nat}
    (hm : ((startStream slice d).group slice).mfas = m) : ∃ ais frame f last ev, frame.take 7 = fas ++ [BitVec.ofNat 8 m] ∧
      (∀ g, (f g).sending = g.sending ∧ (f g).mfas = (m + 1) % 256) ∧ smvFrameTx slice cbr d =
        noteLast last slice ev ((sendFrame slice p frame
          (fillFrame slice p m cbr ais (beginFrame slice (startStream slice d))).2).onGroup slice f) := by
  subst hm
  refine ⟨?_, ?_, ?_, ?_, ?_, ?front, ?keeps, ?run⟩
  case run =>
    rw [smvFrameTx, hp]
    exact if_neg (Bool.eq_false_iff.1 hon)
  case front => rfl
  case keeps => exact fun g => ⟨rfl, rfl⟩

theorem sendFrame_smv (frame : Bytes) : (sendFrame slice p frame d).smv = d.smv := by
  unfold sendFrame
  split <;> rfl

theorem sendFrame_whole (frame : Bytes) (h : (d.portLanes p).any d.txTest = false) :
    .smivia slice (scramble frame) ∈ (sendFrame slice p frame d).wire := by
  rw [sendFrame, if_neg (Bool.eq_false_iff.1 h), emit_wire]
  exact List.mem_cons_self

theorem noteLast_smv (last : Bool) (ev : Event) : (noteLast last slice ev d).smv = d.smv :=
  (OnlyParts.ite OnlyParts.raiseFrom .refl : OnlyParts eventParts d (noteLast last slice ev d)) .smv (by decide)

theorem noteLast_wire (last : Bool) (ev : Event) {o : Out} (h : o ∈ d.wire) : o ∈ (noteLast last slice ev d).wire := by
  obtain ⟨l, hl⟩ : LogGrows d (noteLast last slice ev d) := .ite (.raiseFrom ..) (.refl d)
  rw [hl]
  exact List.mem_append_right l h

/-- Which lanes send a test pattern is a matter of the configuration and the straps. -/
theorem SendsOn.tests {e : Dev} (h : SendsOn slice d e) : (e.portLanes p).any e.txTest = (d.portLanes p).any d.txTest := by
  change (({ d with cfg := e.cfg, power := e.power } : Dev).portLanes p).any
    ({ d with cfg := e.cfg, power := e.power } : Dev).txTest = _
  rw [show e.cfg = d.cfg from h.parts .cfg (by decide), show e.power = d.power from h.parts .power (by decide)]

theorem startStream_tests : ((startStream slice d).portLanes p).any (startStream slice d).txTest =
    (d.portLanes p).any d.txTest := rfl

theorem smvFrameTx_noPort (hp : d.groupPort slice = none) : smvFrameTx slice cbr d = d := by
  rw [smvFrameTx, hp]

theorem smvFrameTx_off (hp : d.groupPort slice = some p)
    (hoff : (d.portLanes p).any (fun l => decide ((d.lane l).phase = .off)) = true) :
    smvFrameTx slice cbr d = d.onGroup slice (fun g => { g with sending := false }) := by
  rw [smvFrameTx, hp]
  exact if_pos hoff

/-- The frame that a group sends, and the group after it. -/
theorem smvFrameTx_sends (hs : slice < d.smv.length) (hk : ∀ n, (d.slot n).mark = true → (d.slot n).pairOk = true)
    (hp : d.groupPort slice = some p)
    (hon : (d.portLanes p).any (fun l => decide ((d.lane l).phase = .off)) = false) {m : Nat}
    (hm : (if (d.group slice).sending then (d.group slice).mfas else 0) = m) :
    ∃ frame, ((smvFrameTx slice cbr d).group slice).sending = true ∧
      ((smvFrameTx slice cbr d).group slice).mfas = (m + 1) % 256 ∧
      ((d.portLanes p).any d.txTest = false → .smivia slice (scramble frame) ∈ (smvFrameTx slice cbr d).wire) ∧
      frame.take 7 = fas ++ [BitVec.ofNat 8 m] := by
  obtain ⟨hsending, hmfas⟩ := startStream_group hs
  obtain ⟨ais, frame, f, last, ev, hfront, hf, heq⟩ := smvFrameTx_eq (cbr := cbr) hp hon (hmfas.trans hm)
  have hfill : SendsOn slice (startStream slice d) (fillFrame slice p m cbr ais (beginFrame slice (startStream slice d))).2 :=
    (beginFrame_sendsOn (d := startStream slice d) hk).trans fillFrame_sendsOn
  generalize (fillFrame slice p m cbr ais (beginFrame slice (startStream slice d))).2 = e at hfill heq
  have hsize : slice < (sendFrame slice p frame e).smv.length := by
    rw [sendFrame_smv, hfill.size]
    exact hs.trans_eq (modAt_length ..).symm
  have hgroup : (smvFrameTx slice cbr d).group slice = f (e.group slice) := by
    rw [heq, Dev.group, noteLast_smv]
    exact (onGroup_group_same hsize f).trans (congrArg (fun x : List Group => f (x.getD slice {})) (sendFrame_smv frame))
  refine ⟨frame, ?_, ?_, fun ht => ?_, hfront⟩
  · rw [hgroup, (hf _).1, hfill.sending, hsending]
  · rw [hgroup, (hf _).2]
  · rw [heq]
    exact noteLast_wire last ev (sendFrame_whole frame ((hfill.tests.trans startStream_tests).trans ht))

end Transmission

theorem exec_smvFrameTx (slice : Nat) (cbr : List CbrBlocks) (s : State) :
    exec (.smvFrameTx ⟨slice, cbr⟩) s = .next (s.onDev (smvFrameTx slice cbr)) := rfl

/-- Settles O51: a group by its port and its lanes; a frame by its front and by what its filling leaves of the group. -/
theorem smiviaTx : Obligations.SmiviaTx := by
  intro s slice cbr hs hk
  have run := exec_smvFrameTx slice cbr s
  refine ⟨fun hp => idles_of_eq run (smvFrameTx_noPort hp), fun p hp =>
    ⟨fun hoff => does_of_eq run (smvFrameTx_off hp hoff), fun hon => ?_⟩⟩
  obtain ⟨frame, hsends⟩ := smvFrameTx_sends (cbr := cbr) hs hk hp hon rfl
  exact ⟨_, frame, run, hsends⟩

end Sys2Proof.Machine

namespace Sys2Proof.Machine

/-! ### The gate of a port, and what leaves the ports as they were (12 R363) -/

/-- A change of other parts than the egress leaves each port. -/
theorem OnlyParts.egress {ps : List Part} {d e : Dev} (h : OnlyParts ps d e) (p : Nat) (hp : Part.eg ∉ ps := by decide) :
    e.egress p = d.egress p := congrArg (fun x : EgressSt => x.ports.getD p {}) (h .eg hp)

theorem onPort_egress_same {p : Nat} {d : Dev} (h : p < d.eg.ports.length) (f : Egress → Egress) :
    (d.onPort p f).egress p = f (d.egress p) := (getD_modAt ..).trans (if_pos ⟨rfl, h⟩)

theorem onPort_egress_other {p q : Nat} (h : q ≠ p) (f : Egress → Egress) (d : Dev) :
    (d.onPort p f).egress q = d.egress q := (getD_modAt ..).trans (if_neg fun e => h e.1.symm)

/-- A change of a port that keeps its gate keeps every port's gate. -/
theorem onPort_gate {f : Egress → Egress} (hf : ∀ e, (f e).gate = e.gate) (p q : Nat) (d : Dev) :
    ((d.onPort p f).egress q).gate = (d.egress q).gate := by
  rw [show (d.onPort p f).egress q = _ from getD_modAt ..]
  split
  · exact hf _
  · rfl

/-- Queues that become active leave the gates. -/
theorem refreshActive_gate (p q : Nat) (d : Dev) : ((refreshActive p d).egress q).gate = (d.egress q).gate :=
  forEach_keeps (fun d => (d.egress q).gate) _ _ d fun k d =>
    onPort_gate (f := fun e => { e with queues := modAt e.queues k _ }) (fun _ => rfl) p q d

/-- Queues of a port that become active leave every other port. -/
theorem refreshActive_egress_other {p q : Nat} (h : q ≠ p) (d : Dev) : (refreshActive p d).egress q = d.egress q :=
  forEach_keeps (fun d => d.egress q) _ _ d fun _ _ => onPort_egress_other h ..

/-! ### The rows of the gate lists (12 R365 to R368) -/

/-- `e` is `d` at the tick `t`, with the gate `g` at port `p` and every other port as it was. -/
structure GateMoves (p : Nat) (g : GateSt) (t : Nat) (d e : Dev) : Prop where
  gate : (e.egress p).gate = g
  clock : e.time.tclk = t
  others : ∀ q, q ≠ p → e.egress q = d.egress q

/-- A port takes a gate at the present moment, what follows leaves ports and time, and its queues become active. -/
theorem gateMoves_refresh {p : Nat} {g : GateSt} {ps : List Part} {f : Egress → Egress} {d e : Dev} (hl : p < d.eg.ports.length)
    (hf : (f (d.egress p)).gate = g) (h : OnlyParts ps (d.onPort p f) e) (heg : Part.eg ∉ ps := by decide)
    (htime : Part.time ∉ ps := by decide) : GateMoves p g d.time.tclk d (refreshActive p e) where
  gate := by rw [refreshActive_gate, h.egress p heg, onPort_egress_same hl, hf]
  clock := by
    rw [show (refreshActive p e).time = e.time from OnlyParts.refreshActive .time (by decide),
      show e.time = (d.onPort p f).time from h .time htime, Dev.onPort_time]
  others q hq := by rw [refreshActive_egress_other hq, h.egress q heg, onPort_egress_other hq]

/-- A gate that moves once the clock has come to a tick. -/
theorem GateMoves.afterAdvance {p t : Nat} {g : GateSt} {d e : Dev}
    (h : GateMoves p g (advanceTo t d).time.tclk (advanceTo t d) e) : GateMoves p g (max d.now t) d e where
  gate := h.gate
  clock := h.clock.trans (advanceTo_tclk t d)
  others q hq := (h.others q hq).trans (OnlyParts.advanceTo.egress q)

theorem advanceTo_ports (t : Nat) (d : Dev) : (advanceTo t d).eg.ports = d.eg.ports :=
  congrArg EgressSt.ports (OnlyParts.advanceTo .eg (by decide))

section GateRows

variable {p : Nat} {d : Dev}

theorem exec_gateSwitch (p : Nat) (s : State) : exec (.gateSwitch p) s = .next (s.onDev (gateSwitch p)) := rfl

theorem exec_gateEntryChange (p : Nat) (s : State) : exec (.gateEntryChange p) s = .next (s.onDev (gateEntryChange p)) := rfl

theorem gateSwitch_idle (h : (d.egress p).gate.pending = none) : gateSwitch p d = d := by
  simp only [gateSwitch, h]

theorem gateEntryChange_idle (h : d.gateList p = none) : gateEntryChange p d = d := by
  simp only [gateEntryChange, h]

/-- The waiting list of a port begins with entry 0; its event and the count of an overrun leave ports and time. -/
theorem switchGates_moves (hl : p < d.eg.ports.length) (u before : Nat) :
    GateMoves p { since := u } d.time.tclk d (switchGates p u before d) :=
  gateMoves_refresh (ps := .fr :: .smv :: eventParts) hl rfl (OnlyParts.refl.seq .countOverrun |>.seq .raiseFrom)

theorem gateSwitch_moves (hl : p < d.eg.ports.length) {u : Nat} (h : (d.egress p).gate.pending = some u) :
    GateMoves p { since := u } (max d.now (d.tickOf ((d.obj cGateList p).n 1) (u * 2 ^ 32))) d (gateSwitch p d) := by
  simp only [gateSwitch, h]
  exact (switchGates_moves (by rwa [advanceTo_ports]) u _).afterAdvance

theorem gateEntryChange_moves (hl : p < d.eg.ports.length) {o : Obj} (h : d.gateList p = some o) {e : Nat × Nat}
    (he : e = gateEntryAt (gateSegs o) (gatePhase o (d.egress p).gate.since (d.tbNs (o.n 1))) 0) :
    GateMoves p { (d.egress p).gate with entry := (e.1 + 1) % max 1 (gateSegs o).length }
      (max d.now (d.tickOf (o.n 1) ((d.tbNs (o.n 1) + e.2) * 2 ^ 32))) d (gateEntryChange p d) := by
  subst he
  simp only [gateEntryChange, h]
  refine (gateMoves_refresh (ps := [.cnt, .fr, .smv]) (by rwa [advanceTo_ports]) ?_ .countOverrun).afterAdvance
  rw [OnlyParts.advanceTo.egress p]

end GateRows

/-- A row that moves the gate of a port answers a state with that gate, at that tick, the other ports untouched. -/
theorem GateMoves.row {x : Instr} {f : Dev → Dev} {s : State} {p t : Nat} {g : GateSt} (hx : exec x s = .next (s.onDev f))
    (h : GateMoves p g t s.dev (f s.dev)) : ∃ s', exec x s = .next s' ∧ (s'.dev.egress p).gate = g ∧
      s'.dev.time.tclk = t ∧ ∀ q, q ≠ p → s'.dev.egress q = s.dev.egress q :=
  ⟨_, hx, h.gate, h.clock, h.others⟩

theorem gateRows : Claims.GateRows := by
  intro s p hl
  refine ⟨fun h => idles_of_eq (exec_gateSwitch p s) (gateSwitch_idle h), fun u h => ?_,
    fun h => idles_of_eq (exec_gateEntryChange p s) (gateEntryChange_idle h), fun o h => ?_⟩
  · exact (gateSwitch_moves hl h).row (exec_gateSwitch p s)
  · exact (gateEntryChange_moves hl h rfl).row (exec_gateEntryChange p s)

/-! ### One entry under a scan (06 R182, R183) -/

section AgeEntry

variable {home pos : Nat} {sc : Scan} {e : MacEntry} {d : Dev}

/-- An entry that is removed for its age: neither hit nor static, and as old as its service allows. -/
theorem ageEntry_removes (hs : e.static_ = false) (hon : (d.obj cService e.key.service).n 3 ≠ 0)
    (hold : (d.obj cService e.key.service).n 3 ≤
      min 255 (e.age + ageTicks (d.obj cService e.key.service) sc.old sc.new)) :
    ageEntry home sc false pos e d = bump 0x086 (d.svcDom e.key.service) (decideRemoval home pos e.key d) := by
  simp [ageEntry, hs, hon, hold, -le_inf_iff]

/-- A hit entry that moved in this second and is not frozen only gets its age back. -/
theorem ageEntry_hit (hf : e.frozen = false) (hsec : e.sec12 = d.second % 4096) (hage : e.age ≠ 0) :
    ageEntry home sc true pos e d = decideUpdate home pos { e with age := 0 } d := by
  have hne : 0 ≠ e.age := hage.symm
  cases e
  simp_all [ageEntry]

/-- A hit entry whose freeze time has passed thaws, and says so. -/
theorem ageEntry_thaws (hf : e.frozen = true) (hpast : (d.second + 4096 - e.sec12) % 4096 < 2048) {d' : Dev}
    (hd : d' = decideUpdate home pos { e with age := 0, frozen := false, moves := 0, sec12 := d.second % 4096 } d) :
    ageEntry home sc true pos e d =
      raiseFrom home (some (d'.svcDom e.key.service)) (flapEvent d' e.key e.peer e.peer true) d' := by
  have hne : ({ e with age := 0, frozen := false, moves := 0, sec12 := d.second % 4096 } : MacEntry) ≠ e :=
    fun h => Bool.false_ne_true ((congrArg MacEntry.frozen h).trans hf)
  subst hd
  simp [ageEntry, hf, hpast, hne]

end AgeEntry

/-! ### The entries that a scan reads, and its end (06 R183, R193) -/

section ScanEntry

variable {home : Nat} {hits : List Nat} {x : Nat × MacEntry} {d : Dev} {sc : Scan}

/-- An entry that a flush of the scan picks is counted with the flush and removed. -/
theorem scanEntry_flushed {fl : Flush} (hsc : d.mac.scan = some sc) (hfl : sc.flushes.find? (flushPicks d x.2) = some fl) :
    ∃ d', OnlyParts [.mac] d d' ∧ scanEntry home hits x d = bump 0x087 fl.cmd.dom (decideRemoval home x.1 x.2.key d') := by
  simp only [scanEntry, hsc, hfl]
  exact ⟨_, OnlyParts.mac, rfl⟩

/-- The HIT of an entry that no flush picks is kept for the results of the other slice. -/
theorem scanEntry_kept (hsc : d.mac.scan = some sc) (hfl : sc.flushes.find? (flushPicks d x.2) = none) :
    scanEntry home hits x d = d.onMac (fun m => { m with scan := some { sc with
      mine := modAt sc.mine home (fun t => t.put x.1 (x.2.key, hits.contains x.1)) } }) := by
  simp only [scanEntry, hsc, hfl]

end ScanEntry

theorem exec_ageScanEnd (s : State) : exec .ageScanEnd s = .next (s.onDev ageScanEnd) := rfl

theorem ageScanEnd_idle {d : Dev} (h : d.mac.scan = none) : ageScanEnd d = d := by
  simp only [ageScanEnd, h]

theorem ageScan : Claims.AgeScan := fun s =>
  ⟨fun h => idles_of_eq (exec_ageScanEnd s) (ageScanEnd_idle h),
   fun _ h => does_of_eq (exec_ageScanEnd s) (by simp only [ageScanEnd, h]),
   fun _ _ _ _ _ => ageEntry_hit,
   fun _ _ _ _ _ => ageEntry_removes,
   fun _ _ _ _ _ hf hpast => ⟨_, ageEntry_thaws hf hpast rfl, rfl⟩,
   fun _ _ _ _ _ _ => scanEntry_flushed,
   fun _ _ _ _ _ => scanEntry_kept⟩

/-- Settles O36: the gate rows by what each moves, the scan by what it does with one entry and at its end. -/
theorem gatesAndAgeing : Obligations.GatesAndAgeing := ⟨gateRows, ageScan⟩

end Sys2Proof.Machine

namespace Sys2Proof.Machine

/-! ### Where a blob lies (09 R288) -/

/-- A change that leaves configuration and power leaves the address of every blob. -/
theorem OnlyParts.fetchIova {ps : List Part} {d e : Dev} (h : OnlyParts ps d e) (dom handle : Nat)
    (hcfg : Part.cfg ∉ ps := by decide) (hpower : Part.power ∉ ps := by decide) :
    e.fetchIova dom handle = d.fetchIova dom handle := by
  have hc : e.cfg = d.cfg := h .cfg hcfg
  have hp : e.power = d.power := h .power hpower
  simp only [Dev.fetchIova, Dev.obj, Dev.objAt, Dev.tableAt, Dev.banks, Dev.rst, hc, hp]

@[simp] theorem tableReads_fetchIova (dom cls iova : Nat) (es : List (BitVec 64)) (d : Dev) (k handle : Nat) :
    (tableReads dom cls iova es d).fetchIova k handle = d.fetchIova k handle := OnlyParts.tableReads.fetchIova k handle

@[simp] theorem badRead_fetchIova (dom : Nat) (d : Dev) (k handle : Nat) :
    (badRead dom d).fetchIova k handle = d.fetchIova k handle := OnlyParts.badRead.fetchIova k handle

/-! ### The blob read of a miss record (07 R234, R237, R238) -/

/-- A fetch is suspended on a fault of its walk: the event, and the moment from which it waits (07 R238). -/
def suspendFetch (slice r : Nat) (m : MissRec) (cause iova : Nat) (d : Dev) : Dev :=
  let e := raise m.dom (dmaFaultEvent d 0 false cause slice r iova 0) d
  setRec slice r { m with fetch := .suspended cause e.now } e

theorem exec_blobReadCompletion (slice r : Nat) (es : List (BitVec 64)) (ok : Bool) (blob : Bytes) (s : State) :
    exec (.blobReadCompletion slice r es ok blob) s = .next (s.onDev (blobReadCompletion slice r es ok blob)) := rfl

section BlobRead

variable {slice r : Nat} {es : List (BitVec 64)} {ok : Bool} {blob : Bytes} {d : Dev} {m : MissRec}

theorem blobReadCompletion_none (h : d.missRec slice r = none) : blobReadCompletion slice r es ok blob d = d := by
  simp only [blobReadCompletion, h]

theorem MissRec.walking_eta (hf : m.fetch = .walking) (hr : m.resumer = none) :
    { m with fetch := .walking, resumer := none } = m := by
  rw [← hf, ← hr]

/-- A walk that succeeds, and that no command waits for, fills the IOTLB and goes on to the read. -/
theorem blobReadCompletion_walked (h : d.missRec slice r = some m) (hf : m.fetch = .walking) (hr : m.resumer = none)
    {leaf : Nat × Nat × Bool × Bool} (hw : walk (d.fetchIova m.dom m.handle) false es = .ok leaf) :
    blobReadCompletion slice r es true blob d = startFetch slice r (setRec slice r m
      (tlbInsert m.dom (d.fetchIova m.dom m.handle) leaf (tableReads m.dom 0 (d.fetchIova m.dom m.handle) es d))) := by
  simp [blobReadCompletion, h, hf, hr, hw, MissRec.walking_eta hf hr]

theorem blobReadCompletion_faults (h : d.missRec slice r = some m) (hf : m.fetch = .walking) (hr : m.resumer = none)
    {c : Nat} (hw : walk (d.fetchIova m.dom m.handle) false es = .error c) :
    blobReadCompletion slice r es true blob d = suspendFetch slice r m c (d.fetchIova m.dom m.handle)
      (tableReads m.dom 0 (d.fetchIova m.dom m.handle) es d) := by
  simp [blobReadCompletion, suspendFetch, h, hf, hr, hw]

theorem blobReadCompletion_walkLost (h : d.missRec slice r = some m) (hf : m.fetch = .walking) (hr : m.resumer = none) :
    blobReadCompletion slice r es false blob d = suspendFetch slice r m 6 (d.fetchIova m.dom m.handle)
      (tableReads m.dom 0 (d.fetchIova m.dom m.handle) es (badRead m.dom d)) := by
  simp [blobReadCompletion, suspendFetch, h, hf, hr]

theorem blobReadCompletion_again (h : d.missRec slice r = some m) (hf : m.fetch = .reading) (hn : m.attempts < 3) :
    blobReadCompletion slice r es false blob d =
      startFetch slice r (setRec slice r { m with attempts := m.attempts + 1 } (badRead m.dom d)) := by
  simp [blobReadCompletion, h, hf, hn]

theorem blobReadCompletion_fails (h : d.missRec slice r = some m) (hf : m.fetch = .reading) (hn : 3 ≤ m.attempts) :
    blobReadCompletion slice r es false blob d = failFetch slice r 1 (badRead m.dom d) := by
  simp [blobReadCompletion, h, hf, hn.not_gt]

theorem blobReadCompletion_waits (h : d.missRec slice r = some m) (hf : m.fetch = .reading) (hz : d.frozen = true) :
    blobReadCompletion slice r es true blob d = setRec slice r { m with fetch := .arrived blob } d := by
  simp [blobReadCompletion, h, hf, hz]

theorem blobReadCompletion_opens (h : d.missRec slice r = some m) (hf : m.fetch = .reading) (hz : d.frozen = false) :
    blobReadCompletion slice r es true blob d = openFetch slice r m blob d := by
  simp [blobReadCompletion, h, hf, hz]

theorem openFetch_lockdown (hl : d.lockdown = true) : openFetch slice r m blob d = failFetch slice r 6 d := if_pos hl

theorem openFetch_opened (hl : d.lockdown = false) {k : Slot}
    (ho : openBlob d m.dom m.handle blob (some (m.attr, m.keyLen)) = .ok k) :
    openFetch slice r m blob d = setRec slice r { m with fetch := .opened k } d := by
  simp [openFetch, hl, ho]

/-- A DWK that disagrees with its complement raises the alarm, and the fetch fails with an integrity cause (09 R293). -/
theorem openFetch_mismatch (hl : d.lockdown = false)
    (ho : openBlob d m.dom m.handle blob (some (m.attr, m.keyLen)) = .error 0) :
    openFetch slice r m blob d = failFetch slice r 2 (raiseAlarm 10 0 d) := by
  simp [openFetch, dwkAlarm, hl, ho]

theorem openFetch_refused (hl : d.lockdown = false) {c : Nat} (hc : c ≠ 0)
    (ho : openBlob d m.dom m.handle blob (some (m.attr, m.keyLen)) = .error c) :
    openFetch slice r m blob d = failFetch slice r c d := by
  simp [openFetch, dwkAlarm, hl, ho, hc]

end BlobRead

theorem blobRows : Claims.BlobRows := by
  intro s slice r es ok blob
  have run {g : Dev → Dev} : blobReadCompletion slice r es ok blob s.dev = g s.dev →
    Does (.blobReadCompletion slice r es ok blob) s g := does_of_eq (exec_blobReadCompletion ..)
  refine ⟨fun h => idles_of_eq (exec_blobReadCompletion ..) (blobReadCompletion_none h), fun m h =>
    ⟨fun hf hok hr => ?_, fun hf hok hr => run ?_, fun hf hok hn => run ?_, fun hf hok hn => run ?_,
     fun hf hok hz => run ?_, fun hf hok hz hl => run ?_, fun hf hok hz hl => run ?_⟩⟩ <;> subst hok
  · exact ⟨fun leaf hw => run (blobReadCompletion_walked h hf hr hw), fun c hw => run (blobReadCompletion_faults h hf hr hw)⟩
  · exact blobReadCompletion_walkLost h hf hr
  · exact blobReadCompletion_again h hf hn
  · exact blobReadCompletion_fails h hf hn
  · exact blobReadCompletion_waits h hf hz
  · exact (blobReadCompletion_opens h hf hz).trans (openFetch_lockdown hl)
  · rw [blobReadCompletion_opens h hf hz]
    split
    next k ho => exact openFetch_opened hl ho
    next ho => exact openFetch_mismatch hl ho
    next c hc ho => exact openFetch_refused hl hc ho

/-! ### The install of an opened key (09 R297, 07 R235) -/

theorem exec_keyInstall (slice r : Nat) (s : State) : exec (.keyInstall slice r) s = .next (s.onDev (keyInstall slice r)) := rfl

section Install

variable {slice r : Nat} {d : Dev} {m : MissRec} {k : Slot}

theorem keyInstall_none (h : d.missRec slice r = none) : keyInstall slice r d = d := by
  simp only [keyInstall, h]

section Opened

variable (h : d.missRec slice r = some m) (hf : m.fetch = .opened k)
include h hf

theorem keyInstall_frozen (hz : d.frozen = true) : keyInstall slice r d = d := by
  simp [keyInstall, h, hf, hz]

theorem keyInstall_lockdown (hz : d.frozen = false) (hl : d.lockdown = true) :
    keyInstall slice r d = failFetch slice r 6 d := by
  simp [keyInstall, h, hf, hz, hl]

theorem keyInstall_mismatch (hz : d.frozen = false) (hl : d.lockdown = false) (hk : k.pairOk = false) :
    keyInstall slice r d = failFetch slice r 2 (raiseAlarm 10 0 d) := by
  simp [keyInstall, h, hf, hz, hl, hk]

variable (hz : d.frozen = false) (hl : d.lockdown = false) (hk : k.pairOk = true)
include hz hl hk

theorem keyInstall_held {n : Nat} {o : Slot} (hs : d.lookupSlot m.dom m.handle = some (n, o)) :
    keyInstall slice r d = validRecords m.dom m.handle n d := by
  simp [keyInstall, h, hf, hz, hl, hk, hs]

variable (hs : d.lookupSlot m.dom m.handle = none)
include hs

theorem keyInstall_noWay (hw : d.chooseWay m.dom m.handle = none) : keyInstall slice r d = makeRoom slice r m d := by
  simp [keyInstall, h, hf, hz, hl, hk, hs, hw]

/-- A FREE way takes the key at the lowest rank that its set leaves open. -/
theorem keyInstall_free {n : Nat} (hw : d.chooseWay m.dom m.handle = some n) (hn : (d.slot n).state = .free) :
    keyInstall slice r d = validRecords m.dom m.handle n
      (bump 0x0D0 m.dom (touchSlot n (setSlot n { k with lru := d.openRank n, binds := 0 } d))) := by
  simp [keyInstall, h, hf, hz, hl, hk, hs, hw, hn]

/-- An occupied way is evicted, and the key takes its rank. -/
theorem keyInstall_evicts {n : Nat} (hw : d.chooseWay m.dom m.handle = some n) (hn : (d.slot n).state ≠ .free) :
    keyInstall slice r d = validRecords m.dom m.handle n (bump 0x0D0 m.dom
      (touchSlot n (setSlot n { k with lru := (d.slot n).lru, binds := 0 } (bump 0x0D1 (d.slot n).dom d)))) := by
  simp [keyInstall, h, hf, hz, hl, hk, hs, hw, hn]

end Opened

theorem makeRoom_below (hc : d.cacheCount m.dom < d.cacheCap m.dom) : makeRoom slice r m d = d := if_pos (.inl hc)

/-- A domain at its cap for which no slot is on its way out yet gives up its oldest (09 R297, fourth rule). -/
theorem makeRoom_evicts (hc : d.cacheCap m.dom ≤ d.cacheCount m.dom) (hm : m.room = none) {n : Nat}
    (ho : d.oldestOwn m.dom = some n) :
    makeRoom slice r m d = setRec slice r { m with room := some n } (evictSlot n d) := by
  simp [makeRoom, hc.not_gt, hm, ho]

end Install

/-- The only record of both slices, of the handle that a slot now holds, ends its fetch. -/
theorem validRecords_single {r n : Nat} {m : MissRec} {d : Dev} (h : d.msec.recs = [[(r, m)], []]) :
    validRecords m.dom m.handle n d = installed 0 r m n d := by
  have hrest : (installed 0 r m n d).msec.recs[1]?.getD [] = [] := by
    unfold installed closeRecord setRec
    split <;> simp [Dev.onMsec, h, modAt]
  simp [validRecords, h, hrest]

/-! ### The end of a miss record (07 R235 to R238) -/

theorem exec_missRecordRelease (slice r : Nat) (s : State) :
    exec (.missRecordRelease slice r) s = .next (s.onDev (missRecordRelease slice r)) := rfl

theorem exec_suspendedFetchAbort (slice r : Nat) (s : State) :
    exec (.suspendedFetchAbort slice r) s = .next (s.onDev (suspendedFetchAbort slice r)) := rfl

section RecordEnds

variable {slice r : Nat} {d : Dev} {m : MissRec}

theorem missRecordRelease_none (h : d.missRec slice r = none) : missRecordRelease slice r d = d := by
  simp only [missRecordRelease, h]

theorem missRecordRelease_installed (h : d.missRec slice r = some m) {n : Nat} (hf : m.fetch = .installed n) :
    missRecordRelease slice r d = closeRecord slice r (forEach m.frames (releaseParked m (some n)) d) := by
  simp only [missRecordRelease, h, hf]

theorem missRecordRelease_lost (h : d.missRec slice r = some m) (hf : m.fetch = .lost) :
    missRecordRelease slice r d = closeRecord slice r (forEach m.frames (releaseParked m none) d) := by
  simp only [missRecordRelease, h, hf]

theorem suspendedFetchAbort_none (h : d.missRec slice r = none) : suspendedFetchAbort slice r d = d := by
  simp only [suspendedFetchAbort, h]

theorem suspendedFetchAbort_parked (h : d.missRec slice r = some m) {c t : Nat} (hf : m.fetch = .suspended c t)
    (hp : m.frames ≠ []) : suspendedFetchAbort slice r d = d := by
  simp only [suspendedFetchAbort, h, hf, if_pos hp]

theorem suspendedFetchAbort_empty (h : d.missRec slice r = some m) {c t : Nat} (hf : m.fetch = .suspended c t)
    (hp : m.frames = []) :
    suspendedFetchAbort slice r d = failFetch slice r 6 (advanceTo (max t m.emptySince + d.parkTicks slice) d) := by
  simp only [suspendedFetchAbort, h, hf, if_neg (not_not_intro hp)]

end RecordEnds

/-! ### Parked frames and slots in ZEROING (07 R236, 09 R294) -/

theorem exec_parkTimeout (id : Nat) (s : State) : exec (.parkTimeout id) s = .next (s.onDev (parkTimeout id)) := rfl

theorem parkTimeout_elsewhere {id : Nat} {f : Frame} {d : Dev} (h : d.frame id = some f) (hs : f.stage ≠ .parked) :
    parkTimeout id d = d := by
  simp only [parkTimeout, h, if_pos hs]

theorem parkTimeout_parked {id : Nat} {f : Frame} {d : Dev} (h : d.frame id = some f) (hs : f.stage = .parked) :
    parkTimeout id d = dropFrame f.id (bump 0x0B3 f.slice (advanceTo (f.since + d.parkTicks f.slice) d)) := by
  simp only [parkTimeout, h, if_neg (not_not_intro hs), dropAs]

theorem exec_zeroingDone (n : Nat) (s : State) : exec (.zeroingDone n) s = .next (s.onDev (zeroingDone n)) := rfl

theorem zeroingDone_idle {n : Nat} {d : Dev} (h : (d.slot n).state ≠ .zeroing ∨ (d.slot n).waits = true) :
    zeroingDone n d = d := by
  refine if_neg fun ⟨hs, hw⟩ => ?_
  simp_all

theorem zeroingDone_frees {n : Nat} {d : Dev} (hs : (d.slot n).state = .zeroing) (hw : (d.slot n).waits = false) :
    zeroingDone n d = lkSlotFreed n (setSlot n {} d) := if_pos ⟨hs, by simp [hw]⟩

theorem missRows : Claims.MissRows := by
  intro s slice r
  have install {g : Dev → Dev} : keyInstall slice r s.dev = g s.dev → Does (.keyInstall slice r) s g :=
    does_of_eq (exec_keyInstall ..)
  have noInstall : keyInstall slice r s.dev = s.dev → Idles (.keyInstall slice r) s := idles_of_eq (exec_keyInstall ..)
  refine ⟨fun h => ⟨noInstall (keyInstall_none h), idles_of_eq (exec_missRecordRelease ..) (missRecordRelease_none h),
      idles_of_eq (exec_suspendedFetchAbort ..) (suspendedFetchAbort_none h)⟩,
    fun m h => ⟨fun k hf => ⟨fun hz => noInstall (keyInstall_frozen h hf hz),
        fun hz hl => install (keyInstall_lockdown h hf hz hl),
        fun hz hl hk => install (keyInstall_mismatch h hf hz hl hk),
        fun hz hl hk => ⟨fun n o hs => install (keyInstall_held h hf hz hl hk hs), fun hs hw => ⟨?below, ?atCap⟩,
          fun n hs hw => ⟨fun hn => install (keyInstall_free h hf hz hl hk hs hw hn),
            fun hn => install (keyInstall_evicts h hf hz hl hk hs hw hn)⟩⟩⟩,
      ?records,
      fun n hf => does_of_eq (exec_missRecordRelease ..) (missRecordRelease_installed h hf),
      fun hf => does_of_eq (exec_missRecordRelease ..) (missRecordRelease_lost h hf),
      fun c t hf => ⟨fun hp => idles_of_eq (exec_suspendedFetchAbort ..) (suspendedFetchAbort_parked h hf hp),
        fun hp => does_of_eq (exec_suspendedFetchAbort ..) (suspendedFetchAbort_empty h hf hp)⟩⟩,
    fun id f h => ⟨fun hs => idles_of_eq (exec_parkTimeout ..) (parkTimeout_elsewhere h hs),
      fun hs => does_of_eq (exec_parkTimeout ..) (parkTimeout_parked h hs)⟩,
    fun n => ⟨fun h => idles_of_eq (exec_zeroingDone ..) (zeroingDone_idle h),
      fun hs hw => does_of_eq (exec_zeroingDone ..) (zeroingDone_frees hs hw)⟩⟩
  case below => exact fun hc => noInstall ((keyInstall_noWay h hf hz hl hk hs hw).trans (makeRoom_below hc))
  case atCap => exact fun n hc hm ho => install ((keyInstall_noWay h hf hz hl hk hs hw).trans (makeRoom_evicts hc hm ho))
  case records => exact fun n d h1 _ hd => validRecords_single (hd.trans h1)

/-- Settles O49: the blob read by how its fetch stands, the install by the rule that chooses its way, and the ends of records,
parked frames and slots. -/
theorem keyMisses : Obligations.KeyMisses := ⟨blobRows, missRows⟩

end Sys2Proof.Machine

namespace Sys2Proof.Machine

/-! ### A peer's message (08 R269 to R272) -/

/-- An exchange is under way, from HELLO to FINISH (08 R272). -/
def PairSt.Exchanging (st : PairSt) : Prop := st = .hello ∨ st = .kem ∨ st = .auth ∨ st = .finish

/-- A message that is taken leaves an empty assembly. -/
def emptyAssembly (slice : Nat) : Dev → Dev := onPair slice (fun p => { p with inSegs := [], inLen := none })

theorem exec_pairMessageAssembled (slice : Nat) (s : State) :
    exec (.pairMessageAssembled slice) s = .next (s.onDev (fun d => pairCheck slice (pairMessage slice d))) := rfl

section Message

variable {slice code : Nat} {m : Bytes} {d : Dev}

theorem pairMessage_none (hm : (d.group slice).pair.message = none) : pairMessage slice d = d := by
  simp only [pairMessage, hm]

/-- A whole message stays in its assembly while the course is halted or a step is in progress. -/
theorem pairMessage_kept (hm : (d.group slice).pair.message = some (code, m))
    (hk : d.halted = true ∨ (d.group slice).pair.step.isSome = true ∧ code ≠ 0xF) : pairMessage slice d = d := by
  simp only [pairMessage, hm]
  exact if_pos hk

theorem pairMessage_halted (hh : d.halted = true) : pairMessage slice d = d := by
  cases hm : (d.group slice).pair.message with
  | none => exact pairMessage_none hm
  | some _ => exact pairMessage_kept hm (.inl hh)

/-- What is taken: an ABORT at any time, another message between two steps. -/
theorem not_halted_or_stepping (hh : d.halted = false) (ht : (d.group slice).pair.step = none ∨ code = 0xF) :
    ¬(d.halted = true ∨ (d.group slice).pair.step.isSome = true ∧ code ≠ 0xF) := by
  rcases ht with ht | ht <;> simp [hh, ht]

section Abort

variable (hm : (d.group slice).pair.message = some (0xF, m)) (hh : d.halted = false)

include hm hh

theorem pairMessage_abort (ha : (d.group slice).pair.st.Exchanging) :
    pairMessage slice d = pairFail slice (leAt m 0 1 % 128 + 128) none (emptyAssembly slice d) := by
  simp only [pairMessage, hm, if_neg (not_halted_or_stepping hh (.inr rfl))]
  exact if_pos ha

theorem pairMessage_abort_discarded (ha : ¬(d.group slice).pair.st.Exchanging) :
    pairMessage slice d = emptyAssembly slice d := by
  simp only [pairMessage, hm, if_neg (not_halted_or_stepping hh (.inr rfl))]
  exact if_neg ha

end Abort

/-! Between two steps a message is taken by the state that expects it. -/

section Taken

variable (hh : d.halted = false) (hs : (d.group slice).pair.step = none)

include hh hs

theorem pairMessage_hello_own (hm : (d.group slice).pair.message = some (1, m)) (hst : (d.group slice).pair.st = .hello)
    (hi : helloId m = deviceId) : pairMessage slice d =
      pairFail slice 4 (some 4) (onPair slice (fun p => { p with peerHello := m }) (emptyAssembly slice d)) := by
  simp [pairMessage, emptyAssembly, hm, hh, hs, hst, hi]

theorem pairMessage_hello (hm : (d.group slice).pair.message = some (1, m)) (hst : (d.group slice).pair.st = .hello)
    (hi : helloId m ≠ deviceId) : pairMessage slice d = pairAsk slice 2 .helloIn (fun p => { p with
      peerHello := m, initiator := decide (beNat deviceId < beNat (helloId m)) }) (emptyAssembly slice d) := by
  simp [pairMessage, emptyAssembly, hm, hh, hs, hst, hi]

theorem pairMessage_hello_keyed (hm : (d.group slice).pair.message = some (1, m)) (hst : (d.group slice).pair.st = .keyed) :
    pairMessage slice d = pairHello slice false (emptyAssembly slice d) := by
  simp [pairMessage, emptyAssembly, hm, hh, hs, hst]

theorem pairMessage_kem (hm : (d.group slice).pair.message = some (2, m)) (hst : (d.group slice).pair.st = .kem) :
    pairMessage slice d = pairAsk slice 3 .kemIn (fun p => { p with peerKem := m }) (emptyAssembly slice d) := by
  simp [pairMessage, emptyAssembly, hm, hh, hs, hst]

theorem pairMessage_auth (hm : (d.group slice).pair.message = some (3, m)) (hst : (d.group slice).pair.st = .auth) :
    pairMessage slice d = pairAsk slice 4 .authIn (fun p => { p with peerAuth := m }) (emptyAssembly slice d) := by
  simp [pairMessage, emptyAssembly, hm, hh, hs, hst]

theorem pairMessage_finished (hm : (d.group slice).pair.message = some (4, m)) (hst : (d.group slice).pair.st = .finish) :
    pairMessage slice d =
      pairHash slice (onPair slice (fun p => { p with step := some (.finIn m) }) (emptyAssembly slice d)) := by
  simp [pairMessage, emptyAssembly, hm, hh, hs, hst]

/-- A message that the state does not expect is discarded. -/
theorem pairMessage_unexpected (hm : (d.group slice).pair.message = some (code, m)) (ha : code ≠ 0xF)
    (hello : code = 1 → (d.group slice).pair.st ≠ .hello ∧ (d.group slice).pair.st ≠ .keyed)
    (kem : code = 2 → (d.group slice).pair.st ≠ .kem) (auth : code = 3 → (d.group slice).pair.st ≠ .auth)
    (fin : code = 4 → (d.group slice).pair.st ≠ .finish) : pairMessage slice d = emptyAssembly slice d := by
  simp only [pairMessage, hm, if_neg (not_halted_or_stepping hh (.inl hs)), if_neg ha]
  split
  next hst => exact absurd hst (hello rfl).1
  next hst => exact absurd hst (hello rfl).2
  next hst => exact absurd hst (kem rfl)
  next hst => exact absurd hst (auth rfl)
  next hst => exact absurd hst (fin rfl)
  next => rfl

end Taken

/-- The FINISHED of the peer keys the pairing if it is the value that the peer's role has (08 R271, R272). -/
theorem pairStepDone_finIn (hs : (d.group slice).pair.step = some (.finIn m)) :
    let p := (d.group slice).pair
    let e := onPair slice (fun p => { p with step := none }) d
    pairStepDone slice d =
      if m = pairFinished p (e.smvChannel slice) (!p.initiator) then pairKeyed slice e else pairFail slice 5 (some 5) e := by
  simp only [pairStepDone, hs]

end Message

/-! ### What the clock ends (08 R266, R272) -/

section Clock

variable {slice : Nat} {d : Dev}

theorem exec_pairTimeout (slice : Nat) (s : State) : exec (.pairTimeout slice) s = .next (s.onDev (pairTimeout slice)) := rfl

theorem pairTimeout_idle (ha : ¬(d.group slice).pair.st.Exchanging) : pairTimeout slice d = d := if_neg ha

theorem pairTimeout_fails (ha : (d.group slice).pair.st.Exchanging) : pairTimeout slice d =
    pairFail slice 6 none (advanceTo ((d.group slice).pair.since + 1000000000) d) := if_pos ha

theorem exec_pairBackoffExpiry (slice : Nat) (s : State) :
    exec (.pairBackoffExpiry slice) s = .next (s.onDev (pairBackoff slice)) := rfl

theorem pairBackoff_elsewhere (h : (d.group slice).pair.st ≠ .backoff) : pairBackoff slice d = d := if_pos h

theorem pairBackoff_ends (h : (d.group slice).pair.st = .backoff) :
    let p := (d.group slice).pair
    let e := advanceTo (p.since + backoffTicks p.fails) d
    pairBackoff slice d = pairCheck slice (onPair slice (fun p => { p with st := .idle, since := e.now }) e) :=
  if_neg (not_not_intro h)

theorem exec_rekeyIntervalExpiry (slice : Nat) (s : State) :
    exec (.rekeyIntervalExpiry slice) s = .next (s.onDev (rekeyInterval slice)) := rfl

theorem rekeyInterval_idle (h : (d.group slice).pair.st ≠ .keyed ∨ (d.smvObj slice).n 18 = 0 ∨ d.halted = true ∨
    (d.group slice).align ≠ .inFrame) : rekeyInterval slice d = d := if_pos h

theorem rekeyInterval_begins (hst : (d.group slice).pair.st = .keyed) (hi : (d.smvObj slice).n 18 ≠ 0) (hh : d.halted = false)
    (ha : (d.group slice).align = .inFrame) : rekeyInterval slice d =
      pairHello slice true (advanceTo ((d.group slice).pair.lastSwitch + (d.smvObj slice).n 18 * 500000000) d) :=
  if_neg (by simp [hst, hi, hh, ha])

end Clock

/-- Settles O55: a message by the state that expects it, the peer's FINISHED by its value, and each expiry by the state that it
ends. -/
theorem pairRows : Obligations.PairRows := by
  intro s slice p active empty does
  have row {g : Dev → Dev} (h : pairMessage slice s.dev = g s.dev) :
      Does (.pairMessageAssembled slice) s (fun d => pairCheck slice (g d)) :=
    does_of_eq (exec_pairMessageAssembled ..) (congrArg (pairCheck slice) h)
  refine ⟨fun h => row (g := id) (h.elim pairMessage_none pairMessage_halted), fun code m hm hh => ⟨?abort, ?late, ?waits⟩,
    fun code m hm hh hs => ⟨?hello, ?again, ?kem, ?auth, ?finished, ?unexpected⟩,
    fun m hs => ⟨fun h => (pairStepDone_finIn hs).trans (if_pos h), fun h => (pairStepDone_finIn hs).trans (if_neg h)⟩,
    fun h => idles_of_eq (exec_pairTimeout ..) (pairTimeout_idle h),
    fun h => does_of_eq (exec_pairTimeout ..) (pairTimeout_fails h),
    fun h => idles_of_eq (exec_pairBackoffExpiry ..) (pairBackoff_elsewhere h),
    fun h => does_of_eq (exec_pairBackoffExpiry ..) (pairBackoff_ends h),
    fun h => idles_of_eq (exec_rekeyIntervalExpiry ..) (rekeyInterval_idle h),
    fun hst hi hh ha => does_of_eq (exec_rekeyIntervalExpiry ..) (rekeyInterval_begins hst hi hh ha)⟩
  case abort =>
    rintro rfl ha
    exact row (pairMessage_abort hm hh ha)
  case late =>
    rintro rfl ha
    exact row (pairMessage_abort_discarded hm hh ha)
  case waits => exact fun hc hs => row (g := id) (pairMessage_kept hm (.inr ⟨Option.isSome_iff_ne_none.2 hs, hc⟩))
  case hello =>
    rintro rfl hst
    refine row ?_
    dsimp only
    split
    next hi => exact pairMessage_hello_own hh hs hm hst hi
    next hi => exact pairMessage_hello hh hs hm hst hi
  case again =>
    rintro rfl hst
    exact row (pairMessage_hello_keyed hh hs hm hst)
  case kem =>
    rintro rfl hst
    exact row (pairMessage_kem hh hs hm hst)
  case auth =>
    rintro rfl hst
    exact row (pairMessage_auth hh hs hm hst)
  case finished =>
    rintro rfl hst
    exact row (pairMessage_finished hh hs hm hst)
  case unexpected =>
    exact fun ha hello kem auth fin => row (pairMessage_unexpected hh hs hm ha hello kem auth fin)

end Sys2Proof.Machine

namespace Sys2Proof.Machine

/-! ### Commands by their checks, their slots and their bodies (14 R434, 09 R291, R293) -/

section Answers

variable {i : Instr} {need : Dev → Cmd → Prop} {checks : Dev → Cmd → List (Bool × Nat)} {slots : Dev → Cmd → List (Nat × Slot)}
  {body : Dev → Cmd → Dev → Answer} {r : Dev → Cmd → Reply} {f : Cmd → Dev → Dev} {e : Nat}

/-- A command whose checks are all passed, and whose body answers nothing yet, starts. -/
theorem begins_of_checks (he : ∀ d c, effectOf i c d = checked (checks d c) d (body d c))
    (hb : ∀ d c, need d c → Passes (checks d c) ∧ body d c d = (f c d, none)) : Begins i need f := by
  refine begins_of _ _ _ fun d c hn => ?_
  obtain ⟨hp, hd⟩ := hb d c hn
  rw [he, checked_passes _ d _ hp, hd]

/-- The first check that fails decides a command's status. -/
theorem fails_of_checks (he : ∀ d c, effectOf i c d = checked (checks d c) d (body d c))
    (hf : ∀ d c, need d c → firstFail (checks d c) = some e) : Fails i need e :=
  runs_plain _ _ _ _ fun d c hn => ⟨(he d c).trans (checked_fails _ d _ e (hf d c hn)), rfl⟩

/-- A command whose first checks are passed, and whose slots equal their complements, completes with what its body answers. -/
theorem runs_of_reading (he : ∀ d c, effectOf i c d = reading (checks d c) (slots d c) d (body d c))
    (hb : ∀ d c, need d c → Passes (checks d c) ∧ Whole (slots d c) ∧ body d c d = (f c d, some (r d c)))
    (hr : ∀ d c, ((r d c).outs.map (fun o => o.2.length)).sum ≤ 128) : Runs i need r f := by
  refine runs_small _ _ _ _ fun d c hn => ⟨?_, hr d c⟩
  obtain ⟨hp, hw, hd⟩ := hb d c hn
  rw [he, reading_passes _ _ d _ hp hw, hd]

/-- A command that may answer a reply or none yet, by what its answer leaves once it is carried out. -/
theorem begins_of_carried
    (h : ∀ d c, need d c → (∀ x, (effectOf i c d).2 = some x → x.outs = []) ∧ carryOut c (effectOf i c d) = f c d) :
    Begins i need f := by
  intro a s c hc hn
  obtain ⟨hplain, hcarried⟩ := h _ _ hn
  have hl := comes_leaves a i s c hc
  rw [Leaves, State.onDev, answerOf_small _ _ _ fun x hx => by simp [hplain x hx], hcarried] at hl
  exact hl

end Answers

/-! ### Keys that a command makes (09 R305, R293) -/

section MakeKey

variable {dom : Nat} {k : KeyOps} {key : Bytes} {d : Dev}

theorem makeKey_seals (h : d.dwkOk dom = true) : makeKey dom k key d =
    ((sealBlob k.attr dom k.handle k.parent k.ownerTag key d).2, some (keyReply dom k key d)) := if_pos h

theorem makeKey_mismatch (h : d.dwkOk dom = false) : makeKey dom k key d = (raiseAlarm 10 0 d, some (fail eIntegrity)) :=
  if_neg (by simp [h])

/-- The blob of a made key is within DM's limit for a command of class ONCE (14 R438). -/
theorem keyReply_small (dom : Nat) (k : KeyOps) (key : Bytes) (d : Dev) :
    ((keyReply dom k key d).outs.map (fun o => o.2.length)).sum ≤ 128 := by
  have hb := sealBlob_le k.attr dom k.handle k.parent k.ownerTag key d
  simp only [keyReply, List.map_cons, List.map_nil, List.sum_cons, List.sum_nil]
  omega

end MakeKey

theorem keyGenerate_seals (h : Hdr) (k : KeyOps) : Runs (.keyGenerate h k)
    (fun d c => Passes (makeFails d c.dom k false) ∧ Whole (d.slotAt k.slot) ∧
      Passes ([rootFail d] ++ slotFails d c.dom k) ∧ (draw (makeLen k) d).2.dwkOk c.dom = true)
    (fun d c => keyReply c.dom k (draw (makeLen k) d).1 (draw (makeLen k) d).2)
    (fun c d => (sealBlob k.attr c.dom k.handle k.parent k.ownerTag (draw (makeLen k) d).1 (draw (makeLen k) d).2).2) := by
  refine runs_of_reading (fun _ _ => rfl) (fun d c hn => ?_) fun _ _ => keyReply_small ..
  obtain ⟨hmake, hwhole, hslot, hdwk⟩ := hn
  exact ⟨hmake, hwhole, (checked_passes _ d _ hslot).trans (makeKey_seals hdwk)⟩

theorem keyGenerate_mismatch (h : Hdr) (k : KeyOps) : Runs (.keyGenerate h k)
    (fun d c => Passes (makeFails d c.dom k false) ∧ Whole (d.slotAt k.slot) ∧
      Passes ([rootFail d] ++ slotFails d c.dom k) ∧ (draw (makeLen k) d).2.dwkOk c.dom = false)
    (fun _ _ => fail eIntegrity) (fun _ d => raiseAlarm 10 0 (draw (makeLen k) d).2) := by
  refine runs_of_reading (fun _ _ => rfl) (fun d c hn => ?_) fun _ _ => Nat.zero_le _
  obtain ⟨hmake, hwhole, hslot, hdwk⟩ := hn
  exact ⟨hmake, hwhole, (checked_passes _ d _ hslot).trans (makeKey_mismatch hdwk)⟩

/-- An import fails where the wrapping does not open, or opens to a key that is not as long as KEY_LEN says. -/
theorem keyImport_seals (h : Hdr) (k : KeyOps) (kek form iova len : Nat) (data : Bytes) :
    let wrapped (d : Dev) (c : Cmd) := (unwrapKey form (d.keyOf c.dom kek).2.keyBytes (bytesAt data 0 len)).filter (fun key =>
      key.length = makeLen k)
    Runs (.keyImport h k kek form iova len data)
      (fun d c => Passes (makeFails d c.dom k (!d.handleOk c.dom kek || decide (1 < form))) ∧
        Whole ((d.findPinned c.dom kek).toList ++ d.slotAt k.slot) ∧ Passes (importFails d c.dom k kek len) ∧ d.dwkOk c.dom = true)
      (fun d c => match wrapped d c with
        | some key => keyReply c.dom k key d
        | none => fail eIntegrity)
      (fun c d => match wrapped d c with
        | some key => (sealBlob k.attr c.dom k.handle k.parent k.ownerTag key d).2
        | none => d) := by
  refine runs_of_reading (fun _ _ => rfl) (fun d c hn => ?_) fun d c => ?_
  · obtain ⟨hmake, hwhole, himport, hdwk⟩ := hn
    refine ⟨hmake, hwhole, (checked_passes _ d _ himport).trans ?_⟩
    dsimp only
    rcases unwrapKey form (d.keyOf c.dom kek).2.keyBytes (bytesAt data 0 len) with _ | key
    · rfl
    · by_cases hlen : key.length = makeLen k
      · simp [Option.filter_some, hlen, makeKey_seals hdwk]
      · simp [Option.filter_some, hlen, answer]
  · dsimp only
    split
    · exact keyReply_small ..
    · exact Nat.zero_le _

theorem keyDerive_seals (h : Hdr) (k : KeyOps) (source iova n m : Nat) (data : Bytes) :
    Runs (.keyDerive h k source iova n m data)
      (fun d c => Passes (makeFails d c.dom k (!d.handleOk c.dom source)) ∧
        Whole ((d.findPinned c.dom source).toList ++ d.slotAt k.slot) ∧ Passes (deriveFails d c.dom k source n m) ∧
        d.dwkOk c.dom = true)
      (fun d c => keyReply c.dom k (kdfCmac (d.keyOf c.dom source).2.keyBytes (bytesAt data 0 n) (bytesAt data n m) (makeLen k)) d)
      (fun c d => (sealBlob k.attr c.dom k.handle k.parent k.ownerTag
        (kdfCmac (d.keyOf c.dom source).2.keyBytes (bytesAt data 0 n) (bytesAt data n m) (makeLen k)) d).2) := by
  refine runs_of_reading (fun _ _ => rfl) (fun d c hn => ?_) fun _ _ => keyReply_small ..
  obtain ⟨hmake, hwhole, hderive, hdwk⟩ := hn
  exact ⟨hmake, hwhole, (checked_passes _ d _ hderive).trans (makeKey_seals hdwk)⟩

theorem keyWriteClear_seals (h : Hdr) (k : KeyOps) (iova : Nat) (data : Bytes) : Runs (.keyWriteClear h k true iova data)
    (fun d c => Passes (clearFails d c.dom k true) ∧ Whole (d.slotAt k.slot) ∧
      Passes (slotFails d c.dom k ++ complementFails data) ∧ d.dwkOk c.dom = true)
    (fun d c => keyReply c.dom k (clearKey k data) d)
    (fun c d => (sealBlob k.attr c.dom k.handle k.parent k.ownerTag (clearKey k data) d).2) := by
  refine runs_of_reading (fun _ _ => rfl) (fun d c hn => ?_) fun _ _ => keyReply_small ..
  obtain ⟨hclear, hwhole, hslot, hdwk⟩ := hn
  exact ⟨hclear, hwhole, (checked_passes _ d _ hslot).trans (makeKey_seals hdwk)⟩

theorem keyWriteClear_installs (h : Hdr) (k : KeyOps) (iova : Nat) (data : Bytes) : Runs (.keyWriteClear h k false iova data)
    (fun d c => Passes (clearFails d c.dom k false) ∧ Whole (d.slotAt k.slot) ∧
      { d.slot k.slot with binds := 0 } ≠ keySlot d c.dom k (clearKey k data) ∧
      Passes (slotFails d c.dom k ++ complementFails data))
    (fun _ _ => {}) (fun c d => installPinned k.slot (keySlot d c.dom k (clearKey k data)) d) := by
  refine runs_of_reading (fun _ _ => rfl) (fun d c hn => ?_) fun _ _ => Nat.zero_le _
  obtain ⟨hclear, hwhole, hnew, hslot⟩ := hn
  exact ⟨hclear, hwhole, (if_neg (by simpa using hnew)).trans (checked_passes _ d _ hslot)⟩

theorem keyWriteClear_repeats (h : Hdr) (k : KeyOps) (iova : Nat) (data : Bytes) : Runs (.keyWriteClear h k false iova data)
    (fun d c => Passes (clearFails d c.dom k false ++ complementFails data) ∧ Whole (d.slotAt k.slot) ∧
      { d.slot k.slot with binds := 0 } = keySlot d c.dom k (clearKey k data)) (fun _ _ => {}) (fun _ d => d) := by
  refine runs_of_reading (fun _ _ => rfl) (fun d c hn => ?_) fun _ _ => Nat.zero_le _
  obtain ⟨hchecks, hwhole, hsame⟩ := hn
  obtain ⟨hclear, hcomplement⟩ := List.forall_mem_append.1 hchecks
  exact ⟨hclear, hwhole, (if_pos (by simpa using hsame)).trans (checked_passes _ d _ hcomplement)⟩

/-- Settles O17: each command by its checks, its slots and the key that it makes. -/
theorem keyMaking : Obligations.KeyMaking := fun h k =>
  ⟨keyGenerate_seals h k, keyGenerate_mismatch h k, keyImport_seals h k, keyDerive_seals h k, keyWriteClear_seals h k,
    keyWriteClear_installs h k, keyWriteClear_repeats h k⟩

/-! ### Slots pinned, released and read (09 R298, R299, R306) -/

theorem whole_slotAt {d : Dev} {n : Nat} (h : (d.slot n).pairOk = true) : Whole (d.slotAt n) := by
  unfold Dev.slotAt
  split <;> simp [h]

theorem keyPin_pins (h : Hdr) (handle slot iova : Nat) (blob : Bytes) : Runs (.keyPin h handle slot iova blob)
    (fun d c => Passes (pinFails d c.dom handle slot iova) ∧ Whole (d.slotAt slot) ∧
      ¬((d.slot slot).state = .valid ∧ (d.slot slot).dom = c.dom ∧ (d.slot slot).handle = handle) ∧
      Passes (slotFails d c.dom (pinOps handle slot iova)))
    (fun d c => match openBlob d c.dom handle blob none with
      | .ok _ => {}
      | .error cause => fail (openStatus cause))
    (fun c d => match openBlob d c.dom handle blob none with
      | .ok s => installPinned slot s d
      | .error cause => dwkAlarm cause d) := by
  refine runs_of_reading (fun _ _ => rfl) (fun d c hn => ?_) fun d c => ?_
  · obtain ⟨hpin, hwhole, hnew, hslot⟩ := hn
    refine ⟨hpin, hwhole, (if_neg hnew).trans ((checked_passes _ d _ hslot).trans ?_)⟩
    cases openBlob d c.dom handle blob none <;> rfl
  · cases openBlob d c.dom handle blob none <;> exact Nat.zero_le _

theorem keyPin_repeats (h : Hdr) (handle slot iova : Nat) (blob : Bytes) : Runs (.keyPin h handle slot iova blob)
    (fun d c => Passes (pinFails d c.dom handle slot iova) ∧ Whole (d.slotAt slot) ∧
      (d.slot slot).state = .valid ∧ (d.slot slot).dom = c.dom ∧ (d.slot slot).handle = handle)
    (fun _ _ => {}) (fun _ d => d) := by
  refine runs_of_reading (fun _ _ => rfl) (fun d c hn => ?_) fun _ _ => Nat.zero_le _
  obtain ⟨hpin, hwhole, hsame⟩ := hn
  exact ⟨hpin, hwhole, if_pos hsame⟩

theorem keyUnpin_runs (h : Hdr) (slot : Nat) : Runs (.keyUnpin h slot)
    (fun d c => slot < 16384 ∧ d.ownsSlot c.dom slot = true ∧ (d.slot slot).pairOk = true ∧
      ((d.slot slot).state = .valid ∨ (d.slot slot).state = .loading) ∧ d.pinUsed slot = false)
    (fun _ _ => {}) (fun _ => retireSlot false slot) := by
  refine runs_of_reading (fun _ _ => rfl) (fun d c hn => ?_) fun _ _ => Nat.zero_le _
  obtain ⟨hrange, howns, hpair, hstate, hfree⟩ := hn
  exact ⟨by simp [hrange, howns], whole_slotAt hpair, checked_passes _ d _ (by rcases hstate with hs | hs <;> simp [hs, hfree])⟩

theorem keyUnpin_used (h : Hdr) (slot : Nat) : Fails (.keyUnpin h slot)
    (fun d c => slot < 16384 ∧ d.ownsSlot c.dom slot = true ∧ (d.slot slot).pairOk = true ∧
      ((d.slot slot).state = .valid ∨ (d.slot slot).state = .loading) ∧ d.pinUsed slot = true) eConflict := by
  refine runs_of_reading (fun _ _ => rfl) (fun d c hn => ?_) fun _ _ => Nat.zero_le _
  obtain ⟨hrange, howns, hpair, hstate, hused⟩ := hn
  exact ⟨by simp [hrange, howns], whole_slotAt hpair,
    checked_fails _ d _ _ (by rcases hstate with hs | hs <;> simp [firstFail, hs, hused])⟩

theorem keyEvict_found (h : Hdr) (handle : Nat) : Runs (.keyEvict h handle)
    (fun d c => d.handleOk c.dom handle = true ∧ d.findPinned c.dom handle = none ∧
      ∃ n s, d.findCached c.dom handle = some (n, s) ∧ s.pairOk = true ∧ s.state ≠ .retiring ∧ s.state ≠ .zeroing)
    (fun _ _ => { flags := 4 })
    (fun c d => match d.findCached c.dom handle with
      | some (n, _) => retireSlot false n d
      | none => d) := by
  refine runs_of_reading (fun _ _ => rfl) (fun d c hn => ?_) fun _ _ => Nat.zero_le _
  obtain ⟨hhandle, hpinned, n, s, hcached, hpair, hret, hzero⟩ := hn
  refine ⟨by simp [hhandle], by simp [hpinned, hcached, hpair], (checked_passes _ d _ (by simp [hpinned])).trans ?_⟩
  simp only [hcached, if_neg (not_or.2 ⟨hret, hzero⟩)]

theorem keyEvict_absent (h : Hdr) (handle : Nat) : Runs (.keyEvict h handle)
    (fun d c => d.handleOk c.dom handle = true ∧ d.findPinned c.dom handle = none ∧ d.findCached c.dom handle = none)
    (fun _ _ => {}) (fun _ d => d) := by
  refine runs_of_reading (fun _ _ => rfl) (fun d c hn => ?_) fun _ _ => Nat.zero_le _
  obtain ⟨hhandle, hpinned, hcached⟩ := hn
  refine ⟨by simp [hhandle], by simp [hpinned, hcached], (checked_passes _ d _ (by simp [hpinned])).trans ?_⟩
  simp only [hcached, answer]

theorem keyEvict_pinned (h : Hdr) (handle : Nat) : Fails (.keyEvict h handle)
    (fun d c => d.handleOk c.dom handle = true ∧ (d.findPinned c.dom handle).isSome = true ∧
      Whole ((d.findPinned c.dom handle).toList ++ (d.findCached c.dom handle).toList)) eState := by
  refine runs_of_reading (fun _ _ => rfl) (fun d c hn => ?_) fun _ _ => Nat.zero_le _
  obtain ⟨hhandle, hpinned, hwhole⟩ := hn
  exact ⟨by simp [hhandle], hwhole, checked_fails _ d _ _ (by simp [firstFail, hpinned])⟩

theorem keyExport_wraps (h : Hdr) (handle kek form iova : Nat) : Runs (.keyExport h handle kek form iova)
    (fun d c => d.handleOk c.dom handle = true ∧ d.handleOk c.dom kek = true ∧ form ≤ 1 ∧
      Whole ((d.anySlot c.dom handle).toList ++ (d.findPinned c.dom kek).toList) ∧ Passes (exportFails d c.dom handle kek))
    (fun d c => let out := wrapKey form (d.keyOf c.dom kek).2.keyBytes ((d.anySlot c.dom handle).getD (0, {})).2.keyBytes
      { value := out.length, outs := [(iova, out)] }) (fun _ d => d) := by
  refine runs_of_reading (fun _ _ => rfl) (fun d c hn => ?_) fun d c => ?_
  · obtain ⟨hhandle, hkek, hform, hwhole, hexport⟩ := hn
    exact ⟨by simp [hhandle, hkek, hform], hwhole, checked_passes _ d _ hexport⟩
  · have hout := wrapKey_le form (d.keyOf c.dom kek).2.keyBytes ((d.anySlot c.dom handle).getD (0, {})).2
    simp only [List.map_cons, List.map_nil, List.sum_cons, List.sum_nil]
    omega

theorem keySlots : Claims.KeySlots := fun h handle slot iova blob kek form =>
  ⟨keyPin_pins h handle slot iova blob, keyPin_repeats h handle slot iova blob, keyUnpin_runs h slot, keyUnpin_used h slot,
    keyEvict_found h handle, keyEvict_absent h handle, keyEvict_pinned h handle, keyExport_wraps h handle kek form iova⟩

/-! ### Parent entries, revocation and domain rolls (09 R300 to R303) -/

theorem keyParentBind_binds (h : Hdr) (entry slot : Nat) : Runs (.keyParentBind h entry slot)
    (fun d c => entry ≤ 1023 ∧ slot < 16384 ∧ quotaParent (d.quota c.dom) entry = true ∧ d.ownsSlot c.dom slot = true ∧
      (d.slot slot).pairOk = true ∧
      d.keys.parents.find entry = none ∧ (∀ e ∈ d.keys.parents, e.2.slot ≠ slot) ∧ (d.slot slot).state = .valid ∧
      ∃ n, d.depthOf (d.slot slot) = some n ∧ n ≤ 3)
    (fun _ _ => {})
    (fun _ d => d.onKeys (fun k => { k with
      parents := k.parents.put entry { slot := slot, depth := (d.depthOf (d.slot slot)).getD 1 } })) := by
  refine runs_of_reading (fun _ _ => rfl) (fun d c hn => ?_) fun _ _ => Nat.zero_le _
  obtain ⟨hentry, hslot, hquota, howns, hpair, hfree, hunbound, hvalid, n, hdepth, hdeep⟩ := hn
  have hnowhere : d.keys.parents.any (fun e => decide (e.2.slot = slot)) = false := by simpa using hunbound
  exact ⟨by simp [hentry, hslot, hquota, howns], whole_slotAt hpair,
    (if_neg (by simp [hfree])).trans (checked_passes _ d _ (by simp [hfree, hnowhere, hvalid, hdepth, hdeep]))⟩

theorem keyRevoke_checks (h : Hdr) (entry : Nat) (d : Dev) (c : Cmd) : effectOf (.keyRevoke h entry) c d =
    checked [(decide (1023 < entry), eRange), (!quotaParent (d.quota c.dom) entry, ePerm),
      (decide (d.parentGen entry = 2 ^ 32 - 1), eWrap)] d
      (fun d => (addTeardown
        { dom := c.dom, first := entry, entries := (revokeAll 4 [entry] d).1, slots := (revokeAll 4 [entry] d).2.1, cmd := some c }
        (revokeAll 4 [entry] d).2.2, none)) := rfl

theorem keyRevoke_revokes (h : Hdr) (entry : Nat) : Begins (.keyRevoke h entry)
    (fun d c => entry ≤ 1023 ∧ quotaParent (d.quota c.dom) entry = true ∧ d.parentGen entry ≠ 2 ^ 32 - 1)
    (fun c d => addTeardown
      { dom := c.dom, first := entry, entries := (revokeAll 4 [entry] d).1, slots := (revokeAll 4 [entry] d).2.1, cmd := some c }
      (revokeAll 4 [entry] d).2.2) := by
  refine begins_of_checks (keyRevoke_checks h entry) fun d c hn => ?_
  obtain ⟨hentry, hquota, hgen⟩ := hn
  exact ⟨by simpa [hentry, hquota] using hgen, rfl⟩

theorem keyRevoke_wraps (h : Hdr) (entry : Nat) : Fails (.keyRevoke h entry)
    (fun d c => entry ≤ 1023 ∧ quotaParent (d.quota c.dom) entry = true ∧ d.parentGen entry = 2 ^ 32 - 1) eWrap := by
  refine fails_of_checks (keyRevoke_checks h entry) fun d c hn => ?_
  obtain ⟨hentry, hquota, hgen⟩ := hn
  simp [firstFail, Nat.not_lt.2 hentry, hquota, hgen]

theorem keyDomainRoll_checks (h : Hdr) (target : Nat) (d : Dev) (c : Cmd) : effectOf (.keyDomainRoll h target) c d =
    checked [(decide (32 < target), eRange), (decide (c.dom ≠ d.sup), ePerm), (decide (d.domGen target = 2 ^ 32 - 1), eWrap)] d
      (fun d => (askLeave (.rollScan target) (d.onKeys (fun k => { k with rolls := k.rolls ++ [(c, target)] })), none)) := rfl

theorem keyDomainRoll_asks (h : Hdr) (target : Nat) : Begins (.keyDomainRoll h target)
    (fun d c => target ≤ 32 ∧ c.dom = d.sup ∧ d.domGen target ≠ 2 ^ 32 - 1)
    (fun c d => askLeave (.rollScan target) (d.onKeys (fun k => { k with rolls := k.rolls ++ [(c, target)] }))) := by
  refine begins_of_checks (keyDomainRoll_checks h target) fun d c hn => ?_
  obtain ⟨htarget, hsup, hgen⟩ := hn
  exact ⟨by simpa [htarget, hsup] using hgen, rfl⟩

/-! ### What KEY_STATUS answers (14, KEY_STATUS result) -/

theorem keyStatus_entry (h : Hdr) (entry : Nat) : Runs (.keyStatus h 2 entry)
    (fun d c => entry ≤ 1023 ∧ quotaParent (d.quota c.dom) entry = true)
    (fun d c =>
      { result := leBytes c.dom 1 ++ leBytes (((d.keys.parents.find entry).map ParentBind.depth).getD 0) 1 ++
          leBytes (((d.keys.parents.find entry).map ParentBind.slot).getD 0xFFFF) 2 ++ leBytes (d.parentGen entry) 4 })
    (fun _ d => d) := by
  refine runs_of_checks (fun _ _ => rfl) (fun d c hn => ?_) fun d c _ => ⟨rfl, rfl⟩
  obtain ⟨hentry, hquota⟩ := hn
  simp [hentry, hquota]

theorem keyStatus_slot (h : Hdr) (slot : Nat) : Runs (.keyStatus h 1 slot)
    (fun d c => slot < 16384 ∧ (d.slot slot).pairOk = true ∧ ((d.slot slot).state = .free ∨ (d.slot slot).dom = c.dom))
    (fun d _ => slotReply d (some slot) (d.slot slot)) (fun _ d => d) := by
  refine runs_of_reading (fun _ _ => rfl) (fun d c hn => ?_) fun _ _ => Nat.zero_le _
  obtain ⟨hslot, hpair, hown⟩ := hn
  exact ⟨by simp [hslot], whole_slotAt hpair, checked_passes _ d _ (by simpa [or_iff_not_imp_left] using hown)⟩

theorem keyStatus_handle (h : Hdr) (handle : Nat) : Runs (.keyStatus h 0 handle)
    (fun d c => d.handleOk c.dom handle = true ∧ Whole (d.anySlot c.dom handle).toList)
    (fun d c => match d.anySlot c.dom handle with
      | some (n, s) => slotReply d (some n) s
      | none => slotReply d none {}) (fun _ d => d) := by
  refine runs_of_reading (fun _ _ => rfl) (fun d c hn => ?_) fun d c => ?_
  · obtain ⟨hhandle, hwhole⟩ := hn
    refine ⟨by simp [hhandle], hwhole, ?_⟩
    cases d.anySlot c.dom handle <;> rfl
  · cases d.anySlot c.dom handle <;> exact Nat.zero_le _

/-! ### The management key (13 R426, 14 R435) -/

section Management

variable {h : Hdr} {ident kek iova : Nat} {data : Bytes} {c : Cmd} {d : Dev}

/-- The key that KEY_MGMT_SET brings is written, unless it already holds. -/
def mgmtAnswer (c : Cmd) (ident : Nat) (d : Dev) (key : Bytes) : Answer :=
  if d.vault.mgmtId.toNat = ident ∧ d.vault.mgmtKey = key ∧ d.mgmtOk then answer {} d
  else (newSession (setMgmtKey ident key (hemSeal (finish c {} d))), none)

/-- A clear form is set as it comes. -/
theorem keyMgmtSet_clear (hid : ident ≠ 0) (hsup : c.dom = d.sup) (hgrant : d.grant c.dom 0 = true) (hdm : c.dom ≠ dmCode) :
    effectOf (.keyMgmtSet h ident 1 kek iova 32 data) c d = mgmtAnswer c ident d (bytesAt data 0 32) :=
  (reading_passes _ _ d _ (by simp [hid, hgrant, hdm, ← hsup]) (by simp)).trans (checked_passes _ d _ (by simp))

/-- A wrapped form is set once the KEK has opened it. -/
theorem keyMgmtSet_wrapped (hid : ident ≠ 0) (hsup : c.dom = d.sup) (hkek : d.handleOk c.dom kek = true)
    (hwhole : Whole (d.findPinned c.dom kek).toList) (hkey : Passes (keyFails d c.dom kek 5)) :
    effectOf (.keyMgmtSet h ident 0 kek iova 40 data) c d =
      match kwOpen (d.keyOf c.dom kek).2.keyBytes (bytesAt data 0 40) with
      | some key => mgmtAnswer c ident d key
      | none => answer (fail eIntegrity) d :=
  (reading_passes _ _ d _ (by simp [hid, hkek, ← hsup]) (by simpa using hwhole)).trans
    (checked_passes _ d _ (by simpa using hkey))

end Management

theorem keyMgmtSet_sets (h : Hdr) (ident kek iova : Nat) (data : Bytes) : Begins (.keyMgmtSet h ident 1 kek iova 32 data)
    (fun d c => ident ≠ 0 ∧ c.dom = d.sup ∧ d.grant c.dom 0 = true ∧ c.dom ≠ dmCode ∧
      ¬(d.vault.mgmtId.toNat = ident ∧ d.vault.mgmtKey = bytesAt data 0 32 ∧ d.mgmtOk = true))
    (fun c d => newSession (setMgmtKey ident (bytesAt data 0 32) (hemSeal (finish c {} d)))) := by
  refine begins_of _ _ _ fun d c hn => ?_
  obtain ⟨hid, hsup, hgrant, hdm, hnew⟩ := hn
  exact (keyMgmtSet_clear hid hsup hgrant hdm).trans (if_neg hnew)

theorem keyMgmtSet_repeats (h : Hdr) (ident kek iova : Nat) (data : Bytes) : Runs (.keyMgmtSet h ident 1 kek iova 32 data)
    (fun d c => ident ≠ 0 ∧ c.dom = d.sup ∧ d.grant c.dom 0 = true ∧ c.dom ≠ dmCode ∧
      d.vault.mgmtId.toNat = ident ∧ d.vault.mgmtKey = bytesAt data 0 32 ∧ d.mgmtOk = true)
    (fun _ _ => {}) (fun _ d => d) := by
  refine runs_plain _ _ _ _ fun d c hn => ⟨?_, rfl⟩
  obtain ⟨hid, hsup, hgrant, hdm, hsame⟩ := hn
  exact (keyMgmtSet_clear hid hsup hgrant hdm).trans (if_pos hsame)

theorem keyMgmtSet_unwraps (h : Hdr) (ident kek iova : Nat) (data : Bytes) : Begins (.keyMgmtSet h ident 0 kek iova 40 data)
    (fun d c => ident ≠ 0 ∧ c.dom = d.sup ∧ d.handleOk c.dom kek = true ∧ Whole (d.findPinned c.dom kek).toList ∧
      Passes (keyFails d c.dom kek 5) ∧
      ¬(d.vault.mgmtId.toNat = ident ∧ kwOpen (d.keyOf c.dom kek).2.keyBytes (bytesAt data 0 40) = some d.vault.mgmtKey ∧ d.mgmtOk = true))
    (fun c d => match kwOpen (d.keyOf c.dom kek).2.keyBytes (bytesAt data 0 40) with
      | some key => newSession (setMgmtKey ident key (hemSeal (finish c {} d)))
      | none => carryOut c (d, some (fail eIntegrity))) := by
  refine begins_of_carried fun d c hn => ?_
  obtain ⟨hid, hsup, hkek, hwhole, hkey, hnew⟩ := hn
  have hgoes := keyMgmtSet_wrapped (h := h) (iova := iova) (data := data) hid hsup hkek hwhole hkey
  rcases hopen : kwOpen (d.keyOf c.dom kek).2.keyBytes (bytesAt data 0 40) with _ | key
  · simp only [hopen] at hgoes
    exact ⟨by simp [hgoes, answer, fail], congrArg (carryOut c) hgoes⟩
  · have hset : mgmtAnswer c ident d key = (newSession (setMgmtKey ident key (hemSeal (finish c {} d))), none) :=
      if_neg fun ⟨hident, hkept, hok⟩ => hnew ⟨hident, hopen.trans (congrArg some hkept.symm), hok⟩
    simp only [hopen, hset] at hgoes
    exact ⟨by simp [hgoes], congrArg (carryOut c) hgoes⟩

theorem keyParents : Claims.KeyParents := fun h entry slot target =>
  ⟨keyParentBind_binds h entry slot, keyRevoke_revokes h entry, keyRevoke_wraps h entry, keyDomainRoll_asks h target,
    keyStatus_entry h entry, keyStatus_slot h slot, keyStatus_handle h slot, keyMgmtSet_sets h, keyMgmtSet_repeats h,
    keyMgmtSet_unwraps h⟩

/-- Settles O18: each command by its checks, the slots that it reads and what it then does. -/
theorem keyCommands : Obligations.KeyCommands := ⟨keySlots, keyParents⟩

end Sys2Proof.Machine

namespace Sys2Proof.Machine

/-! ### The lookaside commands (10 R328, R334) -/

/-- Each of the ten rows runs the body of its mode. -/
theorem effectOf_lookaside {i : Instr} {op : Nat} {h : Hdr} {j : LkJob} (hi : lookOf i = some (op, h, j)) (c : Cmd) (d : Dev) :
    effectOf i c d = lkBody op j c d := by
  unfold lookOf at hi
  split at hi <;> cases hi <;> rfl

section JobChecks

variable {op : Nat} {j : LkJob} {c : Cmd} {d : Dev}

theorem lkBody_accepts (hp : d.lkBadPair op c.dom j = none) (hk : lkCheck op c.dom j d = none) :
    lkBody op j c d = (lkAccept c j d, none) := by
  unfold lkBody
  rw [hp, hk]

theorem lkBody_fails (hp : d.lkBadPair op c.dom j = none) {e : Nat} (hk : lkCheck op c.dom j d = some e) :
    lkBody op j c d = (bump 0x0E1 c.dom d, some (fail e)) := by
  unfold lkBody
  rw [hp, hk]

theorem lkBody_mismatch {n : Nat} (hp : d.lkBadPair op c.dom j = some n) :
    lkBody op j c d = (keyMismatch n (bump 0x0E1 c.dom d), some (fail eIntegrity)) := by
  unfold lkBody
  rw [hp]

end JobChecks

/-- Settles O25: all ten rows share one body, which answers by the pair of the slot and the first failing check. -/
theorem lookasideCommands : Obligations.LookasideCommands := by
  intro i op h j hi
  have hbody := effectOf_lookaside hi
  exact ⟨begins_of _ _ _ fun d c ⟨hpair, hcheck⟩ => (hbody c d).trans (lkBody_accepts hpair hcheck),
    fun e => runs_plain _ _ _ _ fun d c ⟨hpair, hcheck⟩ => ⟨(hbody c d).trans (lkBody_fails hpair hcheck), rfl⟩,
    fun n => runs_plain _ _ _ _ fun d c hpair => ⟨(hbody c d).trans (lkBody_mismatch hpair), rfl⟩⟩

/-! ### A segment on its core: what is processed and written (10 R314, R316, R329) -/

theorem exec_lkSegmentEnd (c : Nat) (s : State) : exec (.lkSegmentEnd c) s = .next (s.onDev (coreEnd c)) := rfl

section Segment

variable {c : Nat} {r : LkRun} {d : Dev}

/-- A segment whose output is computed already is not processed again. -/
theorem lkProcess_written (h : r.out ≠ none) : lkProcess c r d = (r, d) :=
  if_pos (Option.isSome_iff_ne_none.2 h)

theorem lkProcess_out (h : r.out = none) :
    (lkProcess c r d).1.out = some ((lkOutput r r.seg d).1.flatMap pagePieces) := by
  simp [lkProcess, h]

theorem lkProcess_counts (h : r.out = none) :
    (lkProcess c r d).2 = progEvent 0x120 2 c ((r.seg + 15) / 16) (bumpBy 0x0E2 r.cmd.dom r.seg (lkOutput r r.seg d).2) := by
  simp [lkProcess, h, ceilDiv]

@[simp] theorem lkProcess_id : (lkProcess c r d).1.id = r.id := by unfold lkProcess; split <;> rfl
@[simp] theorem lkProcess_cmd : (lkProcess c r d).1.cmd = r.cmd := by unfold lkProcess; split <;> rfl
@[simp] theorem lkProcess_job : (lkProcess c r d).1.job = r.job := by unfold lkProcess; split <;> rfl

@[simp] theorem lkProcess_op : (lkProcess c r d).1.op = r.op := by
  unfold LkRun.op
  rw [lkProcess_cmd]

@[simp] theorem lkFlush_id : (lkFlush r d).1.id = r.id := rfl
@[simp] theorem lkFlush_op : (lkFlush r d).1.op = r.op := rfl
@[simp] theorem lkFlush_job : (lkFlush r d).1.job = r.job := rfl

end Segment

/-! ### What follows the writes of a segment (10 R313, R316, R329, R332) -/

/-- A job once a segment is over: its units are done, and its next segment starts anew. -/
def LkRun.advanced (r : LkRun) : LkRun := { r with done := r.done + r.seg, reads := 0, out := none, left := 0 }

section SegmentOver

variable {c : Nat} {r : LkRun} {d : Dev}

theorem lkSegmentOver_verifies (hdone : r.advanced.done = lkTotal r.op r.job) (hop : r.op = 10) :
    lkSegmentOver c r d = lkRefill c (pkAsk (.job r.id) (setRun { r.advanced with at_ := .pk } (freeCore c d))) := by
  unfold lkSegmentOver
  exact (if_pos hdone).trans (if_pos hop)

theorem lkSegmentOver_ends (hdone : r.advanced.done = lkTotal r.op r.job) (hop : r.op ≠ 10) :
    lkSegmentOver c r d = lkRefill c (lkFinal r.advanced (setRun r.advanced (freeCore c d))) := by
  unfold lkSegmentOver
  exact (if_pos hdone).trans (if_neg hop)

theorem lkSegmentOver_returns (hdone : r.advanced.done ≠ lkTotal r.op r.job) :
    lkSegmentOver c r d = lkPreempted c r (lkRefill c (setRun { r.advanced with at_ := .ready } (freeCore c d))) := by
  unfold lkSegmentOver
  exact if_neg hdone

end SegmentOver

section WriteOut

variable {c : Nat} {r r' : LkRun} {d d' : Dev} {a : Nat × Nat × Bool}

theorem lkWriteOut_over (hf : lkFlush r d = (r', d')) (hb : lkBlocked (setRun r' d') r' = none) :
    lkWriteOut c r d = lkSegmentOver c r' (setRun r' d') := by
  simp only [lkWriteOut, hf, hb]

theorem lkWriteOut_faults (hf : lkFlush r d = (r', d')) {n : Nat} (hb : lkBlocked (setRun r' d') r' = some (a, .fault n)) :
    lkWriteOut c r d = lkRefill c (freeCore c (lkSuspend r' a n (setRun r' d'))) := by
  simp only [lkWriteOut, hf, hb]

theorem lkWriteOut_walks (hf : lkFlush r d = (r', d')) (hb : lkBlocked (setRun r' d') r' = some (a, .walk)) :
    lkWriteOut c r d = setRun { r' with at_ := .walking } (setRun r' d') := by
  simp only [lkWriteOut, hf, hb]

theorem lkWriteOut_dead (hf : lkFlush r d = (r', d')) (hb : lkBlocked (setRun r' d') r' = some (a, .dead)) :
    lkWriteOut c r d = lkRefill c (freeCore c (lkDead r' (setRun r' d'))) := by
  simp only [lkWriteOut, hf, hb]

end WriteOut

/-! ### The end of what a core runs (10 R309, R313, R330) -/

section CoreEnd

variable {c id : Nat} {d : Dev} {w : IntRun} {r : LkRun}

theorem coreEnd_empty (h : (d.lk.cores.getD c {}).job = none) : coreEnd c d = d := by
  simp only [coreEnd, lkSegmentEnd, h, Option.bind_none, Option.isSome_none, Bool.false_eq_true, if_false]

theorem coreEnd_internal_waits (hw : (d.lk.cores.getD c {}).job.bind d.intRun = some w)
    (hl : (d.lk.cores.getD c {}).waits = true) : coreEnd c d = d := by
  simp only [coreEnd, hw, hl, if_true]

theorem coreEnd_internal (hw : (d.lk.cores.getD c {}).job.bind d.intRun = some w)
    (hl : (d.lk.cores.getD c {}).waits = false) :
    coreEnd c d = lkRefill c (intDone w.work (dropInt w.id (freeCore c d))) := by
  simp only [coreEnd, hw, hl, Bool.false_eq_true, if_false]

/-- A core without internal work ends the segment of a job. -/
theorem coreEnd_job (hi : (d.lk.cores.getD c {}).job.bind d.intRun = none) : coreEnd c d = lkSegmentEnd c d := by
  simp only [coreEnd, hi]

theorem lkSegmentEnd_gone (hj : (d.lk.cores.getD c {}).job = some id) (hr : d.lkRun id = none) :
    lkSegmentEnd c d = lkRefill c (freeCore c d) := by
  simp only [lkSegmentEnd, hj, hr, Option.bind_some, Option.isSome_some, if_true]

section Held

variable (hr : (d.lk.cores.getD c {}).job.bind d.lkRun = some r)
include hr

theorem lkSegmentEnd_waits (h : (d.lk.cores.getD c {}).waits = true ∨ r.at_ ≠ .running) : lkSegmentEnd c d = d := by
  simp only [lkSegmentEnd, hr, if_pos h]

theorem lkSegmentEnd_discards (hl : (d.lk.cores.getD c {}).waits = false) (ha : r.at_ = .running)
    (h : d.halted = true ∨ r.kill = true) : lkSegmentEnd c d = lkRefill c (lkDiscard r (freeCore c d)) := by
  have hruns : ¬((d.lk.cores.getD c {}).waits = true ∨ r.at_ ≠ .running) := by simp only [hl, ha]; decide
  simp only [lkSegmentEnd, hr, if_neg hruns, if_pos h]

theorem lkSegmentEnd_writes (hl : (d.lk.cores.getD c {}).waits = false) (ha : r.at_ = .running)
    (hh : d.halted = false) (hk : r.kill = false) :
    lkSegmentEnd c d = lkWriteOut c (lkProcess c r d).1 (lkProcess c r d).2 := by
  have hruns : ¬((d.lk.cores.getD c {}).waits = true ∨ r.at_ ≠ .running) := by simp only [hl, ha]; decide
  have hlives : ¬(d.halted = true ∨ r.kill = true) := by simp [hh, hk]
  simp only [lkSegmentEnd, hr, if_neg hruns, if_neg hlives]

end Held

end CoreEnd

/-! ### The public-key unit (10 R331) -/

theorem exec_pkOpDone (s : State) : exec .pkOpDone s = .next (s.onDev pkOpDone) := rfl

/-- The public-key unit takes its next operation, first those left of what it is doing. -/
def pkTakeAfter (left : List PkOp) (d : Dev) : Dev := pkTake (d.onLk (fun k => { k with pkQueue := left ++ k.pkQueue }))

section PkOpDone

variable {d : Dev} {g n id : Nat}

theorem pkOpDone_idle (h : d.lk.pk = none) : pkOpDone d = d := by simp only [pkOpDone, h]

theorem pkOpDone_fw_more (h : d.lk.pk = some (.fw g (n + 2))) : pkOpDone d = pkTakeAfter [.fw g (n + 1)] d := by
  simp [pkOpDone, h, pkTakeAfter]

theorem pkOpDone_pair_more (h : d.lk.pk = some (.pair g (n + 2))) : pkOpDone d = pkTakeAfter [.pair g (n + 1)] d := by
  simp [pkOpDone, h, pkTakeAfter]

theorem pkOpDone_fw_last (h : d.lk.pk = some (.fw g 1)) : pkOpDone d = lkInternal .fw (pkTakeAfter [] d) := by
  simp [pkOpDone, h, pkTakeAfter]

theorem pkOpDone_pair_last (h : d.lk.pk = some (.pair g 1)) : pkOpDone d = pairHash g (pkTakeAfter [] d) := by
  simp [pkOpDone, h, pkTakeAfter]

theorem pkOpDone_nothing (h : d.lk.pk = some (.fw g 0) ∨ d.lk.pk = some (.pair g 0)) : pkOpDone d = pkTakeAfter [] d := by
  rcases h with h | h <;> simp [pkOpDone, h, pkTakeAfter]

theorem pkOpDone_job (h : d.lk.pk = some (.job id)) : pkOpDone d = lkVerified id (pkTakeAfter [] d) := by
  simp [pkOpDone, h, pkTakeAfter]

end PkOpDone

/-- Settles O48: a core by what it runs, a segment by what stands in the way of its writes and by what is left of its job, the
public-key unit by what is left of its operation. -/
theorem unitRows : Obligations.UnitRows := by
  intro s c
  have run {g : Dev → Dev} : coreEnd c s.dev = g s.dev → Does (.lkSegmentEnd c) s g := does_of_eq (exec_lkSegmentEnd c s)
  have idle : coreEnd c s.dev = s.dev → Idles (.lkSegmentEnd c) s := idles_of_eq (exec_lkSegmentEnd c s)
  have pk {g : Dev → Dev} : pkOpDone s.dev = g s.dev → Does .pkOpDone s g := does_of_eq (exec_pkOpDone s)
  refine ⟨fun h => idle (coreEnd_empty h), fun w hw => ⟨fun hl => idle (coreEnd_internal_waits hw hl),
      fun hl => run (coreEnd_internal hw hl)⟩,
    fun hi => ⟨fun id hj hr => run ((coreEnd_job hi).trans (lkSegmentEnd_gone hj hr)),
      fun r hr => ⟨fun h => idle ((coreEnd_job hi).trans (lkSegmentEnd_waits hr h)),
        fun hl ha => ⟨fun h => run ((coreEnd_job hi).trans (lkSegmentEnd_discards hr hl ha h)), fun hh hk => ?segment⟩⟩⟩,
    fun h => idles_of_eq (exec_pkOpDone s) (pkOpDone_idle h), fun o ho => ?unit⟩
  case segment =>
    have leaves {e : Dev} (hw : lkWriteOut c (lkProcess c r s.dev).1 (lkProcess c r s.dev).2 = e) :
        exec (.lkSegmentEnd c) s = .next { s with dev := e } :=
      exec_of_eq (exec_lkSegmentEnd c s) ((coreEnd_job hi).trans ((lkSegmentEnd_writes hr hl ha hh hk).trans hw))
    refine ⟨fun h => ⟨lkProcess_out h, lkProcess_counts h⟩, fun h => lkProcess_written h, fun hb => ?ends,
      fun a n hb => leaves (lkWriteOut_faults rfl hb), fun a hb => leaves (lkWriteOut_walks rfl hb),
      fun a hb => leaves (lkWriteOut_dead rfl hb)⟩
    have ends {e : Dev} := fun hs => leaves (e := e) ((lkWriteOut_over rfl hb).trans hs)
    have hop : (lkFlush (lkProcess c r s.dev).1 (lkProcess c r s.dev).2).1.op = r.op := by simp
    have hjob : (lkFlush (lkProcess c r s.dev).1 (lkProcess c r s.dev).2).1.job = r.job := by simp
    have hid : (lkFlush (lkProcess c r s.dev).1 (lkProcess c r s.dev).2).1.id = r.id := by simp
    rw [← hop, ← hjob, ← hid]
    exact ⟨fun hd hv => ends (lkSegmentOver_verifies hd hv), fun hd hv => ends (lkSegmentOver_ends hd hv),
      fun hd => ends (lkSegmentOver_returns hd)⟩
  case unit =>
    have now {p : PkOp} (h : o = p) : s.dev.lk.pk = some p := h ▸ ho
    exact ⟨fun n g h => pk (pkOpDone_fw_more (now h)), fun n g h => pk (pkOpDone_pair_more (now h)),
      fun g h => pk (pkOpDone_fw_last (now h)), fun g h => pk (pkOpDone_pair_last (now h)),
      fun g h => pk (pkOpDone_nothing (h.imp now now)), fun id h => pk (pkOpDone_job (now h))⟩

end Sys2Proof.Machine

namespace Sys2Proof.Machine

/-! ### The time bases and the clock (11 R335) -/

theorem OnlyParts.tb {ps : List Part} {d e : Dev} (h : OnlyParts ps d e) (i : Nat) (hp : Part.time ∉ ps := by decide) :
    e.tb i = d.tb i :=
  congrArg (fun x : TimeSt => x.tbs.getD i {}) (h .time hp)

theorem onTb_tb_same {i : Nat} {d : Dev} (hi : i < d.time.tbs.length) (f : TimeBase → TimeBase) :
    (onTb i f d).tb i = f (d.tb i) := (getD_modAt ..).trans (if_pos ⟨rfl, hi⟩)

theorem onTb_tb_other {i j : Nat} (h : j ≠ i) (f : TimeBase → TimeBase) (d : Dev) : (onTb i f d).tb j = d.tb j :=
  (getD_modAt ..).trans (if_neg fun hij => h hij.1.symm)

@[simp] theorem onTb_tbs_length (i : Nat) (f : TimeBase → TimeBase) (d : Dev) :
    (onTb i f d).time.tbs.length = d.time.tbs.length := modAt_length ..

/-- A time base `n` edges later. -/
def TimeBase.after (n : Nat) (b : TimeBase) : TimeBase := { b with frac := (b.frac + n * b.inc) % (2 ^ 80 * 10 ^ 9) }

theorem advance_time (n : Nat) (d : Dev) : (advance n d).time =
    { d.time with tclk := d.time.tclk + n, tbs := d.time.tbs.map (TimeBase.after n) } := by
  have htime : (countTime n d).time = d.time := OnlyParts.countTime .time (by decide)
  simp only [advance, Dev.onTime_time, htime]
  rfl

/-- At each edge every time base takes its increment. -/
theorem advance_tb (n k : Nat) (d : Dev) :
    (advance n d).tb k = if k < d.time.tbs.length then (d.tb k).after n else d.tb k := by
  simp only [Dev.tb, advance_time, List.getD_eq_getElem?_getD, List.getElem?_map]
  by_cases hk : k < d.time.tbs.length
  · simp [hk]
  · simp [hk]

@[simp] theorem advanceTo_tbs_length (t : Nat) (d : Dev) : (advanceTo t d).time.tbs.length = d.time.tbs.length := by
  simp [advanceTo, advance_time]

theorem advanceTo_tb {i : Nat} {d : Dev} (hi : i < d.time.tbs.length) (t : Nat) :
    (advanceTo t d).tb i = (d.tb i).after (t - d.now) := (advance_tb ..).trans (if_pos hi)

/-- The clock moves no change that waits and no increment. -/
theorem advanceTo_tb_steering (t j : Nat) (d : Dev) :
    ((advanceTo t d).tb j).pending = (d.tb j).pending ∧ ((advanceTo t d).tb j).inc = (d.tb j).inc := by
  rw [advanceTo, advance_tb]
  split <;> exact ⟨rfl, rfl⟩

/-! ### The empty queue and the reset -/

/-- Settles O3: an edge is the clock's move by one, with what the counters take of it. -/
theorem idleEdge : Obligations.IdleEdge := by
  intro s hempty
  refine ⟨idle s, by simp only [step, hempty], hempty, congrArg TimeSt.tclk (advance_time 1 s.dev), fun k => ?_, .advance⟩
  have hk := advance_tb 1 k s.dev
  simp only [TimeBase.after, Nat.one_mul] at hk
  exact hk

/-- Settles O4: the reset state is given field by field, and its fixed-length lists are finite. -/
theorem resetState : Obligations.ResetState := by
  unfold Obligations.ResetState
  refine ⟨rfl, rfl, rfl, ?bases, rfl, ?lanes, by decide, by decide, ?domains, ?groups, rfl⟩
  case bases => decide
  case lanes => decide
  case domains => decide
  case groups => decide

/-! ### The time commands (11 R337, R338) -/

section TimeCommand

variable (h : Hdr)

theorem effectOf_tbInc (tb whole fraction : Nat) (c : Cmd) (d : Dev) :
    effectOf (.tbInc h tb whole fraction) c d = tbIncBody c tb whole fraction d := rfl

theorem effectOf_tbStep (o : StepOps) (c : Cmd) (d : Dev) : effectOf (.tbStep h o) c d = tbStepBody c o d := rfl

theorem effectOf_tbRead (tb iova : Nat) (c : Cmd) (d : Dev) : effectOf (.tbRead h tb iova) c d = tbReadBody c tb iova d := rfl

theorem tbInc_begins (tb whole fraction : Nat) : Begins (.tbInc h tb whole fraction)
    (fun d c => tb < 8 ∧ incOk whole fraction = true ∧ quotaTb (d.quota c.dom) tb = true ∧ d.servoOwns tb = false)
    (fun c => schedule tb (some c) false 0 (some (whole * 2 ^ 32 + fraction)) false 0) := by
  refine begins_of _ _ _ fun d c hn => ?_
  obtain ⟨htb, hinc, hquota, hfree⟩ := hn
  have hrange : ¬(8 ≤ tb ∨ (!incOk whole fraction) = true) := by simp [hinc, htb]
  rw [effectOf_tbInc, tbIncBody, if_neg hrange, if_neg (by simp [hquota]), if_neg (by simp [hfree])]

theorem tbInc_owned (tb whole fraction : Nat) : Fails (.tbInc h tb whole fraction)
    (fun d c => tb < 8 ∧ incOk whole fraction = true ∧ quotaTb (d.quota c.dom) tb = true ∧ d.servoOwns tb = true) eState := by
  refine runs_plain _ _ _ _ fun d c hn => ⟨?_, rfl⟩
  obtain ⟨htb, hinc, hquota, howned⟩ := hn
  have hrange : ¬(8 ≤ tb ∨ (!incOk whole fraction) = true) := by simp [hinc, htb]
  rw [effectOf_tbInc, tbIncBody, if_neg hrange, if_neg (by simp [hquota]), if_pos howned]

theorem tbInc_range (tb whole fraction : Nat) :
    Fails (.tbInc h tb whole fraction) (fun _ _ => 8 ≤ tb ∨ incOk whole fraction = false) eRange := by
  refine runs_plain _ _ _ _ fun d c hn => ⟨?_, rfl⟩
  rw [effectOf_tbInc, tbIncBody, if_pos (by simpa using hn)]

theorem tbStep_begins (o : StepOps) : Begins (.tbStep h o)
    (fun d c => o.tb < 8 ∧ o.nanos < 10 ^ 9 ∧ (o.newInc = true → incOk o.incWhole o.incFrac = true) ∧
      quotaTb (d.quota c.dom) o.tb = true ∧ d.servoOwns o.tb = false ∧
      0 ≤ (d.tbAt o.tb (d.applyEdge o.tb) : Int) + stepOffset o ∧ d.stepTooFar o.tb (stepOffset o) o.force = false)
    (fun c => schedule o.tb (some c) true (stepOffset o)
      (if o.newInc then some (o.incWhole * 2 ^ 32 + o.incFrac) else none) o.force o.iova) := by
  refine begins_of _ _ _ fun d c hn => ?_
  obtain ⟨htb, hnanos, hinc, hquota, hfree, hreading, hnear⟩ := hn
  have hrange : ¬(8 ≤ o.tb ∨ 10 ^ 9 ≤ o.nanos ∨ (o.newInc = true ∧ (!incOk o.incWhole o.incFrac) = true)) := by
    rintro (h8 | hn | ⟨hnew, hbad⟩)
    · omega
    · omega
    · simp [hinc hnew] at hbad
  have hlands : ¬((d.tbAt o.tb (d.applyEdge o.tb) : Int) + stepOffset o < 0 ∨
      d.stepTooFar o.tb (stepOffset o) o.force = true) := by simp [hnear, hreading]
  rw [effectOf_tbStep, tbStepBody, if_neg hrange, if_neg (by simp [hquota]), if_neg (by simp [hfree]), if_neg hlands]

@[simp] theorem readingBytes_length (frac : Nat) : (readingBytes frac).length = 16 := by simp [readingBytes]

/-- A TB_READ record fits a frame of the management channel. -/
theorem tbRecord_length (d : Dev) (dom tb : Nat) : (tbRecord d dom tb).length = 160 := by
  have hreadings := flatten_map_length_const (List.range 8)
    (fun i => if d.readsTb dom tb i then readingBytes (d.tb i).frac else zeros 16) 16 fun i _ => by split <;> simp
  simp [tbRecord, hreadings]

theorem tbRead_runs (tb iova : Nat) : Runs (.tbRead h tb iova)
    (fun d c => (tb < 8 ∨ tb = 255) ∧ ∃ i < 8, d.readsTb c.dom tb i = true)
    (fun d c => { outs := [(iova, tbRecord d c.dom tb)] }) (fun _ d => d) := by
  refine runs_read _ _ _ _ rfl fun d c hn => ⟨?_, by simp [tbRecord_length]⟩
  obtain ⟨hnamed, i, hi, hreads⟩ := hn
  have hany : (List.range 8).any (d.readsTb c.dom tb) = true := List.any_eq_true.2 ⟨i, List.mem_range.2 hi, hreads⟩
  rw [effectOf_tbRead, tbReadBody, if_neg (by omega), hany]
  rfl

theorem tbRead_denied (tb iova : Nat) : Fails (.tbRead h tb iova)
    (fun d c => (tb < 8 ∨ tb = 255) ∧ ∀ i < 8, d.readsTb c.dom tb i = false) ePerm := by
  refine runs_plain _ _ _ _ fun d c hn => ⟨?_, rfl⟩
  obtain ⟨hnamed, hnone⟩ := hn
  have hany : (List.range 8).any (d.readsTb c.dom tb) = false := by
    simpa only [List.any_eq_false, List.mem_range, Bool.not_eq_true] using hnone
  rw [effectOf_tbRead, tbReadBody, if_neg (by omega), hany]
  rfl

end TimeCommand

/-- Settles O20: each command by its checks in their order, and TB_READ by the readings that its issuer may see. -/
theorem timeCommands : Obligations.TimeCommands := fun h tb whole fraction iova o =>
  ⟨tbInc_begins h tb whole fraction, tbInc_owned h tb whole fraction, tbInc_range h tb whole fraction, tbStep_begins h o,
    tbRead_runs h tb iova, tbRead_denied h tb iova⟩

end Sys2Proof.Machine

namespace Sys2Proof.Machine

/-! ### The application of a change (11 R338) -/

theorem exec_tbApply (i : Nat) (s : State) : exec (.tbApply i) s = .next (s.onDev (tbApply i)) := rfl

/-- The readings of a time base at the edge of a change, before and after it. -/
def Dev.readingBefore (d : Dev) (i : Nat) (p : TbPending) : Nat := ((d.tb i).after (p.edge - d.now)).frac
def Dev.readingAfter (d : Dev) (i : Nat) (p : TbPending) : Nat := moveFrac (d.readingBefore i p) p.offset

/-- A time base once it has taken a change that leads to a reading, and `ps` wait behind it. -/
def TbPending.take (p : TbPending) (ps : List TbPending) (frac : Nat) (b : TimeBase) : TimeBase :=
  { b with frac := frac, inc := p.inc.getD b.inc, pending := ps, fromBackup := b.fromBackup && !p.step }

/-- The clock comes to the edge of a change, its time base takes it, and the gates follow. -/
def takeChange (i : Nat) (p : TbPending) (ps : List TbPending) (d : Dev) : Dev :=
  stepGates i (advanceTo p.edge d) (onTb i (p.take ps (d.readingAfter i p)) (advanceTo p.edge d))

/-- The frets follow a step of their time base. -/
def followStep (i : Nat) (p : TbPending) (d : Dev) : Dev :=
  if p.step = true ∧ i = d.fretTb then fretStep (decide (p.offset < 0)) p.force d else d

section TbApply

variable {i : Nat} {p : TbPending} {ps : List TbPending} {d : Dev}

theorem tbApply_idle (h : (d.tb i).pending = []) : tbApply i d = d := by simp only [tbApply, h]

theorem tbApply_silent (hi : i < d.time.tbs.length) (hp : (d.tb i).pending = p :: ps) (hc : p.cmd = none) :
    tbApply i d = followStep i p (takeChange i p ps d) := by
  simp only [tbApply, hp, hc, advanceTo_tb hi]
  rfl

theorem tbApply_answers (hi : i < d.time.tbs.length) (hp : (d.tb i).pending = p :: ps) {c : Cmd} (hc : p.cmd = some c) :
    tbApply i d = deliver finish c
      { result := readingBytes (d.readingAfter i p)
        outs := if p.step = true ∧ p.iova ≠ 0 then [(p.iova, readingBytes (d.readingBefore i p))] else [] }
      (followStep i p (takeChange i p ps d)) := by
  simp only [tbApply, hp, hc, advanceTo_tb hi]
  rfl

/-- The gates that follow a time base leave the time. -/
theorem takeChange_time : (takeChange i p ps d).time = (onTb i (p.take ps (d.readingAfter i p)) (advanceTo p.edge d)).time :=
  OnlyParts.stepGates .time (by decide)

theorem takeChange_tb_same (hi : i < d.time.tbs.length) :
    (takeChange i p ps d).tb i = p.take ps (d.readingAfter i p) (d.tb i) := by
  have htaken := onTb_tb_same (d := advanceTo p.edge d) (by simpa using hi) (p.take ps (d.readingAfter i p))
  rw [Dev.tb, takeChange_time]
  refine htaken.trans ?_
  rw [advanceTo_tb hi]
  rfl

theorem takeChange_tclk : (takeChange i p ps d).time.tclk = max d.now p.edge := by
  rw [takeChange_time]
  exact advanceTo_now p.edge d

/-- Every other time base runs on to the edge with the changes that wait for it. -/
theorem takeChange_tb_other {j : Nat} (hj : j ≠ i) : (takeChange i p ps d).tb j = (advanceTo p.edge d).tb j := by
  rw [Dev.tb, takeChange_time]
  exact onTb_tb_other hj ..

end TbApply

theorem tbApply_row : Claims.TbApply := by
  intro s i hi
  refine ⟨fun h => idles_of_eq (exec_tbApply i s) (tbApply_idle h), fun p ps hp => ?_⟩
  refine ⟨fun hc => does_of_eq (exec_tbApply i s) (tbApply_silent hi hp hc),
    fun c hc => does_of_eq (exec_tbApply i s) (tbApply_answers hi hp hc), takeChange_tb_same hi, ?clock, fun j hj => ?_⟩
  case clock => exact (congrArg (fun e : Dev => e.time.tclk) (by rfl)).trans (takeChange_tclk (i := i) (ps := ps))
  have hother := takeChange_tb_other (p := p) (ps := ps) (d := s.dev) hj
  obtain ⟨hpending, hinc⟩ := advanceTo_tb_steering p.edge j s.dev
  exact ⟨(congrArg TimeBase.pending hother).trans hpending, (congrArg TimeBase.inc hother).trans hinc⟩

/-! ### A step of the fret time base (02 R39, R40) -/

section FretStep

variable {d : Dev} (hr : d.fret.running = true)
include hr

theorem fretStep_forward (back force : Bool) (h : d.fret.seen < d.derivedIndex) : fretStep back force d =
    raiseAll { d.event 0x0104 [(16, 8, d.fret.index), (24, 8, d.derivedIndex)] with head := d.derivedIndex } d := by
  simp only [fretStep, hr, h, Bool.not_true, Bool.false_eq_true, if_false, if_true]

theorem fretStep_same {back force : Bool} (h : d.derivedIndex = d.fret.seen) (hf : back = false ∨ force = false) :
    fretStep back force d = d := by
  have hnot : ¬ d.fret.seen < d.derivedIndex := by omega
  rcases hf with rfl | rfl
  · simp only [fretStep, hr, hnot, Bool.not_true, Bool.not_false, Bool.false_eq_true, if_false, if_true]
  · simp [fretStep, hr, h]

/-- An unforced backward step is told, and holds the index. -/
theorem fretStep_holds (h : d.derivedIndex < d.fret.seen) : fretStep true false d = fretStepEvent d.fret.index d.derivedIndex d := by
  have hnot : ¬ d.fret.seen < d.derivedIndex := by omega
  simp only [fretStep, hr, hnot, h.ne, Bool.not_true, Bool.false_eq_true, if_false]

/-- A forced backward step derives the index anew, and cancels what is armed. -/
theorem fretStep_forced (h : d.derivedIndex ≤ d.fret.seen) : fretStep true true d =
    fretStepEvent d.fret.index d.derivedIndex
      (cancelAll (d.onFret (fun f => { f with index := d.derivedIndex, seen := d.derivedIndex }))) := by
  simp only [fretStep, hr, Nat.not_lt.2 h, Bool.not_true, Bool.false_eq_true, if_false, if_true]

end FretStep

/-! ### What a forced step cancels (02 R40) -/

/-- A fold in which the step of each element brings about its own fact, and every step keeps the facts of the others. -/
theorem forEach_brings {α : Type} {P : α → Dev → Prop} {f : α → Dev → Dev} (hself : ∀ a d, P a (f a d))
    (hkeep : ∀ a b d, P b d → P b (f a d)) (l : List α) (d : Dev) : ∀ a ∈ l, P a (forEach l f d) := by
  have hkeeps : ∀ (l : List α) (b : α) (d : Dev), P b d → P b (forEach l f d) := by
    intro l b
    induction l with
    | nil => exact fun _ h => h
    | cons a l ih => exact fun d h => ih _ (hkeep a b d h)
  induction l generalizing d with
  | nil => exact fun a ha => absurd ha List.not_mem_nil
  | cons x l ih =>
    intro a ha
    rcases List.mem_cons.1 ha with rfl | ha
    · exact hkeeps l a _ (hself a d)
    · exact ih _ a ha

/-- A domain has no armed commit. -/
def Dev.unarmed (k : Nat) (d : Dev) : Prop := (d.domCfg k).armed = none

theorem OnlyParts.domCfg {ps : List Part} {d e : Dev} (h : OnlyParts ps d e) (k : Nat) (hp : Part.cfg ∉ ps := by decide) :
    e.domCfg k = d.domCfg k :=
  congrArg (fun x : CfgSt => x.doms.getD k {}) (h .cfg hp)

theorem disarm_domCfg (a k : Nat) (d : Dev) : (disarm a d).domCfg k =
    if a = k ∧ k < d.cfg.doms.length then { d.domCfg k with armed := none } else d.domCfg k := getD_modAt ..

theorem disarm_unarmed_self (k : Nat) (d : Dev) : (disarm k d).unarmed k := by
  rw [Dev.unarmed, disarm_domCfg]
  by_cases hk : k < d.cfg.doms.length
  · rw [if_pos ⟨rfl, hk⟩]
  · rw [if_neg fun h => hk h.2]
    simp [Dev.domCfg, hk]

theorem disarm_unarmed {a k : Nat} {d : Dev} (h : d.unarmed k) : (disarm a d).unarmed k := by
  rw [Dev.unarmed, disarm_domCfg]
  split
  · rfl
  · exact h

theorem cancelEvent_unarmed {dom target cause kind slice k : Nat} {d : Dev} (h : d.unarmed k) :
    (cancelEvent dom target cause kind slice d).unarmed k :=
  (congrArg DomCfg.armed (OnlyParts.cancelEvent.domCfg k)).trans h

theorem setInactive_domCfg (t k : Nat) (tb : Tbl Obj) (d : Dev) : (setInactive t tb d).domCfg k = d.domCfg k := by
  unfold setInactive Dev.onCfg
  dsimp only [Dev.domCfg]
  split <;> rfl

theorem writeBanks_domCfg (sets : List (List Staged)) (ts : List Nat) (k : Nat) (d : Dev) :
    (writeBanks sets ts d).domCfg k = d.domCfg k := forEach_keeps (fun d => d.domCfg k) _ _ d fun t e => setInactive_domCfg t k _ e

theorem dropActivation_domCfg (k : Nat) (d : Dev) : (dropActivation d).domCfg k = d.domCfg k := by
  unfold dropActivation
  dsimp only
  split
  · rfl
  · split <;> exact writeBanks_domCfg ..

theorem cancelActivation_unarmed {cause k : Nat} {d : Dev} (h : d.unarmed k) : (cancelActivation cause d).unarmed k := by
  unfold cancelActivation
  split
  · split
    · exact h
    · exact cancelEvent_unarmed ((congrArg DomCfg.armed (dropActivation_domCfg k d)).trans h)
  · exact h

/-- The commit that a domain has armed is cancelled by a forced step. -/
def cancelArmed (k : Nat) (d : Dev) : Dev :=
  match (d.domCfg k).armed with
  | some f => cancelEvent k f 1 0 0 (disarm k d)
  | none => d

theorem cancelArmed_unarmed_self (k : Nat) (d : Dev) : (cancelArmed k d).unarmed k := by
  unfold cancelArmed
  split
  next => exact cancelEvent_unarmed (disarm_unarmed_self k d)
  next h => exact h

theorem cancelArmed_unarmed (a : Nat) {k : Nat} {d : Dev} (h : d.unarmed k) : (cancelArmed a d).unarmed k := by
  unfold cancelArmed
  split
  · exact cancelEvent_unarmed (disarm_unarmed h)
  · exact h

/-- After everything armed is cancelled, no domain's commit is armed; the switches and the activation leave it so. -/
theorem cancelAll_unarmed {k : Nat} (hk : k < 33) (d : Dev) : (cancelAll d).unarmed k := by
  have hcommits : (forEach (List.range 33) cancelArmed d).unarmed k :=
    forEach_brings cancelArmed_unarmed_self (fun a _ _ => cancelArmed_unarmed a) _ d k (List.mem_range.2 hk)
  unfold cancelAll
  refine cancelActivation_unarmed ((congrArg DomCfg.armed (forEach_keeps (fun d => d.domCfg k) _ _ _ fun g d => ?_)).trans hcommits)
  split
  · exact (OnlyParts.refl.seq OnlyParts.disarmSwitch |>.seq OnlyParts.cancelEvent : OnlyParts (.smv :: eventParts) d _).domCfg k
  · rfl

theorem fretStep_row : Claims.FretStep := by
  intro back force d hr e
  refine ⟨fretStep_forward hr back force, fretStep_same hr, fun h => ?holds, fun h _ => ?forced⟩
  case holds =>
    have hstep := fretStep_holds hr h
    exact ⟨by rw [hstep]; exact OnlyParts.fretStepEvent .fret (by decide), hstep⟩
  case forced =>
    have hfret : (fretStep true true d).fret = { d.fret with index := d.derivedIndex, seen := d.derivedIndex } := by
      rw [fretStep_forced hr h]
      exact (OnlyParts.fretStepEvent .fret (by decide)).trans (OnlyParts.cancelAll .fret (by decide))
    refine ⟨by rw [hfret], by rw [hfret], ⟨_, _, fretStep_forced hr h, rfl⟩, fun k hk => ?_⟩
    rw [fretStep_forced hr h]
    exact (congrArg DomCfg.armed (OnlyParts.fretStepEvent.domCfg k)).trans (cancelAll_unarmed hk _)

/-- Settles O32: a change by the first that waits and the edge it waits for; a step of the frets by where the new reading lies. -/
theorem timeSteps : Obligations.TimeSteps := ⟨tbApply_row, fretStep_row⟩

end Sys2Proof.Machine

namespace Sys2Proof.Machine

/-! ### The time pins (11 R343, R344) -/

theorem exec_timePinEdge (p : Nat) (rising : Bool) (y : PinPulse) (s : State) :
    exec (.timePinEdge p rising y) s = .next (s.onDev (timePinEdge p rising y)) := rfl

theorem exec_timePinOutput (p : Nat) (s : State) : exec (.timePinOutput p) s = .next (s.onDev (timePinOutput p)) := rfl

/-- A time pin as it stands. -/
def Dev.pin (d : Dev) (p : Nat) : TimePin := d.time.pins.getD p {}

theorem onPin_pin_same {p : Nat} {d : Dev} (hp : p < d.time.pins.length) (f : TimePin → TimePin) :
    (onPin p f d).pin p = f (d.pin p) := (getD_modAt ..).trans (if_pos ⟨rfl, hp⟩)

theorem advanceTo_pins (t : Nat) (d : Dev) : (advanceTo t d).time.pins = d.time.pins := by rw [advanceTo, advance_time]

/-- An input pin takes an edge: the one that its configuration names, of a pulse of at least 10 ns (11 R343). -/
structure Dev.PinTakes (d : Dev) (p : Nat) (rising : Bool) (y : PinPulse) : Prop where
  isInput : (d.pinObj p).n 0 = 0
  edge : rising = true ↔ (d.pinObj p).n 2 = 0
  wide : 10000 ≤ y.width

/-- The pin notes the moment of a capture. -/
def markCapture (p : Nat) (y : PinPulse) (d : Dev) : Dev :=
  onPin p (fun x => { x with lastCapture := some (d.now * 32 + y.phase % 32) }) d

section PinEdge

variable {p : Nat} {rising : Bool} {y : PinPulse} {d : Dev}

theorem timePinEdge_idle
    (h : (d.pinObj p).n 0 ≠ 0 ∨ ¬(rising = true ↔ (d.pinObj p).n 2 = 0) ∨ y.width < 10000) : timePinEdge p rising y d = d := by
  refine if_pos (h.imp_right (Or.imp_left fun hne he => hne ?_))
  rw [← he]

theorem pinTakes_not_idle (h : d.PinTakes p rising y) :
    ¬((d.pinObj p).n 0 ≠ 0 ∨ ((d.pinObj p).n 2 = 0) ≠ (rising = true) ∨ y.width < 10000) := by
  rintro (hin | hedge | hwidth)
  · exact hin h.isInput
  · exact hedge (propext h.edge.symm)
  · exact absurd h.wide (Nat.not_le.2 hwidth)

/-- An edge within 1 µs of the last capture is counted. -/
theorem timePinEdge_early (h : d.PinTakes p rising y)
    (hearly : ((d.pin p).lastCapture).any (fun t => d.now * 32 + y.phase % 32 < t + 16000) = true) :
    timePinEdge p rising y d = bump 0x0F2 p d :=
  (if_neg (pinTakes_not_idle h)).trans (if_pos hearly)

/-- A later one is captured, for the servos that the pin steers or else for its owner. -/
theorem timePinEdge_captures (h : d.PinTakes p rising y)
    (hlate : ((d.pin p).lastCapture).any (fun t => d.now * 32 + y.phase % 32 < t + 16000) = false) :
    timePinEdge p rising y d = if d.servoPin p = true then captureFor p y.phase (markCapture p y d) else
      let r := d.pinReading p ((d.pinObj p).n 1) y.phase
      raiseTo (d.ownerBy (fun q => quotaPin q p)) (d.event 0x0602 [(16, 1, p), (17, 1, (d.pinObj p).n 1),
        (18, 6, r / fracPerSec), (24, 4, r / 2 ^ 32 % 10 ^ 9), (28, 4, r % 2 ^ 32)]) (markCapture p y d) :=
  (if_neg (pinTakes_not_idle h)).trans (if_neg (by exact Bool.eq_false_iff.1 hlate))

end PinEdge

/-- The servo of a time base takes its reading at an edge of a pin. -/
def captureInto (p phase i : Nat) (d : Dev) : Dev :=
  onTb i (fun b => { b with servo := { b.servo with captured := some (d.pinReading p i phase) } }) d

/-- Each time base of a list takes its own reading, and no other does. -/
theorem captureInto_fold {p phase j : Nat} : ∀ (l : List Nat) (d : Dev), l.Nodup → j < d.time.tbs.length →
    (forEach l (captureInto p phase) d).tb j = if j ∈ l then
      { d.tb j with servo := { (d.tb j).servo with captured := some (d.pinReading p j phase) } } else d.tb j
  | [], _, _, _ => rfl
  | i :: l, d, hl, hj => by
    obtain ⟨hi, hl⟩ := List.nodup_cons.1 hl
    rw [forEach_cons, captureInto_fold l _ hl ((onTb_tbs_length ..).symm ▸ hj)]
    by_cases hji : j = i
    · subst hji
      rw [if_neg hi, if_pos List.mem_cons_self]
      exact onTb_tb_same hj _
    · have hsame : (captureInto p phase i d).tb j = d.tb j := onTb_tb_other hji _ d
      have hread : (captureInto p phase i d).pinReading p j phase = d.pinReading p j phase :=
        congrArg (fun b : TimeBase => shiftPs (b.frac + b.inc * (phase % 32) / 32) (-((d.pinObj p).z 7))) hsame
      simp only [hsame, hread, List.mem_cons, hji, false_or]

theorem captureFor_pins (p phase : Nat) (d : Dev) : (captureFor p phase d).time.pins = d.time.pins :=
  forEach_keeps (fun d => d.time.pins) _ _ d fun _ _ => rfl

theorem captureFor_tb {p phase i : Nat} {d : Dev} (hi : i < d.time.tbs.length) (h8 : i < 8) :
    (captureFor p phase d).tb i = if d.servoSource i = p + 1 then
      { d.tb i with servo := { (d.tb i).servo with captured := some (d.pinReading p i phase) } } else d.tb i := by
  refine (captureInto_fold _ d (List.nodup_range.filter _) hi).trans ?_
  simp only [List.mem_filter, List.mem_range, h8, true_and, decide_eq_true_eq]

section PinOutput

variable {p : Nat} {d : Dev}

theorem drivePin_pin (hp : p < d.time.pins.length) (level : Bool) (phase : Int) : (drivePin p level phase d).pin p =
    { d.pin p with level := level, next := if level then ((d.now * 32 : Nat) + phase).toNat else (d.pin p).next } :=
  onPin_pin_same hp _

/-- The trailing edge of a pulse falls at its end. -/
theorem timePinOutput_falls (h : (d.pin p).level = true) :
    let ends := (d.pin p).next + 16 * (if (d.pinObj p).n 0 = 3 then 100 else (d.pinObj p).n 6)
    timePinOutput p d = drivePin p false (ends % 32 : Nat) (advanceTo (ends / 32) d) := if_pos h

/-- The leading edge falls when the time base, less the board delay, reaches its instant. -/
theorem timePinOutput_rises (h : (d.pin p).level = false) (ho : (d.pinObj p).n 0 = 1 ∨ (d.pinObj p).n 0 = 2) :
    let m := d.momentOf ((d.pinObj p).n 1) (shiftPs (d.nextEdge p * 2 ^ 32) ((d.pinObj p).z 7))
    timePinOutput p d = drivePin p true (m.2 : Nat) (advanceTo m.1 d) :=
  (if_neg (by exact Bool.eq_false_iff.1 h)).trans (if_pos ho)

end PinOutput

theorem timePinRows : Claims.TimePinRows := by
  intro s p hp
  refine ⟨fun rising y hin hedge hwide => ?edge, fun rising y h => idles_of_eq (exec_timePinEdge ..) (timePinEdge_idle h),
    fun hlevel => ?falls, fun hlevel ho => ?rises⟩
  case edge =>
    have htakes : s.dev.PinTakes p rising y := ⟨hin, hedge, hwide⟩
    have hlate (h : ∀ u, (s.dev.pin p).lastCapture = some u → u + 16000 ≤ s.dev.now * 32 + y.phase % 32) :
        ((s.dev.pin p).lastCapture).any (fun t => s.dev.now * 32 + y.phase % 32 < t + 16000) = false := by
      cases hu : (s.dev.pin p).lastCapture with
      | none => rfl
      | some u => simpa using h u hu
    refine ⟨fun u hu hm => does_of_eq (exec_timePinEdge ..) (timePinEdge_early htakes ?_), fun h hs => ?_, fun h hs => ?_⟩
    · rw [show (s.dev.pin p).lastCapture = some u from hu]
      simpa using hm
    · refine ⟨_, exec_timePinEdge .., ?_⟩
      rw [State.onDev_dev, timePinEdge_captures htakes (hlate h), if_pos hs]
      exact ⟨captureFor_pins .., fun i hi h8 => captureFor_tb hi h8⟩
    · refine does_of_eq (exec_timePinEdge ..) ((timePinEdge_captures htakes (hlate h)).trans ?_)
      rw [hs]
      rfl
  case falls =>
    intro ends
    have hpin := fun t => drivePin_pin (d := advanceTo t s.dev) (by rwa [advanceTo_pins]) false (ends % 32 : Nat)
    refine ⟨_, exec_timePinOutput p s, ?_⟩
    rw [State.onDev_dev, timePinOutput_falls hlevel]
    exact ⟨congrArg _ (advanceTo_wire ..), congrArg TimePin.level (hpin _), advanceTo_now ..⟩
  case rises =>
    intro b wait part
    let tick := s.dev.now + wait / max 1 b.inc
    have hclock : (advanceTo tick s.dev).now = tick := (advanceTo_now ..).trans (Nat.max_eq_right (Nat.le_add_right ..))
    have hpin := drivePin_pin (d := advanceTo tick s.dev) (by rwa [advanceTo_pins]) true (part : Nat)
    refine ⟨_, exec_timePinOutput p s, ?_⟩
    rw [State.onDev_dev, timePinOutput_rises hlevel ho]
    refine ⟨congrArg _ (advanceTo_wire ..), hclock, hpin.trans ?_⟩
    have hkept : (advanceTo tick s.dev).pin p = s.dev.pin p := by rw [Dev.pin, advanceTo_pins]; rfl
    rw [hkept]
    rfl

/-! ### The firmware servo (11 R339) -/

theorem exec_servoEvent (i phase : Nat) (s : State) : exec (.servoEvent i phase) s = .next (s.onDev (servoEvent i phase)) := rfl

theorem exec_servoHoldover (i : Nat) (s : State) : exec (.servoHoldover i) s = .next (s.onDev (servoHoldover i)) := rfl

theorem schedule_eq (i : Nat) (cmd : Option Cmd) (step : Bool) (offset : Int) (inc : Option Nat) (force : Bool) (iova : Nat)
    (d : Dev) : ∃ e, schedule i cmd step offset inc force iova d = onTb i (fun b => { b with pending := b.pending ++
      [{ cmd := cmd, edge := e, step := step, offset := offset, inc := inc, force := force, iova := iova }] }) d := ⟨_, rfl⟩

/-- What a servo has made of its time base: its own state, and the changes that wait. -/
structure Steered (d e : Dev) (i : Nat) (v : Servo) (ps : List TbPending) : Prop where
  servo : (e.tb i).servo = v
  pending : (e.tb i).pending = (d.tb i).pending ++ ps
  inc : (e.tb i).inc = (d.tb i).inc
  length : e.time.tbs.length = d.time.tbs.length

section Servo

variable {i : Nat} {d e : Dev} {v : Servo} {ps : List TbPending}

theorem Steered.refl : Steered d d i (d.tb i).servo [] := ⟨rfl, (List.append_nil _).symm, rfl, rfl⟩

/-- The servo's own figures change. -/
theorem Steered.figures (h : Steered d e i v ps) (hi : i < d.time.tbs.length) (f : Servo → Servo) :
    Steered d (onTb i (fun b => { b with servo := f b.servo }) e) i (f v) ps := by
  have htb := onTb_tb_same (h.length.symm ▸ hi) (fun b => { b with servo := f b.servo })
  refine ⟨?_, ?_, ?_, (onTb_tbs_length ..).trans h.length⟩ <;> rw [htb]
  · exact congrArg f h.servo
  · exact h.pending
  · exact h.inc

/-- A change of the servo's own is put down behind those that wait. -/
theorem Steered.schedules (h : Steered d e i v ps) (hi : i < d.time.tbs.length) (step : Bool) (offset : Int) (inc : Option Nat)
    (force : Bool) : ∃ p : TbPending, Steered d (schedule i none step offset inc force 0 e) i v (ps ++ [p]) ∧
      p.step = step ∧ p.offset = offset ∧ p.inc = inc ∧ p.cmd = none := by
  obtain ⟨edge, he⟩ := schedule_eq i none step offset inc force 0 e
  have htb := onTb_tb_same (h.length.symm ▸ hi) (fun b : TimeBase => { b with pending := b.pending ++
      [{ cmd := none, edge := edge, step := step, offset := offset, inc := inc, force := force, iova := 0 }] })
  refine ⟨{ cmd := none, edge := edge, step := step, offset := offset, inc := inc, force := force, iova := 0 },
    ⟨?_, ?_, ?_, ?_⟩, rfl, rfl, rfl, rfl⟩ <;> rw [he]
  · rw [htb]; exact h.servo
  · rw [htb]; simp only [h.pending, List.append_assoc]
  · rw [htb]; exact h.inc
  · exact (onTb_tbs_length ..).trans h.length

/-- The servo's state changes, and its event leaves the time. -/
theorem Steered.declares (h : Steered d e i v ps) (hi : i < d.time.tbs.length) (st : Nat) :
    Steered d (servoState i st e) i { v with state := st } ps := by
  by_cases hst : (e.tb i).servo.state = st
  · have hsame : servoState i st e = e := if_pos hst
    rw [hsame]
    exact { h with servo := by rw [← hst, h.servo] }
  · have htime : (servoState i st e).time = (onTb i (fun b => { b with
        servo := { b.servo with state := st }, fromBackup := if st = 2 then false else b.fromBackup }) e).time :=
      (congrArg Dev.time (if_neg hst)).trans (OnlyParts.raiseTo .time (by decide))
    have htb := (congrArg (fun t : TimeSt => t.tbs.getD i {}) htime).trans (onTb_tb_same (h.length.symm ▸ hi) _)
    have hlength := (congrArg (fun t : TimeSt => t.tbs.length) htime).trans (onTb_tbs_length ..)
    refine ⟨?_, (congrArg TimeBase.pending htb).trans h.pending, (congrArg TimeBase.inc htb).trans h.inc, hlength.trans h.length⟩
    rw [← h.servo]
    exact congrArg TimeBase.servo htb

/-- On its first event, or on a gross error, the servo steps its time base by the offset. -/
theorem servoAct_jumps (hi : i < d.time.tbs.length) {th : Int}
    (h : (d.tb i).servo.state = 0 ∨ d.servoLimit i ≤ th.natAbs) : ∃ p, Steered d (servoAct i th d) i
      { (d.tb i).servo with theta := th, missed := 0, captured := none, integ := 0, good := 0, state := 1 } [p] ∧
      p.step = true ∧ p.offset = -th * 2 ^ 32 ∧ p.inc = none ∧ p.cmd = none := by
  have hnoted := Steered.refl.figures hi (fun v => { v with theta := th, missed := 0, captured := none })
  obtain ⟨p, hput, hfields⟩ := hnoted.schedules hi true (-th * 2 ^ 32) none _
  refine ⟨p, ?_, hfields⟩
  rw [show servoAct i th d = _ from if_pos h]
  exact (hput.figures hi (fun v => { v with integ := 0, good := 0 })).declares hi 1

/-- How many good events in succession an offset makes it. -/
def Servo.goodAfter (v : Servo) (th : Int) : Nat := if th.natAbs < 100 then v.good + 1 else 0

/-- The increment that the servo asks for on an offset. -/
def Servo.asks (v : Servo) (th : Int) : Nat := servoInc v.nominal (clampPpb (-(th.tdiv 2 + (v.integ + th).tdiv 16)))

/-- A servo that has noted an offset and summed it. -/
def Servo.sums (v : Servo) (th : Int) : Servo :=
  { v with theta := th, missed := 0, captured := none, integ := v.integ + th, good := v.goodAfter th }

/-- The servo notes and sums an offset, and puts down the increment that it asks for. -/
def steerRate (i : Nat) (th : Int) (d : Dev) : Dev :=
  schedule i none false 0 (some ((d.tb i).servo.asks th)) false 0
    (onTb i (fun b => { b with servo := { b.servo with
        integ := (d.tb i).servo.integ + th, good := (d.tb i).servo.goodAfter th } })
      (onTb i (fun b => { b with servo := { b.servo with theta := th, missed := 0, captured := none } }) d))

theorem steerRate_steered (hi : i < d.time.tbs.length) (th : Int) : ∃ p,
    Steered d (steerRate i th d) i ((d.tb i).servo.sums th) [p] ∧
    p.step = false ∧ p.offset = 0 ∧ p.inc = some ((d.tb i).servo.asks th) ∧ p.cmd = none :=
  ((Steered.refl.figures hi (fun v => { v with theta := th, missed := 0, captured := none })).figures hi
    (fun v => { v with integ := (d.tb i).servo.integ + th, good := (d.tb i).servo.goodAfter th })).schedules hi false 0 _ false

/-- On a small offset it steers the rate; it is LOCKED after four good events, and acquires again after a holdover. -/
theorem servoAct_small {th : Int} (h : ¬((d.tb i).servo.state = 0 ∨ d.servoLimit i ≤ th.natAbs)) : servoAct i th d =
    if 4 ≤ (d.tb i).servo.goodAfter th then servoState i 2 (steerRate i th d)
    else if (d.tb i).servo.state = 3 then servoState i 1 (steerRate i th d) else steerRate i th d := if_neg h

theorem servoAct_steers (hi : i < d.time.tbs.length) {th : Int}
    (h : ¬((d.tb i).servo.state = 0 ∨ d.servoLimit i ≤ th.natAbs)) : ∃ p, Steered d (servoAct i th d) i
      { (d.tb i).servo.sums th with
        state := if 4 ≤ (d.tb i).servo.goodAfter th then 2 else if (d.tb i).servo.state = 3 then 1 else (d.tb i).servo.state } [p] ∧
      p.step = false ∧ p.offset = 0 ∧ p.inc = some ((d.tb i).servo.asks th) ∧ p.cmd = none := by
  obtain ⟨p, hput, hfields⟩ := steerRate_steered hi th
  refine ⟨p, ?_, hfields⟩
  rw [servoAct_small h]
  by_cases hgood : 4 ≤ (d.tb i).servo.goodAfter th
  · rw [if_pos hgood, if_pos hgood]
    exact hput.declares hi 2
  rw [if_neg hgood, if_neg hgood]
  by_cases hheld : (d.tb i).servo.state = 3
  · rw [if_pos hheld, if_pos hheld]
    exact hput.declares hi 1
  · rw [if_neg hheld, if_neg hheld]
    exact hput

theorem servoHoldover_free (h : (d.tb i).servo.state = 0) : servoHoldover i d = d := if_pos (.inr (.inr h))

section Owned

variable {phase : Nat} (ho : d.servoOwns i = true) (hh : d.halted = false)
include ho hh

theorem servoEvent_none (h : d.servoTheta i phase = none) : servoEvent i phase d = d := by
  simp only [servoEvent, ho, hh, h, Bool.not_true, Bool.false_eq_true, or_self, if_false]

theorem servoEvent_acts {th : Int} (h : d.servoTheta i phase = some th) : servoEvent i phase d = servoAct i th d := by
  simp only [servoEvent, ho, hh, h, Bool.not_true, Bool.false_eq_true, or_self, if_false]

theorem servoHoldover_declares (hi : i < d.time.tbs.length) (h : (d.tb i).servo.state ≠ 0) :
    Steered d (servoHoldover i d) i { (d.tb i).servo with missed := 2, good := 0, state := 3 } [] := by
  have hnot : ¬((!d.servoOwns i) = true ∨ d.halted = true ∨ (d.tb i).servo.state = 0) := by simp [ho, hh, h]
  rw [show servoHoldover i d = _ from if_neg hnot]
  exact (Steered.refl.figures hi (fun v => { v with missed := 2, good := 0 })).declares hi 3

end Owned

end Servo

theorem servoRows : Claims.ServoRows := by
  intro s i phase hi ho hh v
  refine ⟨fun h5 => if_pos h5, fun hnone => idles_of_eq (exec_servoEvent ..) (servoEvent_none ho hh hnone),
    fun th hth hjump => ?jumps, fun th hth hstate hnear => ?steers, fun hstate => ?holdover,
    fun hstate => idles_of_eq (exec_servoHoldover ..) (servoHoldover_free hstate)⟩
  case jumps =>
    obtain ⟨p, hs, hstep, hoffset, hinc, hcmd⟩ := servoAct_jumps hi hjump
    refine ⟨_, p, exec_servoEvent .., ?_⟩
    rw [State.onDev_dev, servoEvent_acts ho hh hth]
    exact ⟨hs.servo, hs.pending, hstep, hoffset, hinc, hcmd⟩
  case steers =>
    obtain ⟨p, hs, hstep, hoffset, hinc, hcmd⟩ := servoAct_steers hi (not_or.2 ⟨hstate, Int.not_le.2 hnear⟩)
    refine ⟨_, p, exec_servoEvent .., ?_⟩
    rw [State.onDev_dev, servoEvent_acts ho hh hth]
    exact ⟨hs.pending, hstep, hoffset, hcmd, hinc, hs.servo⟩
  case holdover =>
    have hs := servoHoldover_declares ho hh hi hstate
    exact ⟨_, exec_servoHoldover i s, hs.servo, hs.inc⟩

/-- Settles O33: an edge of a pin by its pulse and the last capture, an output by its level, the servo by its state and the offset. -/
theorem pinsAndServo : Obligations.PinsAndServo := ⟨timePinRows, servoRows⟩

end Sys2Proof.Machine

namespace Sys2Proof.Machine

/-! ### A step of the block (13 R402) -/

/-- Settles O1: a queue that is not empty runs its first command. -/
theorem stepRunsFront : Obligations.StepRunsFront := fun _ _ _ hqueue => by simp only [step, hqueue]

/-! ### Reads that end for a command (13 R386, R408, R414, R415) -/

/-- A change that leaves the host interface leaves every domain. -/
theorem OnlyParts.dom {ps : List Part} {d e : Dev} (h : OnlyParts ps d e) (k : Nat) (hp : Part.host ∉ ps := by decide) :
    e.dom k = d.dom k := congrArg (fun x : HostSt => x.doms.getD k {}) (h .host hp)

theorem OnlyParts.progEvent {ev slice bit n : Nat} {d : Dev} : OnlyParts [.cnt] d (progEvent ev slice bit n d) :=
  (CountsOnly.progEvent ..).parts

theorem exec_dmaReadCompletion (dom : Nat) (t : DmaTarget) (es : List (BitVec 64)) (ok : Bool) (s : State) :
    exec (.dmaReadCompletion dom t es ok) s = .next (s.onDev (readDone dom t es ok)) := rfl

theorem exec_dmaCompletionTimeout (dom : Nat) (t : DmaTarget) (s : State) :
    exec (.dmaCompletionTimeout dom t) s = .next (s.onDev (readTimedOut dom t)) := rfl

/-- A row leaves what its run leaves, where that ends with the rings of a domain. -/
theorem leaves_of_eq {x : Instr} {s : State} {f g : Dev → Dev} {dom : Nat} (hx : exec x s = .next (s.onDev f))
    (h : f s.dev = drainDom dom (g s.dev)) : Leaves x s dom g := by
  simp only [Leaves, hx, State.onDev, h]

/-- The work of a ring and tag that waits for a read. -/
def Dev.walkingWork (d : Dev) (dom ring : Nat) (tag : BitVec 32) : Option Work :=
  (d.dom dom).works.find? (fun w => w.cmd.ring = ring && w.cmd.tag = tag && decide (w.state = .walking))

theorem OnlyParts.walkingWork {ps : List Part} {d e : Dev} (h : OnlyParts ps d e) (dom ring : Nat) (tag : BitVec 32)
    (hp : Part.host ∉ ps := by decide) : e.walkingWork dom ring tag = d.walkingWork dom ring tag := by
  rw [Dev.walkingWork, h.dom dom hp]
  rfl

/-- The programmable counters count a walk that has read table entries. -/
def countWalk (dom : Nat) (es : List (BitVec 64)) (d : Dev) : Dev := if es = [] then d else progEvent 0x102 2 dom 1 d

theorem OnlyParts.countWalk {dom : Nat} {es : List (BitVec 64)} {d : Dev} : OnlyParts [.cnt] d (countWalk dom es d) :=
  .ite .refl .progEvent

section WorkRead

variable {d : Dev} {dom ring : Nat} {tag : BitVec 32} {es : List (BitVec 64)} {ok : Bool} {w : Work}
  {a : Nat × Nat × Bool} {rest : List (Nat × Nat × Bool)}

theorem walkOf_work (hw : d.walkingWork dom ring tag = some w) :
    d.walkOf dom (.work ring tag) = w.todo.head?.map (fun a => (ringClass ring, a.1)) := by
  simp only [Dev.walkOf, show (d.dom dom).works.find? _ = some w from hw]

theorem commandRead_work (hw : d.walkingWork dom ring tag = some w) : commandRead dom ring tag es ok d = workRead w es ok d := by
  simp only [commandRead, show (d.dom dom).works.find? _ = some w from hw]

/-- The read of work that has accesses left is that of a walk: its table reads are issued before the work goes on. -/
theorem readDone_walk (hw : d.walkingWork dom ring tag = some w) (ht : w.todo = a :: rest) :
    readDone dom (.work ring tag) es ok d =
      drainDom dom (workRead w es ok (tableReads dom (ringClass ring) a.1 es (countWalk dom es d))) := by
  have hcounted : (countWalk dom es d).walkingWork dom ring tag = some w := (OnlyParts.countWalk.walkingWork ..).trans hw
  have hread : (tableReads dom (ringClass ring) a.1 es (countWalk dom es d)).walkingWork dom ring tag = some w :=
    (OnlyParts.tableReads.walkingWork ..).trans hcounted
  have hwalk : (countWalk dom es d).walkOf dom (.work ring tag) = some (ringClass ring, a.1) := by rw [walkOf_work hcounted, ht]; rfl
  rw [← commandRead_work hread]
  simp only [readDone, ← countWalk.eq_1, hwalk]

/-- The read of work without one is that of its input. -/
theorem readDone_input (hw : d.walkingWork dom ring tag = some w) (ht : w.todo = []) :
    readDone dom (.work ring tag) [] ok d = drainDom dom (workRead w [] ok d) := by
  have hwalk : d.walkOf dom (.work ring tag) = none := by rw [walkOf_work hw, ht]; rfl
  rw [← commandRead_work hw]
  simp only [readDone, hwalk, if_true]

section Access

variable (ht : w.todo = a :: rest) (hr : w.resumer = none)
include ht hr

theorem workRead_leaf {leaf : Nat × Nat × Bool × Bool} (hok : walk a.1 a.2.2 es = .ok leaf) :
    workRead w es true d = workGo finishWork w (tlbInsert w.cmd.dom a.1 leaf d) := by
  simp only [workRead, ht, hr, hok, if_true]

theorem workRead_fault {cause : Nat} (hbad : walk a.1 a.2.2 es = .error cause) :
    workRead w es true d = suspendWork w cause d := by
  simp only [workRead, ht, hr, hbad, if_true]

theorem workRead_lost : workRead w es false d = suspendWork w 6 (badRead w.cmd.dom d) := by
  simp only [workRead, ht, hr, Bool.false_eq_true, if_false]

end Access

theorem workRead_noInput (ht : w.todo = []) {i : Instr} (hi : w.instr = some i) : workRead w es false d =
    let e := dropWork w.cmd (badRead w.cmd.dom d)
    finish w.cmd (fail (Config.readFailStatus e.freeCtr)) e.nextFree := by
  simp only [workRead, ht, hi, Bool.false_eq_true, if_false]

end WorkRead

/-- Settles O11: a returned walk by what it finds, a read that times out by whether a walk or the input has failed. -/
theorem readsReturn : Obligations.ReadsReturn := by
  intro s dom ring tag es w hw hr hes
  have hcount : countWalk dom es s.dev = progEvent 0x102 2 dom 1 s.dev := if_neg hes
  have hlate : (advanceTo (timeoutOf s dom ring tag) s.dev).walkingWork dom ring tag = some w :=
    (OnlyParts.advanceTo.walkingWork ..).trans hw
  refine ⟨fun iova len write rest leaf ht hok => ?leaf, fun iova len write rest cause ht hbad => ?fault,
    fun iova len write rest ht => ?lost, fun i ht hi => ?noInput⟩
  case leaf =>
    refine leaves_of_eq (exec_dmaReadCompletion ..) ?_
    rw [readDone_walk hw ht, workRead_leaf ht hr hok, hcount]
  case fault =>
    refine leaves_of_eq (exec_dmaReadCompletion ..) ?_
    rw [readDone_walk hw ht, workRead_fault ht hr hbad, hcount]
  case lost =>
    refine leaves_of_eq (exec_dmaCompletionTimeout ..) ?_
    exact (readDone_walk hlate ht).trans (congrArg _ (workRead_lost ht hr))
  case noInput =>
    refine leaves_of_eq (exec_dmaCompletionTimeout ..) ?_
    exact (readDone_input hlate ht).trans (congrArg _ (workRead_noInput ht hi))

end Sys2Proof.Machine

namespace Sys2Proof.Machine

/-! ### What neither an event nor the reset of another domain undoes (13 R387, R394) -/

/-- A page as a reset of its domain leaves it. -/
def Page.inReset (p : Page) : Prop := p.resetBusy = true ∧ p.enable = false

/-- An endpoint whose DMA can leave the device. -/
def Endpoint.writes (p : Endpoint) : Bool := p.linkUp && p.busMaster && !p.d3hot

theorem dmaAlive_at {d : Dev} {dom e slot : Nat} (h : d.place dom = some (e, slot)) : d.dmaAlive dom = (d.ep e).writes := by
  simp only [Dev.dmaAlive, h]
  rfl

/-- The domains stay as many, one in reset stays in reset, and an endpoint that cannot write stays as it is. -/
structure KeepsResets (d e : Dev) : Prop where
  doms : e.host.doms.length = d.host.doms.length
  inReset : ∀ k, (d.page k).inReset → (e.page k).inReset
  silent : ∀ p, (d.ep p).writes = false → e.ep p = d.ep p

namespace KeepsResets

variable {d e : Dev}

theorem refl : KeepsResets d d := ⟨rfl, fun _ h => h, fun _ _ => rfl⟩

theorem trans {f : Dev} (h1 : KeepsResets d e) (h2 : KeepsResets e f) : KeepsResets d f where
  doms := h2.doms.trans h1.doms
  inReset k h := h2.inReset k (h1.inReset k h)
  silent p h := by
    have hsame := h1.silent p h
    rw [h2.silent p (by rw [hsame]; exact h), hsame]

theorem ite {c : Prop} [Decidable c] {f : Dev} (h1 : KeepsResets d e) (h2 : KeepsResets d f) :
    KeepsResets d (if c then e else f) := by
  split
  · exact h1
  · exact h2

theorem forEach {α : Type} {l : List α} {g : α → Dev → Dev} (h : ∀ a d, KeepsResets d (g a d)) :
    KeepsResets d (forEach l g d) := by
  induction l generalizing d with
  | nil => exact refl
  | cons a l ih => exact (h a d).trans ih

/-- A change elsewhere than in the host interface. -/
theorem of_parts {ps : List Part} (h : OnlyParts ps d e) (hp : Part.host ∉ ps := by decide) : KeepsResets d e := by
  have hh : e.host = d.host := h .host hp
  refine ⟨by rw [hh], fun k hk => ?_, fun p _ => congrArg (fun x : HostSt => x.eps.getD p {}) hh⟩
  rw [show e.page k = d.page k from congrArg (fun x : HostSt => (x.doms.getD k {}).page) hh]
  exact hk

/-- A change of a domain that takes its page out of no reset. -/
theorem onDom {i : Nat} {f : Dom → Dom} (h : ∀ D, D.page.inReset → (f D).page.inReset := by exact fun _ h => h) :
    KeepsResets d (d.onDom i f) := by
  refine ⟨modAt_length .., fun k hk => ?_, fun _ _ => rfl⟩
  simp only [Dev.page, Dev.dom, Dev.onDom, getD_modAt]
  split
  · exact h _ hk
  · exact hk

/-- A change of the host interface outside its domains and endpoints. -/
theorem onHost {x : HostSt} (hd : x.doms = d.host.doms := by rfl) (he : x.eps = d.host.eps := by rfl) :
    KeepsResets d { d with host := x } :=
  ⟨congrArg _ hd, fun k hk => by simpa only [Dev.page, Dev.dom, hd] using hk, fun p _ => by simp only [Dev.ep, he]⟩

/-- A change of an endpoint that can write. -/
theorem onEp {i : Nat} {f : Endpoint → Endpoint} (h : (d.ep i).writes = true) : KeepsResets d (d.onEp i f) := by
  refine ⟨rfl, fun _ hk => hk, fun p hp => ?_⟩
  have hne : i ≠ p := fun heq => by rw [heq, hp] at h; exact Bool.false_ne_true h
  simp only [Dev.ep, Dev.onEp, getD_modAt, hne, false_and, if_false]

/-! Interrupts and ring writes. -/

theorem tlbTouch {dom iova : Nat} : KeepsResets d (tlbTouch dom iova d) := by
  unfold Machine.tlbTouch
  split
  · exact refl
  · exact onHost

/-- The pending bit of a masked vector is set only at an endpoint that can write. -/
theorem sendMsi {dom src : Nat} : KeepsResets d (sendMsi dom src d) := by
  unfold Machine.sendMsi
  dsimp only
  split
  · exact refl
  next hplace =>
    split
    · exact onDom
    next halive =>
      refine ite ((onEp ?_).trans onDom) ((onDom).trans (of_parts .msixWrite))
      rw [← dmaAlive_at hplace]
      simpa using halive

theorem notify {dom src : Nat} : KeepsResets d (notify dom src d) := by
  unfold Machine.notify
  dsimp only
  split
  · exact ite refl onDom
  split
  · exact sendMsi
  · exact ite onDom sendMsi

theorem structFault {dom ring access cause iova : Nat} : KeepsResets d (structFault dom ring access cause iova d) :=
  (onDom).trans notify

/-- One write to host memory. -/
theorem writeAt {dom cls n iova : Nat} {o : Out} : KeepsResets d (countDma dom cls n (emit o (Machine.tlbTouch dom iova d))) :=
  tlbTouch.trans (of_parts .wire |>.trans (of_parts .countDma))

theorem emitIndex {dom ring : Nat} : KeepsResets d (emitIndex dom ring d) := by
  unfold Machine.emitIndex
  dsimp only
  split
  · exact writeAt
  · exact refl

theorem putRingEntry {dom ring : Nat} {x : RingEntry} : KeepsResets d (putRingEntry dom ring x d) := by
  unfold Machine.putRingEntry
  dsimp only
  refine trans ?_ onDom
  split
  · exact writeAt
  · exact refl

theorem ringWriteNow {dom ring : Nat} {x : RingEntry} : KeepsResets d (ringWriteNow dom ring x d) :=
  ite emitIndex ((forEach fun _ _ => putRingEntry).trans emitIndex |>.trans notify)

theorem ringPut {dom ring tag : Nat} {x : RingEntry} : KeepsResets d (ringPut dom ring x d tag) := by
  unfold Machine.ringPut
  dsimp only
  split
  · exact onDom
  split
  · exact ringWriteNow
  · exact ringWriteNow
  · exact structFault.trans onDom
  · exact onDom

/-! Events. -/

theorem hemSend {port ty n : Nat} {b x : Bytes} : KeepsResets d (hemSend port ty n b x d) := ite refl ((onHost).trans (of_parts .wire))

theorem raiseDm {x : Event} : KeepsResets d (raiseDm x d) :=
  ite ((onDom).trans ((onDom).trans (of_parts .cnt))) ((onDom).trans ((onDom).trans ((onHost).trans (hemSend.trans hemSend))))

theorem skipEvent {dom : Nat} : KeepsResets d (skipEvent dom d) := ite refl onDom

theorem raiseNow {dom : Nat} {x : Event} : KeepsResets d (raiseNow dom x d) :=
  ite raiseDm <| ite skipEvent <| ite ((onDom).trans ((onDom).trans (of_parts .cnt))) ((onDom).trans ((onDom).trans ringPut))

theorem raise {dom : Nat} {x : Event} : KeepsResets d (raise dom x d) := ite (of_parts .course) raiseNow

/-! The steps of a domain reset (13 R394). -/

theorem dropPunts {dom : Nat} : KeepsResets d (dropPunts dom d) :=
  (onDom).trans ((forEach fun _ _ => of_parts (FrameSide.dropFrame ..).parts).trans (of_parts .cnt))

theorem resetHost {dom : Nat} : KeepsResets d (resetHost dom d) := onDom fun _ _ => ⟨rfl, rfl⟩

theorem failFetch {slice r cause : Nat} : KeepsResets d (failFetch slice r cause d) := by
  unfold Machine.failFetch
  dsimp only
  split
  · exact refl
  · exact raise.trans ((forEach fun _ _ => (of_parts .cnt).trans (of_parts (FrameSide.dropFrame ..).parts)).trans (of_parts .msec))

theorem abortFetches {dom : Nat} : KeepsResets d (abortFetches dom d) := forEach fun _ _ => forEach fun _ _ => failFetch

theorem loseCmd {c : Cmd} : KeepsResets d (loseCmd c d) := by
  unfold Machine.loseCmd
  dsimp only
  split
  · exact refl
  · exact (onDom).trans onDom

theorem lkKill {dom : Nat} : KeepsResets d (lkKill dom d) :=
  forEach fun _ _ => ite (of_parts .lk) ((of_parts .lkLeave).trans (loseCmd.trans (of_parts (ps := [.lk]) .lk)))

theorem cancelActivation {cause : Nat} : KeepsResets d (cancelActivation cause d) := by
  unfold Machine.cancelActivation
  split
  · exact ite refl ((of_parts .dropActivation).trans raise)
  · exact refl

theorem takeOut {n f : Nat} {gone : List Nat} {cs : List Staged} : KeepsResets d (takeOut n gone f cs d) := by
  induction n generalizing gone cs d with
  | zero => exact refl
  | succ n ih =>
    unfold Machine.takeOut
    dsimp only
    exact ite refl <| ite ((forEach fun _ _ => ite cancelActivation ((of_parts .cfg).trans raise)).trans ih)
      ((of_parts .writeBanks).trans (of_parts .cfg))

theorem resetCommit {dom : Nat} : KeepsResets d (resetCommit dom d) := by
  unfold Machine.resetCommit
  dsimp only
  split
  · exact (of_parts .stopCopy).trans (ite refl takeOut) |>.trans (of_parts .cfg)
  · exact (of_parts .cancelNow).trans (ite refl (of_parts .cfg))

/-- What follows the reset of a domain's host side. -/
theorem resetRest {dom : Nat} : KeepsResets d (Machine.resetCommit dom (Machine.lkKill dom (Machine.abortFetches dom d))) :=
  abortFetches.trans (lkKill.trans resetCommit)

theorem domainReset {dom : Nat} : KeepsResets d (domainReset dom d) := dropPunts.trans (resetHost.trans resetRest)

end KeepsResets

/-- A domain reset puts the domain's page in reset. -/
theorem domainReset_inReset {dom : Nat} {d : Dev} (h : dom < d.host.doms.length) : ((domainReset dom d).page dom).inReset := by
  refine KeepsResets.resetRest.inReset dom ?_
  rw [Dev.page, resetHost, onDom_dom (KeepsResets.dropPunts.doms.symm ▸ h)]
  exact ⟨rfl, rfl⟩

end Sys2Proof.Machine

namespace Sys2Proof.Machine

/-! ### PCIe endpoints (13 R385 to R387, R394) -/

theorem onEp_ep {d : Dev} {i : Nat} {f : Endpoint → Endpoint} (h : i < d.host.eps.length) : (d.onEp i f).ep i = f (d.ep i) := by
  simp only [Dev.ep, Dev.onEp, getD_modAt, h, and_self, if_true]

theorem exec_pcieFlr (ep : Nat) (s : State) : exec (.pcieFlr ep) s = .next (s.onDev (pcieFlr ep)) := rfl

theorem exec_pcieLinkDown (ep : Nat) (s : State) : exec (.pcieLinkDown ep) s = .next (s.onDev (pcieDown ep)) := rfl

theorem exec_perstNAssert (ep : Nat) (s : State) : exec (.perstNAssert ep) s = .next (s.onDev (pcieDown ep)) := rfl

theorem exec_pcieLinkUp (ep : Nat) (s : State) : exec (.pcieLinkUp ep) s = .next (s.onDev (pcieUp ep)) := rfl

theorem exec_pcieConfigWrite (ep : Nat) (w : PcieCfg) (s : State) :
    exec (.pcieConfigWrite ep w) s = .next (s.onDev (pcieConfig ep w)) := rfl

theorem KeepsResets.resetDomains {ep : Nat} {d : Dev} : KeepsResets d (resetDomains ep d) := forEach fun _ _ => domainReset

theorem mem_resetDomains {d : Dev} {k ep slot : Nat} (h : d.place k = some (ep, slot)) :
    k ∈ (List.range 32).filter (fun k => (d.place k).any (fun x => x.1 = ep)) := by
  have hk : k < 32 := by
    by_contra hnot
    simp [Dev.place, Nat.not_lt.1 hnot] at h
  simp [hk, h]

/-- The reset of an endpoint's domains puts each of them in reset. -/
theorem resetDomains_inReset {d : Dev} {k ep slot : Nat} (h : d.place k = some (ep, slot)) (hk : k < d.host.doms.length) :
    ((resetDomains ep d).page k).inReset :=
  forEach_brings (P := fun k d => k < d.host.doms.length → (d.page k).inReset)
    (fun _ _ hlt => domainReset_inReset (by rwa [KeepsResets.domainReset.doms] at hlt))
    (fun _ _ _ hold hlt => KeepsResets.domainReset.inReset _ (hold (by rwa [KeepsResets.domainReset.doms] at hlt)))
    _ d k (mem_resetDomains h) (Nat.lt_of_lt_of_eq hk (KeepsResets.resetDomains (ep := ep)).doms.symm)

section EndpointReset

variable {d : Dev} {ep : Nat} {f : Endpoint → Endpoint}

/-- An endpoint that is reset to one that cannot write keeps that state through the reset of its domains. -/
theorem endpointReset_ep (hep : ep < d.host.eps.length) (hsilent : (f (d.ep ep)).writes = false) :
    (resetDomains ep (d.onEp ep f)).ep ep = f (d.ep ep) := by
  rw [KeepsResets.resetDomains.silent ep (by rwa [onEp_ep hep]), onEp_ep hep]

/-- A change of an endpoint moves no domain. -/
theorem endpointReset_inReset {k slot : Nat} (hdoms : d.host.doms.length = 33) (h : d.place k = some (ep, slot)) :
    ((resetDomains ep (d.onEp ep f)).page k).inReset := by
  have hmem := mem_resetDomains h
  have hk : k < 32 := List.mem_range.1 (List.mem_of_mem_filter hmem)
  exact resetDomains_inReset (d := d.onEp ep f) h (show k < d.host.doms.length by omega)

end EndpointReset

section PcieConfig

variable {s : State} {ep : Nat} {w : PcieCfg}

/-- A configuration write reaches a function whose link is up. -/
theorem pcieConfigWrite_does {f : Endpoint → Endpoint} (hup : (s.dev.ep ep).linkUp = true) (hready : s.dev.power.ready = true)
    (h : pcieConfig ep w s.dev = if !(s.dev.ep ep).linkUp ∨ !s.dev.power.ready then s.dev else s.dev.onEp ep f) :
    Does (.pcieConfigWrite ep w) s (fun d => d.onEp ep f) := by
  refine does_of_eq (exec_pcieConfigWrite ..) ?_
  rw [h, if_neg (by simp [hup, hready])]

end PcieConfig

/-- Settles O29: a reset of the function by the endpoint and the pages that it leaves, a configuration write by its field. -/
theorem pcieRows : Obligations.PcieRows := by
  intro s ep hep hdoms
  refine ⟨⟨_, exec_pcieFlr .., endpointReset_ep hep (by simp [Endpoint.writes]), fun k slot h => endpointReset_inReset hdoms h⟩,
    fun x hx => ?down,
    fun hup hcount => does_of_eq (exec_pcieLinkUp ..) (if_pos ⟨hup, hcount⟩), fun hup hready =>
    ⟨fun on => pcieConfigWrite_does hup hready rfl, fun z => pcieConfigWrite_does hup hready rfl,
      fun ns => pcieConfigWrite_does hup hready rfl, fun n hn => pcieConfigWrite_does hup hready ?payload,
      fun g c => pcieConfigWrite_does hup hready rfl⟩⟩
  case down =>
    have hrun : exec x s = .next (s.onDev (pcieDown ep)) := by
      simp only [List.mem_cons, List.not_mem_nil, or_false] at hx
      rcases hx with rfl | rfl
      · exact exec_pcieLinkDown ..
      · exact exec_perstNAssert ..
    exact ⟨_, hrun, endpointReset_ep hep rfl, fun k slot h => endpointReset_inReset hdoms h⟩
  case payload =>
    have hsize : n = 128 ∨ n = 256 ∨ n = 512 := by simpa using hn
    simp only [pcieConfig, hsize, if_true]

end Sys2Proof.Machine

namespace Sys2Proof.Machine

/-! ### Suspended work (13 R415, R416) -/

theorem exec_commandSuspendTimeout (dom ring : Nat) (tag : BitVec 32) (s : State) :
    exec (.commandSuspendTimeout dom ring tag) s = .next (s.onDev (suspendTimeout dom ring tag)) := rfl

/-- Work as its fault leaves it. -/
def Work.suspendedAt (w : Work) (cause now : Nat) : Work := { w with state := .suspended cause now, resumer := none }

/-- The event that tells of a fault of work. -/
def Work.faultEvent (w : Work) (cause : Nat) (d : Dev) : Event :=
  let a := w.todo.headD (0, 0, false)
  dmaFaultEvent d (ringClass w.cmd.ring) a.2.2 cause w.cmd.ring w.cmd.tag.toNat a.1 w.progress

section Suspends

variable {w : Work} {cause : Nat} {d : Dev}

theorem suspendWork_inReset (h : (d.page w.cmd.dom).resetBusy = true) : suspendWork w cause d = dropWork w.cmd d := if_pos h

theorem suspendWork_suspends (h : (d.page w.cmd.dom).resetBusy = false) : suspendWork w cause d =
    putWork (w.suspendedAt cause d.now) (raise w.cmd.dom (w.faultEvent cause d) d) := by
  have htime : (raise w.cmd.dom (w.faultEvent cause d) d).time = d.time := OnlyParts.raise .time (by decide)
  have hnow : (raise w.cmd.dom (w.faultEvent cause d) d).now = d.now := congrArg TimeSt.tclk htime
  rw [← hnow]
  exact if_neg (ne_true_of_eq_false h)

theorem putWork_works (h : w.cmd.dom < d.host.doms.length) : ((putWork w d).dom w.cmd.dom).works =
    without (fun x => decide (x.cmd = w.cmd)) (d.dom w.cmd.dom).works ++ [w] := congrArg Dom.works (onDom_dom h)

theorem mem_putWork (h : w.cmd.dom < d.host.doms.length) : w ∈ ((putWork w d).dom w.cmd.dom).works := by
  rw [putWork_works h]
  exact List.mem_append_right _ List.mem_cons_self

/-- Work that is put into its list is the only one of its command there. -/
theorem eq_of_mem_putWork (h : w.cmd.dom < d.host.doms.length) {x : Work} (hx : x ∈ ((putWork w d).dom w.cmd.dom).works)
    (hc : x.cmd = w.cmd) : x = w := by
  rw [putWork_works h, List.mem_append, List.mem_singleton] at hx
  refine hx.resolve_left fun hold => ?_
  simp [without, hc] at hold

/-- Suspended work in a domain's list blocks its ring. -/
theorem ringBlocked_of_suspended {since : Nat} (hw : w ∈ (d.dom w.cmd.dom).works) (hs : w.state = .suspended cause since) :
    d.ringBlocked w.cmd.dom w.cmd.ring = true := by
  have hany : (d.dom w.cmd.dom).works.any (fun x => x.cmd.ring = w.cmd.ring &&
      (match x.state with | .suspended _ _ => true | .walking => false)) = true :=
    List.any_eq_true.2 ⟨w, hw, by simp [hs]⟩
  simp only [Dev.ringBlocked, Bool.or_eq_true]
  exact Or.inl (Or.inl (Or.inl hany))

end Suspends

theorem faultSuspends : Claims.FaultSuspends := by
  intro w cause d hdom
  refine ⟨suspendWork_inReset, fun hreset => ?_⟩
  have hput := suspendWork_suspends (cause := cause) hreset
  have hlater : (w.suspendedAt cause d.now).cmd.dom < (raise w.cmd.dom (w.faultEvent cause d) d).host.doms.length :=
    KeepsResets.raise.doms.symm ▸ hdom
  have hmem := mem_putWork hlater
  refine ⟨hput ▸ hmem, hput ▸ ringBlocked_of_suspended (w := w.suspendedAt cause d.now) hmem rfl, fun x hx hc => ?only, hput⟩
  case only => exact eq_of_mem_putWork hlater (hput ▸ hx) hc

section SuspendTimeout

variable {d : Dev} {dom ring cause since : Nat} {tag : BitVec 32} (hgo : d.halted = false)
include hgo

theorem suspendTimeout_work {w : Work} (hw : d.suspendedWork dom ring tag = some w) (hs : w.state = .suspended cause since) :
    suspendTimeout dom ring tag d = drainDom dom (abortWork w 2 (advanceTo (since + 500000000) d)) := by
  simp only [suspendTimeout, hgo, hw, hs, Bool.false_eq_true, if_false]

theorem suspendTimeout_job {r : LkRun} (hw : d.suspendedWork dom ring tag = none) (hr : d.lkSuspended dom ring tag = some r)
    (hs : r.at_ = .suspended cause since) :
    suspendTimeout dom ring tag d = drainDom dom (lkAbort r 2 (advanceTo (since + 500000000) d)) := by
  simp only [suspendTimeout, hgo, hw, hr, hs, Bool.false_eq_true, if_false]

end SuspendTimeout

theorem suspensionEnds : Claims.SuspensionEnds := fun _ _ _ _ hgo =>
  ⟨fun _ _ _ hw hs => leaves_of_eq (exec_commandSuspendTimeout ..) (suspendTimeout_work hgo hw hs),
    fun _ _ _ hw hr hs => leaves_of_eq (exec_commandSuspendTimeout ..) (suspendTimeout_job hgo hw hr hs)⟩

/-! What RESUME and ABORT name: kind 0 is the work or job of a ring and tag, kind 1 the fetch of a slice and record. -/

section ResumeAbort

variable {h : Hdr} {unit : Nat} {what : BitVec 32} {c : Cmd} {d : Dev}

theorem effectOf_resume {kind : Nat} : effectOf (.resume h kind unit what) c d = resumeBody c kind unit what d := rfl

theorem effectOf_abort {kind : Nat} : effectOf (.abort h kind unit what) c d = abortBody c kind unit what d := rfl

theorem resumeShape_work (hu : unit ∈ hostRings) : resumeShape 0 unit what = true := by
  simp [resumeShape, hu]

theorem resumeShape_fetch (hu : unit < 2) (hw : what.toNat < 256) : resumeShape 1 unit what = true := by
  simp [resumeShape, hu, hw]

theorem resume_checked {kind : Nat} (hs : resumeShape kind unit what = true) {go : Dev → Answer} :
    checked [(!resumeShape kind unit what, eRange)] d go = go d := checked_passes _ _ _ (by simp [hs])

section Work

variable (hu : unit ∈ hostRings)
include hu

theorem resume_work {w : Work} (hw : d.suspendedWork c.dom unit what = some w) :
    effectOf (.resume h 0 unit what) c d = (resumeWork w c d, none) := by
  simp only [effectOf_resume, resumeBody, resume_checked (resumeShape_work hu), hw, Nat.zero_ne_one, if_false]

theorem abort_work {w : Work} (hw : d.suspendedWork c.dom unit what = some w) :
    effectOf (.abort h 0 unit what) c d = answer {} (abortWork w 0 d) := by
  simp only [effectOf_abort, abortBody, resume_checked (resumeShape_work hu), hw, Nat.zero_ne_one, if_false]

variable (hw : d.suspendedWork c.dom unit what = none)
include hw

theorem resume_job {r : LkRun} (hr : d.lkSuspended c.dom unit what = some r) :
    effectOf (.resume h 0 unit what) c d = (lkResume r c d, none) := by
  simp only [effectOf_resume, resumeBody, resume_checked (resumeShape_work hu), hw, hr, Nat.zero_ne_one, if_false]

theorem abort_job {r : LkRun} (hr : d.lkSuspended c.dom unit what = some r) :
    effectOf (.abort h 0 unit what) c d = answer {} (lkAbort r 0 d) := by
  simp only [effectOf_abort, abortBody, resume_checked (resumeShape_work hu), hw, hr, Nat.zero_ne_one, if_false]

variable (hr : d.lkSuspended c.dom unit what = none)
include hr

theorem resume_nothing : effectOf (.resume h 0 unit what) c d = answer (fail eState) d := by
  simp only [effectOf_resume, resumeBody, resume_checked (resumeShape_work hu), hw, hr, Nat.zero_ne_one, if_false]

theorem abort_nothing : effectOf (.abort h 0 unit what) c d = answer (fail eState) d := by
  simp only [effectOf_abort, abortBody, resume_checked (resumeShape_work hu), hw, hr, Nat.zero_ne_one, if_false]

end Work

section Fetch

variable (hu : unit < 2) (hn : what.toNat < 256) {m : MissRec} (hm : d.suspendedFetch c.dom unit what.toNat = some m)
include hu hn hm

theorem resume_fetch : effectOf (.resume h 1 unit what) c d = (resumeFetch c unit what.toNat m d, none) := by
  simp only [effectOf_resume, resumeBody, resume_checked (resumeShape_fetch hu hn), hm, if_true]

theorem abort_fetch : effectOf (.abort h 1 unit what) c d = answer {} (failFetch unit what.toNat 6 d) := by
  simp only [effectOf_abort, abortBody, resume_checked (resumeShape_fetch hu hn), hm, if_true]

end Fetch

/-- Work whose access needs a walk waits for that of the RESUME. -/
theorem resumeWork_walk {w : Work}
    (hx : xlat d c.dom (w.todo.headD (0, 0, false)).1 (w.todo.headD (0, 0, false)).2.2 = .walk) :
    resumeWork w c d = putWork { w with state := .walking, resumer := some c } d := by
  simp only [resumeWork, hx]

theorem resumeFetch_walk {slice r : Nat} {m : MissRec} (hx : xlat d m.dom (d.fetchIova m.dom m.handle) false = .walk) :
    resumeFetch c slice r m d = setRec slice r { m with fetch := .walking, resumer := some c } d := by
  simp only [resumeFetch, hx]

theorem resumeFetch_ok {slice r bus : Nat} {m : MissRec} (hx : xlat d m.dom (d.fetchIova m.dom m.handle) false = .ok bus) :
    resumeFetch c slice r m d = finish c {} (startFetch slice r d) := by
  simp only [resumeFetch, hx]

end ResumeAbort

theorem resumeAbort : Claims.ResumeAbort := by
  intro h unit what
  refine ⟨fun w => begins_of _ _ _ fun d c hn => ?work, fun r => begins_of _ _ _ fun d c ⟨hu, hw, hr⟩ => resume_job hu hw hr,
    fun m => begins_of _ _ _ fun d c hn => ?fetchWalks, fun m bus => begins_of _ _ _ fun d c hn => ?fetchReads,
    runs_plain _ _ _ _ fun d c ⟨hu, hw, hr⟩ => ⟨resume_nothing hu hw hr, rfl⟩,
    fun w => runs_plain _ _ _ _ fun d c ⟨hu, hw⟩ => ⟨abort_work hu hw, rfl⟩,
    fun r => runs_plain _ _ _ _ fun d c ⟨hu, hw, hr⟩ => ⟨abort_job hu hw hr, rfl⟩,
    fun m => runs_plain _ _ _ _ fun d c ⟨hu, hn, hm⟩ => ⟨abort_fetch hu hn hm, rfl⟩,
    runs_plain _ _ _ _ fun d c ⟨hu, hw, hr⟩ => ⟨abort_nothing hu hw hr, rfl⟩⟩
  case work =>
    obtain ⟨hu, hw, hx⟩ := hn
    rw [resume_work hu hw, resumeWork_walk hx]
  case fetchWalks =>
    obtain ⟨hu, hwhat, hm, hx⟩ := hn
    rw [resume_fetch hu hwhat hm, resumeFetch_walk hx]
  case fetchReads =>
    obtain ⟨hu, hwhat, hm, hx⟩ := hn
    rw [resume_fetch hu hwhat hm, resumeFetch_ok hx]

/-- Settles O12: a fault by whether the domain is in reset, an end by the work or job that is suspended, RESUME and ABORT by
what they name. -/
theorem suspension : Obligations.Suspension := ⟨faultSuspends, suspensionEnds, resumeAbort⟩

end Sys2Proof.Machine

namespace Sys2Proof.Machine

/-! ### Changes that change nothing -/

theorem modAt_congr {α : Type} {l : List α} {i : Nat} {f g : α → α} {d : α} (h : f (l.getD i d) = g (l.getD i d)) :
    modAt l i f = modAt l i g := by
  refine List.ext_getElem? fun j => ?_
  simp only [modAt, List.getElem?_modify]
  by_cases hij : i = j
  · subst hij
    cases hi : l[i]? with
    | none => rfl
    | some a =>
      rw [List.getD_eq_getElem?_getD, hi] at h
      simpa using h
  · simp [hij]

theorem modAt_same {α : Type} {l : List α} {i : Nat} {f : α → α} {d : α} (h : f (l.getD i d) = l.getD i d) : modAt l i f = l :=
  (modAt_congr (g := id) h).trans (List.modify_id ..)

theorem onDom_same {d : Dev} {k : Nat} {f : Dom → Dom} (h : f (d.dom k) = d.dom k) : d.onDom k f = d := by
  have hdoms : modAt d.host.doms k f = d.host.doms := modAt_same h
  simp only [Dev.onDom, hdoms]

theorem onPage_same {d : Dev} {k : Nat} {f : Page → Page} (h : f (d.page k) = d.page k) : d.onPage k f = d :=
  onDom_same (congrArg (fun p => { d.dom k with page := p }) h)

theorem onRing_same {d : Dev} {k r : Nat} {f : Ring → Ring} (h : f (d.ring k r) = d.ring k r) : d.onRing k r f = d :=
  onDom_same (congrArg (fun l => { d.dom k with rings := l }) (modAt_same h))

theorem forEach_same {α : Type} {l : List α} {f : α → Dev → Dev} {d : Dev} (h : ∀ a ∈ l, f a d = d) : forEach l f d = d := by
  induction l with
  | nil => rfl
  | cons a l ih =>
    rw [forEach_cons, h a List.mem_cons_self]
    exact ih fun b hb => h b (List.mem_cons_of_mem a hb)

theorem onPage_onPage {d : Dev} {k : Nat} {f g : Page → Page} : (d.onPage k f).onPage k g = d.onPage k (fun p => g (f p)) := by
  simp only [Dev.onPage, Dev.onDom, modAt_modAt]

/-- A ring that is disabled already, and fetches nothing, stays as it is. -/
theorem ringDisable_same {d : Dev} {k r : Nat} (hoff : (d.page k).ringEn = 0) (hidle : (d.ring k r).fetch = .none) :
    ringDisable k r d = d := by
  have hfetch : endFetch k r d = d := onRing_same (if_pos hidle)
  have hclear : (d.page k).ringEn &&& ~~~((1 : BitVec 9) <<< r) = (d.page k).ringEn := by
    rw [hoff]
    exact BitVec.zero_and
  have hbit : d.onPage k (fun p => { p with ringEn := p.ringEn &&& ~~~((1 : BitVec 9) <<< r) }) = d :=
    onPage_same (congrArg (fun b => { d.page k with ringEn := b }) hclear)
  rw [ringDisable, hfetch, hbit, ite_self]

/-! ### Rows of a slot -/

theorem atSlot_seen {ep slot k : Nat} {f : Nat → Dev → Dev} {d : Dev} (h : d.pageDom ep slot = some k) : atSlot ep slot f d = f k d := by
  simp only [atSlot, h]

theorem atSlot_empty {ep slot : Nat} {f : Nat → Dev → Dev} {d : Dev} (h : d.pageDom ep slot = none) : atSlot ep slot f d = d := by
  simp only [atSlot, h]

theorem exec_domainReset (ep slot : Nat) (s : State) :
    exec (.domainReset ep slot) s = .next (s.onDev (atSlot ep slot domainReset)) := rfl

theorem exec_domainResetDone (j : Nat) (s : State) : exec (.domainResetDone j) s = .next (s.onDev (domainResetDone j)) := rfl

theorem exec_ringEnable (ep slot r : Nat) (s : State) :
    exec (.ringEnable ep slot r) s = .next (s.onDev (atSlot ep slot (fun k => ringEnable k r))) := rfl

theorem exec_ringDisable (ep slot r : Nat) (s : State) :
    exec (.ringDisable ep slot r) s = .next (s.onDev (atSlot ep slot (fun k => ringDisable k r))) := rfl

theorem exec_dtuModeWrite (ep slot mode : Nat) (s : State) :
    exec (.dtuModeWrite ep slot mode) s = .next (s.onDev (atSlot ep slot (fun k => dtuModeWrite k mode))) := rfl

theorem exec_dtuInval (ep slot : Nat) (all : Bool) (page : Nat) (s : State) :
    exec (.dtuInval ep slot all page) s = .next (s.onDev (atSlot ep slot (fun k => dtuInval k all page))) := rfl

theorem exec_dtuInvalDone (j : Nat) (s : State) : exec (.dtuInvalDone j) s = .next (s.onDev (dtuInvalDone j)) := rfl

theorem exec_dtuErrClear (ep slot : Nat) (s : State) :
    exec (.dtuErrClear ep slot) s = .next (s.onDev (atSlot ep slot dtuErrClear)) := rfl

theorem exec_msixVectorUnmask (ep vector : Nat) (s : State) :
    exec (.msixVectorUnmask ep vector) s = .next (s.onDev (msixUnmask ep vector)) := rfl

theorem exec_registerWrite_slot {ep slot off width : Nat} {v : BitVec 64} {s : State} (h : slot < 8) :
    exec (.registerWrite ep slot off width v) s = .next (s.onDev (atSlot ep slot (fun k => registerWrite k off width v.toNat))) := by
  refine congrArg (fun f => Host.Outcome.next (s.onDev f)) (funext fun d => ?_)
  exact if_pos h

theorem exec_registerWrite_table (ep off width : Nat) (v : BitVec 64) (s : State) :
    exec (.registerWrite ep 8 off width v) s = .next (s.onDev (msixTableWrite ep off width v.toNat)) := rfl

section SlotRows

variable {x y : Instr} {s : State} {ep slot k : Nat} {f g : Nat → Dev → Dev} (hx : exec x s = .next (s.onDev (atSlot ep slot f)))
  (hk : s.dev.pageDom ep slot = some k)
include hx hk

/-- A row of a slot does what it does to the domain that the slot shows. -/
theorem does_at {h : Dev → Dev} (heq : f k s.dev = h s.dev) : Does x s h := does_of_eq hx ((atSlot_seen hk).trans heq)

theorem idles_at (heq : f k s.dev = s.dev) : Idles x s := idles_of_eq hx ((atSlot_seen hk).trans heq)

/-- Two rows of a slot that do the same to its domain. -/
theorem exec_eq_at (hy : exec y s = .next (s.onDev (atSlot ep slot g))) (heq : f k s.dev = g k s.dev) : exec x s = exec y s :=
  (exec_of_eq hx ((atSlot_seen hk).trans heq)).trans (exec_of_eq hy (atSlot_seen hk)).symm

end SlotRows

/-! ### Writes of a page's registers (13 R396) -/

theorem ringReg_base : ∀ r < 9, ringReg (0x40 + 16 * r) = some (r, false) := by decide

theorem ringReg_size : ∀ r < 9, ringReg (0x48 + 16 * r) = some (r, true) := by decide

/-- A register of 32 bits: neither a wide one nor the upper half of one. -/
def narrowReg (off : Nat) : Bool := !wideReg off && !(decide (4 ≤ off) && wideReg (off - 4))

theorem narrowReg_size : ∀ r < 9, narrowReg (0x48 + 16 * r) = true := by decide

theorem wideReg_base : ∀ r < 9, wideReg (0x40 + 16 * r) = true := by decide

section RegisterWrite

variable {k off r v : Nat} {d : Dev}

theorem registerWrite_wide (h : wideReg off = true) : registerWrite k off 8 v d = write64 k off v d := by
  simp only [registerWrite, h, and_self, if_true]

theorem registerWrite_narrow (h : narrowReg off = true) : registerWrite k off 4 v d = write32 k off (v % 2 ^ 32) d := by
  simp only [narrowReg, Bool.and_eq_true, Bool.not_eq_true', Bool.and_eq_false_iff, decide_eq_false_iff_not] at h
  obtain ⟨hwide, hupper⟩ := h
  have hnot : ¬ (4 ≤ off ∧ wideReg (off - 4) = true) := by
    rintro ⟨h4, hlow⟩
    rcases hupper with hlt | hno
    · exact hlt h4
    · rw [hno] at hlow
      exact Bool.false_ne_true hlow
  simp only [registerWrite, hwide, hnot, Bool.false_eq_true, and_false, ne_eq, not_true_eq_false, if_false]

/-- The lower half of a wide register waits for the upper one. -/
theorem registerWrite_half (h : wideReg off = true) :
    registerWrite k off 4 v d = d.onPage k (fun p => { p with half := some (off, BitVec.ofNat 32 v) }) := by
  simp [registerWrite, h]

/-- The upper half of a wide register takes effect with the lower half that waits. -/
theorem registerWrite_upper {l : BitVec 32} (hupper : wideReg (off + 4) = false) (h : wideReg off = true)
    (hl : (d.page k).half = some (off, l)) :
    registerWrite k (off + 4) 4 v d = write64 k off (v % 2 ^ 32 * 2 ^ 32 + l.toNat) (d.onPage k (fun p => { p with half := none })) := by
  simp [registerWrite, hupper, h, hl]

theorem write64_base (hr : r < 9) : write64 k (0x40 + 16 * r) v d =
    if (d.page k).ringEn.getLsbD r then d else d.onRing k r (fun x => { x with base := addrField v }) := by
  simp only [write64, ringReg_base r hr]
  split
  case h_4 => rfl
  all_goals omega

theorem write32_size (hr : r < 9) : write32 k (0x48 + 16 * r) v d =
    if (d.page k).ringEn.getLsbD r then d else d.onRing k r (fun x => { x with gen := bitsOf v 31 16, log2 := v % 32 }) := by
  simp only [write32, ringReg_size r hr]
  split
  case h_7 => rfl
  all_goals omega

end RegisterWrite

/-! ### The MSI-X table (13 R384) -/

/-- Where a slot shows a domain, the host reaches the endpoint. -/
theorem reaches_of_pageDom {d : Dev} {ep slot k : Nat} (h : d.pageDom ep slot = some k) :
    (!d.power.ready || !(d.ep ep).linkUp || (d.ep ep).d3hot) = false := by
  simp only [Dev.pageDom] at h
  split at h
  next hup =>
    simp only [Bool.and_eq_true, Bool.not_eq_true'] at hup
    obtain ⟨⟨hready, hlink⟩, hawake⟩ := hup
    simp [hready, hlink, hawake]
  next => cases h

section MsixTable

variable {ep slot k vec off v : Nat} {d : Dev}

theorem msixTableWrite_reached (h : d.pageDom ep slot = some k) (hoff : off < 0x400) :
    msixTableWrite ep off 4 v d = msixStore ep off (v % 2 ^ 32) d := by
  have hin : ¬ 0x400 ≤ off := by omega
  simp only [msixTableWrite, reaches_of_pageDom h, hin, decide_false, Bool.or_self, Bool.false_eq_true, if_false, if_true]

theorem msixTableWrite_behind {width : Nat} (hoff : 0x400 ≤ off) : msixTableWrite ep off width v d = d :=
  if_pos (by simp [hoff])

/-- The place of a word of the table: its vector and its place in the vector's entry. -/
theorem msixPlace (hoff : off < 16) : (16 * vec + off) / 16 = vec ∧ (16 * vec + off) % 16 = off := by omega

theorem msixStore_low : msixStore ep (16 * vec + 0) v d = d.onEp ep (fun p => { p with msix := modAt p.msix vec (fun x =>
    { x with addr := BitVec.ofNat 64 (x.addr.toNat / 2 ^ 32 * 2 ^ 32 + v / 4 * 4) }) }) := by
  obtain ⟨hvec, hplace⟩ := msixPlace (vec := vec) (off := 0) (by decide)
  simp only [msixStore, hvec, hplace]

theorem msixStore_high : msixStore ep (16 * vec + 4) v d = d.onEp ep (fun p => { p with msix := modAt p.msix vec (fun x =>
    { x with addr := BitVec.ofNat 64 (v * 2 ^ 32 + x.addr.toNat % 2 ^ 32) }) }) := by
  obtain ⟨hvec, hplace⟩ := msixPlace (vec := vec) (off := 4) (by decide)
  simp only [msixStore, hvec, hplace]

theorem msixStore_data : msixStore ep (16 * vec + 8) v d = d.onEp ep (fun p => { p with msix := modAt p.msix vec (fun x =>
    { x with data := BitVec.ofNat 32 v }) }) := by
  obtain ⟨hvec, hplace⟩ := msixPlace (vec := vec) (off := 8) (by decide)
  simp only [msixStore, hvec, hplace]

theorem msixStore_mask : msixStore ep (16 * vec + 12) v d =
    if v.testBit 0 then d.onEp ep (fun p => { p with masked := p.masked ||| (1 <<< vec) }) else msixUnmask ep vec d := by
  obtain ⟨hvec, hplace⟩ := msixPlace (vec := vec) (off := 12) (by decide)
  simp only [msixStore, hvec, hplace]

end MsixTable

/-- The vectors of the MSI-X table take address, data and mask. -/
theorem msixEntries {s : State} {ep slot k : Nat} (v : BitVec 64) (hk : s.dev.pageDom ep slot = some k) :
    let low := v.toNat % 2 ^ 32
    ∀ vec < 64,
    let entry := fun off f => Does (.registerWrite ep 8 (16 * vec + off) 4 v) s (fun d => d.onEp ep (fun p => { p with
      msix := modAt p.msix vec f }))
    entry 0 (fun x => { x with addr := BitVec.ofNat 64 (x.addr.toNat / 2 ^ 32 * 2 ^ 32 + low / 4 * 4) }) ∧
    entry 4 (fun x => { x with addr := BitVec.ofNat 64 (low * 2 ^ 32 + x.addr.toNat % 2 ^ 32) }) ∧
    entry 8 (fun x => { x with data := BitVec.ofNat 32 low }) ∧
    (low.testBit 0 = true → Does (.registerWrite ep 8 (16 * vec + 12) 4 v) s (fun d => d.onEp ep (fun p => { p with
      masked := p.masked ||| (1 <<< vec) }))) ∧
    (low.testBit 0 = false → exec (.registerWrite ep 8 (16 * vec + 12) 4 v) s = exec (.msixVectorUnmask ep vec) s) := by
  intro low vec hvec entry
  have hstore : ∀ off < 16, msixTableWrite ep (16 * vec + off) 4 v.toNat s.dev = msixStore ep (16 * vec + off) low s.dev :=
    fun off hoff => msixTableWrite_reached hk (by omega)
  have hmask := (hstore 12 (by decide)).trans msixStore_mask
  refine ⟨does_of_eq (exec_registerWrite_table ..) ((hstore 0 (by decide)).trans msixStore_low),
    does_of_eq (exec_registerWrite_table ..) ((hstore 4 (by decide)).trans msixStore_high),
    does_of_eq (exec_registerWrite_table ..) ((hstore 8 (by decide)).trans msixStore_data),
    fun hbit => does_of_eq (exec_registerWrite_table ..) (hmask.trans (if_pos hbit)), fun hbit => ?unmask⟩
  case unmask =>
    exact exec_of_eq (exec_registerWrite_table ..) (hmask.trans (if_neg (ne_true_of_eq_false hbit)))

/-! ### The registers one by one (13 R396) -/

section Registers

variable {k v : Nat} {d : Dev}

/-- A status write that clears the translation error alone. -/
theorem write32_errClear : write32 k 0x008 (2 ^ 11) d = dtuErrClear k d := by
  have hbits : (d.page k).ringErr &&& ~~~(BitVec.ofNat 9 (2 ^ 11 / 4)) = (d.page k).ringErr := BitVec.and_allOnes
  have hover : ((d.page k).evtOverflow && !(2 ^ 11).testBit 12) = (d.page k).evtOverflow := Bool.and_true _
  have hsame : d.onPage k (fun p => { p with
      evtOverflow := p.evtOverflow && !(2 ^ 11).testBit 12, ringErr := p.ringErr &&& ~~~(BitVec.ofNat 9 (2 ^ 11 / 4)) }) = d :=
    onPage_same (by simp only [hbits, hover])
  simp only [write32, hsame]
  exact if_pos (by decide)

/-- A control write that sets the reset bit alone. -/
theorem write32_reset (hoff : (d.page k).enable = false) (hen : (d.page k).ringEn = 0) (hidle : ∀ r, (d.ring k r).fetch = .none) :
    write32 k 0x004 2 d = domainReset k d := by
  have hsame : d.onPage k (fun p => { p with enable := (2 : Nat).testBit 0 }) = d := 
    onPage_same (congrArg (fun b => { d.page k with enable := b }) hoff.symm)
  have hrings : forEach (List.range 9) (fun r d => if (2 : Nat).testBit (r + 2) then ringEnable k r d else ringDisable k r d) d = d := by
    refine forEach_same fun r hr => ?_
    have hclear : (2 : Nat).testBit (r + 2) = false := by
      rw [Nat.testBit_succ, Nat.testBit_succ]
      exact Nat.zero_testBit r
    rw [hclear]
    exact ringDisable_same hen (hidle r)
  simp only [write32, hsame, hrings]
  exact if_pos (by decide)

theorem write64_dbrec : write64 k 0x010 v d = d.onPage k (fun p => { p with dbrec := addrField v }) := rfl

/-- A status write that leaves the translation error. -/
theorem write32_status (h : v.testBit 11 = false) : write32 k 0x008 v d = d.onPage k (fun p => { p with
    evtOverflow := p.evtOverflow && !v.testBit 12, ringErr := p.ringErr &&& ~~~(BitVec.ofNat 9 (v / 4)) }) :=
  if_neg (ne_true_of_eq_false h)

end Registers

/-- Settles O26: a write by the kind of its register, narrow, wide or a half, and then by the register. -/
theorem registerWrites : Obligations.RegisterWrites := by
  intro s ep slot k v hslot hk
  have hrow := fun off width => exec_registerWrite_slot (ep := ep) (off := off) (width := width) (v := v) (s := s) hslot
  refine ⟨does_at (exec_domainReset ..) hk rfl, fun j => does_of_eq (exec_domainResetDone ..) rfl,
    fun r => ⟨does_at (exec_ringEnable ..) hk rfl, does_at (exec_ringDisable ..) hk rfl⟩,
    fun mode => does_at (exec_dtuModeWrite ..) hk rfl, fun all page => does_at (exec_dtuInval ..) hk rfl,
    fun j => does_of_eq (exec_dtuInvalDone ..) rfl, does_at (exec_dtuErrClear ..) hk rfl,
    fun ep' slot' off width hs hnone => idles_of_eq (exec_registerWrite_slot hs) (atSlot_empty hnone), ?_⟩
  intro narrow wide low addr
  have hnarrow : ∀ off, narrowReg off = true → registerWrite k off 4 v.toNat s.dev = write32 k off low s.dev :=
    fun off h => registerWrite_narrow h
  have hgen : bitsOf low 31 16 = low / 2 ^ 16 := by
    have hlow : low < 2 ^ 32 := Nat.mod_lt _ (by decide)
    exact Nat.mod_eq_of_lt (by omega)
  refine ⟨does_at (hrow ..) hk (hnarrow 0x00C rfl), does_at (hrow ..) hk (hnarrow 0x01C rfl), does_at (hrow ..) hk (hnarrow 0x03C rfl),
    exec_eq_at (hrow ..) hk (exec_dtuModeWrite ..) (hnarrow 0x018 rfl),
    fun hbit => does_at (hrow ..) hk ((hnarrow 0x008 rfl).trans (write32_status hbit)),
    fun hlow => exec_eq_at (hrow ..) hk (exec_dtuErrClear ..) ((hnarrow 0x008 rfl).trans (hlow ▸ write32_errClear)),
    fun hlow hoff hen _ hidle => exec_eq_at (hrow ..) hk (exec_domainReset ..) ((hnarrow 0x004 rfl).trans (hlow ▸ write32_reset hoff hen hidle)),
    does_at (hrow ..) hk (registerWrite_wide rfl), does_at (hrow ..) hk (registerWrite_wide rfl),
    exec_eq_at (hrow ..) hk (exec_dtuInval ..) (registerWrite_wide rfl),
    fun r hr hen => ⟨idles_at (hrow ..) hk ?lockedBase, idles_at (hrow ..) hk ?lockedSize⟩,
    fun r hr hen => ⟨does_at (hrow ..) hk ?base, does_at (hrow ..) hk ?size⟩, fun off hoff => idles_at (hrow ..) hk ?noRegister,
    idles_at (hrow ..) hk (registerWrite_wide rfl), does_at (hrow ..) hk (registerWrite_half rfl),
    fun l hl => does_at (hrow ..) hk ?upper, msixEntries v hk,
    fun off width hoff => idles_of_eq (exec_registerWrite_table ..) (msixTableWrite_behind hoff)⟩
  case lockedBase => rw [registerWrite_wide (wideReg_base r hr), write64_base hr, if_pos hen]
  case lockedSize => rw [hnarrow _ (narrowReg_size r hr), write32_size hr, if_pos hen]
  case base =>
    rw [registerWrite_wide (wideReg_base r hr), write64_base hr, if_neg (ne_true_of_eq_false hen)]
    rfl
  case size => rw [hnarrow _ (narrowReg_size r hr), write32_size hr, if_neg (ne_true_of_eq_false hen), hgen]
  case noRegister =>
    simp only [List.mem_cons, List.not_mem_nil, or_false] at hoff
    rcases hoff with rfl | rfl | rfl | rfl
    all_goals exact (hnarrow _ rfl).trans rfl
  case upper =>
    rw [registerWrite_upper (off := 0x010) rfl rfl hl, write64_dbrec, onPage_onPage]
    rfl

end Sys2Proof.Machine

namespace Sys2Proof.Machine

/-! ### What a message of an interrupt leaves (13 R406) -/

theorem onEp_congr {d : Dev} {i : Nat} {f g : Endpoint → Endpoint} (h : f (d.ep i) = g (d.ep i)) : d.onEp i f = d.onEp i g := by
  have heps : modAt d.host.eps i f = modAt d.host.eps i g := modAt_congr h
  simp only [Dev.onEp, heps]

theorem onEp_ep_other {d : Dev} {i e : Nat} {f : Endpoint → Endpoint} (h : e ≠ i) : (d.onEp i f).ep e = d.ep e := by
  simp only [Dev.ep, Dev.onEp, getD_modAt, h.symm, false_and, if_false]

theorem onDom_dom_other {d : Dev} {i k : Nat} {f : Dom → Dom} (h : k ≠ i) : (d.onDom i f).dom k = d.dom k := by
  simp only [Dev.dom, Dev.onDom, getD_modAt, h.symm, false_and, if_false]

theorem onRing_ring {d : Dev} {k r : Nat} {f : Ring → Ring} (hk : k < d.host.doms.length) (hr : r < (d.dom k).rings.length) :
    (d.onRing k r f).ring k r = f (d.ring k r) := by
  simp only [Dev.ring, Dev.onRing, onDom_dom hk, getD_modAt, hr, and_self, if_true]

theorem onPage_page {d : Dev} {k : Nat} {f : Page → Page} (hk : k < d.host.doms.length) : (d.onPage k f).page k = f (d.page k) :=
  congrArg Dom.page (onDom_dom hk)

/-- A change outside the host interface leaves every endpoint. -/
theorem OnlyParts.ep {ps : List Part} {d e : Dev} (h : OnlyParts ps d e) (i : Nat) (hp : Part.host ∉ ps := by decide) :
    e.ep i = d.ep i := congrArg (fun x : HostSt => x.eps.getD i {}) (h .host hp)

theorem countDma_wire {dom cls n : Nat} {d : Dev} : (countDma dom cls n d).wire = d.wire := OnlyParts.countDma .wire (by decide)

theorem msixWrite_wire {dom ep v : Nat} {d : Dev} : (msixWrite dom ep v d).wire =
    .msix ep v ((d.ep ep).msix.getD v {}).addr ((d.ep ep).msix.getD v {}).data :: d.wire := countDma_wire

/-- A message changes nothing of a domain but the sources of its interrupts. -/
theorem onDom_sources {i k : Nat} {f : List Source → List Source} {d : Dev} :
    ∃ l, (d.onDom i (fun D => { D with sources := f D.sources })).dom k = { d.dom k with sources := l } := by
  by_cases hk : i = k ∧ k < d.host.doms.length
  · exact ⟨f (d.dom k).sources, by simp only [Dev.dom, Dev.onDom, getD_modAt, hk, and_self, if_true]⟩
  · exact ⟨(d.dom k).sources, by simp only [Dev.dom, Dev.onDom, getD_modAt, hk, if_false]⟩

theorem sendMsi_dom {dom src k : Nat} {d : Dev} : ∃ l, (sendMsi dom src d).dom k = { d.dom k with sources := l } := by
  unfold sendMsi
  dsimp only
  split
  · exact ⟨_, rfl⟩
  split
  · exact onDom_sources
  split
  · exact onDom_sources (d := d.onEp _ _)
  · rw [OnlyParts.msixWrite.dom k]
    exact onDom_sources

theorem notify_dom {dom src k : Nat} {d : Dev} : ∃ l, (notify dom src d).dom k = { d.dom k with sources := l } := by
  unfold notify
  dsimp only
  split
  · split
    · exact ⟨_, rfl⟩
    · exact onDom_sources
  split
  · exact sendMsi_dom
  split
  · exact onDom_sources
  · exact sendMsi_dom

theorem notify_ring {dom src k r : Nat} {d : Dev} : (notify dom src d).ring k r = d.ring k r := by
  obtain ⟨l, h⟩ := notify_dom (dom := dom) (src := src) (k := k) (d := d)
  rw [Dev.ring, h, Dev.ring]

theorem notify_page {dom src k : Nat} {d : Dev} : (notify dom src d).page k = d.page k := by
  obtain ⟨l, h⟩ := notify_dom (dom := dom) (src := src) (k := k) (d := d)
  rw [Dev.page, h, Dev.page]

/-- A source whose message has left at a tick waits for nothing. -/
def Source.sentAt (now : Nat) : Source := { last := some now }

/-- The device as the message of a source leaves it. -/
def markSent (dom src : Nat) (d : Dev) : Dev :=
  d.onDom dom (fun D => { D with sources := modAt D.sources src (fun _ => Source.sentAt d.now) })

theorem markSent_source {dom src : Nat} {d : Dev} (hdom : dom < d.host.doms.length) (hsrc : src < (d.dom dom).sources.length) :
    ((markSent dom src d).dom dom).sources.getD src {} = Source.sentAt d.now := by
  simp only [markSent, onDom_dom hdom, getD_modAt, hsrc, and_self, if_true]

/-- The message of a source leaves where its vector is open. -/
theorem sendMsi_sends {dom src e slot v : Nat} {d : Dev} (hplace : d.place dom = some (e, slot)) (halive : d.dmaAlive dom = true)
    (hv : v = 8 * slot + bitsOf (d.page dom).msixMap.toNat (4 * src + 2) (4 * src)) (hopen : (d.ep e).masked.getLsbD v = false) :
    sendMsi dom src d = msixWrite dom e v (markSent dom src d) := by
  subst hv
  simp only [sendMsi, hplace, halive, hopen, Bool.not_true, Bool.false_eq_true, if_false]
  rfl

/-! ### Unmasking a vector (13 R384, R406) -/

/-- A source that waited for a vector has its message sent at a tick. -/
def Source.released (vector now : Nat) (x : Source) : Source :=
  if x.pend = some vector then { x with last := some now, pend := none } else x

/-- An endpoint whose vector is open. -/
def Endpoint.opened (vector : Nat) (p : Endpoint) : Endpoint := { p with masked := p.masked &&& ~~~((1 : BitVec 64) <<< vector) }

/-- An endpoint whose vector is open and has nothing pending. -/
def Endpoint.cleared (vector : Nat) (p : Endpoint) : Endpoint := { p with
  masked := p.masked &&& ~~~((1 : BitVec 64) <<< vector), pending := p.pending &&& ~~~((1 : BitVec 64) <<< vector) }

/-- The device as the pending message of a vector leaves it: the vector is open, and the sources that waited for it wait no
more. -/
def releaseVector (ep vector k : Nat) (d : Dev) : Dev :=
  (d.onEp ep (Endpoint.cleared vector)).onDom k (fun D => { D with sources := D.sources.map (Source.released vector d.now) })

section Unmask

variable {ep vector k : Nat} {d : Dev}

theorem vectorBit : ((1 <<< vector : Nat) : BitVec 64) = (1 : BitVec 64) <<< vector := by
  refine BitVec.eq_of_toNat_eq ?_
  simp

theorem releaseVector_ep (hep : ep < d.host.eps.length) : (releaseVector ep vector k d).ep ep = (d.ep ep).cleared vector := onEp_ep hep

theorem releaseVector_ep_other {e : Nat} (he : e ≠ ep) : (releaseVector ep vector k d).ep e = d.ep e := onEp_ep_other he

theorem releaseVector_dom_other {j : Nat} (hj : j ≠ k) : (releaseVector ep vector k d).dom j = d.dom j :=
  onDom_dom_other (d := d.onEp ep _) hj

theorem releaseVector_sources (hk : k < d.host.doms.length) :
    ((releaseVector ep vector k d).dom k).sources = (d.dom k).sources.map (Source.released vector d.now) :=
  congrArg Dom.sources (onDom_dom (d := d.onEp ep _) hk)

variable (hv : vector < 64) (hup : (d.ep ep).linkUp = true) (hat : d.domAt ep (vector / 8) = some k)
include hv hup hat

/-- A vector with no message pending, or of an endpoint that cannot write, is opened. -/
theorem msixUnmask_opens
    (h : (d.ep ep).pending.getLsbD vector = false ∨ (d.ep ep).busMaster = false ∨ (d.ep ep).d3hot = true) :
    msixUnmask ep vector d = d.onEp ep (Endpoint.opened vector) := by
  have hin : ¬ (64 ≤ vector ∨ (!(d.ep ep).linkUp) = true) := by simp [hup, hv]
  have hat' : ∀ f, (d.onEp ep f).domAt ep (vector / 8) = some k := fun _ => hat
  have hsilent : ¬ ((d.ep ep).pending.getLsbD vector && (d.ep ep).busMaster && !(d.ep ep).d3hot) = true := by
    rcases h with h | h | h <;> simp [h]
  simp only [msixUnmask, hin, hat', hsilent, Bool.false_eq_true, if_false, vectorBit]
  rfl

/-- The message that is pending leaves. -/
theorem msixUnmask_sends (hpend : (d.ep ep).pending.getLsbD vector = true) (hmaster : (d.ep ep).busMaster = true)
    (hawake : (d.ep ep).d3hot = false) : msixUnmask ep vector d = msixWrite k ep vector (releaseVector ep vector k d) := by
  have hin : ¬ (64 ≤ vector ∨ (!(d.ep ep).linkUp) = true) := by simp [hup, hv]
  have hat' : ∀ f, (d.onEp ep f).domAt ep (vector / 8) = some k := fun _ => hat
  have honce : ∀ f g : Endpoint → Endpoint, (d.onEp ep f).onEp ep g = d.onEp ep (fun p => g (f p)) := fun f g => by
    simp only [Dev.onEp, modAt_modAt]
  simp only [msixUnmask, hin, hat', hpend, hmaster, hawake, honce, Bool.not_false, Bool.and_self, if_false, if_true, vectorBit]
  rfl

end Unmask

theorem exec_msixHoldoffExpiry (dom src : Nat) (s : State) :
    exec (.msixHoldoffExpiry dom src) s = .next (s.onDev (msixHoldoff dom src)) := rfl

theorem msixHoldoff_idle {dom src : Nat} {d : Dev} (h : ((d.dom dom).sources.getD src {}).due = false) :
    msixHoldoff dom src d = d := if_pos (by simp only [h, Bool.not_false, true_or])

theorem msixHoldoff_due {dom src : Nat} {d : Dev} (h : ((d.dom dom).sources.getD src {}).due = true)
    (hon : (d.page dom).msixMap.getLsbD (4 * src + 3) = true) : msixHoldoff dom src d = sendMsi dom src
      (advanceTo (((d.dom dom).sources.getD src {}).last.getD 0 + (d.page dom).holdoff * 50) d) := by
  simp only [msixHoldoff, h, hon, Bool.not_true, Bool.false_eq_true, or_self, if_false]

/-! Time that passes moves no domain, and no translation changes. -/

section Clock

variable {t dom : Nat} {d : Dev}

theorem advanceTo_place : (advanceTo t d).place dom = d.place dom := by
  obtain ⟨c, x, h, -⟩ := advanceTo_eq t d
  rw [h]
  rfl

theorem advanceTo_dmaAlive : (advanceTo t d).dmaAlive dom = d.dmaAlive dom := by
  obtain ⟨c, x, h, -⟩ := advanceTo_eq t d
  rw [h]
  rfl

theorem advanceTo_xlat {iova : Nat} {write : Bool} : xlat (advanceTo t d) dom iova write = xlat d dom iova write := by
  obtain ⟨c, x, h, -⟩ := advanceTo_eq t d
  rw [h]
  rfl

end Clock

theorem interruptRows : Claims.InterruptRows := by
  intro s
  refine ⟨fun ep vector k hv hep hup hat hk => ?unmask, fun dom src e slot hdom hsrc hdue hon hplace halive => ?holdoff,
    fun dom src hdue => idles_of_eq (exec_msixHoldoffExpiry ..) (msixHoldoff_idle hdue)⟩
  case unmask =>
    intro open_ x
    refine ⟨fun hsilent => does_of_eq (exec_msixVectorUnmask ..) ?_, fun hpend hmaster hawake => ?_⟩
    · exact (msixUnmask_opens hv hup hat hsilent).trans (onEp_congr rfl)
    · have hrun := msixUnmask_sends hv hup hat hpend hmaster hawake
      have hparts : OnlyParts ringParts s.dev (msixWrite k ep vector (releaseVector ep vector k s.dev)) := hrun ▸ OnlyParts.msixUnmask
      have hwrite : OnlyParts [.cnt, .wire] (releaseVector ep vector k s.dev) (msixWrite k ep vector (releaseVector ep vector k s.dev)) :=
        .msixWrite
      refine ⟨_, exec_of_eq (exec_msixVectorUnmask ..) hrun, hparts.mono, (hwrite.ep ep).trans (releaseVector_ep hep),
        fun e he => (hwrite.ep e).trans (releaseVector_ep_other he), fun j hj => (hwrite.dom j).trans (releaseVector_dom_other hj),
        (congrArg Dom.sources (hwrite.dom k)).trans (releaseVector_sources hk), ?_⟩
      rw [msixWrite_wire, releaseVector_ep hep]
      rfl
  case holdoff =>
    intro v x hopen
    let e0 := advanceTo (((s.dev.dom dom).sources.getD src {}).last.getD 0 + (s.dev.page dom).holdoff * 50) s.dev
    have hlater : OnlyParts [.time, .cnt] s.dev e0 := .advanceTo
    have hvector : v = 8 * slot + bitsOf (e0.page dom).msixMap.toNat (4 * src + 2) (4 * src) := by
      rw [Dev.page, hlater.dom dom, bitsOf, show 4 * src + 2 + 1 - 4 * src = 3 by omega]
      rfl
    have hmask : (e0.ep e).masked.getLsbD v = false := (congrArg (fun p => p.masked.getLsbD v) (hlater.ep e)).trans hopen
    have hrun : msixHoldoff dom src s.dev = msixWrite dom e v (markSent dom src e0) := (msixHoldoff_due hdue hon).trans
      (sendMsi_sends (advanceTo_place.trans hplace) (advanceTo_dmaAlive.trans halive) hvector hmask)
    have hparts : OnlyParts (.time :: ringParts) s.dev (msixWrite dom e v (markSent dom src e0)) := hrun ▸ OnlyParts.msixHoldoff
    have hwrite : OnlyParts [.cnt, .wire] (markSent dom src e0) (msixWrite dom e v (markSent dom src e0)) := .msixWrite
    have hnow : (msixWrite dom e v (markSent dom src e0)).now = e0.now := congrArg TimeSt.tclk (hwrite .time (by decide))
    have hsent : ((markSent dom src e0).dom dom).sources.getD src {} = Source.sentAt e0.now :=
      markSent_source (hlater .host (by decide) ▸ hdom) (hlater.dom dom ▸ hsrc)
    refine ⟨_, exec_of_eq (exec_msixHoldoffExpiry ..) hrun, hparts.mono, ?_, ?_⟩
    · rw [hwrite.dom dom, hsent, hnow]
      rfl
    · rw [msixWrite_wire, show (markSent dom src e0).ep e = s.dev.ep e from hlater.ep e]
      exact congrArg _ (hlater .wire (by decide))

end Sys2Proof.Machine

namespace Sys2Proof.Machine

/-! ### Doorbell polls (13 R399 to R402) -/

theorem exec_doorbellPoll (dom : Nat) (s : State) : exec (.doorbellPoll dom) s = .next (s.onDev (doorbellPoll dom)) := rfl

theorem exec_doorbellRecordRead (dom : Nat) (recs : List DbRec) (s : State) :
    exec (.doorbellRecordRead dom recs) s = .next (s.onDev (fun d => recordRead dom recs (wake d))) := rfl

/-- A change of a domain that keeps its page moves no page. -/
theorem onDom_page {k j : Nat} {f : Dom → Dom} {d : Dev} (hf : ∀ D, (f D).page = D.page) : (d.onDom k f).page j = d.page j := by
  simp only [Dev.page, Dev.dom, Dev.onDom, getD_modAt]
  split
  · exact hf _
  · rfl

theorem onRing_page {k r j : Nat} {f : Ring → Ring} {d : Dev} : (d.onRing k r f).page j = d.page j := onDom_page fun _ => rfl

/-- The poll of a domain falls due at a tick. -/
def startPoll (dom : Nat) (d : Dev) : Dev := d.onDom dom (fun D => { D with lastPoll := d.now })

theorem startPoll_xlat {dom iova : Nat} {write : Bool} {d : Dev} : xlat (startPoll dom d) dom iova write = xlat d dom iova write := by
  have hpage : (startPoll dom d).page dom = d.page dom := onDom_page fun _ => rfl
  have hmode : (startPoll dom d).dtuMode dom = d.dtuMode dom := by
    rw [Dev.dtuMode, hpage]
    rfl
  rw [xlat, hmode]
  rfl

theorem tlbTouch_doms {dom iova : Nat} {d : Dev} : (tlbTouch dom iova d).host.doms = d.host.doms := by
  unfold tlbTouch
  split <;> rfl

theorem tlbTouch_dom {dom iova k : Nat} {d : Dev} : (tlbTouch dom iova d).dom k = d.dom k :=
  congrArg (fun l => l.getD k {}) tlbTouch_doms

theorem pollRead_wire {dom bus : Nat} {d : Dev} : (pollRead dom bus d).wire = .read dom bus 576 :: d.wire := countDma_wire

theorem pollRead_dom {dom bus : Nat} {d : Dev} (hdom : dom < d.host.doms.length) :
    (pollRead dom bus d).dom dom = { d.dom dom with pollOut := true, pollWalk := none, pollSince := d.now } :=
  (OnlyParts.countDma.dom dom).trans (onDom_dom hdom)

section PollNow

variable {dom bus : Nat} {d : Dev} (hx : xlat d dom (d.page dom).dbrec false = .ok bus)
include hx

/-- A page that translates is read. -/
theorem pollNow_reads : pollNow dom d = pollRead dom bus (tlbTouch dom (d.page dom).dbrec (startPoll dom d)) := by
  have hx' : xlat (startPoll dom d) dom (d.page dom).dbrec false = .ok bus := startPoll_xlat.trans hx
  simp only [pollNow, ← startPoll.eq_1, hx']

theorem pollNow_wire : (pollNow dom d).wire = .read dom bus 576 :: d.wire := by
  rw [pollNow_reads hx, pollRead_wire]
  exact congrArg _ (OnlyParts.tlbTouch .wire (by decide))

theorem pollNow_dom (hdom : dom < d.host.doms.length) : (pollNow dom d).dom dom =
    { d.dom dom with lastPoll := d.now, pollOut := true, pollWalk := none, pollSince := d.now } := by
  have hstart : dom < (startPoll dom d).host.doms.length := by rwa [startPoll, Dev.onDom, modAt_length]
  have hnow : (tlbTouch dom (d.page dom).dbrec (startPoll dom d)).now = d.now :=
    congrArg TimeSt.tclk (OnlyParts.tlbTouch .time (by decide))
  rw [pollNow_reads hx, pollRead_dom (by rwa [tlbTouch_doms]), tlbTouch_dom, hnow, startPoll, onDom_dom hdom]

end PollNow

theorem doorbellPoll_due {dom : Nat} {d : Dev} (hint : (d.page dom).fretOnly = false) (hpoll : d.pollable dom = true)
    (hout : (d.dom dom).pollOut = false) :
    doorbellPoll dom d = pollNow dom (advanceTo ((d.dom dom).lastPoll + nsTicks (d.page dom).interval) d) := by
  simp only [doorbellPoll, hint, hpoll, hout, Bool.not_true, Bool.or_self, Bool.false_eq_true, if_false]

theorem doorbellPoll_idle {dom : Nat} {d : Dev}
    (h : (d.page dom).fretOnly = true ∨ d.pollable dom = false ∨ (d.dom dom).pollOut = true) : doorbellPoll dom d = d := by
  refine if_pos ?_
  rcases h with h | h | h <;> simp [h]

/-! The records of a poll return. -/

section Records

variable {dom : Nat} {recs : List DbRec} {d : Dev}

theorem recordRead_none (hout : (d.dom dom).pollOut = false) : recordRead dom recs d = d := if_pos (by simp [hout])

/-- The end of a poll leaves a domain pollable. -/
theorem pollable_of_pollEnds : (d.onDom dom (fun D => { D with pollOut := false })).pollable dom = d.pollable dom := by
  have hpage : (d.onDom dom (fun D => { D with pollOut := false })).page dom = d.page dom := onDom_page fun _ => rfl
  rw [Dev.pollable, hpage]
  rfl

theorem recordRead_takes (hout : (d.dom dom).pollOut = true) (hwalk : (d.dom dom).pollWalk = none) (hpoll : d.pollable dom = true) :
    recordRead dom recs d = issueFetches dom (forEach recs.zipIdx (fun x d => takeRecord dom x.2 x.1 d)
      (freshFetches dom (d.onDom dom (fun D => { D with pollOut := false })))) := by
  simp only [recordRead, hout, hwalk, pollable_of_pollEnds, hpoll, Option.isSome_none, Bool.not_true, Bool.or_self,
    Bool.false_eq_true, if_false]

end Records

/-! ### Records and rings (13 R400, R401) -/

/-- Entries of a ring that a record leaves in use. -/
def usedBy (x : DbRec) (ring : Nat) (r : Ring) : BitVec 32 :=
  if ring ∈ hostRings then x.hostIndex - r.devIndex else r.devIndex - x.hostIndex

section Record

variable {dom ring : Nat} {x : DbRec} {d : Dev} (hup : d.ringUp dom ring = true)
include hup

theorem takeRecord_invalid (hbad : recOk x (d.ring dom ring).gen = false) : takeRecord dom ring x d = bump 0x121 dom d := by
  simp only [takeRecord, hup, hbad, Bool.not_true, Bool.not_false, Bool.false_eq_true, if_false, if_true]

theorem takeRecord_moves (hok : recOk x (d.ring dom ring).gen = true)
    (hfits : (usedBy x ring (d.ring dom ring)).toNat ≤ 2 ^ (d.ring dom ring).log2) :
    takeRecord dom ring x d = d.onRing dom ring (fun r => { r with hostIndex := x.hostIndex }) := by
  simp only [takeRecord, hup, hok, Bool.not_true, Bool.false_eq_true, if_false, List.contains_iff_mem]
  exact if_neg (Nat.not_lt.2 hfits)

theorem takeRecord_overrun (hok : recOk x (d.ring dom ring).gen = true)
    (hover : 2 ^ (d.ring dom ring).log2 < (usedBy x ring (d.ring dom ring)).toNat) :
    takeRecord dom ring x d = ringError dom ring d := by
  simp only [takeRecord, hup, hok, Bool.not_true, Bool.false_eq_true, if_false, List.contains_iff_mem]
  exact if_pos hover

end Record

section RingError

variable {dom ring : Nat} {d : Dev} (hdom : dom < d.host.doms.length)
include hdom

theorem ringError_stopped (hring : ring < (d.dom dom).rings.length) : ((ringError dom ring d).ring dom ring).stopped = true := by
  rw [ringError, notify_ring, onRing_ring (by rwa [Dev.onPage, Dev.onDom, modAt_length]) (by rwa [Dev.onPage, onDom_dom hdom])]

theorem ringError_ringErr (hring : ring < 9) : ((ringError dom ring d).page dom).ringErr.getLsbD ring = true := by
  rw [ringError, notify_page, onRing_page, onPage_page hdom, BitVec.getLsbD_or, BitVec.natCast_eq_ofNat,
    BitVec.getLsbD_ofNat, Nat.one_shiftLeft, Nat.testBit_two_pow_self]
  simp [hring]

end RingError

/-! ### Descriptors (13 R402, R403) -/

theorem exec_descriptorFetchDone (dom ring : Nat) (ok : Bool) (desc data aux st : Bytes) (s : State) :
    exec (.descriptorFetchDone dom ring ok desc data aux st) s = .next (s.onDev (descriptorFetchDone dom ring ok desc data aux st)) := rfl

section Descriptor

variable {dom ring : Nat} {desc data aux st : Bytes} {d : Dev} (hreads : (d.ring dom ring).reads.isSome = true)
include hreads

theorem descriptorFetchDone_lost : descriptorFetchDone dom ring false desc data aux st d =
    badRead dom ((endFetch dom ring d).onRing dom ring (fun r => { r with fetched := 64 })) := by
  simp only [descriptorFetchDone, Option.isNone_eq_false_iff.2 hreads, Bool.false_eq_true, Bool.not_false, if_false, if_true]
  rfl

theorem descriptorFetchDone_taken (hup : d.ringUp dom ring = true) (hserves : d.serves = true) (hadmits : d.admits dom = true) :
    descriptorFetchDone dom ring true desc data aux st d = issueFetch dom ring (take
      { dom := dom, ring := ring, tag := BitVec.ofNat 32 (leAt desc 4 4), crc := crc32c desc, op := leAt desc 0 2 }
      (decodeDesc dom ring desc data aux st)
      (ringPut dom ring (.dump []) (d.onRing dom ring (fun r => { r with
        devIndex := r.devIndex + 1, fetched := r.fetched + 1, fetch := .none })))) := by
  simp only [descriptorFetchDone, Option.isNone_eq_false_iff.2 hreads, hup, hserves, hadmits, Bool.not_true, Bool.or_self,
    Bool.false_eq_true, if_false]

end Descriptor

theorem pollRows : Claims.PollRows := by
  intro s dom
  refine ⟨fun hint hpoll hout bus hx hdom => ?poll, fun h => idles_of_eq (exec_doorbellPoll ..) (doorbellPoll_idle h),
    fun recs hwake hout hwalk hpoll => does_of_eq (exec_doorbellRecordRead ..) ?records,
    fun recs hwake hout => idles_of_eq (exec_doorbellRecordRead ..) ?noPoll,
    fun x ring hup hring hdom => ⟨fun hbad => takeRecord_invalid hup hbad, fun hok hfits => ?moves, fun hok hover => ?overrun⟩,
    fun ring desc data aux st hreads => ⟨fun hup hserves hadmits => ?fetched, ?lost⟩⟩
  case poll =>
    let e := advanceTo ((s.dev.dom dom).lastPoll + nsTicks (s.dev.page dom).interval) s.dev
    have hlater : OnlyParts [.time, .cnt] s.dev e := .advanceTo
    have hpage : e.page dom = s.dev.page dom := congrArg Dom.page (hlater.dom dom)
    have hlaterX : xlat e dom (e.page dom).dbrec false = .ok bus := advanceTo_xlat.trans (hpage.symm ▸ hx)
    have hrun : doorbellPoll dom s.dev = pollNow dom e := doorbellPoll_due hint hpoll hout
    have hparts : OnlyParts (.time :: ringParts) s.dev (pollNow dom e) := hrun ▸ OnlyParts.doorbellPoll
    have hdom' := pollNow_dom hlaterX (hlater .host (by decide) ▸ hdom)
    have hclock : (pollNow dom e).now = e.now := congrArg TimeSt.tclk (OnlyParts.pollNow .time (by decide))
    exact ⟨_, exec_of_eq (exec_doorbellPoll ..) hrun, hparts.mono,
      (pollNow_wire hlaterX).trans (congrArg _ (hlater .wire (by decide))), congrArg Dom.pollOut hdom',
      (congrArg Dom.lastPoll hdom').trans hclock.symm, hclock.trans (advanceTo_now ..)⟩
  case records =>
    simp only [hwake]
    exact recordRead_takes hout hwalk hpoll
  case noPoll =>
    simp only [hwake]
    exact recordRead_none hout
  case moves => exact (congrArg (fun d => d.ring dom ring) (takeRecord_moves hup hok hfits)).trans (onRing_ring hdom hring)
  case overrun =>
    rw [takeRecord_overrun hup hok hover]
    exact ⟨ringError_stopped hdom hring, ringError_ringErr hdom⟩
  case fetched => exact does_of_eq (exec_descriptorFetchDone ..) (descriptorFetchDone_taken hreads hup hserves hadmits)
  case lost => exact does_of_eq (exec_descriptorFetchDone ..) (descriptorFetchDone_lost hreads)

/-- Settles O28: an interrupt by its vector and its source, a poll by what it finds, a record by its ring and epoch. -/
theorem interruptsAndPolls : Obligations.InterruptsAndPolls := ⟨interruptRows, pollRows⟩

end Sys2Proof.Machine

namespace Sys2Proof.Machine

-- One proof at a time: the threads of many at once need more memory than the check allows.
set_option Elab.async false

/-! ### Fields written into a run of bytes and read back (00 R5, 14 R429) -/

theorem putBytes_length {b v : Bytes} {off : Nat} (h : off + v.length ≤ b.length) : (putBytes b off v).length = b.length := by
  simp only [putBytes, List.length_append, List.length_take, List.length_drop]
  omega

/-- Byte `i` of a run that is read, past the end zero. -/
theorem getElem?_bytesAt {b : Bytes} {off len i : Nat} (h : off + len ≤ b.length) (hi : i < len) :
    (bytesAt b off len)[i]? = b[off + i]? := by
  have ht : i < ((b.drop off).take len).length := by simp only [List.length_take, List.length_drop]; omega
  simp only [bytesAt, List.getElem?_append_left ht, List.getElem?_take_of_lt hi, List.getElem?_drop]

/-- Byte `j` after a run has been put, inside the run and outside it. -/
theorem getElem?_putBytes {b v : Bytes} {off j : Nat} (h : off + v.length ≤ b.length) :
    (putBytes b off v)[j]? = if off ≤ j ∧ j < off + v.length then v[j - off]? else b[j]? := by
  have htake : (b.take off).length = off := by simp only [List.length_take]; omega
  rw [putBytes, List.append_assoc]
  rcases Nat.lt_or_ge j off with hj | hj
  · rw [List.getElem?_append_left (by omega), List.getElem?_take_of_lt hj, if_neg (by omega)]
  · rw [List.getElem?_append_right (by omega), htake]
    rcases Nat.lt_or_ge j (off + v.length) with hv | hv
    · rw [List.getElem?_append_left (by omega), if_pos ⟨hj, hv⟩]
    · rw [List.getElem?_append_right (by omega), if_neg (by omega), List.getElem?_drop]
      congr 1
      omega

theorem bytesAt_putBytes_same {b v : Bytes} {off : Nat} (h : off + v.length ≤ b.length) :
    bytesAt (putBytes b off v) off v.length = v := by
  refine List.ext_getElem? fun i => ?_
  rcases Nat.lt_or_ge i v.length with hi | hi
  · rw [getElem?_bytesAt (by rwa [putBytes_length h]) hi, getElem?_putBytes h, if_pos (by omega), Nat.add_sub_cancel_left]
  · rw [List.getElem?_eq_none (by simpa using hi), List.getElem?_eq_none hi]

theorem bytesAt_putBytes_apart {b v : Bytes} {off o n : Nat} (h : off + v.length ≤ b.length) (hn : o + n ≤ b.length)
    (ha : o + n ≤ off ∨ off + v.length ≤ o) : bytesAt (putBytes b off v) o n = bytesAt b o n := by
  refine List.ext_getElem? fun i => ?_
  rcases Nat.lt_or_ge i n with hi | hi
  · rw [getElem?_bytesAt (by rwa [putBytes_length h]) hi, getElem?_bytesAt hn hi, getElem?_putBytes h, if_neg (by omega)]
  · rw [List.getElem?_eq_none (by simpa using hi), List.getElem?_eq_none (by simpa using hi)]

/-- The network order is the little-endian order of the bytes reversed. -/
theorem beNat_reverse (b : Bytes) : beNat b.reverse = leNat b := by
  induction b with
  | nil => rfl
  | cons x b ih =>
    simp only [beNat] at ih
    simp only [beNat, List.reverse_cons, List.foldl_append, List.foldl_cons, List.foldl_nil, ih, leNat]
    omega

theorem beNat_beBytes (n k : Nat) : beNat (beBytes n k) = n % 256 ^ k := by
  rw [beBytes, beNat_reverse, leNat_leBytes]

/-- Two fields share no byte. -/
abbrev FieldsApart (f g : Field) : Prop := f.1 + f.2.1 ≤ g.1 ∨ g.1 + g.2.1 ≤ f.1

/-- The bytes of a field lie inside a run of `n`. -/
abbrev FieldWithin (n : Nat) (f : Field) : Prop := f.1 + f.2.1 ≤ n

/-- A value has no more bits than its field. -/
abbrev FieldHolds (f : Field) (v : Nat) : Prop := v < 256 ^ f.2.1

/-- Fields of a descriptor that share no byte. -/
abbrev Laid (fs : List Field) : Prop := (∀ f ∈ fs, FieldWithin 64 f) ∧ fs.Pairwise FieldsApart

section Fields

variable {b : Bytes} {f g : Field} {v : Nat}

/-- The bytes that a value has in a field. -/
theorem fieldBytes_length (f : Field) (v : Nat) :
    (if f.2.2 = true then beBytes v f.2.1 else leBytes v f.2.1).length = f.2.1 := by
  split
  · exact beBytes_length ..
  · exact leBytes_length ..

theorem writeField_length (h : FieldWithin b.length f) : (writeField b (f, v)).length = b.length :=
  putBytes_length (by rw [fieldBytes_length]; exact h)

theorem readField_writeField_same (h : FieldWithin b.length f) (hv : FieldHolds f v) : readField (writeField b (f, v)) f = v := by
  have hsame := bytesAt_putBytes_same (b := b) (off := f.1) (v := if f.2.2 = true then beBytes v f.2.1 else leBytes v f.2.1)
    (by rw [fieldBytes_length]; exact h)
  rw [fieldBytes_length] at hsame
  simp only [readField, writeField, beAt, leAt, hsame]
  split
  · rw [beNat_beBytes, Nat.mod_eq_of_lt hv]
  · rw [leNat_leBytes, Nat.mod_eq_of_lt hv]

theorem readField_writeField_apart (hf : FieldWithin b.length f) (hg : FieldWithin b.length g) (ha : FieldsApart f g) :
    readField (writeField b (f, v)) g = readField b g := by
  have hapart := bytesAt_putBytes_apart (b := b) (off := f.1) (o := g.1) (n := g.2.1)
    (v := if f.2.2 = true then beBytes v f.2.1 else leBytes v f.2.1) (by rw [fieldBytes_length]; exact hf) hg
    (by rw [fieldBytes_length]; exact ha.symm)
  simp only [readField, writeField, beAt, leAt, hapart]

end Fields

/-- Writing fields keeps the length. -/
theorem foldl_writeField_length {b : Bytes} {l : List (Field × Nat)} (h : ∀ x ∈ l, FieldWithin b.length x.1) :
    (l.foldl writeField b).length = b.length := by
  induction l generalizing b with
  | nil => rfl
  | cons x l ih =>
    have hx : (writeField b x).length = b.length := writeField_length (h x (by simp))
    rw [List.foldl_cons, ih (fun y hy => by rw [hx]; exact h y (by simp [hy])), hx]

/-- A field is left alone by the fields apart from it. -/
theorem readField_foldl_apart {b : Bytes} {g : Field} {l : List (Field × Nat)} (hg : FieldWithin b.length g)
    (h : ∀ x ∈ l, FieldWithin b.length x.1) (ha : ∀ x ∈ l, FieldsApart g x.1) : readField (l.foldl writeField b) g = readField b g := by
  induction l generalizing b with
  | nil => rfl
  | cons x l ih =>
    have hx : (writeField b x).length = b.length := writeField_length (h x (by simp))
    rw [List.foldl_cons, ih (by rwa [hx]) (fun y hy => by rw [hx]; exact h y (by simp [hy])) (fun y hy => ha y (by simp [hy]))]
    exact readField_writeField_apart (h x (by simp)) hg (ha x (by simp)).symm

theorem fst_mem_of_mem_zip {α β : Type} {l : List α} {m : List β} {x : α × β} (h : x ∈ l.zip m) : x.1 ∈ l :=
  (List.of_mem_zip h).1

/-- Values that fit fields that share no byte are read back from what they are written into. -/
theorem readFields_foldl {fs : List Field} {vs : List Nat} (hv : List.Forall₂ FieldHolds fs vs) {b : Bytes}
    (hw : ∀ f ∈ fs, FieldWithin b.length f) (ha : fs.Pairwise FieldsApart) :
    fs.map (readField ((fs.zip vs).foldl writeField b)) = vs := by
  induction hv generalizing b with
  | nil => rfl
  | @cons f v fs vs hv _ ih =>
    obtain ⟨hf, ha⟩ := List.pairwise_cons.1 ha
    have hwf : FieldWithin b.length f := hw f (by simp)
    have hlen : (writeField b (f, v)).length = b.length := writeField_length hwf
    have hrest : ∀ g ∈ fs, FieldWithin (writeField b (f, v)).length g := fun g hg => by rw [hlen]; exact hw g (by simp [hg])
    rw [List.zip_cons_cons, List.foldl_cons, List.map_cons, ih hrest ha,
      readField_foldl_apart (by rwa [hlen]) (fun x hx => hrest _ (fst_mem_of_mem_zip hx)) (fun x hx => hf _ (fst_mem_of_mem_zip hx)),
      readField_writeField_same hwf hv]

theorem writeDesc_length {fs : List Field} (h : Laid fs) (vs : List Nat) : (writeDesc fs vs).length = 64 := by
  rw [writeDesc, foldl_writeField_length] <;> rw [zeros_length]
  exact fun x hx => h.1 _ (fst_mem_of_mem_zip hx)

theorem readFields_writeDesc {fs : List Field} {vs : List Nat} (h : Laid fs) (hv : List.Forall₂ FieldHolds fs vs) :
    fs.map (readField (writeDesc fs vs)) = vs :=
  readFields_foldl hv (by rw [zeros_length]; exact h.1) h.2

/-! ### The rows of the descriptor table -/

theorem descTable_laid : ∀ r ∈ descTable, r.op < 2 ^ 16 ∧ Laid (headFields ++ r.fields) := by
  decide +kernel

theorem descRow_mem {op kind : Nat} {r : DescRow} (h : descRow op kind = some r) : r ∈ descTable := List.mem_of_find?_eq_some h


/-- A host command, its header, and the row of the descriptor table, FLAGS and operand values that spell it. -/
structure SpelledBy (i : Instr) (h : Hdr) (r : DescRow) (flags : Nat) (vs : List Nat) : Prop where
  spell : i.spell = some (h, r.op, flags, vs)
  row : descRow r.op (vs.headD 0) = some r
  rowRead : ∀ b, r.fields.map (readField b) = vs → descRow r.op (leAt b 8 1) = some r
  flagsFit : flags < 2 ^ 16
  valsFit : List.Forall₂ FieldHolds r.fields vs
  made : r.make { h := h, flags := flags, vals := vs, data := (carried i).1, aux := (carried i).2.1, state := (carried i).2.2 } = i

namespace SpelledBy

variable {i : Instr} {h : Hdr} {r : DescRow} {flags : Nat} {vs : List Nat}

theorem laid (s : SpelledBy i h r flags vs) : Laid (headFields ++ r.fields) := (descTable_laid r (descRow_mem s.row)).2

theorem encode (s : SpelledBy i h r flags vs) :
    encodeDesc i = some (writeDesc (headFields ++ r.fields) (r.op :: flags :: h.tag.toNat :: vs)) := by
  simp only [encodeDesc, s.spell, s.row, Option.map_some]

/-- The descriptor of a command reads back as its opcode, FLAGS, tag and operand values. -/
theorem reads (s : SpelledBy i h r flags vs) {desc : Bytes} (he : encodeDesc i = some desc) :
    leAt desc 0 2 = r.op ∧ leAt desc 2 2 = flags ∧ leAt desc 4 4 = h.tag.toNat ∧ r.fields.map (readField desc) = vs := by
  have hop : r.op < 2 ^ 16 := (descTable_laid r (descRow_mem s.row)).1
  have hfit : List.Forall₂ FieldHolds (headFields ++ r.fields) (r.op :: flags :: h.tag.toNat :: vs) :=
    .cons hop (.cons s.flagsFit (.cons h.tag.isLt s.valsFit))
  have hdesc := Option.some.inj (he.symm.trans s.encode)
  have hread := readFields_writeDesc s.laid hfit
  rw [← hdesc] at hread
  simpa [headFields, readField] using hread

/-- A descriptor is decoded into the command that spells it. -/
theorem decode_encode (s : SpelledBy i h r flags vs) {desc : Bytes} (he : encodeDesc i = some desc) (hb : h.bad = false)
    (hc : h.crc = crc32c desc) : decodeDesc h.dom h.ring desc (carried i).1 (carried i).2.1 (carried i).2.2 = some i := by
  obtain ⟨hop, hflags, htag, hvals⟩ := s.reads he
  have hh : ({ dom := h.dom, ring := h.ring, tag := BitVec.ofNat 32 h.tag.toNat, crc := crc32c desc, bad := false } : Hdr) = h := by
    rw [BitVec.ofNat_toNat, BitVec.setWidth_eq, ← hc, ← hb]
  simp only [decodeDesc, hop, hflags, htag, hvals, hh, s.rowRead desc hvals, s.made, he, if_true]

end SpelledBy

/-! ### Operands made again from the values that spell them -/

theorem b2n_lt_two (b : Bool) : b2n b < 2 := Nat.lt_succ_of_le (b2n_le_one b)

theorem testBit_two_flags (a b : Bool) (n : Nat) :
    (b2n a + 2 * b2n b + 4 * n).testBit 0 = a ∧ (b2n a + 2 * b2n b + 4 * n).testBit 1 = b ∧
      (b2n a + 2 * b2n b + 4 * n).testBit 2 = n.testBit 0 ∧ (b2n a + 2 * b2n b + 4 * n).testBit 3 = n.testBit 1 ∧
      (b2n a + 2 * b2n b + 4 * n) / 4 = n := by
  have hdiv : (b2n a + 2 * b2n b + 4 * n) / 4 = n := by
    have ha := b2n_le_one a
    have hb := b2n_le_one b
    omega
  refine ⟨?_, ?_, ?_, ?_, hdiv⟩
  · cases a <;> cases b <;> simp [b2n, Nat.testBit_zero] <;> omega
  · cases a <;> cases b <;> simp [b2n, Nat.testBit_succ, Nat.testBit_zero] <;> omega
  · rw [show (2 : Nat) = 0 + 2 from rfl, Nat.testBit_add, show (2 ^ 2 : Nat) = 4 from rfl, hdiv]
  · rw [show (3 : Nat) = 1 + 2 from rfl, Nat.testBit_add, show (2 ^ 2 : Nat) = 4 from rfl, hdiv]

theorem testBit_flags_zero (a b : Bool) : (b2n a + 2 * b2n b).testBit 0 = a := (testBit_two_flags a b 0).1

theorem testBit_flags_one (a b : Bool) : (b2n a + 2 * b2n b).testBit 1 = b := (testBit_two_flags a b 0).2.1

/-- The first bytes of a number do not depend on how many are written. -/
theorem take_leBytes {k m : Nat} (n : Nat) (h : k ≤ m) : (leBytes n m).take k = leBytes n k := by
  induction k generalizing n m with
  | zero => rfl
  | succ k ih =>
    obtain ⟨m, rfl⟩ := Nat.exists_eq_add_of_le' (Nat.lt_of_lt_of_le (Nat.succ_pos k) h)
    simp only [leBytes, List.take_succ_cons, ih (n / 256) (Nat.le_of_succ_le_succ h)]

theorem leNat_lt (b : Bytes) : leNat b < 256 ^ b.length := by
  have h := leNat_leBytes (leNat b) b.length
  rw [leBytes_leNat] at h
  rw [h]
  exact Nat.mod_lt _ (Nat.pow_pos (by decide))

theorem leNat_lt_of_length {b : Bytes} {n : Nat} (h : b.length ≤ n) : leNat b < 256 ^ n :=
  Nat.lt_of_lt_of_le (leNat_lt b) (Nat.pow_le_pow_right (by decide) h)

theorem leBytes_leNat_length {b : Bytes} {n : Nat} (h : b.length = n) : leBytes (leNat b) n = b := h ▸ leBytes_leNat b

theorem toSigned_ofSigned {z : Int} (h : signed16 z = true) : toSigned 16 (ofSigned 16 z) = z := by
  simp only [signed16, Bool.and_eq_true, decide_eq_true_eq] at h
  have hval : ((ofSigned 16 z : Nat) : Int) = z % 2 ^ 16 := Int.toNat_of_nonneg (by omega)
  simp only [toSigned]
  split <;> omega

theorem ofSigned_lt (z : Int) : ofSigned 16 z < 256 ^ 2 := by
  simp only [ofSigned]
  omega

theorem stageOps_vals {o : StageOps} (hw : o.wf = true) (h : Hdr) :
    stageOps { h := h, flags := 0, vals := stageVals o, data := o.image, aux := [], state := [] } = o := by
  obtain ⟨index, action, isInline, force, length, iova, image⟩ := o
  simp only [StageOps.wf, Bool.and_eq_true, decide_eq_true_eq, Bool.or_eq_true, Bool.not_eq_true'] at hw
  obtain ⟨⟨-, rfl⟩, hinline⟩ := hw
  cases isInline with
  | false =>
    simp only [stageOps, DescIn.v, stageVals, List.getD_cons_zero, List.getD_cons_succ, testBit_flags_zero, testBit_flags_one,
      Bool.false_eq_true, if_false, List.take_length]
  | true =>
    have hlen : image.length ≤ 40 := by simpa using hinline
    simp only [stageOps, DescIn.v, stageVals, List.getD_cons_zero, List.getD_cons_succ, testBit_flags_zero, testBit_flags_one,
      if_true, take_leBytes _ hlen, leBytes_leNat]

theorem stageVals_fit {o : StageOps} (hw : o.wf = true) : List.Forall₂ FieldHolds stageFields (stageVals o) := by
  obtain ⟨index, action, isInline, force, length, iova, image⟩ := o
  simp only [StageOps.wf, fits, Bool.and_eq_true, decide_eq_true_eq, Bool.or_eq_true, Bool.not_eq_true'] at hw
  obtain ⟨⟨⟨⟨⟨hindex, haction⟩, hlength⟩, hiova⟩, himage⟩, hinline⟩ := hw
  have hflags : b2n isInline + 2 * b2n force < 256 ^ 1 := by
    have h1 := b2n_le_one isInline
    have h2 := b2n_le_one force
    omega
  have hbytes : (if isInline = true then leNat image else 0) < 256 ^ 40 := by
    split
    · rename_i hi
      exact leNat_lt_of_length (by rw [himage]; exact hinline.resolve_left (by simp [hi]))
    · exact Nat.pow_pos (by decide)
  exact .cons hindex (.cons haction (.cons hflags (.cons hlength (.cons hiova (.cons hbytes .nil)))))

/-- A `STAGE_*` command is spelled by the row of its opcode. -/
theorem SpelledBy.stage {op : Nat} {f : Hdr → StageOps → Instr} {h : Hdr} {o : StageOps} (hw : o.wf = true)
    (hs : (f h o).spell = some (h, op, 0, stageVals o)) (hr : ∀ k, descRow op k = some (stageRow op f))
    (hc : carried (f h o) = (o.image, [], [])) : SpelledBy (f h o) h (stageRow op f) 0 (stageVals o) where
  spell := hs
  row := hr _
  rowRead _ _ := hr _
  flagsFit := by decide
  valsFit := stageVals_fit hw
  made := by simp only [stageRow, hc, stageOps_vals hw]

theorem lkFlags_testBit (j : LkJob) : (lkFlags j).testBit 0 = j.dir ∧ (lkFlags j).testBit 1 = j.cont ∧
    (lkFlags j).testBit 2 = j.more ∧ (lkFlags j).testBit 3 = j.fence ∧ lkFlags j < 2 ^ 16 := by
  have hsplit : lkFlags j = b2n j.dir + 2 * b2n j.cont + 4 * (b2n j.more + 2 * b2n j.fence) := by
    simp only [lkFlags]
    omega
  have hlt : lkFlags j < 2 ^ 16 := by
    have h1 := b2n_le_one j.dir
    have h2 := b2n_le_one j.cont
    have h3 := b2n_le_one j.more
    have h4 := b2n_le_one j.fence
    simp only [lkFlags]
    omega
  obtain ⟨h0, h1, h2, h3, -⟩ := testBit_two_flags j.dir j.cont (b2n j.more + 2 * b2n j.fence)
  rw [hsplit] at hlt ⊢
  exact ⟨h0, h1, h2.trans (testBit_flags_zero _ _), h3.trans (testBit_flags_one _ _), hlt⟩

theorem lkJob_vals {j : LkJob} (hw : j.wf = true) (h : Hdr) :
    lkJob { h := h, flags := lkFlags j, vals := lkVals j, data := j.srcData, aux := j.auxData, state := j.stateData } = j := by
  simp only [LkJob.wf, Bool.and_eq_true, decide_eq_true_eq] at hw
  obtain ⟨-, hiv⟩ := hw
  obtain ⟨h0, h1, h2, h3, -⟩ := lkFlags_testBit j
  simp only [lkJob, DescIn.v, lkVals, h0, h1, h2, h3, List.getD_cons_zero, List.getD_cons_succ, leBytes_leNat_length hiv]

theorem lkVals_fit {j : LkJob} (hw : j.wf = true) : List.Forall₂ FieldHolds lkFields (lkVals j) := by
  simp only [LkJob.wf, fits, Bool.and_eq_true, decide_eq_true_eq] at hw
  obtain ⟨⟨⟨⟨⟨⟨⟨⟨⟨hhandle, hparamA⟩, hlength⟩, hsrc⟩, hdst⟩, haux⟩, hauxLen⟩, hstate⟩, hparamB⟩, hiv⟩ := hw
  exact .cons hhandle (.cons hparamA (.cons hlength (.cons hsrc (.cons hdst (.cons haux (.cons hauxLen (.cons hstate
    (.cons hparamB (.cons (leNat_lt_of_length (Nat.le_of_eq hiv)) .nil)))))))))

/-- A lookaside job is spelled by the row of its opcode. -/
theorem SpelledBy.look {op : Nat} {f : Hdr → LkJob → Instr} {h : Hdr} {j : LkJob} (hw : j.wf = true)
    (hs : (f h j).spell = some (h, op, lkFlags j, lkVals j)) (hr : ∀ k, descRow op k = some (lkRow op f))
    (hc : carried (f h j) = (j.srcData, j.auxData, j.stateData)) : SpelledBy (f h j) h (lkRow op f) (lkFlags j) (lkVals j) where
  spell := hs
  row := hr _
  rowRead _ _ := hr _
  flagsFit := (lkFlags_testBit j).2.2.2.2
  valsFit := lkVals_fit hw
  made := by simp only [lkRow, hc, lkJob_vals hw]


theorem keyOps_of_vals {k : KeyOps} (hw : k.wf = true) {x : DescIn} {rest : List Nat} (hv : x.vals = keyVals k ++ rest) :
    keyOps x = k := by
  simp only [KeyOps.wf, Bool.and_eq_true, decide_eq_true_eq] at hw
  obtain ⟨⟨-, howner⟩, -⟩ := hw
  simp only [keyOps, DescIn.v, hv, keyVals, List.cons_append, List.getD_cons_zero, List.getD_cons_succ, BitVec.ofNat_toNat,
    BitVec.setWidth_eq, leBytes_leNat_length howner]

theorem keyVals_fit {k : KeyOps} (hw : k.wf = true) : List.Forall₂ FieldHolds keyFields (keyVals k) := by
  simp only [KeyOps.wf, fits, Bool.and_eq_true, decide_eq_true_eq] at hw
  obtain ⟨⟨⟨⟨hhandle, hparent⟩, hslot⟩, howner⟩, hiova⟩ := hw
  exact .cons hhandle (.cons k.attr.isLt (.cons hparent (.cons hslot (.cons (leNat_lt_of_length (Nat.le_of_eq howner))
    (.cons hiova .nil)))))

theorem nextOps_vals (o : NextOps) (hs : o.select < 4) (h : Hdr) :
    nextOps { h := h, flags := 0, vals := nextVals o, data := [], aux := [], state := [] } = o := by
  obtain ⟨h0, h1, -, -, hdiv⟩ := testBit_two_flags o.allServices o.allPorts o.select
  simp only [nextOps, DescIn.v, nextVals, List.getD_cons_zero, List.getD_cons_succ, h0, h1, hdiv, Nat.mod_eq_of_lt hs]

theorem stepOps_vals (o : StepOps) (h : Hdr) :
    stepOps { h := h, flags := 0, vals := stepVals o, data := [], aux := [], state := [] } = o := by
  obtain ⟨h0, h1, h2, -⟩ := testBit_two_flags o.subtract o.force (b2n o.newInc)
  simp only [stepOps, DescIn.v, stepVals, List.getD_cons_zero, List.getD_cons_succ, h0, h1, h2, b2n_testBit_zero]

theorem b2n_fits (b : Bool) : b2n b < 256 := Nat.lt_of_lt_of_le (b2n_lt_two b) (by decide)

/-- A command without FLAGS, whose opcode has one layout, is spelled by the row of its opcode. -/
theorem SpelledBy.plain {i : Instr} {h : Hdr} {op : Nat} {r : DescRow} {vs : List Nat} (hs : i.spell = some (h, op, 0, vs))
    (hr : ∀ k, descRow op k = some r) (hop : r.op = op) (hv : List.Forall₂ FieldHolds r.fields vs)
    (hm : r.make { h := h, flags := 0, vals := vs, data := (carried i).1, aux := (carried i).2.1, state := (carried i).2.2 } = i) :
    SpelledBy i h r 0 vs where
  spell := by rw [hop]; exact hs
  row := by rw [hop]; exact hr _
  rowRead _ _ := by rw [hop]; exact hr _
  flagsFit := by decide
  valsFit := hv
  made := hm

/-- A command whose opcode has a layout for each kind, which stands in byte 8. -/
theorem SpelledBy.kinded {i : Instr} {h : Hdr} {op n : Nat} {r : DescRow} {fs : List Field} {vs : List Nat}
    (hs : i.spell = some (h, op, 0, n :: vs)) (hr : descRow op n = some r) (hop : r.op = op) (hf : r.fields = (8, 1, false) :: fs)
    (hn : n < 256) (hv : List.Forall₂ FieldHolds fs vs)
    (hm : r.make { h := h, flags := 0, vals := n :: vs, data := (carried i).1, aux := (carried i).2.1, state := (carried i).2.2 } = i) :
    SpelledBy i h r 0 (n :: vs) where
  spell := by rw [hop]; exact hs
  row := by rw [hop]; exact hr
  rowRead b hb := by
    rw [hf] at hb
    rwa [hop, show leAt b 8 1 = n from (List.cons.inj hb).1]
  flagsFit := by decide
  valsFit := by rw [hf]; exact .cons hn hv
  made := hm

theorem searchSpelled (h : Hdr) (op : SearchOp) (hw : op.wf = true) :
    ∃ h' r flags vs, SpelledBy (.tblSearch h op) h' r flags vs := by
  cases op with
  | mac s f m =>
    exact ⟨h, _, _, _, .kinded rfl rfl rfl rfl (by decide) (by simp [SearchOp.wf, fits] at hw ⊢; omega) rfl⟩
  | lpm s f a =>
    exact ⟨h, _, _, _, .kinded rfl rfl rfl rfl (by decide) (by simp [SearchOp.wf, fits] at hw ⊢; omega) rfl⟩
  | channel n =>
    exact ⟨h, _, _, _, .kinded rfl rfl rfl rfl (by decide) (by simp [SearchOp.wf, fits] at hw ⊢; omega) rfl⟩

theorem nextSpelled (h : Hdr) (o : NextOps) (hw : (Instr.tblNext h o).wf = true) :
    ∃ h' r flags vs, SpelledBy (.tblNext h o) h' r flags vs := by
  simp only [Instr.wf, fits, Bool.and_eq_true, decide_eq_true_eq] at hw
  obtain ⟨⟨⟨⟨⟨-, hcursor⟩, hservice⟩, hport⟩, hiova⟩, hselect⟩ := hw
  have hflags : b2n o.allServices + 2 * b2n o.allPorts + 4 * o.select < 256 ^ 1 := by
    have h1 := b2n_le_one o.allServices
    have h2 := b2n_le_one o.allPorts
    omega
  exact ⟨h, _, _, _, .plain rfl (fun _ => rfl) rfl (.cons hcursor (.cons hflags (.cons hservice (.cons hport (.cons hiova .nil)))))
    (congrArg (Instr.tblNext h) (nextOps_vals o hselect h))⟩

theorem stepSpelled (h : Hdr) (o : StepOps) (hw : (Instr.tbStep h o).wf = true) :
    ∃ h' r flags vs, SpelledBy (.tbStep h o) h' r flags vs := by
  simp only [Instr.wf, fits, Bool.and_eq_true, decide_eq_true_eq] at hw
  obtain ⟨⟨⟨⟨⟨⟨⟨-, htb⟩, hseconds⟩, hnanos⟩, hfraction⟩, hwhole⟩, hfrac⟩, hiova⟩ := hw
  have hflags : b2n o.subtract + 2 * b2n o.force + 4 * b2n o.newInc < 256 ^ 1 := by
    have h1 := b2n_le_one o.subtract
    have h2 := b2n_le_one o.force
    have h3 := b2n_le_one o.newInc
    omega
  exact ⟨h, _, _, _, .plain rfl (fun _ => rfl) rfl (.cons htb (.cons hflags (.cons hseconds (.cons hnanos (.cons hfraction
    (.cons hwhole (.cons hfrac (.cons hiova .nil)))))))) (congrArg (Instr.tbStep h) (stepOps_vals o h))⟩

/-- Every well-formed command of a host is spelled by a row of the table. -/
theorem spelledBy_of_wf (i : Instr) (hw : i.wf = true) (hh : i.hdr.isSome = true) : ∃ h r flags vs, SpelledBy i h r flags vs := by
  cases i with
  | stageDiscard h o | stageFret h o | stageDomainMap h o | stageQuota h o | stagePortLayout h o | stageLane h o
   | stageFaultMirror h o | stageMgmtPort h o | stageSmvGroup h o | stageParseNode h o | stageParseTrans h o
   | stageParsePattern h o | stageParsePort h o | stageRecirc h o | stagePunt h o | stageKeyProfile h o
   | stageTcam h o | stageClsPort h o | stageService h o | stageLpm h o | stageChannel h o | stageMacsecPort h o
   | stageSecy h o | stageTxSc h o | stageRxSc h o | stageSa h o | stageLlPair h o | stageBlobTable h o
   | stagePark h o | stageStampPort h o | stageTimePin h o | stageTimeGlobal h o | stageEgressPort h o
   | stageQueue h o | stageGateList h o | stageMeter h o | stageTrustMap h o =>
    exact ⟨h, _, _, _, .stage (Bool.and_elim_right hw) rfl (fun _ => rfl) rfl⟩
  | lkCbc h j | lkCtr h j | lkCfb h j | lkGcm h j | lkCmac h j | lkWrap h j | lkUnwrap h j | lkKdf h j | lkHash h j
   | lkVerify h j =>
    exact ⟨h, _, _, _, .look (Bool.and_elim_right hw) rfl (fun _ => rfl) rfl⟩
  | check h | cancelCommit h | standingSave h | standingClear h | fwRevert h =>
    exact ⟨h, _, _, _, .plain rfl (fun _ => rfl) rfl .nil rfl⟩
  | tblDelete h _ _ _ | keyPin h _ _ _ _ | keyUnpin h _ | keyEvict h _ | keyExport h _ _ _ _ | keyParentBind h _ _
   | keyRevoke h _ | keyDomainRoll h _ | keyStatus h _ _ | keyMgmtSet h _ _ _ _ _ _ | saInit h _ _ _ | saEnable h _
   | saDisable h _ | saSetLowestPn h _ _ | saRead h _ _ | saSmvArm h _ _ _ _ _ | saSmvCancel h _ | saSmvRead h _ _
   | saSmvStop h _ | tbInc h _ _ _ | tbRead h _ _ | cntSelect h _ _ _ | dumpConfig h _ _ | fwBegin h _ _
   | fwBlock h _ _ _ _ _ | fwVerify h _ | fwSchedule h _ _ | fwCancel h _ | fwStatus h _ | lcStatus h _
   | lcTransition h _ _ _ _ | lcSetSupervisor h _ | lcDebugScrub h _ _ _ | tamperClear h _ | tamperLogRead h _ _ _ =>
    exact ⟨h, _, _, _, .plain rfl (fun _ => rfl) rfl (by simp [Instr.wf, fits] at hw ⊢; omega) rfl⟩
  | armCommit h t z =>
    exact ⟨h, _, _, _, .plain rfl (fun _ => rfl) rfl (by simp [Instr.wf, fits, b2n_fits] at hw ⊢; omega)
      (congrArg (Instr.armCommit h t) (b2n_testBit_zero z))⟩
  | tblInsert h s f m p q z =>
    exact ⟨h, _, _, _, .plain rfl (fun _ => rfl) rfl (by simp [Instr.wf, fits, b2n_fits] at hw ⊢; omega)
      (congrArg (Instr.tblInsert h s f m p q) (b2n_testBit_zero z))⟩
  | tblSearch h op =>
    exact searchSpelled h op (Bool.and_elim_right hw)
  | tblNext h o =>
    exact nextSpelled h o hw
  | tblFlushPort h p z =>
    exact ⟨h, _, _, _, .plain rfl (fun _ => rfl) rfl (by simp [Instr.wf, fits, b2n_fits] at hw ⊢; omega)
      (congrArg (Instr.tblFlushPort h p) (b2n_testBit_zero z))⟩
  | keyGenerate h k => 
    have hk : k.wf = true := Bool.and_elim_right hw
    exact ⟨h, _, _, _, .plain rfl (fun _ => rfl) rfl (keyVals_fit hk)
      (congrArg (Instr.keyGenerate h) (keyOps_of_vals (rest := []) hk rfl))⟩
  | keyImport h k q f a l b => 
    simp only [Instr.wf, Bool.and_eq_true] at hw
    obtain ⟨⟨⟨⟨⟨-, hk⟩, hq⟩, hf⟩, ha⟩, hl⟩ := hw
    exact ⟨h, _, _, _, .plain rfl (fun _ => rfl) rfl (List.rel_append (keyVals_fit hk) (by simp [fits] at *; omega))
      (congrArg (Instr.keyImport h · q f a l b) (keyOps_of_vals hk rfl))⟩
  | keyDerive h k q a l m b => 
    simp only [Instr.wf, Bool.and_eq_true] at hw
    obtain ⟨⟨⟨⟨⟨-, hk⟩, hq⟩, ha⟩, hl⟩, hm⟩ := hw
    exact ⟨h, _, _, _, .plain rfl (fun _ => rfl) rfl (List.rel_append (keyVals_fit hk) (by simp [fits] at *; omega))
      (congrArg (Instr.keyDerive h · q a l m b) (keyOps_of_vals hk rfl))⟩
  | keyWriteClear h k z a b => 
    simp only [Instr.wf, Bool.and_eq_true] at hw
    obtain ⟨⟨-, hk⟩, ha⟩ := hw
    exact ⟨h, _, _, _, .plain rfl (fun _ => rfl) rfl (List.rel_append (keyVals_fit hk) (by simp [fits, b2n_fits] at *; omega))
      (congrArg₂ (Instr.keyWriteClear h · · a b) (keyOps_of_vals hk rfl) (b2n_testBit_zero z))⟩
  | tbStep h o =>
    exact stepSpelled h o hw
  | cntRead h n q z a =>
    exact ⟨h, _, _, _, .plain rfl (fun _ => rfl) rfl (by simp [Instr.wf, fits, b2n_fits] at hw ⊢; omega)
      (congrArg (Instr.cntRead h n q · a) (b2n_testBit_zero z))⟩
  | cntLaneRead h l z =>
    exact ⟨h, _, _, _, .plain rfl (fun _ => rfl) rfl (by simp [Instr.wf, fits, b2n_fits] at hw ⊢; omega)
      (congrArg (Instr.cntLaneRead h l) (b2n_testBit_zero z))⟩
  | tamperConfig h n q lo hi => 
    simp only [Instr.wf, fits, Bool.and_eq_true, decide_eq_true_eq] at hw
    obtain ⟨⟨⟨⟨-, halarm⟩, hcls⟩, hlo⟩, hhi⟩ := hw
    exact ⟨h, _, _, _, .plain rfl (fun _ => rfl) rfl (.cons halarm (.cons hcls (.cons (ofSigned_lt lo)
      (.cons (ofSigned_lt hi) .nil)))) (congrArg₂ (Instr.tamperConfig h n q) (toSigned_ofSigned hlo) (toSigned_ofSigned hhi))⟩
  | resume h q u w => 
    have hwhat := w.isLt
    exact ⟨h, _, _, _, .plain rfl (fun _ => rfl) rfl (by simp [Instr.wf, fits] at hw ⊢; omega)
      (congrArg (Instr.resume h q u) (by simp [DescIn.v]))⟩
  | abort h q u w => 
    have hwhat := w.isLt
    exact ⟨h, _, _, _, .plain rfl (fun _ => rfl) rfl (by simp [Instr.wf, fits] at hw ⊢; omega)
      (congrArg (Instr.abort h q u) (by simp [DescIn.v]))⟩
  | _ => exact absurd hh Bool.false_ne_true

/-- Settles O59: the values of a command stand in fields that share no byte, so the descriptor reads back as they were, and its
row makes the command again. -/
theorem descriptorRoundTrip : Obligations.DescriptorRoundTrip := by
  intro i h desc hw hh he
  obtain ⟨h', r, flags, vs, s⟩ := spelledBy_of_wf i hw (by rw [hh]; rfl)
  have hsame : h' = h := Option.some.inj (by rw [← hh, Instr.hdr, s.spell]; rfl)
  subst hsame
  refine ⟨?_, s.decode_encode he⟩
  rw [Option.some.inj (he.symm.trans s.encode)]
  exact writeDesc_length s.laid _

end Sys2Proof.Machine

namespace Sys2Proof.Machine

-- One proof at a time: the threads of many at once need more memory than the check allows.
set_option Elab.async false

/-- A row of the table makes commands that bear the header they are made with. -/
abbrev KeepsHdr (r : DescRow) : Prop := ∀ x, (r.make x).hdr = some x.h

theorem descTable_keepsHdr : ∀ r ∈ descTable, KeepsHdr r := by
  simp only [descTable, stageTable, commitTable, tblTable, keyTable, saTable, timeTable, cntTable, fwTable, lcTable, lkTable,
    List.forall_mem_append, List.forall_mem_cons, List.not_mem_nil, false_implies, implies_true, and_true]
  and_intros
  all_goals exact fun _ => rfl

theorem descRow_isSome {op : Nat} (h : descTable.any (fun r => decide (r.op = op) && r.kind.isNone) = true) (k : Nat) :
    (descRow op k).isSome = true := by
  obtain ⟨r, hr, hop⟩ := List.any_eq_true.1 h
  rw [Bool.and_eq_true] at hop
  exact List.find?_isSome.2 ⟨r, hr, by simp [hop.1, hop.2]⟩

/-- An opcode that spells a command has a row in the table. -/
theorem spell_descRow {i : Instr} {h : Hdr} {op flags : Nat} {vs : List Nat} (hs : i.spell = some (h, op, flags, vs)) :
    (descRow op (vs.headD 0)).isSome = true := by
  cases i with
  | tblSearch h op => cases op <;> cases hs <;> rfl
  | _ => cases hs <;> exact descRow_isSome (by decide +kernel) _

theorem encodeDesc_isSome (i : Instr) : (encodeDesc i).isSome = i.hdr.isSome := by
  rw [encodeDesc, Instr.hdr]
  cases hs : i.spell with
  | none => rfl
  | some x => simpa using spell_descRow hs

theorem decodeDesc_spells {dom ring : Nat} {desc x y z : Bytes} {i : Instr} (h : decodeDesc dom ring desc x y z = some i) :
    encodeDesc i = some desc ∧
      i.hdr = some { dom := dom, ring := ring, tag := BitVec.ofNat 32 (leAt desc 4 4), crc := crc32c desc, bad := false } := by
  unfold decodeDesc at h
  cases hr : descRow (leAt desc 0 2) (leAt desc 8 1) with
  | none => simp [hr] at h
  | some r =>
    simp only [hr] at h
    split at h
    · rename_i he
      rw [← Option.some.inj h]
      exact ⟨he, descTable_keepsHdr r (descRow_mem hr) _⟩
    · cases h

theorem descriptorsSpell : Claims.DescriptorsSpell := ⟨encodeDesc_isSome, fun _ _ _ _ _ _ _ => decodeDesc_spells⟩

theorem writtenDescriptors : Claims.WrittenDescriptors := by
  refine ⟨?_, ?_, ?_, ?_, ?_, ?_, ?_, ?_, ?_, ?_, ?_, fun _ _ _ => rfl, fun _ _ _ => rfl⟩ <;> decide +kernel

/-- Settles O60: encoding and decoding find the same row of the table, which makes commands that bear their header; the written
descriptors are evaluated. -/
theorem descriptorWords : Obligations.DescriptorWords := ⟨descriptorsSpell, writtenDescriptors⟩

end Sys2Proof.Machine

namespace Sys2Proof.Machine

-- One proof at a time: the threads of many at once need more memory than the check allows.
set_option Elab.async false

/-- Settles O2: what a row of the table does, it does to the device alone. -/
theorem commandsGoOn : Obligations.CommandsGoOn := by
  intro c s
  obtain ⟨f, hf⟩ := exec_onDev c s
  exact ⟨_, hf, rfl⟩

end Sys2Proof.Machine

namespace Sys2Proof.Machine

-- One proof at a time: the threads of many at once need more memory than the check allows.
set_option Elab.async false

/-! ### A command that is heard (14 R434, R437) -/

theorem cmdIn_eq {i : Instr} {h : Hdr} (hh : i.hdr = some h) (s : State) : cmdIn i s = commandOf h i.opcode s.dev := by
  simp only [cmdIn, hh, Option.getD_some]

/-- A host command is handed to the command processor. -/
theorem exec_take {i : Instr} {h : Hdr} (hh : i.hdr = some h) (s : State) :
    exec i s = .next (s.onDev (take (cmdIn i s) (if h.bad then none else some i))) := by
  rw [exec_host i s (by rw [hh]; rfl), cmdIn_eq hh]
  simp only [State.onDev, command_of i h s.dev hh]

/-- A command that is heard leaves what its taking does, after which the rings of its domain go on. -/
theorem heard_leaves {i : Instr} {h : Hdr} (hh : i.hdr = some h) {s : State} (hd : Heard s.dev (cmdIn i s)) {g : Dev → Dev}
    (hg : runCmd (if h.bad then none else some i) (cmdIn i s) s.dev = g s.dev) : Leaves i s (cmdIn i s).dom g :=
  leaves_of_eq (exec_take hh s) ((take_heard _ _ _ hd).trans (congrArg _ hg))

@[simp] theorem progEvent_host (ev slice bit n : Nat) (d : Dev) : (progEvent ev slice bit n d).host = d.host :=
  progEvent_keeps Dev.host (fun _ _ => rfl) _ _ _ _ d

@[simp] theorem progEvent_dom (ev slice bit n k : Nat) (d : Dev) : (progEvent ev slice bit n d).dom k = d.dom k := by
  simp only [Dev.dom, progEvent_host]

@[simp] theorem progEvent_ring (ev slice bit n k r : Nat) (d : Dev) : (progEvent ev slice bit n d).ring k r = d.ring k r := by
  simp only [Dev.ring, progEvent_dom]

section Duplicate

variable {oi : Option Instr} {c : Cmd} {d : Dev}

/-- A tag that the ring's history holds: the stored completion again, or a conflict. -/
theorem runCmd_inHistory (ht : c.tag ≠ 0) {x : Hist} (hx : (d.ring c.dom c.ring).history.find? (fun x => x.tag = c.tag) = some x) :
    runCmd oi c d = if x.crc = c.crc then post c { x.comp with flags := x.comp.flags ||| 1 } x.data (progEvent 0x110 2 c.dom 1 d)
      else post c (conflictOf c) [] (lkRefused c (progEvent 0x110 2 c.dom 1 d)) := by
  simp only [runCmd, if_neg ht, progEvent_ring, hx]

/-- A tag of a command in progress: it waits as a duplicate of that command, or conflicts with it. -/
theorem runCmd_inProgress (ht : c.tag ≠ 0) (hx : (d.ring c.dom c.ring).history.find? (fun x => x.tag = c.tag) = none) {p : InProg}
    (hp : (d.dom c.dom).inProg.find? (fun p => p.cmd.ring = c.ring && p.cmd.tag = c.tag) = some p) :
    runCmd oi c d = if p.cmd.crc = c.crc then (progEvent 0x110 2 c.dom 1 d).onDom c.dom (fun D => { D with
        inProg := modFirst (fun p => p.cmd.ring = c.ring && p.cmd.tag = c.tag) (fun x => { x with dups := x.dups ++ [c.port] }) D.inProg })
      else post c (conflictOf c) [] (lkRefused c (progEvent 0x110 2 c.dom 1 d)) := by
  simp only [runCmd, if_neg ht, progEvent_ring, progEvent_dom, hx, hp]

end Duplicate

/-- Settles O5: a known tag by whether the history or a command in progress has it, and by whether the two commands are equal. -/
theorem duplicateTags : Obligations.DuplicateTags := by
  intro i s h hh hd ht
  have htag : (cmdIn i s).tag ≠ 0 := by rw [cmdIn_eq hh]; exact ht
  refine ⟨fun x hx he => ?_, fun x hx he => ?_, fun hx p hp => ⟨fun he => ?_, fun he => ?_⟩⟩
  · exact heard_leaves hh hd ((runCmd_inHistory htag hx).trans (if_pos he))
  · exact heard_leaves hh hd ((runCmd_inHistory htag hx).trans (if_neg he))
  · exact heard_leaves hh hd ((runCmd_inProgress htag hx hp).trans (if_pos he))
  · exact heard_leaves hh hd ((runCmd_inProgress htag hx hp).trans (if_neg he))

/-! ### The checks before a command's own (14 R434) -/

theorem startCmd_misspelled {i : Instr} {bad : Bool} {c : Cmd} (h : bad = true ∨ isLkOp c.op ≠ decide (3 ≤ c.ring)) (d : Dev) :
    startCmd (if bad then none else some i) c d = finish c (fail eRange) (lkRefused c d) := by
  cases bad with
  | true => rfl
  | false => exact if_pos (h.resolve_left Bool.false_ne_true)

theorem startCmd_denied {i : Instr} {c : Cmd} {d : Dev} (hr : isLkOp c.op = decide (3 ≤ c.ring)) (hd : d.denies c.op i = true) :
    startCmd (some i) c d = finish c ((earlyFail i c d).getD (fail eState)) (lkRefused c d) :=
  (if_neg (not_not.2 hr)).trans (if_pos hd)

/-- Settles O6: a fresh tag enters, and the first check that fails answers. -/
theorem firstChecks : Obligations.FirstChecks := by
  intro i s h hh hd hfresh
  have hrun := runCmd_fresh (if h.bad then none else some i) _ _ hfresh
  refine ⟨fun hbad => heard_leaves hh hd (hrun.trans (startCmd_misspelled hbad _)), fun hb hr hden =>
    heard_leaves hh hd (hrun.trans ?_)⟩
  rw [hb]
  exact startCmd_denied hr ((entered_denies ..).trans hden)

/-! ### Waiting commands (13 R415, R424, 15 R459, 16 R492) -/

theorem take_unheard {c : Cmd} {oi : Option Instr} {d : Dev} (h : d.admits c.dom = false) : take c oi d = d :=
  if_pos (.inl (by rw [h]; rfl))

/-- A command that its domain may send waits, or is taken. -/
theorem take_admitted {c : Cmd} {oi : Option Instr} {d : Dev} (ha : d.admits c.dom = true)
    (hs : ¬(c.dom = dmCode ∧ isLkOp c.op = true)) : take c oi d =
      if (!d.serves || (!(decide (c.op = 0x0A01 ∨ c.op = 0x0A02) && decide (c.dom ≠ dmCode)) &&
        (d.ringBlocked c.dom c.ring || !(d.ring c.dom c.ring).waiting.isEmpty))) = true then
        d.onRing c.dom c.ring (fun r => { r with waiting := r.waiting ++ [(c, oi)] })
      else drainDom c.dom (runCmd oi c d) :=
  if_neg (not_or.2 ⟨by rw [ha]; exact Bool.false_ne_true, hs⟩)

theorem commandsWait : Claims.CommandsWait := by
  intro i s h hh
  refine ⟨fun ha => ?_, fun ha hs hserves => ?_⟩
  · simp only [exec_take hh, State.onDev, take_unheard ha]
  · simp only [exec_take hh, State.onDev, take_admitted ha hs, hserves, Bool.not_false, Bool.true_or, if_true]

theorem blockedRing : Claims.BlockedRing := by
  intro i s h hh c ha hs hserves hblocked
  have htake : exec i s = .next (s.onDev (take c (if h.bad then none else some i))) := exec_take hh s
  refine ⟨fun hwait => ?_, fun hdom hop => ?_⟩
  · have hnot : (decide (c.op = 0x0A01 ∨ c.op = 0x0A02) && decide (c.dom ≠ dmCode)) = false := by
      rcases hwait with hdm | ⟨h1, h2⟩
      · simp [hdm]
      · simp [h1, h2]
    simp only [htake, State.onDev, take_admitted ha hs, hnot, hblocked, Bool.not_false, Bool.true_or, Bool.true_and, Bool.or_true,
      if_true]
  · have hpass : (decide (c.op = 0x0A01 ∨ c.op = 0x0A02) && decide (c.dom ≠ dmCode)) = true := by simp [hdom, hop]
    simp only [Leaves, htake, State.onDev, take_admitted ha hs, hpass, hserves, Bool.not_true, Bool.false_and, Bool.or_false,
      Bool.false_eq_true, if_false]

/-- Settles O7: a command that its domain may send waits or is taken by what stands in its way. -/
theorem ringOrder : Obligations.RingOrder := ⟨commandsWait, blockedRing⟩

/-! ### Input and output of a command (14 R430) -/

/-- A domain's command that passes the checks that need no input asks for its input. -/
theorem beginCmd_reads {i : Instr} {c : Cmd} {d : Dev} {x : Nat × Nat} (hm : ¬(d.frozen = true ∧ touchesVault c.op = true))
    (hx : inputOf i c.dom d = some x) (hd : c.dom ≠ dmCode) (he : earlyFail i c d = none) : beginCmd i c d =
      workGo finishWork { instr := some i, cmd := c, todo := (pagesOf x.1 x.2).map (fun p => (p.1, p.2, false)) } d := by
  simp only [beginCmd, if_neg hm, hx, hd, he, Option.isSome_none, Bool.false_eq_true, or_self, if_false]

/-- Settles O8: a command executed at once begins by reading its input. -/
theorem inputIsRead : Obligations.InputIsRead := by
  intro i s x hnow hx hd he
  obtain ⟨⟨h, hh, hbad⟩, hacc⟩ := hnow
  have hc := cmdIn_eq hh s
  have hbegin := command_begins i h s.dev hh hbad (hc ▸ hacc)
  rw [← hc] at hbegin
  have hreads := beginCmd_reads (by rw [entered_frozen]; exact hacc.moves) hx hd he
  simp only [Leaves, exec_host i s (by rw [hh]; rfl), State.onDev, hbegin, hreads]
  rw [hc]
  rfl

theorem pagesOf_one {iova len : Nat} (h0 : len ≠ 0) (h : iova % 4096 + len ≤ 4096) : pagesOf iova len = [(iova, len)] := by
  have hn : (iova % 4096 + len + 4095) / 4096 = 1 := by omega
  have he : min (iova + len) ((iova / 4096 + 0 + 1) * 4096) - iova = len := by omega
  simp only [pagesOf, if_neg h0, hn, List.range_one, List.map_cons, List.map_nil, if_true, he]

theorem bytesAt_zero_length (b : Bytes) : bytesAt b 0 b.length = b := by simp [bytesAt]

/-- Settles O9: the work of one access goes through it and completes. -/
theorem outputBeforeCompletion : Obligations.OutputBeforeCompletion := by
  intro c r d iova data bus hd ho hne hpage hx
  have hdata : data.length ≠ 0 := fun h => hne (List.length_eq_zero_iff.1 h)
  have hdeliver : ¬(c.dom = dmCode ∨ r.outs = []) := by simp [hd, ho]
  rw [deliver, if_neg hdeliver]
  simp only [outTodo, ho, List.flatMap_cons, List.flatMap_nil, List.append_nil, pagesOf_one hdata hpage,
    List.map_cons, List.map_nil, workGo, List.length_singleton, workRun, hx, if_true, Option.map_some, Option.getD_some,
    List.flatten_cons, List.flatten_nil, bytesAt_zero_length]

end Sys2Proof.Machine

namespace Sys2Proof.Machine

-- One proof at a time: the threads of many at once need more memory than the check allows.
set_option Elab.async false

/-! ### Completions (13 R403, R404, 14 R431, R436) -/

/-- A change of a domain that keeps its page translates as before. -/
theorem onDom_xlat {k dom iova : Nat} {write : Bool} {f : Dom → Dom} {d : Dev} (hf : ∀ D, (f D).page = D.page) :
    xlat (d.onDom k f) dom iova write = xlat d dom iova write := by
  have hmode : (d.onDom k f).dtuMode dom = d.dtuMode dom := by
    rw [Dev.dtuMode, onDom_page hf]
    rfl
  rw [xlat, hmode]
  rfl

/-- A change of a domain that keeps its commands in progress. -/
theorem onDom_inProg {i k : Nat} {f : Dom → Dom} {d : Dev} (hf : ∀ D, (f D).inProg = D.inProg) :
    ((d.onDom i f).dom k).inProg = (d.dom k).inProg := by
  simp only [Dev.dom, Dev.onDom, getD_modAt]
  split
  · exact hf _
  · rfl

theorem onRing_inProg {i r k : Nat} {f : Ring → Ring} {d : Dev} : ((d.onRing i r f).dom k).inProg = (d.dom k).inProg :=
  onDom_inProg fun _ => rfl

theorem countDma_dom {dm cls n k : Nat} {d : Dev} : (countDma dm cls n d).dom k = d.dom k := OnlyParts.countDma.dom k

/-- What one write to host memory leaves of a domain. -/
theorem writeAt_dom {dm cls n a k : Nat} {o : Out} {d : Dev} : (countDma dm cls n (emit o (tlbTouch dm a d))).dom k = d.dom k :=
  countDma_dom.trans tlbTouch_dom

theorem writeAt_wire {dm cls n a : Nat} {o : Out} {d : Dev} : (countDma dm cls n (emit o (tlbTouch dm a d))).wire = o :: d.wire := by
  rw [countDma_wire, emit_wire, tlbTouch]
  split <;> rfl

theorem emitIndex_dom {dom r k : Nat} {d : Dev} : (emitIndex dom r d).dom k = d.dom k := by
  unfold emitIndex
  dsimp only
  split
  · exact writeAt_dom
  · rfl

/-- An entry that translates leaves the device at the ring's next place. -/
theorem putRingEntry_wire {dom ring bus : Nat} {e : RingEntry} {d : Dev}
    (hx : xlat d dom ((d.ring dom ring).nextAddr ring) true = .ok bus) :
    (putRingEntry dom ring e d).wire = .entry dom ring bus e :: d.wire := by
  simp only [putRingEntry, hx]
  exact writeAt_wire

theorem putRingEntry_inProg {dom ring k : Nat} {e : RingEntry} {d : Dev} :
    ((putRingEntry dom ring e d).dom k).inProg = (d.dom k).inProg := by
  unfold putRingEntry
  dsimp only
  refine onRing_inProg.trans ?_
  split
  · exact congrArg Dom.inProg writeAt_dom
  · rfl

theorem notify_inProg {dom src k : Nat} {d : Dev} : ((notify dom src d).dom k).inProg = (d.dom k).inProg := by
  obtain ⟨l, h⟩ := notify_dom (dom := dom) (src := src) (k := k) (d := d)
  rw [h]

/-- A completion that translates leaves the device, and its write leaves the commands in progress. -/
theorem ringWriteNow_completion {dom ring bus : Nat} {x : Completion} {d : Dev}
    (hx : xlat d dom ((d.ring dom ring).nextAddr ring) true = .ok bus) :
    (∃ later, (ringWriteNow dom ring (.completion x) d).wire = later ++ .entry dom ring bus (.completion x) :: d.wire) ∧
      ∀ k, ((ringWriteNow dom ring (.completion x) d).dom k).inProg = (d.dom k).inProg := by
  have hgrows : LogGrows (putRingEntry dom ring (.completion x) d) (ringWriteNow dom ring (.completion x) d) :=
    ((WritesOut.emitIndex ..).trans (WritesOut.notify ..)).grows
  obtain ⟨l, hl⟩ := hgrows
  refine ⟨⟨l, by rw [hl, putRingEntry_wire hx]⟩, fun k => ?_⟩
  exact notify_inProg.trans ((congrArg Dom.inProg emitIndex_dom).trans putRingEntry_inProg)

/-- Two devices whose page and ring of a domain translate and stand alike. -/
structure SameRing (d e : Dev) (k r : Nat) : Prop where
  page : e.page k = d.page k
  translates : ∀ iova write, xlat e k iova write = xlat d k iova write
  exists_ : e.domExists k = d.domExists k
  base : (e.ring k r).base = (d.ring k r).base
  devIndex : (e.ring k r).devIndex = (d.ring k r).devIndex
  log2 : (e.ring k r).log2 = (d.ring k r).log2
  stopped : (e.ring k r).stopped = (d.ring k r).stopped

namespace SameRing

variable {d e : Dev} {k r : Nat}

theorem trans {f : Dev} (h1 : SameRing d e k r) (h2 : SameRing e f k r) : SameRing d f k r where
  page := h2.page.trans h1.page
  translates a b := (h2.translates a b).trans (h1.translates a b)
  exists_ := h2.exists_.trans h1.exists_
  base := h2.base.trans h1.base
  devIndex := h2.devIndex.trans h1.devIndex
  log2 := h2.log2.trans h1.log2
  stopped := h2.stopped.trans h1.stopped

/-- A change of a domain that keeps its page and its rings. -/
theorem onDom {i : Nat} {f : Dom → Dom} (hp : ∀ D, (f D).page = D.page) (hr : ∀ D, (f D).rings = D.rings) :
    SameRing d (d.onDom i f) k r := by
  have hring : (d.onDom i f).ring k r = d.ring k r := by
    simp only [Dev.ring, Dev.dom, Dev.onDom, getD_modAt]
    split
    · rw [hr]
    · rfl
  exact ⟨onDom_page hp, fun _ _ => onDom_xlat hp, rfl, by rw [hring], by rw [hring], by rw [hring], by rw [hring]⟩

/-- A ring that gives back a place reserved for a completion. -/
theorem release (i j : Nat) : SameRing d (d.onRing i j (fun x => { x with reserved := x.reserved - 1 })) k r := by
  have hring : ∃ n, (d.onRing i j (fun x => { x with reserved := x.reserved - 1 })).ring k r = { d.ring k r with reserved := n } := by
    simp only [Dev.ring, Dev.dom, Dev.onRing, Dev.onDom, getD_modAt]
    split
    · simp only [getD_modAt]
      split
      · exact ⟨_, rfl⟩
      · exact ⟨_, rfl⟩
    · exact ⟨_, rfl⟩
  obtain ⟨n, hn⟩ := hring
  exact ⟨onRing_page, fun _ _ => onDom_xlat fun _ => rfl, rfl, by rw [hn], by rw [hn], by rw [hn], by rw [hn]⟩

theorem ringUp (h : SameRing d e k r) : e.ringUp k r = d.ringUp k r := by
  simp only [Dev.ringUp, h.page, h.stopped, h.exists_]

theorem nextAddr (h : SameRing d e k r) : (e.ring k r).nextAddr r = (d.ring k r).nextAddr r := by
  simp only [Ring.nextAddr, h.base, h.devIndex, h.log2]

theorem ringBlock (h : SameRing d e k r) (n : Nat) : e.ringBlock k r n = d.ringBlock k r n := by
  simp only [Dev.ringBlock, Dev.ringTouches, h.page, h.base, h.devIndex, h.log2, h.translates]

end SameRing

/-- The completion of a command as 14 R431 lays it out. -/
def Cmd.completion (c : Cmd) (r : Reply) : Completion :=
  { opcode := c.op, ring := c.ring, flags := r.flags, tag := c.tag, status := r.status, detail := r.detail, value := r.value,
    result := r.result }

/-- A command is no longer in progress. -/
def Dev.leaveProg (d : Dev) (c : Cmd) : Dev :=
  d.onDom c.dom (fun D => { D with inProg := dropFirst (fun p => p.cmd = c) D.inProg })

/-- The device as a domain's completion finds it: the command has left those in progress, and its place is given back. -/
def Dev.ending (d : Dev) (c : Cmd) : Dev := (d.leaveProg c).onRing c.dom c.ring (fun r => { r with reserved := r.reserved - 1 })

/-- A domain's command in progress, without duplicates, ends in a completion on a ring that is up. -/
theorem finish_posts {c : Cmd} {r : Reply} {d : Dev} (hhalt : d.halted = false) (hsync : d.course.resync = none) (hdom : c.dom < 32)
    (hprog : (d.dom c.dom).inProg = [{ cmd := c }]) (hup : (d.ending c).ringUp c.dom 1 = true) :
    finish c r d = recordTag c (c.completion r) [] (ringPut c.dom 1 (.completion (c.completion r)) (d.ending c)) := by
  have hdm : c.dom ≠ dmCode := Nat.ne_of_lt hdom
  have hfind : (d.dom c.dom).inProg.find? (fun p => p.cmd = c) = some { cmd := c } := by rw [hprog]; simp
  simp only [finish, hhalt, hsync, hfind, post, hdm, if_false, Bool.false_eq_true, Option.isSome_none, forEach_nil]
  exact congrArg _ (if_pos hup)

theorem recordTag_wire {c : Cmd} {x : Completion} {b : Bytes} {d : Dev} : (recordTag c x b d).wire = d.wire := by
  unfold recordTag
  split <;> rfl

theorem recordTag_inProg {c : Cmd} {x : Completion} {b : Bytes} {d : Dev} {k : Nat} :
    ((recordTag c x b d).dom k).inProg = (d.dom k).inProg := by
  unfold recordTag
  split
  · rfl
  · exact onRing_inProg

theorem completionPosted : Claims.CompletionPosted := by
  intro c r d bus hhalt hsync hdom hlen hprog hup herr hheld hblock hx
  have hsame : SameRing d (d.ending c) c.dom 1 :=
    SameRing.trans (e := d.leaveProg c) (.onDom (fun _ => rfl) fun _ => rfl) (.release ..)
  have hfin := finish_posts (r := r) hhalt hsync hdom hprog (hsame.ringUp.trans hup)
  have hnone : ((d.ending c).dom c.dom).inProg = [] := by
    refine onRing_inProg.trans ?_
    rw [Dev.leaveProg, onDom_dom hlen, hprog]
    simp [dropFirst]
  have hempty : ((d.ending c).dom c.dom).held = [] := by
    rw [← hheld]
    exact (WritesOut.trans (b := d.leaveProg c) (.dom ..) (.ring ..)).held c.dom
  have hput := ringPut_now (tag := 0) (e := .completion (c.completion r)) hempty ((congrArg Page.dtuErr hsame.page).trans herr)
    ((hsame.ringBlock 1).trans hblock)
  obtain ⟨⟨l, hl⟩, hkeeps⟩ := ringWriteNow_completion (x := c.completion r) (hx := by
    rw [hsame.translates, hsame.nextAddr]; exact hx)
  rw [hfin, hput]
  refine ⟨recordTag_inProg.trans ((hkeeps c.dom).trans hnone), l, ?_⟩
  rw [recordTag_wire, hl, List.append_assoc]
  rfl

/-- A change of a ring leaves every other ring. -/
theorem onRing_ring_other {d : Dev} {k r i j : Nat} {f : Ring → Ring} (h : (i, j) ≠ (k, r)) :
    (d.onRing k r f).ring i j = d.ring i j := by
  by_cases hi : i = k
  · subst hi
    have hj : ¬(r = j) := fun hr => h (by rw [hr])
    simp only [Dev.ring, Dev.onRing, Dev.dom, Dev.onDom, getD_modAt]
    split
    · simp only [getD_modAt, hj, false_and, if_false]
    · rfl
  · rw [Dev.ring, Dev.onRing, onDom_dom_other hi, Dev.ring]

theorem historyKeeps : Claims.HistoryKeeps := by
  intro c comp data d hdom hring
  refine ⟨fun ht => if_pos ht, fun ht => ?_⟩
  rw [recordTag, if_neg ht]
  refine ⟨?_, fun k r h => onRing_ring_other h⟩
  rw [onRing_ring hdom hring]

/-- Settles O10: the end of a command is its entry on the completion ring, and then its entry in the history. -/
theorem completionAndHistory : Obligations.CompletionAndHistory := ⟨completionPosted, historyKeeps⟩

end Sys2Proof.Machine

namespace Sys2Proof.Machine

-- One proof at a time: the threads of many at once need more memory than the check allows.
set_option Elab.async false

/-! ### The limits of DM's output (13 R423, 14 R438) -/

theorem dmLimit_exceeded {i : Instr} {d : Dev} {a : Answer} {r : Reply} (hr : a.2 = some r)
    (h : 1024 < (r.outs.map (fun o => o.2.length)).sum ∨ (onceOp i = true ∧ 128 < (r.outs.map (fun o => o.2.length)).sum)) :
    dmLimit i d a = (d, some (fail eLen)) := by
  simp only [dmLimit, hr]
  exact if_pos h

/-- Settles O13: DM's answer is replaced where its output passes a limit. -/
theorem dmOutputLimit : Obligations.DmOutputLimit := fun i _ c _ hc hd hr hlong =>
  comes_completes false i _ c hc _ _ ((if_pos hd).trans (dmLimit_exceeded hr hlong))

/-! ### Staging (14 R434, R442) -/

theorem effectOf_stage {i : Instr} {cls : Nat} {h : Hdr} {o : StageOps} (hi : stageOf i = some (cls, h, o)) (d : Dev) (c : Cmd) :
    effectOf i c d = checked (stageFails d c.dom cls o) d (fun d => answer {} (setStaging c.dom (stagedBy c.dom cls o) d)) := by
  unfold stageOf at hi
  split at hi <;> cases hi <;> rfl

theorem stagedSet : Claims.StagedSet := fun _ _ _ _ hi =>
  ⟨runs_of_checks (effectOf_stage hi) (fun _ _ hp => hp) fun _ _ _ => ⟨rfl, rfl⟩,
    fun e => runs_plain _ _ _ _ fun d c he => ⟨(effectOf_stage hi d c).trans (checked_fails _ d _ e he), rfl⟩⟩

/-- A staged object is the one that a command names. -/
def Staged.named (dom cls : Nat) (o : StageOps) (x : Staged) : Bool := x.cls = cls && x.key = stageKey dom cls o

/-- What a command that does not withdraw stages. -/
def stagedObject (dom cls : Nat) (o : StageOps) : Staged :=
  { cls := cls, key := stageKey dom cls o, idx := o.index, obj := if o.action = 0 then stageImage cls o else none, force := o.force }

section StagedBy

variable {dom cls : Nat} {o : StageOps}

theorem named_iff {x : Staged} : x.named dom cls o = true ↔ x.cls = cls ∧ x.key = stageKey dom cls o := by
  simp [Staged.named]

theorem stagedObject_named : (stagedObject dom cls o).named dom cls o = true := named_iff.2 ⟨rfl, rfl⟩

theorem stagedBy_withdraws (h : o.action = 2) (l : List Staged) : stagedBy dom cls o l = without (Staged.named dom cls o) l := if_pos h

theorem stagedBy_stages (h : o.action ≠ 2) (l : List Staged) :
    stagedBy dom cls o l = without (Staged.named dom cls o) l ++ [stagedObject dom cls o] := if_neg h

theorem mem_without {α : Type} {p : α → Bool} {l : List α} {x : α} : x ∈ without p l ↔ x ∈ l ∧ p x = false := by
  simp [without]

theorem without_without {α : Type} (p : α → Bool) (l : List α) : without p (without p l) = without p l := by
  simp [without, List.filter_filter]

/-- The objects of a set are those that the command does not name, and the one that it stages. -/
theorem mem_stagedBy {l : List Staged} {x : Staged} : x ∈ stagedBy dom cls o l ↔
    (x ∈ l ∧ x.named dom cls o = false) ∨ (o.action ≠ 2 ∧ x = stagedObject dom cls o) := by
  by_cases h : o.action = 2
  · simp [stagedBy_withdraws h, mem_without, h]
  · simp [stagedBy_stages h, mem_without, h]

theorem stagedBy_stagedBy (l : List Staged) : stagedBy dom cls o (stagedBy dom cls o l) = stagedBy dom cls o l := by
  by_cases h : o.action = 2
  · rw [stagedBy_withdraws h, stagedBy_withdraws h, without_without]
  · have hgone : without (Staged.named dom cls o) [stagedObject dom cls o] = [] := by simp [without, stagedObject_named]
    rw [stagedBy_stages h, stagedBy_stages h, without, List.filter_append, ← without, ← without, without_without, hgone,
      List.append_nil]

end StagedBy

theorem stageReplaces : Claims.StageReplaces := by
  intro dom cls o l
  refine ⟨fun x hx hcls hkey => ?_, fun ha => ⟨stagedObject dom cls o, mem_stagedBy.2 (.inr ⟨ha, rfl⟩), rfl, rfl⟩, fun x hx => ?_,
    stagedBy_stagedBy l⟩
  · rcases mem_stagedBy.1 hx with ⟨-, hother⟩ | ⟨ha, rfl⟩
    · rw [named_iff.2 ⟨hcls, hkey⟩] at hother
      cases hother
    · exact ⟨ha, rfl, rfl⟩
  · have hother : x.named dom cls o = false := Bool.eq_false_iff.2 fun h => hx (named_iff.1 h)
    rw [mem_stagedBy]
    constructor
    · rintro (⟨hl, -⟩ | ⟨-, rfl⟩)
      · exact hl
      · rw [stagedObject_named] at hother
        cases hother
    · exact fun hl => .inl ⟨hl, hother⟩

/-- Settles O14: each `STAGE_*` command by its checks, and its set by the object that the command names. -/
theorem stageCommands : Obligations.StageCommands := ⟨stagedSet, stageReplaces⟩

end Sys2Proof.Machine

namespace Sys2Proof.Machine

-- One proof at a time: the threads of many at once need more memory than the check allows.
set_option Elab.async false

/-! ### The frame of a host command fails: cipher work moves the lookaside cluster (14 R435, 10 R313) -/

/-- A device that is up, with DM as supervisor, a root and DM's DWK, an exportable key in slot 4 and a KEK in slot 2. -/
def exportingState : State := State.reset.onDev (fun d =>
  setSlot 2 (keyedSlot 32 2 5 0 true 0xFFFF 0 (zeros 32)) (setSlot 4 (keyedSlot 32 4 1 0 true 0xFFFF 0 (zeros 32))
    (((d.onPower (fun p => { p with up := true, ready := true, sup := 32 })).onCourse (fun c => { c with mode := .triple })).onKeys
      (fun k => { k with root := 1, dwk := k.dwk.set 32 (zeros 32), dwkN := k.dwkN.set 32 (invBytes (zeros 32)) }))))

/-- DM's `KEY_EXPORT` of the key of handle 4 under the KEK of handle 2. -/
def exportRow : Instr := .keyExport { dom := 32, ring := 0, tag := 0, crc := 0, bad := false } 4 2 1 0x1000

/-- The command that the row brings. -/
def exportCmd : Cmd := cmdIn exportRow exportingState

/-- The device at which the command acts. -/
def exportingDev : Dev := exportingState.dev.had false exportCmd

/-- The reply that the cipher work delivers. -/
def exportReply : Reply :=
  let out := wrapKey 1 (exportingDev.keyOf 32 2).2.keyBytes ((exportingDev.anySlot 32 4).getD (0, {})).2.keyBytes
  { value := out.length, outs := [(0x1000, out)] }

/-- The device after the row. -/
def exportLeft : Dev := drainDom 32 (carryOut exportCmd (exportingDev, some exportReply))

theorem export_accepted : Accepts exportingState.dev exportCmd exportRow where
  admitted := by decide +kernel
  serves := by decide +kernel
  served := by decide +kernel
  inTurn := .inr (by decide +kernel)
  fresh := .inl rfl
  onRing := by decide +kernel
  allowed := by decide +kernel
  moves := by decide +kernel

theorem export_comes : Comes false exportRow exportingState exportCmd :=
  ⟨⟨⟨_, rfl, rfl⟩, export_accepted⟩, rfl, .inr (.inl rfl)⟩

theorem export_completes : Completes false exportRow exportingState exportCmd exportReply id :=
  keyExport_wraps _ 4 2 1 0x1000 false exportingState exportCmd export_comes (by decide +kernel)

theorem export_noneWaits : exportingDev.noneWaits 32 := by
  unfold Dev.noneWaits
  decide +kernel

/-- The cipher work takes the next number of the lookaside cluster. -/
theorem export_takes_number : exportLeft.lk.next = 1 ∧ exportingState.dev.lk.next = 0 := by decide +kernel

/-- Refutes O56: `KEY_EXPORT` completes with OK and has no effect of its own, but its cipher work enters the lookaside cluster (10 R313),
which the frame does not name. -/
theorem not_commandFrame : ¬ Obligations.CommandFrame := by
  unfold Obligations.CommandFrame
  intro frame
  have hexec : exec (bringer false exportRow exportCmd) exportingState = .next { exportingState with dev := exportLeft } :=
    export_completes
  obtain ⟨hcompletes, -⟩ :=
    frame false exportRow exportingState exportCmd exportReply id _ [] hexec export_noneWaits OnlyParts.refl
  obtain ⟨hkeeps, -⟩ := hcompletes export_completes rfl
  have hlk : exportLeft.lk = exportingState.dev.lk := hkeeps .lk (by decide)
  obtain ⟨hleft, hwas⟩ := export_takes_number
  rw [hlk, hwas] at hleft
  cases hleft

end Sys2Proof.Machine

namespace Sys2Proof.Machine

-- One proof at a time: the threads of many at once need more memory than the check allows.
set_option Elab.async false

/-! ### Counters and dumps (18 R520 to R524, 14 R438) -/

section CntRead

variable {h : Hdr} {first count iova : Nat} {clear : Bool} {d : Dev} {c : Cmd}

/-- The bytes that `CNT_READ` writes. -/
theorem cntBytes_length (ids : List Nat) : ((ids.map (fun i => leBytes (d.cntValue i) 8)).flatten).length = 8 * ids.length := by
  induction ids with
  | nil => rfl
  | cons i ids ih => simp only [List.map_cons, List.flatten_cons, List.length_append, leBytes_length, ih, List.length_cons]; omega

/-- `CNT_READ` whose checks are passed answers the values and clears where it is told to. -/
theorem cntRead_passes (hlow : 1 ≤ count) (hhigh : count ≤ 128)
    (hown : ∀ i < count, cntOk (first + i) = true ∧ d.ownsCounter c.dom (first + i) = true) :
    effectOf (.cntRead h first count clear iova) c d =
      (if clear then forEach ((List.range count).map (first + ·)) clearCounter (scanAdvance d) else scanAdvance d,
        some { outs := [(iova, ((List.range count).map (fun i => leBytes ((scanAdvance d).cntValue (first + i)) 8)).flatten)] }) := by
  have hok : ((List.range count).map (first + ·)).all cntOk = true := by simpa using fun i hi => (hown i hi).1
  have hperm : ((List.range count).map (first + ·)).all (d.ownsCounter c.dom) = true := by simpa using fun i hi => (hown i hi).2
  have hpasses : Passes [(decide (count = 0 ∨ 128 < count) || !((List.range count).map (first + ·)).all cntOk, eRange),
      (!((List.range count).map (first + ·)).all (d.ownsCounter c.dom), ePerm)] := by
    simp only [hok, hperm, List.forall_mem_cons, Bool.not_true, Bool.or_false, decide_eq_false_iff_not, not_or]
    exact ⟨by omega, trivial, by simp⟩
  change cntReadBody c first count clear iova d = _
  simp only [cntReadBody, checked_passes _ d _ hpasses, List.map_map, Function.comp_def]

theorem cntOut_length (d : Dev) (first count : Nat) :
    (((List.range count).map (fun i => leBytes (d.cntValue (first + i)) 8)).flatten).length = 8 * count := by
  have := cntBytes_length (d := d) ((List.range count).map (first + ·))
  simpa only [List.map_map, Function.comp_def, List.length_map, List.length_range] using this

theorem cntRead_runs : Runs (.cntRead h first count clear iova)
    (fun d c => 1 ≤ count ∧ count ≤ 128 ∧ (∀ i < count, cntOk (first + i) = true ∧ d.ownsCounter c.dom (first + i) = true) ∧
      (c.dom = dmCode → clear = true → count ≤ 16))
    (fun d _ => { outs := [(iova, ((List.range count).map (fun i => leBytes ((scanAdvance d).cntValue (first + i)) 8)).flatten)] })
    (fun _ d => if clear then forEach ((List.range count).map (first + ·)) clearCounter (scanAdvance d) else scanAdvance d) := by
  refine runs_of _ _ _ _ fun d c hn => ?_
  obtain ⟨hlow, hhigh, hown, hdm⟩ := hn
  rw [answerOf, cntRead_passes hlow hhigh hown]
  split
  · next dm =>
    refine if_neg (not_or.2 ?_)
    simp only [List.map_cons, List.map_nil, List.sum_cons, List.sum_nil, cntOut_length, onceOp, Nat.add_zero]
    exact ⟨by omega, fun ⟨hclear, hlong⟩ => by have := hdm dm hclear; omega⟩
  · rfl

theorem cntRead_tooLong : Fails (.cntRead h first count true iova)
    (fun d c => 16 < count ∧ count ≤ 128 ∧ (∀ i < count, cntOk (first + i) = true ∧ d.ownsCounter c.dom (first + i) = true) ∧
      c.dom = dmCode) eLen := by
  refine runs_of _ _ _ _ fun d c hn => ?_
  obtain ⟨hlong, hhigh, hown, dm⟩ := hn
  have heffect := cntRead_passes (h := h) (iova := iova) (clear := true) (by omega) hhigh hown
  refine (if_pos dm).trans (dmLimit_exceeded (congrArg Prod.snd heffect) (.inr ⟨rfl, ?_⟩))
  simp only [List.map_cons, List.map_nil, List.sum_cons, List.sum_nil, cntOut_length]
  omega

end CntRead

theorem cntLaneRead_runs (h : Hdr) (lane : Nat) (clear : Bool) : Runs (.cntLaneRead h lane clear)
    (fun d c => lane < 32 ∧ ∃ u, (d.lane lane).use = some u ∧ quotaPort (d.quota c.dom) u.1 = true)
    (fun d _ => { result := laneRecord (d.lane lane).prbs }) (fun _ d => if clear then clearLane lane d else d) := by
  refine runs_plain _ _ _ _ fun d c hn => ⟨?_, rfl⟩
  obtain ⟨hlane, u, huse, hport⟩ := hn
  change cntLaneReadBody c lane clear d = _
  rw [cntLaneReadBody, if_neg (by omega), if_neg (by simp [huse, hport])]

section CntSelect

variable {h : Hdr} {counter event qualifier : Nat}

/-- The operands and the supervisor that `CNT_SELECT` asks for pass its checks. -/
theorem cntSelect_checked {d : Dev} {c : Cmd} (hcounter : counter ≤ 95) (hsup : c.dom = d.sup)
    (hqual : ∃ w, eventQual event (decide (64 ≤ counter)) = some w ∧ qualifier < 2 ^ w) :
    Passes [(decide (95 < counter) || (eventQual event (decide (64 ≤ counter))).all (fun w => decide (2 ^ w ≤ qualifier)), eRange),
      (decide (c.dom ≠ d.sup), ePerm)] := by
  obtain ⟨w, hw, hq⟩ := hqual
  simp only [hw, hsup, List.forall_mem_cons, Option.all_some, Bool.or_eq_false_iff, decide_eq_false_iff_not]
  exact ⟨⟨by omega, by omega⟩, by simp, by simp⟩

theorem cntSelect_again : Runs (.cntSelect h counter event qualifier)
    (fun d c => counter ≤ 95 ∧ c.dom = d.sup ∧ (∃ w, eventQual event (decide (64 ≤ counter)) = some w ∧ qualifier < 2 ^ w) ∧
      Tbl.get (0, 0) counter d.cnt.sel = (event, qualifier)) (fun _ _ => {}) (fun _ d => d) :=
  runs_of_checks (fun _ _ => rfl) (fun _ _ ⟨hcounter, hsup, hqual, _⟩ => cntSelect_checked hcounter hsup hqual)
    fun _ _ ⟨_, _, _, hsame⟩ => ⟨if_pos hsame, rfl⟩

theorem cntSelect_anew : Runs (.cntSelect h counter event qualifier)
    (fun d c => counter ≤ 95 ∧ c.dom = d.sup ∧ (∃ w, eventQual event (decide (64 ≤ counter)) = some w ∧ qualifier < 2 ^ w) ∧
      Tbl.get (0, 0) counter d.cnt.sel ≠ (event, qualifier))
    (fun _ _ => {})
    (fun _ d => (clearCounter counter d).onCnt (fun x => { x with sel := Tbl.set (0, 0) counter (event, qualifier) x.sel })) :=
  runs_of_checks (fun _ _ => rfl) (fun _ _ ⟨hcounter, hsup, hqual, _⟩ => cntSelect_checked hcounter hsup hqual)
    fun _ _ ⟨_, _, _, hother⟩ => ⟨if_neg hother, rfl⟩

end CntSelect

theorem dumpConfig_runs (h : Hdr) (period mask : Nat) :
    Runs (.dumpConfig h period mask) (fun _ c => period ≤ 1048576 ∧ c.dom ≠ dmCode) (fun _ _ => {})
      (fun c => onDump c.dom (fun x => { x with period := period, mask := mask })) :=
  runs_of_checks (fun _ _ => rfl) (fun _ _ ⟨hperiod, hdom⟩ => by simp [hperiod, hdom])
    fun _ _ ⟨hperiod, _⟩ => ⟨checked_passes _ _ _ (by simp [hperiod]), rfl⟩

theorem dumpConfig_dm (h : Hdr) (period mask : Nat) :
    Fails (.dumpConfig h period mask) (fun _ c => period ≤ 1048576 ∧ c.dom = dmCode) ePerm :=
  fails_of_checks (fun _ _ => rfl) fun _ _ ⟨hperiod, hdom⟩ => by simp [firstFail, hdom, Nat.not_lt.2 hperiod]

/-- Settles O21: each command by its checks, and `CNT_READ` by the length of what it writes. -/
theorem counterCommands : Obligations.CounterCommands := fun h _ _ _ _ lane _ _ _ period mask =>
  ⟨cntRead_runs, cntRead_tooLong, cntLaneRead_runs h lane _, cntSelect_again, cntSelect_anew, dumpConfig_runs h period mask,
    dumpConfig_dm h period mask⟩

/-! ### The widths of counters (18 R522) -/

theorem cntId_code {code inst : Nat} (hinst : inst < 2 ^ 20) : cntId code inst / 2 ^ 20 = code := by
  unfold cntId
  omega

section Widths

variable {code inst n k : Nat} {d : Dev}

/-- A counter that does not run with DCLK shows what is stored. -/
theorem cntValue_stored (h : ¬(k / 2 ^ 20 = 0x150 ∨ k / 2 ^ 20 = 0x151)) : d.cntValue k = Tbl.get 0 k d.cnt.vals := if_neg h

theorem stored_bumpBy : Tbl.get 0 k (bumpBy code inst n d).cnt.vals =
    if cntId code inst = k then min (Tbl.get 0 k d.cnt.vals + n) (2 ^ 48 - 1) else Tbl.get 0 k d.cnt.vals := by
  simp only [bumpBy, Dev.onCnt, Tbl.get_set, satAdd]
  split
  · next hk => rw [hk]
  · rfl

theorem stored_bumpWrap : Tbl.get 0 k (bumpWrap code inst n d).cnt.vals =
    if cntId code inst = k then (Tbl.get 0 k d.cnt.vals + n) % 2 ^ 48 else Tbl.get 0 k d.cnt.vals := by
  simp only [bumpWrap, Dev.onCnt, Tbl.get_set]
  split
  · next hk => rw [hk]
  · rfl

/-- A counter's value depends on the moment and on what is stored of it. -/
theorem cntValue_congr {e : Dev} (hnow : e.now = d.now) (h : Tbl.get 0 k e.cnt.vals = Tbl.get 0 k d.cnt.vals) :
    e.cntValue k = d.cntValue k := by
  simp only [Dev.cntValue, Dev.cntRunning, hnow, h]

theorem cntValue_bumpBy_other (hk : k ≠ cntId code inst) : (bumpBy code inst n d).cntValue k = d.cntValue k :=
  cntValue_congr rfl (stored_bumpBy.trans (if_neg hk.symm))

theorem cntValue_bumpWrap_other (hk : k ≠ cntId code inst) : (bumpWrap code inst n d).cntValue k = d.cntValue k :=
  cntValue_congr rfl (stored_bumpWrap.trans (if_neg hk.symm))

theorem cntValue_bumpBy (hinst : inst < 2 ^ 20) (hcode : ¬(0x150 ≤ code ∧ code ≤ 0x159)) :
    (bumpBy code inst n d).cntValue (cntId code inst) = min (d.cntValue (cntId code inst) + n) (2 ^ 48 - 1) := by
  have hstored : ¬(cntId code inst / 2 ^ 20 = 0x150 ∨ cntId code inst / 2 ^ 20 = 0x151) := by
    rw [cntId_code hinst]; omega
  rw [cntValue_stored hstored, cntValue_stored hstored, stored_bumpBy, if_pos rfl]

/-- The two counters that run with DCLK wrap with what has passed, the others as they are stored. -/
theorem cntValue_bumpWrap :
    (bumpWrap code inst n d).cntValue (cntId code inst) = (d.cntValue (cntId code inst) + n) % 2 ^ 48 := by
  have hrun : (bumpWrap code inst n d).cntRunning = d.cntRunning := rfl
  simp only [Dev.cntValue, stored_bumpWrap, if_pos, hrun]
  split
  · omega
  · rfl

end Widths

/-- Settles O22. -/
theorem counterWidths : Obligations.CounterWidths := fun _ _ _ _ _ hinst =>
  ⟨cntValue_bumpBy hinst, fun _ _ _ => cntValue_bumpWrap,
    fun _ hk => ⟨cntValue_bumpBy_other hk, cntValue_bumpWrap_other hk⟩, OnlyParts.cnt, OnlyParts.cnt⟩

end Sys2Proof.Machine

namespace Sys2Proof.Machine

-- One proof at a time: the threads of many at once need more memory than the check allows.
set_option Elab.async false

/-! ### Firmware commands (17 R506 to R511, R515, R518) -/

section Firmware

variable {h : Hdr} {slot len offset iova target : Nat} {data : Bytes} {d : Dev} {dom : Nat}

/-- A slot number and the FW grant pass the checks that every firmware command of a slot begins with. -/
theorem fwFails_passes (hslot : slot ≤ 1) (hgrant : d.grant dom 2 = true) : Passes (fwFails d dom slot) := by
  simp [fwFails, hslot, hgrant]

theorem fwChecks_pass {l : List (Bool × Nat)} (hslot : slot ≤ 1) (hgrant : d.grant dom 2 = true) (hl : Passes l) :
    Passes (fwFails d dom slot ++ l) :=
  fun x hx => (List.mem_append.1 hx).elim (fwFails_passes hslot hgrant x) (hl x)

theorem fwBegin_runs : Runs (.fwBegin h slot len)
    (fun d c => slot ≤ 1 ∧ d.grant c.dom 2 = true ∧ d.fw.run.contains slot = false ∧ (∀ a, d.fw.act = some a → a.slot ≠ slot) ∧
      d.fwVerifies slot = false ∧ imageMin ≤ len ∧ len ≤ imageMax)
    (fun _ _ => {}) (fun _ => onFwSlot slot (fun _ => { state := fwRECEIVING, len := len })) := by
  refine runs_of_checks (fun _ _ => rfl) (fun d c hn => ?_) fun _ _ _ => ⟨rfl, rfl⟩
  obtain ⟨hslot, hgrant, hrun, hact, hverifies, hmin, hmax⟩ := hn
  have hother : d.fw.act.any (fun a => decide (a.slot = slot)) = false := by
    simpa only [Option.any_eq_false, Bool.not_eq_true, decide_eq_false_iff_not] using hact
  refine fwChecks_pass hslot hgrant ?_
  simp only [hrun, hother, hverifies, List.forall_mem_cons, decide_eq_false_iff_not, Bool.or_self]
  exact ⟨trivial, by omega, by simp⟩

theorem fwBlock_begins : Begins (.fwBlock h slot offset iova len data)
    (fun d c => slot ≤ 1 ∧ d.grant c.dom 2 = true ∧ offset % blockUnit c.dom = 0 ∧
      ((d.fwSlot slot).state = fwRECEIVING ∨ (d.fwSlot slot).state = fwRECEIVED) ∧ offset < (d.fwSlot slot).len ∧
      len = min (blockUnit c.dom) ((d.fwSlot slot).len - offset))
    (fun c d => askLeave (.mram 6 c.dom) (d.onFw (fun w => { w with
      blocks := w.blocks ++ [(c, slot, offset, bytesAt data 0 len)] }))) := by
  refine begins_of _ _ _ fun d c hn => ?_
  obtain ⟨hslot, hgrant, hunit, hstate, hoffset, hlen⟩ := hn
  change fwBlockBody c slot offset len data d = _
  unfold fwBlockBody
  refine checked_passes _ d _ (fwChecks_pass hslot hgrant ?_)
  simp only [hunit, ← hlen, List.forall_mem_cons, decide_eq_false_iff_not]
  exact ⟨by simp, by tauto, by omega, by simp, by simp⟩

/-- The checks of `FW_VERIFY` before the image's own. -/
theorem fwVerify_checked (hslot : slot ≤ 1) (hgrant : d.grant dom 2 = true)
    (hstate : (d.fwSlot slot).state ∈ [fwRECEIVED, fwVERIFIED, fwREJECTED, fwFAILED]) (hidle : d.fw.verifying = none) :
    Passes (fwFails d dom slot ++ [(!([fwRECEIVED, fwVERIFIED, fwREJECTED, fwFAILED].contains (d.fwSlot slot).state), eState),
      (d.fw.verifying.isSome, eBusy)]) := by
  refine fwChecks_pass hslot hgrant ?_
  simp only [List.contains_iff_mem.2 hstate, hidle, List.forall_mem_cons]
  exact ⟨rfl, rfl, by simp⟩

theorem fwVerify_asks : Begins (.fwVerify h slot)
    (fun d c => slot ≤ 1 ∧ d.grant c.dom 2 = true ∧
      (d.fwSlot slot).state ∈ [fwRECEIVED, fwVERIFIED, fwREJECTED, fwFAILED] ∧ d.fw.verifying = none ∧
      imageFormatOk (d.fwSlot slot).image (d.fwSlot slot).len = true)
    (fun c d => pkAsk (.fw slot 2) (d.onFw (fun w => { w with verifying := some (c, slot) }))) := by
  refine begins_of _ _ _ fun d c hn => ?_
  obtain ⟨hslot, hgrant, hstate, hidle, hformat⟩ := hn
  change fwVerifyBody c slot d = _
  simp only [fwVerifyBody, checked_passes _ d _ (fwVerify_checked hslot hgrant hstate hidle), hformat]
  rfl

theorem fwVerify_rejects : Begins (.fwVerify h slot)
    (fun d c => slot ≤ 1 ∧ d.grant c.dom 2 = true ∧
      (d.fwSlot slot).state ∈ [fwRECEIVED, fwVERIFIED, fwREJECTED, fwFAILED] ∧ d.fw.verifying = none ∧
      imageFormatOk (d.fwSlot slot).image (d.fwSlot slot).len = false)
    (fun c => fwReject c slot 1 eRange) := by
  refine begins_of _ _ _ fun d c hn => ?_
  obtain ⟨hslot, hgrant, hstate, hidle, hformat⟩ := hn
  change fwVerifyBody c slot d = _
  simp only [fwVerifyBody, checked_passes _ d _ (fwVerify_checked hslot hgrant hstate hidle), hformat]
  rfl

/-- An order that holds the parse graph finds its inactive bank free. -/
theorem pgTaken_passes {o : List Nat} {f : Nat} (hpg : 4 ∈ o → d.pgTaken slot f = false) :
    (o.contains 4 && d.pgTaken slot f) = false := by
  simpa [Bool.and_eq_false_imp] using hpg

theorem fwSchedule_runs : Runs (.fwSchedule h slot target)
    (fun d c => slot ≤ 1 ∧ d.grant c.dom 2 = true ∧ (d.fwSlot slot).state = fwVERIFIED ∧ d.fw.act = none ∧
      d.fw.trialEnd = none ∧ d.sourceArmed = false ∧ d.fret.index + 2 ≤ target ∧ target ≤ d.fret.index + 16777216 ∧
      ∃ o, d.fwOrder slot = some o ∧ (4 ∈ o → d.pgTaken slot target = false))
    (fun _ _ => {})
    (fun c d =>
      let e := setFwState slot fwSCHEDULED (setActivation slot target ((d.fwOrder slot).getD []) false c.dom d)
      fwEvent slot 0 4 0 (e.fwSlot slot).version e) := by
  refine runs_plain _ _ _ _ fun d c hn => ⟨?_, rfl⟩
  obtain ⟨hslot, hgrant, hstate, hact, htrial, hsource, hlate, hrange, o, horder, hpg⟩ := hn
  change fwScheduleBody c slot target d = _
  unfold fwScheduleBody
  refine checked_passes _ d _ (fwChecks_pass hslot hgrant ?_)
  simp only [hstate, hact, htrial, hsource, horder, Option.getD_some, pgTaken_passes hpg, List.forall_mem_cons, decide_eq_false_iff_not]
  exact ⟨by simp, rfl, by omega, by omega, rfl, trivial, by simp⟩

theorem fwCancel_runs : Runs (.fwCancel h slot)
    (fun d c => slot ≤ 1 ∧ d.grant c.dom 2 = true ∧ (d.fwSlot slot).state = fwSCHEDULED ∧
      ∀ a, d.fw.act = some a → a.running = false ∧ d.fret.index + 2 ≤ a.target)
    (fun _ _ => {}) (fun _ => dropActivation) := by
  refine runs_of_checks (fun _ _ => rfl) (fun d c hn => ?_) fun _ _ _ => ⟨rfl, rfl⟩
  obtain ⟨hslot, hgrant, hstate, hact⟩ := hn
  have hwaits : d.fw.act.any (fun a => a.running || decide (a.target < d.fret.index + 2)) = false := by
    simpa only [Option.any_eq_false, Bool.not_eq_true, Bool.or_eq_false_iff, decide_eq_false_iff_not, Nat.not_lt] using hact
  refine fwChecks_pass hslot hgrant ?_
  simp only [hstate, hwaits, List.forall_mem_cons]
  exact ⟨by simp, trivial, by simp⟩

theorem fwRecord_length : (fwRecord d).length = 128 := padTo_length _ _

theorem fwStatus_runs :
    Runs (.fwStatus h iova) (fun d c => d.grant c.dom 2 = true) (fun d _ => { outs := [(iova, fwRecord d)] }) (fun _ d => d) := by
  refine runs_small _ _ _ _ fun d c hgrant => ⟨?_, by simp [fwRecord_length]⟩
  change fwStatusBody c iova d = _
  unfold fwStatusBody
  exact checked_passes _ d _ (by simp [hgrant])

theorem fwRevert_runs : Runs (.fwRevert h)
    (fun d c => d.grant c.dom 2 = true ∧ d.fw.act = none ∧ ∃ p o, d.previous = some p ∧
      (∀ ty ∈ [1, 2, 3, 4], d.fw.floors.getD (ty - 1) 0 ≤ ((d.fwSlot p).part ty).svn) ∧ d.fwOrder p = some o ∧
      (4 ∈ o → d.pgTaken p (d.fret.index + 2) = false))
    (fun _ _ => {})
    (fun c d => setActivation (d.previous.getD 0) (d.fret.index + 2) ((d.fwOrder (d.previous.getD 0)).getD []) true c.dom d) := by
  refine runs_plain _ _ _ _ fun d c hn => ⟨?_, rfl⟩
  obtain ⟨hgrant, hact, p, o, hprevious, hfloors, horder, hpg⟩ := hn
  have hraised : [1, 2, 3, 4].any (fun ty => decide (((d.fwSlot p).part ty).svn < d.fw.floors.getD (ty - 1) 0)) = false := by
    simpa only [List.any_eq_false, decide_eq_true_eq, Nat.not_lt] using hfloors
  change fwRevertBody c d = _
  unfold fwRevertBody
  refine checked_passes _ d _ ?_
  simp only [hgrant, hact, hprevious, Option.getD_some, horder, hraised, pgTaken_passes hpg, List.forall_mem_cons]
  exact ⟨rfl, rfl, rfl, rfl, trivial, by simp⟩

end Firmware

/-- Settles O23: each command by its checks. -/
theorem firmwareCommands : Obligations.FirmwareCommands := fun _ _ _ _ _ _ _ =>
  ⟨fwBegin_runs, fwBlock_begins, fwVerify_asks, fwVerify_rejects, fwSchedule_runs, fwCancel_runs, fwStatus_runs, fwRevert_runs⟩

end Sys2Proof.Machine

namespace Sys2Proof.Machine

-- One proof at a time: the threads of many at once need more memory than the check allows.
set_option Elab.async false

/-! ### The copies of the slot directory (17 R517) -/

namespace FwSt

variable (w : FwSt)

theorem written_of_current {w : FwSt} (h : w.current.dir = w.dir) : w.written = w := if_pos h

theorem written_of_changed {w : FwSt} (h : w.current.dir ≠ w.dir) :
    w.written = { w with copies := List.replicate 2 { dir := w.dir, seq := w.current.seq + 1, mark := fwMark } } := if_neg h

/-- A write changes the copies alone. -/
theorem written_copies : ∃ c, w.written = { w with copies := c } := by
  by_cases h : w.current.dir = w.dir
  · exact ⟨w.copies, written_of_current h⟩
  · exact ⟨_, written_of_changed h⟩

@[simp] theorem written_slots : w.written.slots = w.slots := by
  obtain ⟨c, hc⟩ := w.written_copies
  rw [hc]

@[simp] theorem written_run : w.written.run = w.run := by
  obtain ⟨c, hc⟩ := w.written_copies
  rw [hc]

@[simp] theorem written_floors : w.written.floors = w.floors := by
  obtain ⟨c, hc⟩ := w.written_copies
  rw [hc]

@[simp] theorem written_act : w.written.act = w.act := by
  obtain ⟨c, hc⟩ := w.written_copies
  rw [hc]

@[simp] theorem written_trialEnd : w.written.trialEnd = w.trialEnd := by
  obtain ⟨c, hc⟩ := w.written_copies
  rw [hc]

theorem written_dir : w.written.dir = w.dir := by simp [FwSt.dir]

theorem written_current_dir : w.written.current.dir = w.dir := by
  by_cases h : w.current.dir = w.dir
  · rw [written_of_current h, h]
  · rw [written_of_changed h]
    exact congrArg FwCopy.dir (if_pos ⟨rfl, .inr le_rfl⟩)

/-- What is no part of the directory may change with no write. -/
theorem written_lastCause (cause : Nat) : FwSt.written { w.written with lastCause := cause } = { w.written with lastCause := cause } :=
  written_of_current (w.written_current_dir.trans w.written_dir.symm)

end FwSt

section Directory

variable {d : Dev} {w : FwSt} {a b : FwCopy}

theorem onFw_current_dir (d : Dev) (f : FwSt → FwSt) : (d.onFw f).fw.current.dir = (f d.fw).dir := FwSt.written_current_dir _

/-- The choice between two copies. -/
theorem current_of_copies (h : w.copies = [a, b]) :
    w.current = if a.mark = fwMark ∧ (b.mark ≠ fwMark ∨ b.seq ≤ a.seq) then a else b := by
  simp only [FwSt.current, h, List.getD_cons_zero, List.getD_cons_succ]

theorem current_both (h : w.copies = [a, b]) (ha : a.mark = fwMark) (hb : b.mark = fwMark) :
    w.current = if b.seq ≤ a.seq then a else b := by
  simp [current_of_copies h, ha, hb]

theorem current_first (h : w.copies = [a, b]) (ha : a.mark = fwMark) (hb : b.mark ≠ fwMark) : w.current = a :=
  (current_of_copies h).trans (if_pos ⟨ha, .inl hb⟩)

theorem current_second (h : w.copies = [a, b]) (ha : a.mark ≠ fwMark) : w.current = b :=
  (current_of_copies h).trans (if_neg fun hboth => ha hboth.1)

/-- A slot as a start reads it. -/
theorem readDir_slot {k : Nat} (hlen : d.fw.slots.length = 2) (hk : k < 2) :
    (readDir d).fwSlot k = { d.fw.slots.getD k {} with
      state := d.fw.current.dir.states.getD k 0, len := d.fw.current.dir.lens.getD k 0 } := by
  have hbound : k < d.fw.slots.length := by omega
  simp [readDir, Dev.fwSlot, List.getD_eq_getElem?_getD, List.getElem?_eq_getElem hbound]

theorem directoryRows : Claims.DirectoryRows := by
  refine ⟨fun w => ⟨w.written_current_dir, w.written_dir, FwSt.written_of_current, fun h => ?_⟩, onFw_current_dir,
    fun w a b h => ⟨current_both h, current_first h, current_second h⟩,
    fun d hlen => ⟨?_, ?_, ?_, ?_, fun k hk => ?_⟩⟩
  · rw [FwSt.written_of_changed h, fwMark]
  · exact FwSt.written_run _
  · exact FwSt.written_floors _
  · exact FwSt.written_act _
  · exact FwSt.written_trialEnd _
  · rw [readDir_slot hlen hk]
    exact ⟨rfl, rfl⟩

end Directory

/-! ### The steps of an activation, and the end of its trial (17 R512, R514) -/

section Steps

variable {d : Dev} {w : FwSt} {a : Activation} {ty slot part state cause version : Nat}

theorem fwEvent_fw (d : Dev) : (fwEvent slot part state cause version d).fw = FwSt.written { d.fw with lastCause := cause } :=
  (OnlyParts.raise .fw (by decide)).trans (Dev.onFw_fw _ _)

/-- The event of a change that has been written. -/
theorem fwEvent_onFw (f : FwSt → FwSt) (d : Dev) :
    (fwEvent slot part state cause version (d.onFw f)).fw = { (f d.fw).written with lastCause := cause } :=
  (fwEvent_fw _).trans (FwSt.written_lastCause _ _)

theorem fwEvent_time (d : Dev) : (fwEvent slot part state cause version d).time = d.time :=
  OnlyParts.fwEvent .time (by decide)

/-- The device once a step's part runs from the new slot, before the activation may end. -/
def stepTaken (a : Activation) (ty : Nat) (d : Dev) : Dev :=
  let d := d.onFw (fun w => { w with
    act := some { a with order := a.order.drop 1, done := a.done ++ [ty], inStep := false }, run := w.run.set (ty - 1) a.slot })
  if a.revert then fwEvent a.slot ty 6 9 ((d.fwSlot a.slot).part ty).ver d
  else fwEvent a.slot ty 5 0 ((d.fwSlot a.slot).part ty).ver d

theorem stepEnds_eq (a : Activation) (ty : Nat) (d : Dev) : stepEnds a ty d =
    if a.order.drop 1 = [] then
      endActivation { a with order := a.order.drop 1, done := a.done ++ [ty], inStep := false } (stepTaken a ty d)
    else stepTaken a ty d := rfl

theorem stepTaken_fw (a : Activation) (ty : Nat) (d : Dev) : (stepTaken a ty d).fw = { FwSt.written { d.fw with
    act := some { a with order := a.order.drop 1, done := a.done ++ [ty], inStep := false }, run := d.fw.run.set (ty - 1) a.slot } with
    lastCause := if a.revert then 9 else 0 } := by
  unfold stepTaken
  cases a.revert with
  | true => exact fwEvent_onFw _ _
  | false => exact fwEvent_onFw _ _

theorem stepTaken_now (a : Activation) (ty : Nat) (d : Dev) : (stepTaken a ty d).now = d.now := by
  unfold stepTaken Dev.now
  cases a.revert <;> exact congrArg TimeSt.tclk (fwEvent_time _)

theorem endActivation_fw (a : Activation) (d : Dev) : (endActivation a d).fw = FwSt.written { FwSt.written { FwSt.written { d.fw with
      act := none, run := List.replicate 4 a.slot, trialEnd := if a.revert then none else some (d.now + trialTicks) } with
      slots := modAt d.fw.slots a.slot (fun x => { x with state := fwACTIVE }) } with
      slots := modAt (modAt d.fw.slots a.slot (fun x => { x with state := fwACTIVE })) (1 - a.slot)
        (fun x => { x with state := if a.revert then fwVERIFIED else fwPREVIOUS }) } := by
  simp only [endActivation, setFwState, onFwSlot, Dev.onFw_fw, FwSt.written_slots]

/-- What the loads of a step change beside the slots. -/
theorem lanesReload_fw (d : Dev) : (lanesReload d).fw = d.fw := by
  unfold lanesReload
  refine (OnlyParts.iter (fun _ => OnlyParts.passPlace) .fw (by decide)).trans
    (OnlyParts.forEach (ps := [.lanes]) (fun l d => ?_) .fw (by decide))
  exact .ite .refl .lanes

theorem lkFormatChange_fw (d : Dev) : (lkFormatChange d).fw = d.fw :=
  OnlyParts.forEach (ps := .keys :: .lk :: eventParts) (fun _ _ => .lkEnd) .fw (by decide)

theorem fwStepDone_fw (hact : d.fw.act = some a) (hstep : d.fwStep = some ty) (hready : d.stepReady ty = true)
    (hup : d.halted = false) : (fwStepDone d).fw = (stepEnds a ty d).fw := by
  simp only [fwStepDone, hact, hstep, hready, hup, Bool.not_true, Bool.false_eq_true, or_self, if_false]
  split
  · exact lanesReload_fw _
  · refine (OnlyParts.lkDispatch .fw (by decide)).trans ((OnlyParts.pkTake .fw (by decide)).trans ?_)
    split
    · exact lkFormatChange_fw _
    · rfl
  · rfl

/-- The last step: the slots' states, the running set and the trial. -/
theorem endActivation_state (hslot : a.slot < 2) (hlen : d.fw.slots.length = 2) :
    ((endActivation a d).fwSlot a.slot).state = fwACTIVE ∧
    ((endActivation a d).fwSlot (1 - a.slot)).state = (if a.revert then fwVERIFIED else fwPREVIOUS) := by
  have hother : 1 - a.slot ≠ a.slot := by omega
  simp only [Dev.fwSlot, endActivation_fw, FwSt.written_slots, getD_modAt, modAt_length, hlen]
  simp [hslot, hother, hother.symm, show 1 - a.slot < 2 by omega]

theorem activationSteps : Claims.ActivationSteps := by
  intro s a ty rest hact hstep horder hready hup hslot hlen
  have hdone := fwStepDone_fw hact hstep hready hup
  have hdrop : a.order.drop 1 = rest := by rw [horder, List.drop_one, List.tail_cons]
  refine ⟨rfl, fun hrest => ?_, fun hrest => ?_⟩
  · rw [hdone, stepEnds_eq, hdrop, if_neg hrest, stepTaken_fw, hdrop]
  · rw [stepEnds_eq, hdrop, if_pos hrest] at hdone
    have htaken : (stepTaken a ty s.dev).fw.slots.length = 2 := by simp [stepTaken_fw, hlen]
    obtain ⟨hnew, hold⟩ := endActivation_state (a := { a with order := rest, done := a.done ++ [ty], inStep := false }) hslot htaken
    simp only [Dev.fwSlot, hdone]
    refine ⟨?_, ?_, hnew, hold, ?_, ?_⟩
    · simp [endActivation_fw]
    · simp [endActivation_fw]
    · simp [endActivation_fw, stepTaken_now, trialTicks]
    · rw [endActivation_fw, FwSt.written_current_dir, FwSt.written_dir]

end Steps

theorem exec_fwTrialEnd (s : State) : exec .fwTrialEnd s = .next (s.onDev fwTrialEnd) := rfl

theorem fwTrialEnd_ends {d : Dev} {u : Nat} (h : d.fw.trialEnd = some u) : (fwTrialEnd d).time.tclk = max d.now u ∧
    (fwTrialEnd d).fw = { FwSt.written { d.fw with trialEnd := none, floors := [1, 2, 3, 4].map (fun ty =>
      max (d.fw.floors.getD (ty - 1) 0) (d.runPart ty).svn) } with lastCause := 0 } := by
  have hfw : (advanceTo u d).fw = d.fw := OnlyParts.advanceTo .fw (by decide)
  have hpart : (advanceTo u d).runPart = d.runPart := by
    funext ty
    simp only [Dev.runPart, Dev.runSlot, Dev.fwSlot, hfw]
  simp only [fwTrialEnd, h, fwEvent_onFw, fwEvent_time, hfw, hpart, Dev.onFw_time]
  exact ⟨advanceTo_now u d, trivial⟩

theorem trialEnd : Claims.TrialEnd := fun s =>
  ⟨fun h => idles_of_eq (exec_fwTrialEnd s) (by simp only [fwTrialEnd, h]),
    fun _ h => ⟨_, exec_fwTrialEnd s, fwTrialEnd_ends h⟩⟩

/-- Settles O39. -/
theorem firmwareRows : Obligations.FirmwareRows := ⟨activationSteps, trialEnd, directoryRows⟩

end Sys2Proof.Machine

namespace Sys2Proof.Machine

-- One proof at a time: the threads of many at once need more memory than the check allows.
set_option Elab.async false

/-! ### Life-cycle commands (16 R493 to R501) -/

section Checks

variable {l m : List (Bool × Nat)}

/-- Checks that are passed leave the decision to those behind them. -/
theorem firstFail_append (h : Passes l) : firstFail (l ++ m) = firstFail m := by
  induction l with
  | nil => rfl
  | cons x l ih =>
    obtain ⟨hx, hl⟩ := List.forall_mem_cons.1 h
    obtain ⟨b, e⟩ := x
    cases hx
    exact ih hl

/-- The status of a failing check is one of the list's. -/
theorem firstFail_mem {e : Nat} (h : firstFail l = some e) : ∃ x ∈ l, x.2 = e := by
  induction l with
  | nil => cases h
  | cons x l ih =>
    obtain ⟨b, k⟩ := x
    cases b with
    | true => exact ⟨_, List.mem_cons_self, Option.some.inj h⟩
    | false =>
      obtain ⟨x, hx, he⟩ := ih h
      exact ⟨x, List.mem_cons_of_mem _ hx, he⟩

end Checks

section LifeCycle

variable {h : Hdr} {iova target len : Nat} {data : Bytes} {d : Dev}

/-- A record that authorises nothing is refused with a status of its own. -/
theorem authFails_status {action kind e : Nat} (h : firstFail (authFails d data len action target kind) = some e) : e ≠ 0 := by
  obtain ⟨x, hx, rfl⟩ := firstFail_mem h
  simp only [authFails, List.mem_cons, List.not_mem_nil, or_false] at hx
  obtain rfl | rfl | rfl | rfl | rfl := hx
  all_goals exact Nat.succ_ne_zero _

/-- A journalled operation whose first checks are passed: the authorisation record decides. -/
theorem begins_of_auth {i : Instr} {need : Dev → Cmd → Prop} {checks : Dev → Cmd → List (Bool × Nat)}
    {op : Dev → Nat} {target action named kind : Dev → Nat}
    (he : ∀ d c, effectOf i c d = checked (checks d c ++ authFails d data len (action d) (named d) (kind d)) d (lcAccept c (op d) (target d)))
    (hp : ∀ d c, need d c → Passes (checks d c)) :
    Begins i need (fun c d => match firstFail (authFails d data len (action d) (named d) (kind d)) with
      | none => askLeave (.mram (op d) 0) (d.onTamper (fun t => { t with
          lcCmd := some c, lcPlan := some (op d, target d), lcOld := d.lc }))
      | some e => deliver finishWork c (fail e) d) := by
  refine begins_of_carried fun d c hn => ?_
  have hfirst := firstFail_append (m := authFails d data len (action d) (named d) (kind d)) (hp d c hn)
  rcases hauth : firstFail (authFails d data len (action d) (named d) (kind d)) with _ | e
  · rw [hauth] at hfirst
    simp [he, checked, hfirst, lcAccept, carryOut]
  · rw [hauth] at hfirst
    have hstatus := authFails_status hauth
    simp [he, checked, hfirst, answer, carryOut, fail, hstatus]

theorem lcStatus_runs :
    Runs (.lcStatus h iova) (fun d c => d.grant c.dom 3 = true) (fun d _ => { outs := [(iova, lcRecord d)] }) (fun _ d => d) := by
  refine runs_small _ _ _ _ fun d c hgrant => ⟨?_, by simp [lcRecord]⟩
  change lcStatusBody c iova d = _
  unfold lcStatusBody
  exact checked_passes _ d _ (by simp [hgrant])

theorem lcTransition_begins : Begins (.lcTransition h target iova len data)
    (fun d c => 1 ≤ target ∧ target ≤ 4 ∧ d.grant c.dom 3 = true ∧ d.jnlActive = false ∧
      ∃ m, d.lcMove target = some m ∧ (m.2.2 = true → ∀ b ∈ d.tamper.bits, b = false))
    (fun c d =>
      let m := (d.lcMove target).getD (1, 1, false)
      match firstFail (authFails d data len 1 target m.2.1) with
      | none => askLeave (.mram m.1 0) (d.onTamper (fun t => { t with
          lcCmd := some c, lcPlan := some (m.1, target), lcOld := d.lc }))
      | some e => deliver finishWork c (fail e) d) := by
  refine begins_of_auth (op := fun d => ((d.lcMove target).getD (1, 1, false)).1) (target := fun _ => target) (action := fun _ => 1)
    (named := fun _ => target) (kind := fun d => ((d.lcMove target).getD (1, 1, false)).2.1) (fun _ _ => rfl) fun d c hn => ?_
  obtain ⟨hlow, hhigh, hgrant, hidle, m, hmove, hbits⟩ := hn
  have hclear : (m.2.2 && d.tamper.bits.any id) = false := by simpa [Bool.and_eq_false_imp] using hbits
  simp only [hgrant, hmove, hidle, Option.getD_some, hclear, List.forall_mem_cons, decide_eq_false_iff_not]
  exact ⟨by omega, rfl, rfl, trivial, trivial, by simp⟩

theorem lcTransition_noMove : Fails (.lcTransition h target iova len data)
    (fun d c => 1 ≤ target ∧ target ≤ 4 ∧ d.grant c.dom 3 = true ∧ d.lcMove target = none) eState := by
  refine runs_plain _ _ _ _ fun d c hn => ⟨?_, rfl⟩
  obtain ⟨hlow, hhigh, hgrant, hmove⟩ := hn
  change lcTransitionBody c target len data d = _
  unfold lcTransitionBody
  refine checked_fails _ d _ _ ?_
  simp [firstFail, hgrant, hmove, Nat.not_lt.2 hlow, Nat.not_lt.2 hhigh]

theorem lcSetSupervisor_begins : Begins (.lcSetSupervisor h target)
    (fun d c => target ≤ 32 ∧ c.dom = d.sup ∧ d.lc ≠ 4 ∧ d.tamper.locked = false ∧ d.jnlActive = false ∧ d.tamper.supCmd = none)
    (fun c d => askLeave (.mram 10 0) (d.onTamper (fun t => { t with supCmd := some (c, target) }))) := by
  refine begins_of _ _ _ fun d c hn => ?_
  obtain ⟨htarget, hsup, hlc, hlocked, hidle, hnone⟩ := hn
  change lcSetSupervisorBody c target d = _
  unfold lcSetSupervisorBody
  refine checked_passes _ d _ ?_
  simp only [hsup, hlocked, hidle, hnone, List.forall_mem_cons, decide_eq_false_iff_not, Bool.or_false]
  exact ⟨by omega, by simp, hlc, rfl, by simp⟩

theorem lcDebugScrub_begins : Begins (.lcDebugScrub h iova len data)
    (fun d c => d.grant c.dom 3 = true ∧ d.lc = 3 ∧ d.tamper.locked = false ∧ d.debugOpen = false ∧ d.jnlActive = false)
    (fun c d => match firstFail (authFails d data len 2 0 2) with
      | none => askLeave (.mram 2 0) (d.onTamper (fun t => { t with lcCmd := some c, lcPlan := some (2, 3), lcOld := d.lc }))
      | some e => deliver finishWork c (fail e) d) := by
  refine begins_of_auth (op := fun _ => 2) (target := fun _ => 3) (action := fun _ => 2) (named := fun _ => 0) (kind := fun _ => 2)
    (fun _ _ => rfl) fun d c hn => ?_
  obtain ⟨hgrant, hlc, hlocked, hopen, hidle⟩ := hn
  simp [hgrant, hlc, hlocked, hopen, hidle]

theorem lifeCycleCommands : Claims.LifeCycleCommands := fun _ _ _ _ _ =>
  ⟨lcStatus_runs, lcTransition_begins, lcTransition_noMove, lcSetSupervisor_begins, lcDebugScrub_begins⟩

end LifeCycle

/-! ### Tamper commands (16 R480, R481, R488) -/

section Tamper

variable {h : Hdr} {alarm cls mask first count iova : Nat} {low high : Int}

theorem tamperConfig_runs : Runs (.tamperConfig h alarm cls low high)
    (fun d c => 2 ≤ alarm ∧ alarm ≤ 12 ∧ cls ≤ 3 ∧ levelsOk alarm low high = true ∧ d.grant c.dom 3 = true ∧ d.lc ≠ 4 ∧
      (d.lc = 3 → classFloors.getD (alarm - 2) 0 ≤ cls) ∧
      (d.tamper.bits.getD (alarm - 2) false = true → d.mram.classes.getD (alarm - 2) 0 ≤ cls))
    (fun _ _ => {})
    (fun _ d => (d.onMram (fun m => { m with
      classes := m.classes.set (alarm - 2) cls
      tempWarn := if alarm = 2 then (low, high) else m.tempWarn
      voltWarn := if alarm = 3 then (low, high) else m.voltWarn })).onVault (fun v => { v with
        bkClasses := if v.bkValid then v.bkClasses.set (alarm - 2) cls else v.bkClasses })) := by
  refine runs_plain _ _ _ _ fun d c hn => ⟨?_, rfl⟩
  obtain ⟨hlow, hhigh, hcls, hlevels, hgrant, hlc, hfloor, hset⟩ := hn
  change tamperConfigBody c alarm cls low high d = _
  unfold tamperConfigBody
  refine checked_passes _ d _ ?_
  have hraised : (d.tamper.bits.getD (alarm - 2) false && decide (cls < d.mram.classes.getD (alarm - 2) 0)) = false := by
    simpa only [Bool.and_eq_false_imp, decide_eq_false_iff_not, Nat.not_lt] using hset
  simp only [hlevels, hgrant, hraised, List.forall_mem_cons, decide_eq_false_iff_not, Bool.not_true, Bool.or_false]
  exact ⟨by omega, trivial, hlc, fun ⟨hprod, hbelow⟩ => by have := hfloor hprod; omega, trivial, by simp⟩

theorem tamperConfig_belowFloor : Fails (.tamperConfig h alarm cls low high)
    (fun d c => 2 ≤ alarm ∧ alarm ≤ 12 ∧ cls ≤ 3 ∧ levelsOk alarm low high = true ∧ d.grant c.dom 3 = true ∧ d.lc = 3 ∧
      cls < classFloors.getD (alarm - 2) 0) eRange := by
  refine runs_plain _ _ _ _ fun d c hn => ⟨?_, rfl⟩
  obtain ⟨hlow, hhigh, hcls, hlevels, hgrant, hlc, hbelow⟩ := hn
  change tamperConfigBody c alarm cls low high d = _
  unfold tamperConfigBody
  refine checked_fails _ d _ _ ?_
  have hrange : ¬(alarm < 2 ∨ 12 < alarm ∨ 3 < cls) := by omega
  simp only [firstFail, hrange, hlevels, hgrant, hlc, hbelow]
  rfl

theorem tamperClear_runs : Runs (.tamperClear h mask) (fun d c => mask < 2 ^ 11 ∧ d.grant c.dom 3 = true)
    (fun d _ => { value := (tamperClear mask d).1 }) (fun _ d => (tamperClear mask d).2) := by
  refine runs_plain _ _ _ _ fun d c hn => ⟨?_, rfl⟩
  obtain ⟨hmask, hgrant⟩ := hn
  change tamperClearBody c mask d = _
  unfold tamperClearBody
  exact checked_passes _ d _ (by simpa [hgrant] using hmask)

theorem logImage_length (e : LogEntry) : (logImage e).length = 16 := by simp [logImage]

theorem logEntries_length (d : Dev) (count : Nat) : ((List.range count).flatMap (fun i =>
    ((d.mram.log.find? (fun e => e.seq = (first + i) % 2 ^ 32)).map logImage).getD (zeros 16))).length = 16 * count := by
  have hone (i : Nat) : (((d.mram.log.find? (fun e => e.seq = (first + i) % 2 ^ 32)).map logImage).getD (zeros 16)).length = 16 := by
    cases d.mram.log.find? (fun e => e.seq = (first + i) % 2 ^ 32) with
    | none => exact zeros_length 16
    | some e => exact logImage_length e
  simp only [List.length_flatMap, hone, List.map_const', List.sum_replicate, List.length_range, smul_eq_mul]
  omega

theorem tamperLogRead_runs : Runs (.tamperLogRead h first count iova)
    (fun d c => d.grant c.dom 3 = true ∧ (c.dom = dmCode → count ≤ 64))
    (fun d _ => { outs := [(iova, (List.range count).flatMap (fun i =>
      ((d.mram.log.find? (fun e => e.seq = (first + i) % 2 ^ 32)).map logImage).getD (zeros 16)))] }) (fun _ d => d) := by
  refine runs_of _ _ _ _ fun d c hn => ?_
  obtain ⟨hgrant, hdm⟩ := hn
  have heffect : effectOf (.tamperLogRead h first count iova) c d = (d, some { outs := [(iova, (List.range count).flatMap (fun i =>
      ((d.mram.log.find? (fun e => e.seq = (first + i) % 2 ^ 32)).map logImage).getD (zeros 16)))] }) := by
    change tamperLogReadBody c first count iova d = _
    unfold tamperLogReadBody
    exact checked_passes _ d _ (by simp [hgrant])
  by_cases dm : c.dom = dmCode
  · rw [answerOf_read _ _ _ rfl, heffect]
    intro r hr
    rw [heffect] at hr
    cases hr
    have := hdm dm
    simp only [List.map_cons, List.map_nil, List.sum_cons, List.sum_nil, logEntries_length]
    omega
  · rw [answerOf_host _ _ _ dm, heffect]

theorem tamperCommands : Claims.TamperCommands := fun _ _ _ _ _ _ _ _ _ =>
  ⟨tamperConfig_runs, tamperConfig_belowFloor, tamperClear_runs, tamperLogRead_runs⟩

end Tamper

/-- Settles O24. -/
theorem lifeCycleAndTamper : Obligations.LifeCycleAndTamper := ⟨lifeCycleCommands, tamperCommands⟩

end Sys2Proof.Machine

namespace Sys2Proof.Machine

-- One proof at a time: the threads of many at once need more memory than the check allows.
set_option Elab.async false

/-! ### The power governor (19 R554 to R557) -/

section Governor

variable {s : State} {l : Leave} {g : GovSt}

theorem exec_leaveGrant (s : State) : exec .leaveGrant s = .next (s.onDev leaveGrant) := rfl

/-- The head is the first request of a priority, where no lower priority number has one. -/
theorem head_found (h : g.head = some l) : g.queue.find? (fun x => decide (x.prio = l.prio)) = some l ∧
    ∀ q < l.prio, g.queue.find? (fun x => decide (x.prio = q)) = none := by
  obtain ⟨before, p, after, hrange, hfound, hnone⟩ := List.findSome?_eq_some_iff.1 h
  have hp : l.prio = p := by simpa using List.find?_some hfound
  rw [hp]
  refine ⟨hfound, fun q hq => hnone q ?_⟩
  have hlen : before.length = p := by
    have hget := congrArg (fun r => r[before.length]?) hrange
    have hbound : before.length < 8 := by have := congrArg List.length hrange; simp at this; omega
    simpa [hbound] using hget
  have hbefore : before = List.range p := by
    have htake := congrArg (List.take before.length) hrange
    rw [List.take_left, List.take_range, hlen] at htake
    have : p < 8 := by have := congrArg List.length hrange; simp at this; omega
    rw [← htake, Nat.min_eq_left (by omega)]
  rw [hbefore]
  exact List.mem_range.2 hq

theorem head_least (h : g.head = some l) : ∀ x ∈ g.queue, l.prio ≤ x.prio := by
  intro x hx
  by_contra hless
  have := List.find?_eq_none.1 ((head_found h).2 x.prio (by omega)) x hx
  simp at this

theorem head_empty (h : g.queue = []) : g.head = none := by
  simp [GovSt.head, h]

theorem leaveGrant_empty (h : s.dev.power.gov.queue = []) : Idles .leaveGrant s :=
  idles_of_eq (exec_leaveGrant s) (by simp only [leaveGrant, head_empty h])

theorem leaveGrant_waits (hhead : s.dev.power.gov.head = some l) (hmay : s.dev.mayGrant l = false) : Idles .leaveGrant s :=
  idles_of_eq (exec_leaveGrant s) (by simp [leaveGrant, hhead, hmay])

theorem leaveGrant_grants (hhead : s.dev.power.gov.head = some l) (hmay : s.dev.mayGrant l = true) :
    Does .leaveGrant s (fun d => granted l (d.onGov (fun g => { g with
      queue := g.queue.erase l
      grants := (d.now, l.amps) :: g.grants.filter (fun x => decide (d.now < x.1 + 10000)) }))) :=
  does_of_eq (exec_leaveGrant s) (by simp only [leaveGrant, hhead, hmay]; rfl)

end Governor

/-- Settles O43. -/
theorem governorRows : Obligations.GovernorRows := fun _ =>
  ⟨leaveGrant_empty, fun _ => leaveGrant_waits, fun _ => leaveGrant_grants,
    fun _ h => ⟨head_least h, (head_found h).1⟩, fun _ => rfl⟩

end Sys2Proof.Machine

namespace Sys2Proof.Machine

-- One proof at a time: the threads of many at once need more memory than the check allows.
set_option Elab.async false

/-! ### What leaves the course as it was, but for what a resynchronisation holds -/

/-- Of the triple course, only the completions and events held for its resynchronisation may differ. -/
structure CourseHeld (d e : Dev) : Prop where
  course : e.course = { d.course with heldFin := e.course.heldFin, heldEvents := e.course.heldEvents }

namespace CourseHeld

variable {d e f : Dev}

theorem refl : CourseHeld d d := ⟨rfl⟩

theorem of_same (h : e.course = d.course) : CourseHeld d e := ⟨by rw [h]⟩

theorem of_parts {ps : List Part} (h : OnlyParts ps d e) (hp : Part.course ∉ ps := by decide) : CourseHeld d e :=
  of_same (h .course hp)

theorem of_host (h : HostSide d e) : CourseHeld d e := ⟨h.course⟩

theorem trans (h1 : CourseHeld d e) (h2 : CourseHeld e f) : CourseHeld d f := by
  refine ⟨?_⟩
  rw [h2.course, h1.course]

/-- A change that keeps the course, before one that keeps it but for what is held. -/
theorem after (h2 : CourseHeld e f) (h1 : e.course = d.course) : CourseHeld d f := (of_same h1).trans h2

theorem onCfg (g : CfgSt → CfgSt) (h : CourseHeld d e) : CourseHeld d (e.onCfg g) := h.trans (of_same rfl)

theorem ite {c : Prop} [Decidable c] (h1 : CourseHeld d e) (h2 : CourseHeld d f) : CourseHeld d (if c then e else f) := by
  split
  · exact h1
  · exact h2

theorem forEach {α : Type} {l : List α} {g : α → Dev → Dev} (h : ∀ a d, CourseHeld d (g a d)) : CourseHeld d (forEach l g d) := by
  induction l generalizing d with
  | nil => exact refl
  | cons a l ih => exact (h a d).trans ih

theorem mode (h : CourseHeld d e) : e.course.mode = d.course.mode := by rw [h.course]
theorem windows (h : CourseHeld d e) : e.course.windows = d.course.windows := by rw [h.course]
theorem resync (h : CourseHeld d e) : e.course.resync = d.course.resync := by rw [h.course]
theorem strings (h : CourseHeld d e) : e.course.strings = d.course.strings := by rw [h.course]
theorem lead (h : CourseHeld d e) : e.course.lead = d.course.lead := by rw [h.course]
theorem afterHalt (h : CourseHeld d e) : e.course.afterHalt = d.course.afterHalt := by rw [h.course]
theorem restartAt (h : CourseHeld d e) : e.course.restartAt = d.course.restartAt := by rw [h.course]
theorem applied (h : CourseHeld d e) : e.course.applied = d.course.applied := by rw [h.course]
theorem failClosed (h : CourseHeld d e) : e.course.failClosed = d.course.failClosed := by rw [h.course]
theorem string (h : CourseHeld d e) (k : Nat) : e.string k = d.string k := by rw [Dev.string, h.strings, Dev.string]

theorem courseEvent {string cause : Nat} : CourseHeld d (courseEvent string cause d) := of_host (.raiseAll ..)
theorem cancelEvent {dom target cause kind slice : Nat} : CourseHeld d (cancelEvent dom target cause kind slice d) :=
  of_host (.raise ..)

theorem fwEvent {slot part state cause version : Nat} : CourseHeld d (fwEvent slot part state cause version d) :=
  (of_host (.raise ..) : CourseHeld _ (raise _ _ _)).after rfl

theorem fwHalt : CourseHeld d (fwHalt d) := by
  have hback {slot : Nat} {parts : List Nat} : CourseHeld d (fwGoBack slot parts d) := by
    refine .trans ?_ (.forEach fun _ _ => fwEvent)
    exact of_parts (OnlyParts.refl.seq OnlyParts.fw |>.trans (.ite OnlyParts.lk.mono .refl) |>.seq OnlyParts.fw : OnlyParts [.fw, .lk] d _)
  have hcancel : CourseHeld d (cancelActivation 3 d) := by
    unfold cancelActivation
    split
    · exact .ite refl ((of_parts OnlyParts.dropActivation).trans cancelEvent)
    · exact refl
  unfold Machine.fwHalt
  split
  · exact .ite hback hcancel
  · exact .ite hback refl

theorem haltCommits : CourseHeld d (haltCommits d) := by
  unfold Machine.haltCommits
  refine onCfg _ ((forEach fun _ _ => of_parts OnlyParts.stopCopy).trans (forEach fun k d => ?_))
  split
  · exact cancelEvent.after rfl
  · exact refl

end CourseHeld

/-! ### Fences (15 R451 to R455) -/

section Strings

variable {d : Dev} {k i j : Nat}

theorem onString_string (f : StringSt → StringSt) (d : Dev) :
    (onString k f d).string j = if k = j ∧ j < d.course.strings.length then f (d.string j) else d.string j := getD_modAt ..

theorem mem_unfenced : i ∈ d.unfenced ↔ i < 3 ∧ (d.string i).st = .inCourse := by
  simp only [Dev.unfenced, List.mem_filter, decide_eq_true_eq]
  exact and_congr_left' ⟨fun h => by fin_cases h <;> decide, fun h => by interval_cases i <;> decide⟩

theorem passLead_course (d : Dev) : (passLead d).course = { d.course with
    lead := if d.unfenced.contains d.course.lead then d.course.lead
      else (d.course.succession.find? d.unfenced.contains).getD d.course.lead } := by
  simp only [passLead, Dev.onCourse]
  split <;> rfl

/-- A string's record once it is fenced, or retired by its third fence. -/
def fencedString (now : Nat) (x : StringSt) : StringSt :=
  { x with st := if 3 ≤ (recent now x.fences ++ [now]).length then .retired else .fenced, fences := recent now x.fences ++ [now] }

/-- A device whose string `k` is fenced, before the lead passes on. -/
def withFenced (k : Nat) (d : Dev) : Dev :=
  d.onCourse (fun c => { c with
    strings := modAt c.strings k (fun x => { x with
      st := if 3 ≤ (recent d.now (d.string k).fences ++ [d.now]).length then .retired else .fenced
      fences := recent d.now (d.string k).fences ++ [d.now] })
    mode := .duplex
    windows := c.windows.map (without (fun p => decide (p.1 = k))) })

theorem fence_eq (k : Nat) (d : Dev) : fence k d =
    if 3 ≤ (recent d.now (d.string k).fences ++ [d.now]).length then courseEvent k 1 (bump 0x130 0 (passLead (withFenced k d)))
    else askLeave (.stringBist k) (courseEvent k 1 (bump 0x130 0 (passLead (withFenced k d)))) := by
  simp only [fence, decide_eq_true_eq]
  rfl

theorem fence_held (k : Nat) (d : Dev) : CourseHeld (passLead (withFenced k d)) (fence k d) := by
  have hevent : CourseHeld (passLead (withFenced k d)) (courseEvent k 1 (bump 0x130 0 (passLead (withFenced k d)))) :=
    CourseHeld.courseEvent.after rfl
  rw [fence_eq]
  exact .ite hevent (hevent.trans (.of_same rfl))

theorem withFenced_string (hk : k < d.course.strings.length) : (withFenced k d).string j =
    if j = k then fencedString d.now (d.string k) else d.string j := by
  simp only [withFenced, Dev.string, Dev.onCourse, getD_modAt]
  by_cases hj : j = k
  · subst hj
    rw [if_pos ⟨rfl, hk⟩, if_pos rfl]
    rfl
  · rw [if_neg fun h => hj h.1.symm, if_neg hj]

theorem fence_string (hk : k < d.course.strings.length) : (fence k d).string j =
    if j = k then fencedString d.now (d.string k) else d.string j := by
  rw [(fence_held k d).string, ← withFenced_string hk, Dev.string, passLead_course]
  rfl

/-- The strings in the course once one is fenced. -/
theorem withFenced_unfenced (hk : k < d.course.strings.length) :
    (withFenced k d).unfenced.contains i = (decide (i ≠ k) && d.unfenced.contains i) := by
  rw [Bool.eq_iff_iff, Bool.and_eq_true, decide_eq_true_eq, List.contains_iff_mem, List.contains_iff_mem, mem_unfenced, mem_unfenced,
    withFenced_string hk]
  by_cases hi : i = k
  · rw [if_pos hi, fencedString]
    simp only [hi, ne_eq, not_true_eq_false, false_and, iff_false, not_and]
    intro _
    split <;> simp
  · rw [if_neg hi]
    simp [hi]

theorem fence_lead (hk : k < d.course.strings.length) : (fence k d).course.lead =
    if d.course.lead ≠ k ∧ d.course.lead ∈ d.unfenced then d.course.lead
    else (d.course.succession.find? (fun i => decide (i ≠ k) && d.unfenced.contains i)).getD d.course.lead := by
  have hunfenced : (withFenced k d).unfenced.contains = fun i => decide (i ≠ k) && d.unfenced.contains i :=
    funext fun _ => withFenced_unfenced hk
  have hlead : (withFenced k d).course.lead = d.course.lead := rfl
  have hsuccession : (withFenced k d).course.succession = d.course.succession := rfl
  rw [(fence_held k d).lead, passLead_course, hunfenced, hlead, hsuccession]
  simp only [Bool.and_eq_true, decide_eq_true_eq, List.contains_iff_mem]

theorem fence_mode (k : Nat) (d : Dev) : (fence k d).course.mode = .duplex := by
  rw [(fence_held k d).mode, passLead_course]
  rfl

theorem fence_windows (h : d.course.windows = []) : (fence k d).course.windows = [] := by
  rw [(fence_held k d).windows, passLead_course]
  exact congrArg (List.map _) h

theorem stringFault_triple (hin : (d.string k).st = .inCourse) (hmode : d.course.mode = .triple) (hwindows : d.course.windows = []) :
    stringFault k d = fence k d := by
  simp [stringFault, hin, hmode, fence_windows hwindows, settleWindows]

theorem stringFault_duplex (hin : (d.string k).st = .inCourse) (hmode : d.course.mode = .duplex) : stringFault k d = courseHalt d := by
  simp [stringFault, hin, hmode]

theorem fences_recent (d : Dev) (k : Nat) : (recent d.now (d.string k).fences ++ [d.now]).length =
    ((d.string k).fences.filter (fun u => decide (d.now < u + 1800000000000))).length + 1 := List.length_append ..

theorem fenced_state (d : Dev) (k : Nat) : (fencedString d.now (d.string k)).st =
    if 2 ≤ ((d.string k).fences.filter (fun u => decide (d.now < u + 1800000000000))).length then .retired else .fenced := by
  simp only [fencedString, fences_recent, Nat.succ_le_succ_iff]

theorem stringFaults : Claims.StringFaults := by
  intro s k hk hlen hin hwindows
  have hbound : k < s.dev.course.strings.length := by omega
  refine ⟨fun x hx => ?rows, fun d hstrings => ?fence⟩
  case rows =>
    have hx : exec x s = .next (s.onDev (stringFault k)) := by
      obtain rfl | rfl : x = .stringFaultReport k ∨ x = .stringWatchdogExpiry k := by simpa using hx
      all_goals rfl
    exact ⟨fun hmode => does_of_eq hx (stringFault_triple hin hmode hwindows), fun hmode => does_of_eq hx (stringFault_duplex hin hmode)⟩
  case fence =>
    have hbound : k < d.course.strings.length := by omega
    refine ⟨fence_mode k d, ?_, fun j hj => ?_, fun hpast => ?_, fun hlead hin => ?_, fun hlead j hj => ?_⟩
    · rw [fence_string hbound, if_pos rfl, fenced_state]
    · rw [fence_string hbound, if_neg hj]
    · rw [fence_eq, if_neg (by rw [fences_recent]; omega)]
      exact askLeave_queue _ _
    · rw [fence_lead hbound, if_pos ⟨hlead, hin⟩]
    · rw [fence_lead hbound, if_neg fun h => h.1 hlead, hj, Option.getD_some]

end Strings

end Sys2Proof.Machine

namespace Sys2Proof.Machine

-- One proof at a time: the threads of many at once need more memory than the check allows.
set_option Elab.async false

/-! ### What leaves the active configuration as it was -/

/-- The active configuration, and what its reset objects depend on, are the same. -/
structure ActiveKept (d e : Dev) : Prop where
  epoch : e.cfg.epoch = d.cfg.epoch
  active : ∀ cls, (e.banks cls).at d.cfg.epoch = (d.banks cls).at d.cfg.epoch
  rst : e.rst = d.rst

namespace ActiveKept

variable {d e f : Dev}

theorem refl : ActiveKept d d := ⟨rfl, fun _ => rfl, rfl⟩

theorem trans (h1 : ActiveKept d e) (h2 : ActiveKept e f) : ActiveKept d f :=
  ⟨h2.epoch.trans h1.epoch, fun cls => (h1.epoch ▸ h2.active cls).trans (h1.active cls), h2.rst.trans h1.rst⟩

theorem after (h2 : ActiveKept e f) (h1 : ActiveKept d e) : ActiveKept d f := h1.trans h2

theorem ite {c : Prop} [Decidable c] (h1 : ActiveKept d e) (h2 : ActiveKept d f) : ActiveKept d (if c then e else f) := by
  split
  · exact h1
  · exact h2

theorem forEach {α : Type} {l : List α} {g : α → Dev → Dev} (h : ∀ a d, ActiveKept d (g a d)) : ActiveKept d (forEach l g d) := by
  induction l generalizing d with
  | nil => exact refl
  | cons a l ih => exact (h a d).trans ih

/-- An object of the active configuration. -/
theorem obj (h : ActiveKept d e) (cls key : Nat) : e.obj cls key = d.obj cls key := by
  simp only [Dev.obj, Dev.objAt, Dev.tableAt, h.epoch, h.active, h.rst]

theorem of_parts {ps : List Part} (h : OnlyParts ps d e) (hc : Part.cfg ∉ ps := by decide) (hp : Part.power ∉ ps := by decide) :
    ActiveKept d e := by
  have hcfg : e.cfg = d.cfg := h .cfg hc
  have hpower : e.power = d.power := h .power hp
  refine ⟨by rw [hcfg], fun cls => by rw [Dev.banks, Dev.banks, hcfg], ?_⟩
  unfold Dev.rst
  rw [hpower]

/-- A change of one bank that is not read. -/
theorem onBank {t : Nat} {g : Banks → Banks} (hg : ∀ b : Banks, (g b).at d.cfg.epoch = b.at d.cfg.epoch) :
    ActiveKept d (d.onCfg (fun c => { c with banks := modAt c.banks t g })) := by
  refine ⟨rfl, fun cls => ?_, rfl⟩
  simp only [Dev.banks, Dev.onCfg, getD_modAt]
  split
  · exact hg _
  · rfl

theorem withPolicies : ActiveKept d (d.onCfg CfgSt.withPolicies) := ⟨rfl, fun _ => rfl, rfl⟩

theorem onDomCfg {k : Nat} {g : DomCfg → DomCfg} : ActiveKept d (d.onDomCfg k g) := ⟨rfl, fun _ => rfl, rfl⟩

theorem onDoms (g : DomCfg → DomCfg) (h : ActiveKept d e) : ActiveKept d (e.onCfg (fun c => { c with doms := c.doms.map g })) :=
  h.trans ⟨rfl, fun _ => rfl, rfl⟩

theorem onGov {g : GovSt → GovSt} : ActiveKept d (d.onGov g) := ⟨rfl, fun _ => rfl, rfl⟩

theorem setInactive {t : Nat} {tb : Tbl Obj} : ActiveKept d (setInactive t tb d) := by
  have hbank : ActiveKept d (d.onCfg (fun c => { c with banks := modAt c.banks t (fun b =>
      if (if c.epoch then b.e1 else b.e0) then { b with b0 := tb, raw := [] } else { b with b1 := tb, raw := [] }) })) := by
    refine onBank fun b => ?_
    by_cases hread : (if d.cfg.epoch then b.e1 else b.e0) = true
    · simp [Banks.at, hread]
    · simp [Banks.at, hread]
  unfold Machine.setInactive
  by_cases hsa : t = cSa
  · simp only [hsa, if_true] at hbank ⊢
    exact hbank.trans withPolicies
  · simpa only [hsa, if_false] using hbank

theorem writeBanks {sets : List (List Staged)} {ts : List Nat} : ActiveKept d (writeBanks sets ts d) := forEach fun _ _ => setInactive

theorem writeWords {slice n : Nat} {l : List (Nat × Nat × List Bytes × List Nat)} : ActiveKept d (writeWords slice l n d) := by
  induction l generalizing n d with
  | nil => exact refl
  | cons x l ih => exact ite refl (ih.after (onBank fun _ => rfl))

theorem stopCopy {k : Nat} : ActiveKept d (stopCopy k d) := by
  unfold Machine.stopCopy
  split
  · exact refl
  · exact (writeWords.trans writeWords).trans onDomCfg

theorem haltCommits : ActiveKept d (haltCommits d) := by
  unfold Machine.haltCommits
  refine onDoms _ ((forEach fun _ _ => stopCopy).trans (forEach fun k d => ?_))
  split
  · exact onDomCfg.trans (of_parts OnlyParts.cancelEvent)
  · exact refl

theorem dropActivation : ActiveKept d (dropActivation d) := by
  unfold Machine.dropActivation
  split
  · exact refl
  · exact writeBanks.trans (.ite (of_parts OnlyParts.fw) (of_parts (OnlyParts.fw.trans OnlyParts.fw)))

theorem fwHalt : ActiveKept d (fwHalt d) := by
  have hcancel : ActiveKept d (cancelActivation 3 d) := by
    unfold cancelActivation
    split
    · exact .ite refl (dropActivation.trans (of_parts OnlyParts.cancelEvent))
    · exact refl
  unfold Machine.fwHalt
  split
  · exact .ite (of_parts OnlyParts.fwGoBack) hcancel
  · exact .ite (of_parts OnlyParts.fwGoBack) refl

end ActiveKept

/-! ### Entering HALTED (15 R459 to R461, 02 R57) -/

section Halt

variable {d : Dev} {k : Nat}

/-- A domain has nothing armed, and nothing being copied or rewritten. -/
def Dev.commitFree (k : Nat) (d : Dev) : Prop :=
  (d.domCfg k).armed = none ∧ (d.domCfg k).copying = none ∧ (d.domCfg k).rewrite = none

/-- The commit that a domain has armed is cancelled by a halt. -/
def haltArmed (k : Nat) (d : Dev) : Dev :=
  match (d.domCfg k).armed with
  | some f => cancelEvent k f 3 0 0 (disarm k d)
  | none => d

theorem haltArmed_unarmed_self (k : Nat) (d : Dev) : (haltArmed k d).unarmed k := by
  unfold haltArmed
  split
  next => exact cancelEvent_unarmed (disarm_unarmed_self k d)
  next h => exact h

theorem haltArmed_unarmed (a : Nat) (h : d.unarmed k) : (haltArmed a d).unarmed k := by
  unfold haltArmed
  split
  · exact cancelEvent_unarmed (disarm_unarmed h)
  · exact h

/-- No copy and no rewrite of a commit goes on. -/
def giveUpCopies (d : Dev) : Dev := d.onCfg (fun c => { c with doms := c.doms.map (fun x => { x with copying := none, rewrite := none }) })

theorem giveUpCopies_domCfg (k : Nat) (d : Dev) :
    (giveUpCopies d).domCfg k = { d.domCfg k with copying := none, rewrite := none } := by
  simp only [giveUpCopies, Dev.domCfg, Dev.onCfg]
  exact List.getD_map d.cfg.doms {} (fun x : DomCfg => { x with copying := none, rewrite := none })

theorem giveUpCopies_free (h : d.unarmed k) : (giveUpCopies d).commitFree k := by
  rw [Dev.commitFree, giveUpCopies_domCfg]
  exact ⟨h, rfl, rfl⟩

theorem haltCommits_eq (d : Dev) :
    haltCommits d = giveUpCopies (forEach (List.range 33) haltArmed (forEach (List.range 33) stopCopy d)) := by
  unfold haltCommits giveUpCopies haltArmed
  rfl

theorem haltCommits_free (hk : k < 33) (d : Dev) : (haltCommits d).commitFree k := by
  have hunarmed : (forEach (List.range 33) haltArmed (forEach (List.range 33) stopCopy d)).unarmed k :=
    forEach_brings haltArmed_unarmed_self (fun a _ _ => haltArmed_unarmed a) _ _ k (List.mem_range.2 hk)
  rw [haltCommits_eq]
  exact giveUpCopies_free hunarmed

theorem fwHalt_domCfg (d : Dev) : (fwHalt d).domCfg k = d.domCfg k := by
  have hcancel : (cancelActivation 3 d).domCfg k = d.domCfg k := by
    unfold cancelActivation
    split
    · split
      · rfl
      · exact (OnlyParts.cancelEvent.domCfg k).trans (dropActivation_domCfg k d)
    · rfl
  unfold fwHalt
  split
  · split
    · exact OnlyParts.fwGoBack.domCfg k
    · exact hcancel
  · split
    · exact OnlyParts.fwGoBack.domCfg k
    · rfl

theorem failsClosed_of {e : Dev} (h : ActiveKept d e) : e.failsClosed = d.failsClosed := by rw [Dev.failsClosed, h.obj, Dev.failsClosed]

theorem lossHold_of {e : Dev} (h : ActiveKept d e) : e.lossHold = d.lossHold := by rw [Dev.lossHold, h.obj, Dev.lossHold]

/-- The fallback is noted, and nothing else of the course changes but what is held. -/
theorem applyFallback_held (d : Dev) : CourseHeld (d.onCourse (fun c => { c with
    applied := true, withdraw := false, failClosed := d.failsClosed || c.failClosed })) (applyFallback d) := by
  have hcloses : (courseEvent 3 3 (d.onCourse (fun c => { c with applied := true, withdraw := false }))).failsClosed = d.failsClosed :=
    failsClosed_of ((ActiveKept.of_parts OnlyParts.course).trans (.of_parts OnlyParts.courseEvent))
  have hevent := (CourseHeld.courseEvent (d := d.onCourse (fun c => { c with applied := true, withdraw := false }))
    (string := 3) (cause := 3)).course
  cases hclosed : d.failsClosed with
  | false =>
    simp only [applyFallback, hcloses, hclosed, Bool.false_eq_true, if_false, Bool.false_or]
    exact ⟨hevent⟩
  | true =>
    simp only [applyFallback, hcloses, hclosed, if_true, Bool.true_or]
    refine .trans ⟨?_⟩ (CourseHeld.of_parts OnlyParts.dropAll)
    rw [Dev.onCourse, hevent]
    rfl

/-- The course as a halt leaves it, with the restart that it sets. -/
def haltedCourse (now : Nat) (c : CourseSt) : CourseSt :=
  { c with
    mode := .halted
    afterHalt := true
    windows := []
    haltBoundaries := 0
    applied := false
    withdraw := false
    resync := none
    heldFin := []
    restartAt := if decide ((recent now c.restarts).length < restartLimit) then some (now + 5000000) else none }

/-- The device in HALTED, before a fallback that applies at once. -/
def haltBegun (string cause : Nat) (d : Dev) : Dev :=
  courseEvent string cause (fwHalt (haltCommits (forEach [0, 1, 2]
    (fun s d => withdraw (fun l => decide (l = .stringBist s ∨ l = .tcLoad s)) d) (d.onCourse (haltedCourse d.now)))))

theorem enterHalt_eq (string cause : Nat) (d : Dev) : enterHalt string cause d =
    if (haltBegun string cause d).lossHold = 0 then applyFallback (haltBegun string cause d) else haltBegun string cause d := by
  unfold enterHalt haltBegun haltedCourse
  rfl

variable {string cause : Nat}

theorem haltBegun_held (d : Dev) : CourseHeld (d.onCourse (haltedCourse d.now)) (haltBegun string cause d) :=
  (CourseHeld.forEach fun _ _ => .of_parts OnlyParts.withdraw).trans .haltCommits |>.trans .fwHalt |>.trans .courseEvent

theorem haltBegun_active (d : Dev) : ActiveKept d (haltBegun string cause d) :=
  (ActiveKept.of_parts OnlyParts.course).trans (.forEach fun _ _ => .onGov) |>.trans .haltCommits |>.trans .fwHalt
    |>.trans (.of_parts OnlyParts.courseEvent)

theorem haltBegun_free (hk : k < 33) (d : Dev) : (haltBegun string cause d).commitFree k := by
  rw [Dev.commitFree, haltBegun, OnlyParts.courseEvent.domCfg k, fwHalt_domCfg]
  exact haltCommits_free hk _

theorem enterHalt_free (hk : k < 33) (d : Dev) : (enterHalt string cause d).commitFree k := by
  rw [enterHalt_eq]
  split
  · rw [Dev.commitFree, OnlyParts.applyFallback.domCfg k]
    exact haltBegun_free hk d
  · exact haltBegun_free hk d

/-- The course after a halt, but for what is held. -/
theorem enterHalt_held (string cause : Nat) (d : Dev) : CourseHeld (d.onCourse (fun c => { haltedCourse d.now c with
    applied := decide (d.lossHold = 0), failClosed := (decide (d.lossHold = 0) && d.failsClosed) || c.failClosed }))
    (enterHalt string cause d) := by
  have hbegun := haltBegun_held (string := string) (cause := cause) d
  have hactive := haltBegun_active (string := string) (cause := cause) d
  rw [enterHalt_eq, lossHold_of hactive]
  by_cases hzero : d.lossHold = 0
  · rw [if_pos hzero]
    refine .trans ⟨?_⟩ (applyFallback_held _)
    rw [failsClosed_of hactive, Dev.onCourse, hbegun.course]
    simp only [hzero, decide_true, Bool.true_and]
    rfl
  · rw [if_neg hzero]
    refine ⟨?_⟩
    rw [hbegun.course]
    simp only [hzero, decide_false, Bool.false_and, Bool.false_or]
    rfl

theorem halt : Claims.Halt := by
  intro d string cause _
  have hheld := enterHalt_held string cause d
  refine ⟨hheld.mode, hheld.windows, hheld.resync, fun k hk => enterHalt_free hk d, ?_, fun hloss => ⟨?_, ?_⟩, fun hloss => ?_⟩
  · rw [hheld.restartAt]
    simp only [Dev.onCourse, haltedCourse, decide_eq_true_eq]
    rfl
  · rw [hheld.applied]
    exact decide_eq_false hloss
  · rw [hheld.failClosed]
    simp [Dev.onCourse, hloss]
  · rw [hheld.applied]
    exact decide_eq_true hloss

end Halt

end Sys2Proof.Machine

namespace Sys2Proof.Machine

-- One proof at a time: the threads of many at once need more memory than the check allows.
set_option Elab.async false

/-! ### The strings after their BIST (15 R452, R453) -/

section Restart

variable {pass : List Bool} {d : Dev} {k : Nat}

/-- A string passed its BIST, and is not retired. -/
def passedBist (pass : List Bool) (d : Dev) (k : Nat) : Bool := pass.getD k false && decide ((d.string k).st ≠ .retired)

/-- The strings that passed. -/
def bistCount (pass : List Bool) (d : Dev) : Nat := ([0, 1, 2].filter (passedBist pass d)).length

/-- A string's record after the BIST of all. -/
def bistString (pass : List Bool) (d : Dev) (k : Nat) (x : StringSt) : StringSt :=
  if passedBist pass d k ∧ 2 ≤ bistCount pass d then { x with st := .inCourse }
  else if bistCount pass d = 2 then { x with st := .retired }
  else { x with st := if x.st = .retired then .retired else .bist }

theorem bistOutcome_eq (pass : List Bool) (d : Dev) :
    bistOutcome pass d = onString 2 (bistString pass d 2) (onString 1 (bistString pass d 1) (onString 0 (bistString pass d 0) d)) := by
  have hone (s : Nat) (e : Dev) : (if passedBist pass d s ∧ 2 ≤ bistCount pass d then onString s (fun x => { x with st := .inCourse }) e
      else if bistCount pass d = 2 then onString s (fun x => { x with st := .retired }) e
      else onString s (fun x => { x with st := if x.st = .retired then .retired else .bist }) e) = onString s (bistString pass d s) e := by
    unfold bistString
    split
    · rfl
    · split <;> rfl
  rw [← hone 2, ← hone 1, ← hone 0]
  rfl

theorem bistOutcome_string (hlen : d.course.strings.length = 3) (hk : k < 3) :
    (bistOutcome pass d).string k = bistString pass d k (d.string k) := by
  have hlen' (s : Nat) (f : StringSt → StringSt) (e : Dev) : (onString s f e).course.strings.length = e.course.strings.length :=
    modAt_length ..
  rw [bistOutcome_eq]
  simp only [onString_string, hlen', hlen, hk, and_true]
  obtain rfl | rfl | rfl : k = 0 ∨ k = 1 ∨ k = 2 := by omega
  · simp
  · simp
  · simp

theorem bistOutcome_inCourse (hlen : d.course.strings.length = 3) (hk : k < 3) :
    ((bistOutcome pass d).string k).st = .inCourse ↔ passedBist pass d k = true ∧ 2 ≤ bistCount pass d := by
  rw [bistOutcome_string hlen hk, bistString]
  split
  · next h => exact ⟨fun _ => h, fun _ => rfl⟩
  · next h =>
    refine ⟨fun hin => absurd hin ?_, fun hin => absurd hin h⟩
    split
    · exact nofun
    · simp only
      split <;> decide

theorem bistOutcome_unfenced (hlen : d.course.strings.length = 3) :
    (bistOutcome pass d).unfenced = if 2 ≤ bistCount pass d then [0, 1, 2].filter (passedBist pass d) else [] := by
  have hone (k : Nat) (hk : k ∈ [0, 1, 2]) : decide (((bistOutcome pass d).string k).st = .inCourse) =
      (passedBist pass d k && decide (2 ≤ bistCount pass d)) := by
    rw [Bool.eq_iff_iff, decide_eq_true_eq, Bool.and_eq_true, decide_eq_true_eq]
    exact bistOutcome_inCourse hlen (by fin_cases hk <;> decide)
  rw [Dev.unfenced, List.filter_congr hone]
  split
  · next h => simp only [h, decide_true, Bool.and_true]
  · next h => simp only [h, decide_false, Bool.and_false, List.filter_false]

/-- With fewer than two strings the course stays halted. -/
theorem courseUp_halts (hlen : d.course.strings.length = 3) (h : bistCount pass d < 2) :
    (courseUp pass d).course.mode = .halted := by
  have hnone : (bistOutcome pass d).unfenced = [] := (bistOutcome_unfenced hlen).trans (if_neg (by omega))
  simp only [courseUp, hnone, List.length_nil, Nat.zero_lt_two, if_true]
  exact (enterHalt_held ..).mode

/-- With two or three strings the course runs again. -/
theorem courseUp_runs (hlen : d.course.strings.length = 3) (h : 2 ≤ bistCount pass d) :
    CourseHeld ((bistOutcome pass d).onCourse (fun c => { c with
      mode := if bistCount pass d = 3 then .triple else .duplex
      afterHalt := false
      lead := ([0, 1, 2].filter (passedBist pass d)).headD 0
      succession := [0, 1, 2]
      windows := []
      resync := none
      withdraw := c.failClosed })) (courseUp pass d) := by
  have hpassed := (bistOutcome_unfenced (pass := pass) hlen).trans (if_pos h)
  have hmany : ¬([0, 1, 2].filter (passedBist pass d)).length < 2 := by rw [bistCount] at h; omega
  simp only [courseUp, hpassed, hmany, if_false]
  exact .courseEvent

theorem courseUp_string (hlen : d.course.strings.length = 3) (h : 2 ≤ bistCount pass d) (hk : k < 3) :
    (courseUp pass d).string k = bistString pass d k (d.string k) :=
  ((courseUp_runs hlen h).string k).trans (bistOutcome_string hlen hk)

theorem firstPassed (h : bistCount pass d = 3) : ([0, 1, 2].filter (passedBist pass d)).headD 0 = 0 := by
  have hall : [0, 1, 2].filter (passedBist pass d) = [0, 1, 2] := List.filter_eq_self.2 (List.length_filter_eq_length_iff.1 h)
  rw [hall]
  rfl

/-- The strings and the course after the BIST of a restart. -/
theorem courseUp_outcome (hlen : d.course.strings.length = 3) :
    (bistCount pass d = 3 → (courseUp pass d).course.mode = .triple ∧ (courseUp pass d).course.afterHalt = false ∧
      (courseUp pass d).course.lead = 0) ∧
    (bistCount pass d = 2 → (courseUp pass d).course.mode = .duplex ∧ (courseUp pass d).course.afterHalt = false ∧
      ∀ k < 3, passedBist pass d k = false → ((courseUp pass d).string k).st = .retired) ∧
    (2 ≤ bistCount pass d → ∀ k < 3, passedBist pass d k = true → ((courseUp pass d).string k).st = .inCourse) ∧
    (bistCount pass d < 2 → (courseUp pass d).course.mode = .halted) := by
  refine ⟨fun h => ?three, fun h => ?two, fun h k hk hpassed => ?passed, courseUp_halts hlen⟩
  case three =>
    have hruns := courseUp_runs (pass := pass) hlen (by omega)
    exact ⟨hruns.mode.trans (if_pos h), hruns.afterHalt, hruns.lead.trans (firstPassed h)⟩
  case two =>
    have hruns := courseUp_runs (pass := pass) hlen (by omega)
    refine ⟨hruns.mode.trans (if_neg (by omega)), hruns.afterHalt, fun k hk hfailed => ?_⟩
    rw [courseUp_string hlen (by omega) hk, bistString, if_neg (by simp [hfailed]), if_pos h]
  case passed =>
    rw [courseUp_string hlen h hk, bistString, if_pos ⟨hpassed, h⟩]

end Restart

/-! ### The rows of a string's return and of a restart (15 R453 to R462) -/

section Rows

variable {s : State} {k : Nat} {pass : List Bool}

theorem exec_stringBistDone (k : Nat) (pass : Bool) (s : State) :
    exec (.stringBistDone k pass) s = .next (s.onDev (stringBistDone k pass)) := rfl

theorem exec_resyncComplete (equal : Bool) (s : State) :
    exec (.resyncComplete equal) s = .next (s.onDev (fun d => wake (resyncDone equal d))) := rfl

theorem exec_courseRestartTimer (s : State) : exec .courseRestartTimer s = .next (s.onDev restartTimer) := rfl

theorem exec_courseRestartDone (pass : List Bool) (s : State) :
    exec (.courseRestartDone pass) s = .next (s.onDev (courseRestart pass)) := rfl

theorem exec_ctlLossHoldReached (s : State) : exec .ctlLossHoldReached s = .next (s.onDev holdReached) := rfl

theorem stringBistDone_ends {pass : Bool} (hst : (s.dev.string k).st = .bist) (hmode : s.dev.course.mode = .duplex) :
    Does (.stringBistDone k pass) s (onString k (fun x => { x with st := if pass then .ready else .retired })) :=
  does_of_eq (exec_stringBistDone k pass s) (if_neg (by simp [hst, hmode]))

theorem resync_none {equal : Bool} (h : s.dev.course.resync = none) : Does (.resyncComplete equal) s wake :=
  does_of_eq (exec_resyncComplete equal s) (by simp only [resyncDone, h])

theorem resync_differs (h : s.dev.course.resync = some k) : Does (.resyncComplete false) s (fun d => wake (courseHalt d)) :=
  does_of_eq (exec_resyncComplete false s) (by simp [resyncDone, h])

theorem rejoinLead_eq (vrx : Bool) (k lead : Nat) (order : List Nat) : rejoinLead vrx k lead order =
    (if vrx = true ∧ k = 0 then 0 else lead, if vrx = true ∧ k = 0 then [0, 1, 2] else order.erase k ++ [k]) := by
  unfold rejoinLead
  split <;> rfl

theorem resync_equal (h : s.dev.course.resync = some k) :
    Does (.resyncComplete true) s (fun d => wake (takeEvents (forEach d.course.heldFin
      (fun f d => finish f.1 f.2 d) (courseEvent k 2 ((onString k (fun x => { x with st := .inCourse }) d).onCourse (fun c => { c with
        mode := .triple, resync := none, heldFin := []
        lead := if (s.dev.obj cFret 0).b 2 = true ∧ k = 0 then 0 else c.lead
        succession := if (s.dev.obj cFret 0).b 2 = true ∧ k = 0 then [0, 1, 2] else c.succession.erase k ++ [k] })))))) := by
  refine does_of_eq (exec_resyncComplete true s) ?_
  simp only [resyncDone, h, rejoinLead_eq, Bool.not_true, Bool.false_eq_true, if_false]
  rfl

theorem restartTimer_begins {u : Nat} (hat : s.dev.course.restartAt = some u) (hmode : s.dev.course.mode = .halted) :
    ∃ t, exec .courseRestartTimer s = .next t ∧
    OnlyParts [.time, .cnt, .course, .power] s.dev t.dev ∧ t.dev.course.mode = .restart ∧ t.dev.course.restartAt = none ∧
    t.dev.time.tclk = max s.dev.now u ∧ Leave.courseRestart 0 ∈ t.dev.power.gov.queue := by
  refine ⟨_, exec_courseRestartTimer s, .restartTimer, ?_⟩
  have hbegins : restartTimer s.dev = askLeave (.courseRestart 0) ((advanceTo u s.dev).onCourse (fun c => { c with
      mode := .restart, restartAt := none,
      restarts := recent (advanceTo u s.dev).now c.restarts ++ [(advanceTo u s.dev).now] })) := by
    simp only [restartTimer, hat, hmode, ne_eq, not_true_eq_false, if_false]
  simp only [State.onDev, hbegins]
  exact ⟨rfl, rfl, advanceTo_now u s.dev, askLeave_queue _ _⟩

theorem courseRestartDone_waits
    (hwaits : s.dev.course.mode ≠ .restart ∨ s.dev.course.afterHalt = false ∨ s.dev.restartWaits = true)
    (hstart : s.dev.power.halfUp = false ∨ s.dev.halted = true) : Does (.courseRestartDone pass) s wake := by
  have hidle : restartDone pass s.dev = s.dev := if_pos (by simpa [or_assoc] using hwaits)
  refine does_of_eq (exec_courseRestartDone pass s) ?_
  simp only [courseRestart, hidle]
  rw [if_neg (by rcases hstart with h | h <;> simp [h])]

theorem courseRestartDone_runs (hmode : s.dev.course.mode = .restart) (hafter : s.dev.course.afterHalt = true)
    (hleave : s.dev.restartWaits = false) (hup : (courseUp pass s.dev).halted = false) :
    Does (.courseRestartDone pass) s (fun d =>
      let e := takeEvents (restartRest (restartCommands (courseUp pass d)))
      wake (if e.power.halfUp ∧ !e.halted then startRest e else e)) := by
  have hdone : restartDone pass s.dev = takeEvents (restartRest (restartCommands (courseUp pass s.dev))) := by
    simp [restartDone, hmode, hafter, hleave, hup]
  refine does_of_eq (exec_courseRestartDone pass s) ?_
  simp only [courseRestart, hdone]

theorem holdReached_applies (hhalted : s.dev.halted = true) (happlied : s.dev.course.applied = false)
    (hreached : s.dev.lossHold ≤ s.dev.course.haltBoundaries) : Does .ctlLossHoldReached s applyFallback :=
  does_of_eq (exec_ctlLossHoldReached s) (if_pos ⟨hhalted, by simp [happlied], hreached⟩)

theorem holdReached_idles
    (h : s.dev.halted = false ∨ s.dev.course.applied = true ∨ s.dev.course.haltBoundaries < s.dev.lossHold) :
    Idles .ctlLossHoldReached s := by
  refine idles_of_eq (exec_ctlLossHoldReached s) (if_neg fun ⟨hhalted, happlied, hreached⟩ => ?_)
  obtain h | h | h := h
  · rw [h] at hhalted; cases hhalted
  · simp [h] at happlied
  · omega

theorem fallback_course (d : Dev) : (applyFallback d).course.applied = true ∧
    ((applyFallback d).course.failClosed = true ↔ d.failsClosed = true ∨ d.course.failClosed = true) := by
  have hheld := applyFallback_held d
  refine ⟨hheld.applied, ?_⟩
  rw [hheld.failClosed, ← Bool.or_eq_true]
  rfl

theorem courseRows : Claims.CourseRows := fun s =>
  ⟨fun _ _ _ => stringBistDone_ends, fun _ => resync_none, fun _ => resync_differs, fun _ => resync_equal,
    fun _ => restartTimer_begins, fun _ => courseRestartDone_waits, fun _ => courseRestartDone_runs,
    fun _ => courseUp_outcome, holdReached_applies, holdReached_idles, fallback_course s.dev⟩

end Rows

/-- Settles O38. -/
theorem courseStates : Obligations.CourseStates := ⟨stringFaults, halt, courseRows⟩

end Sys2Proof.Machine

namespace Sys2Proof.Machine

-- One proof at a time: the threads of many at once need more memory than the check allows.
set_option Elab.async false

/-! ### What an alarm leaves of the course, and the bits it sets (16 R478, R483) -/

namespace CourseHeld

variable {d e : Dev}

theorem finish {c : Cmd} {r : Reply} : CourseHeld d (finish c r d) := of_host (.finish ..)

theorem raise {dom : Nat} {e : Event} : CourseHeld d (raise dom e d) := of_host (.raise ..)

theorem failFetch {slice r cause : Nat} : CourseHeld d (failFetch slice r cause d) := by
  unfold Machine.failFetch
  split
  · exact refl
  · exact raise.trans (of_parts ((OnlyParts.forEach fun _ _ => OnlyParts.refl.seq OnlyParts.cnt |>.seq (FrameSide.dropFrame ..).parts
      : OnlyParts frameParts _ _).seq OnlyParts.msec))

theorem pairEvent {slice result cause epoch : Nat} {peer : Bytes} : CourseHeld d (pairEvent slice result cause epoch peer d) :=
  of_host (.raiseTo ..)

theorem abortPairing {slice : Nat} : CourseHeld d (abortPairing slice d) :=
  ite refl ((of_parts (OnlyParts.refl.seq OnlyParts.lk |>.seq OnlyParts.cnt : OnlyParts [.lk, .cnt] d _)).trans pairEvent
    |>.trans (of_parts OnlyParts.smv))

theorem abortKeyOps : CourseHeld d (abortKeyOps d) := by
  unfold Machine.abortKeyOps
  dsimp only
  exact (forEach fun _ _ => (of_parts OnlyParts.host).trans finish).trans (forEach fun _ _ => finish) |>.trans (of_parts OnlyParts.lk)
    |>.trans (forEach fun _ _ => finish) |>.trans (of_parts OnlyParts.keys) |>.trans (of_parts OnlyParts.withdraw)
    |>.trans (forEach fun _ _ => finish) |>.trans (of_parts OnlyParts.keys)
    |>.trans (forEach fun _ _ => forEach fun _ _ => failFetch) |>.trans (forEach fun _ _ => abortPairing)

theorem raiseAlarms {alarms : List Nat} {phase : Nat} {value : Int} : CourseHeld d (raiseAlarms alarms phase value d) :=
  ite refl (((ite abortKeyOps refl).trans (forEach fun _ _ => of_parts OnlyParts.tamper)).trans (of_parts OnlyParts.logEntry)
    |>.trans raise |>.trans (of_parts OnlyParts.respond))

end CourseHeld

section AlarmBits

variable {d : Dev}

theorem logEntry_bits (e : LogEntry) (d : Dev) : (logEntry e d).tamper.bits = d.tamper.bits := by
  unfold logEntry
  dsimp only
  split <;> rfl

theorem dueScrub_bits (d : Dev) : (dueScrub d).tamper.bits = d.tamper.bits := by
  unfold dueScrub
  split <;> rfl

theorem doZeroize_bits (e : LogEntry) (d : Dev) : (doZeroize e d).tamper.bits = d.tamper.bits := by
  have herase (x : Dev) : (cryptoErase x).tamper = x.tamper := OnlyParts.cryptoErase .tamper (by decide)
  unfold doZeroize
  rw [dueScrub_bits]
  change (cryptoErase _).tamper.bits = _
  rw [herase]
  rfl

theorem respond_bits (cls : Nat) (e : LogEntry) (d : Dev) : (respond cls e d).tamper.bits = d.tamper.bits := by
  have hlock : (respond (min cls 2) e d).tamper = d.tamper := by
    unfold respond
    rw [if_neg (show ¬3 ≤ min cls 2 by omega)]
    have hparts : OnlyParts [.host, .time, .cnt, .mram, .keys, .power, .msec, .fr, .eg, .lk, .smv] d
        (let d := if 1 ≤ min cls 2 then holdFrames d else d
         if 2 ≤ min cls 2 then doLockdown (prioZero d) else d) :=
      (OnlyParts.ite OnlyParts.holdFrames.mono .refl).trans
        (.ite (OnlyParts.refl.seq OnlyParts.power |>.seq OnlyParts.doLockdown) .refl)
    exact hparts .tamper (by decide)
  by_cases h : 3 ≤ cls
  · have hmin : min cls 2 = 2 := by omega
    rw [hmin] at hlock
    have hrespond : respond cls e d = doZeroize e (respond 2 e d) := by
      simp only [respond, h, show 1 ≤ cls by omega, show 2 ≤ cls by omega, if_true, Nat.one_le_ofNat, le_refl, Nat.reduceLeDiff, if_false]
    rw [hrespond, doZeroize_bits, hlock]
  · rw [show min cls 2 = cls by omega] at hlock
    rw [hlock]

/-- One alarm sets its bit. -/
theorem raiseAlarm_bits (alarm : Nat) (value : Int) (d : Dev) :
    (raiseAlarm alarm value d).tamper.bits = d.tamper.bits.set (alarm - 2) true := by
  have habort (b : Prop) [Decidable b] : (if b then abortKeyOps d else d).tamper = d.tamper := by
    split
    · exact OnlyParts.abortKeyOps .tamper (by decide)
    · rfl
  have hraise (dom : Nat) (e : Event) (x : Dev) : (raise dom e x).tamper = x.tamper := OnlyParts.raise .tamper (by decide)
  simp only [raiseAlarm, raiseAlarms, List.cons_ne_nil, if_false, respond_bits, hraise, logEntry_bits, forEach_cons, forEach_nil,
    Dev.onTamper, habort]

end AlarmBits

/-! ### Memory errors and the scrubber (15 R463 to R468) -/

section Memory

variable {s : State} {e : MemError} {d : Dev}

/-- One flipped bit turns the parity over. -/
theorem single_parity : ∀ i < 79, popCount 79 (2 ^ i) % 2 = 1 := by decide +kernel

/-- A single error leaves the trace of its place, which is not that of a clean word. -/
theorem eccDecode_single {i : Nat} (hi : i < 79) : eccDecode (BitVec.ofNat 79 (2 ^ i)) = .corrected := by
  have hword : (BitVec.ofNat 79 (2 ^ i)).toNat = 2 ^ i := by
    rw [BitVec.toNat_ofNat]
    exact Nat.mod_eq_of_lt (Nat.pow_lt_pow_right (by decide) hi)
  have hdirty : eccTrace (2 ^ i) ≠ (0, 0) := fun h => by
    have hparity := single_parity i hi
    have hzero : popCount 79 (2 ^ i) % 2 = 0 := congrArg Prod.snd h
    omega
  have hlisted : eccSingles.contains (eccTrace (2 ^ i)) = true :=
    List.contains_iff_mem.2 (List.mem_map.2 ⟨i, List.mem_range.2 hi, rfl⟩)
  simp only [eccDecode, hword, hdirty, hlisted, if_false, true_or, if_true]

theorem memError_clean (h : eccDecode e.flips = .clean) : memError e d = d := by simp only [memError, h]

theorem memError_corrected (h : eccDecode e.flips = .corrected) : memError e d = bump 0x131 e.cls d := by simp only [memError, h]

theorem memError_string (h : eccDecode e.flips = .uncorrectable) (hc : e.cls = 5) :
    memError e d = stringFault e.obj (bump 0x132 5 d) := by
  simp [memError, h, memConsequence, hc]

theorem memError_mramWrite (h : eccDecode e.flips = .uncorrectable) (hc : e.cls = 9) :
    memError e d = raiseAlarm 12 0 (bump 0x132 9 d) := by
  simp [memError, h, memConsequence, hc]

theorem memError_other (h : eccDecode e.flips = .uncorrectable) (hstring : e.cls ≠ 5) (hwrite : e.cls ≠ 9) :
    memError e d = raiseAlarm 8 0 (memConsequence e (bump 0x132 e.cls d)) := by
  simp [memError, h, hstring, hwrite]

theorem exec_scrubBurst (found : List MemError) (s : State) : exec (.scrubBurst found) s = .next (s.onDev (scrubBurst found)) := rfl

theorem scrubBurst_idles (found : List MemError) (h : s.dev.power.up = false) : Idles (.scrubBurst found) s :=
  idles_of_eq (exec_scrubBurst found s) (by simp [scrubBurst, h])

/-- A burst under leave, and reads without it. -/
theorem scrubBurst_runs (found : List MemError) (h : s.dev.power.up = true) :
    let e := forEach found memError s.dev
    (e.course.scrub.ready = true → exec (.scrubBurst found) s = .next { s with
      dev := askLeave .scrub (e.onCourse (fun c => { c with scrub := scrubRan e.now c.scrub })) }) ∧
    (e.course.scrub.ready = false → exec (.scrubBurst found) s = .next { s with dev := e }) := by
  refine ⟨fun hready => ?_, fun hready => ?_⟩
  · rw [exec_scrubBurst, State.onDev]
    simp [scrubBurst, h, hready]
  · rw [exec_scrubBurst, State.onDev]
    simp [scrubBurst, h, hready]

theorem scrubRan_ready (now : Nat) (x : Scrub) : (scrubRan now x).ready = false := by
  simp only [scrubRan]
  split <;> rfl

theorem scrubRan_sram {now : Nat} {x : Scrub}
    (h : x.start + 5000000000 * min Config.sramWords (x.pos + 4096) / max 1 Config.sramWords ≤
      x.nvStart + 43200000000000 * min Config.mramWords (x.nvPos + 4096) / max 1 Config.mramWords) :
    (scrubRan now x).nvPos = x.nvPos ∧
    (scrubRan now x).pos = if Config.sramWords ≤ x.pos + 4096 then 0 else x.pos + 4096 := by
  have hran : scrubRan now x = { x with
      pos := (afterBurst now x.start x.pos Config.sramWords).1, start := (afterBurst now x.start x.pos Config.sramWords).2,
      ready := false } := if_pos h
  rw [hran]
  exact ⟨rfl, apply_ite Prod.fst _ _ _⟩

theorem exec_shadowMismatch (r : ShadowReg) (s : State) : exec (.shadowMismatch r) s = .next (s.onDev (shadowMismatch r)) := rfl

/-- A policy register takes its fail-safe value. -/
def withFailSafe (r : ShadowReg) (d : Dev) : Dev :=
  d.onCourse (fun c => { c with failSafe := if c.failSafe.contains r then c.failSafe else r :: c.failSafe })

theorem mem_withFailSafe (r : ShadowReg) (d : Dev) : r ∈ (withFailSafe r d).course.failSafe := by
  simp only [withFailSafe, Dev.onCourse]
  split
  · next h => exact List.contains_iff_mem.1 h
  · exact List.mem_cons_self

theorem shadowMismatch_policy {r : ShadowReg} (h : ∀ m c, r ≠ .stateCode m c) (d : Dev) :
    shadowMismatch r d = raiseAlarm 9 0 (withFailSafe r d) := by
  cases r with
  | stateCode m c => exact absurd rfl (h m c)
  | _ => rfl

theorem shadowMismatch_failSafe {r : ShadowReg} (h : ∀ m c, r ≠ .stateCode m c) (s : State) :
    ∃ t, exec (.shadowMismatch r) s = .next t ∧ r ∈ t.dev.course.failSafe ∧
      t.dev.tamper.bits.getD 7 false = decide (7 < s.dev.tamper.bits.length) := by
  refine ⟨_, exec_shadowMismatch r s, ?_⟩
  simp only [State.onDev, shadowMismatch_policy h]
  constructor
  · have hheld : CourseHeld (withFailSafe r s.dev) (raiseAlarm 9 0 (withFailSafe r s.dev)) := .raiseAlarms
    rw [hheld.course]
    exact mem_withFailSafe r s.dev
  · rw [raiseAlarm_bits]
    change (s.dev.tamper.bits.set 7 true).getD 7 false = _
    by_cases hlen : 7 < s.dev.tamper.bits.length
    · simp [hlen]
    · simp [hlen]

theorem shadowMismatch_code (m : Nat) (c : BitVec 8) :
    let set := fun d : Dev => d.onTamper (fun t => { t with codes := t.codes.set m c })
    (c ∈ stateCodes → Does (.shadowMismatch (.stateCode m c)) s set) ∧
    (c ∉ stateCodes → Does (.shadowMismatch (.stateCode m c)) s (fun d => raiseAlarm 9 0 (set d))) := by
  refine ⟨fun h => does_of_eq (exec_shadowMismatch _ s) ?_, fun h => does_of_eq (exec_shadowMismatch _ s) ?_⟩
  · exact if_pos (List.contains_iff_mem.2 h)
  · exact if_neg fun hc => h (List.contains_iff_mem.1 hc)

theorem memoryRows : Claims.MemoryRows := fun s =>
  ⟨scrubBurst_runs, scrubBurst_idles, fun now x => ⟨scrubRan_ready now x, scrubRan_sram⟩, fun _ => eccDecode_single,
    fun _ _ => memError_clean, fun _ _ => memError_corrected, fun _ _ => memError_string, fun _ _ => memError_mramWrite,
    fun _ _ => memError_other, fun _ h => shadowMismatch_failSafe h s, shadowMismatch_code⟩

end Memory

/-! ### The life-cycle journal (16 R496 to R499) -/

section Journal

variable {s : State} {d : Dev}

theorem exec_lcJournalStep (s : State) : exec .lcJournalStep s = .next (s.onDev journalStep) := rfl

/-- A burst that is granted has been taken up. -/
def burstTaken (d : Dev) : Dev := d.onTamper (fun t => { t with jnlReady := false })

/-- The journal stays ACTIVE, and its next burst asks for leave. -/
def nextBurst (d : Dev) : Dev := if d.mram.block.jnl = wd69 then askLeave (.mram d.mram.block.op 0) d else d

theorem nextBurst_mram (d : Dev) : (nextBurst d).mram = d.mram := by
  unfold nextBurst
  split <;> rfl

theorem nextBurst_parts (d : Dev) : OnlyParts [.power] d (nextBurst d) := .ite .power .refl

theorem journalStep_idles (h : s.dev.power.up = false ∨ s.dev.tamper.jnlReady = false ∨ s.dev.nvOk = false) :
    Idles .lcJournalStep s :=
  idles_of_eq (exec_lcJournalStep s) (if_pos (by simpa using h))

section Granted

variable (hup : d.power.up = true) (hready : d.tamper.jnlReady = true) (hnv : d.nvOk = true)
include hup hready hnv

theorem journalStep_opens {op target : Nat} (hplan : d.tamper.lcPlan = some (op, target)) :
    journalStep d = nextBurst (jnlOpen op target (burstTaken d)) := by
  have hplan' : (d.onTamper (fun t => { t with jnlReady := false })).tamper.lcPlan = some (op, target) := hplan
  simp only [journalStep, hup, hready, hnv, hplan', Bool.not_true, Bool.false_eq_true, or_self, if_false]
  rfl

theorem journalStep_goesOn (hplan : d.tamper.lcPlan = none) (hactive : d.mram.block.jnl = wd69) :
    journalStep d = nextBurst (jnlBurst (burstTaken d)) := by
  have hplan' : (d.onTamper (fun t => { t with jnlReady := false })).tamper.lcPlan = none := hplan
  have hactive' : (d.onTamper (fun t => { t with jnlReady := false })).mram.block.jnl = wd69 := hactive
  simp only [journalStep, hup, hready, hnv, hplan', hactive', Bool.not_true, Bool.false_eq_true, or_self, if_false, if_true]
  rfl

end Granted

/-- A step of one burst takes effect, and the next step comes. -/
theorem jnlBurst_one {j : JnlStep} (h : d.jnlStep = some j) (hidle : j ≠ .idle) (herase : ∀ r how, j ≠ .erase r how) :
    jnlBurst d = onBlock (fun b => { b with step := b.step + 1, mark := 0 }) (jnlWrite j d) := by
  have hmark : ¬d.mram.block.mark + 4096 < 1 * 4096 := by omega
  unfold jnlBurst
  cases j with
  | idle => exact absurd rfl hidle
  | erase r how => exact absurd rfl (herase r how)
  | _ => simp only [h, hmark, if_false]

theorem jnlBurst_ends (h : d.jnlStep = some .idle) : jnlBurst d = jnlEnd d := by simp only [jnlBurst, h]

theorem jnlOpen_block (op target : Nat) (d : Dev) : (jnlOpen op target d).mram.block = { d.mram.block with
    op := op, target := target, step := 2, mark := 0, jnlCounter := d.mram.block.counter + 1, jnl := wd69 } := rfl

/-- The end of an operation that a command began. -/
theorem jnlEnd_command {c : Cmd} (h : d.tamper.lcCmd = some c) : (jnlEnd d).mram.block = { d.mram.block with jnl := wd3C } ∧
    (jnlEnd d).tamper.resetAt = some (d.now + 5000000) ∧ (jnlEnd d).tamper.lcCmd = none := by
  have hcmd : (onBlock (fun b => { b with jnl := wd3C }) d).tamper.lcCmd = some c := h
  simp only [jnlEnd, hcmd]
  have hparts (old new step cause : Nat) (r : Reply) (x : Dev) : OnlyParts eventParts x (finish c r (lcEvent old new step cause x)) :=
    OnlyParts.lcEvent.trans .finish
  refine ⟨?_, ?_, rfl⟩
  · exact congrArg Mram.block (hparts _ _ _ _ _ _ .mram (by decide))
  · exact congrArg (fun t : TimeSt => some (t.tclk + 5000000)) (hparts _ _ _ _ _ _ .time (by decide))

variable (hup : s.dev.power.up = true) (hready : s.dev.tamper.jnlReady = true) (hnv : s.dev.nvOk = true)
include hup hready hnv

theorem journal_opens {op target : Nat} (hplan : s.dev.tamper.lcPlan = some (op, target)) :
    ∃ t, exec .lcJournalStep s = .next t ∧ OnlyParts [.mram, .tamper, .power] s.dev t.dev ∧
      t.dev.mram.block = { s.dev.mram.block with
        op := op, target := target, step := 2, mark := 0, jnlCounter := s.dev.mram.block.counter + 1, jnl := wd69 } ∧
      t.dev.tamper.lcPlan = none ∧ Leave.mram op 0 ∈ t.dev.power.gov.queue := by
  refine ⟨_, exec_lcJournalStep s, ?_⟩
  have hopens : nextBurst (jnlOpen op target (burstTaken s.dev)) = askLeave (.mram op 0) (jnlOpen op target (burstTaken s.dev)) :=
    if_pos rfl
  simp only [State.onDev, journalStep_opens hup hready hnv hplan]
  refine ⟨?_, ?_, ?_, ?_⟩
  · exact (OnlyParts.refl.seq OnlyParts.tamper |>.seq OnlyParts.jnlOpen).seq (nextBurst_parts _)
  · rw [nextBurst_mram]
    rfl
  · rw [hopens]
    rfl
  · rw [hopens]
    exact askLeave_queue _ _

theorem journal_counts (hplan : s.dev.tamper.lcPlan = none) (hactive : s.dev.mram.block.jnl = wd69)
    (hstep : s.dev.jnlStep = some .counter) :
    ∃ t, exec .lcJournalStep s = .next t ∧ OnlyParts [.mram, .tamper, .power] s.dev t.dev ∧
      t.dev.mram.block = { s.dev.mram.block with
        counter := s.dev.mram.block.jnlCounter, counterN := ~~~s.dev.mram.block.jnlCounter
        step := s.dev.mram.block.step + 1, mark := 0 } := by
  have hstep' : (burstTaken s.dev).jnlStep = some .counter := hstep
  refine ⟨_, exec_lcJournalStep s, ?_⟩
  simp only [State.onDev, journalStep_goesOn hup hready hnv hplan hactive, jnlBurst_one hstep' (by simp) (by simp)]
  refine ⟨?_, ?_⟩
  · exact (OnlyParts.refl.seq OnlyParts.tamper |>.seq OnlyParts.mram |>.seq OnlyParts.mram).seq (nextBurst_parts _)
  · rw [nextBurst_mram]
    rfl

theorem journal_writesState {w : BitVec 64} (hplan : s.dev.tamper.lcPlan = none) (hactive : s.dev.mram.block.jnl = wd69)
    (hstep : s.dev.jnlStep = some (.lcState w)) :
    ∃ t, exec .lcJournalStep s = .next t ∧ t.dev.mram.block.lc = w ∧ t.dev.mram.block.lcN = ~~~w ∧
      t.dev.mram.block.step = s.dev.mram.block.step + 1 := by
  have hstep' : (burstTaken s.dev).jnlStep = some (.lcState w) := hstep
  refine ⟨_, exec_lcJournalStep s, ?_⟩
  simp only [State.onDev, journalStep_goesOn hup hready hnv hplan hactive, jnlBurst_one hstep' (by simp) (by simp), nextBurst_mram]
  exact ⟨rfl, rfl, rfl⟩

theorem journal_ends {c : Cmd} (hplan : s.dev.tamper.lcPlan = none) (hactive : s.dev.mram.block.jnl = wd69)
    (hstep : s.dev.jnlStep = some .idle) (hcmd : s.dev.tamper.lcCmd = some c) :
    ∃ t, exec .lcJournalStep s = .next t ∧ t.dev.mram.block = { s.dev.mram.block with jnl := wd3C } ∧
      t.dev.tamper.resetAt = some (s.dev.now + 5000000) ∧ t.dev.tamper.lcCmd = none := by
  have hstep' : (burstTaken s.dev).jnlStep = some .idle := hstep
  obtain ⟨hblock, hreset, hnone⟩ := jnlEnd_command (d := burstTaken s.dev) hcmd
  have hover : nextBurst (jnlEnd (burstTaken s.dev)) = jnlEnd (burstTaken s.dev) := if_neg (by rw [hblock]; simp only; decide)
  refine ⟨_, exec_lcJournalStep s, ?_⟩
  simp only [State.onDev, journalStep_goesOn hup hready hnv hplan hactive, jnlBurst_ends hstep', hover]
  exact ⟨hblock, hreset, hnone⟩

end Journal

theorem journalRows : Claims.JournalRows := fun _ =>
  ⟨journalStep_idles, fun hup hready hnv => ⟨fun _ _ => journal_opens hup hready hnv, journal_counts hup hready hnv,
    fun _ => journal_writesState hup hready hnv, fun _ => journal_ends hup hready hnv⟩⟩

/-- Settles O40. -/
theorem memoryAndJournal : Obligations.MemoryAndJournal := ⟨memoryRows, journalRows⟩

end Sys2Proof.Machine

namespace Sys2Proof.Machine

-- One proof at a time: the threads of many at once need more memory than the check allows.
set_option Elab.async false

/-! ### Resets (16 R473, R474, R499, 15 R469, 19 R544) -/

section Resets

variable {s : State} {d : Dev} (rails keep : Bool)

theorem exec_powerOnReset (s : State) : exec .powerOnReset s = .next (s.onDev (powerReset true false)) := rfl

theorem exec_pwrdnNFall (s : State) : exec .pwrdnNFall s = .next (s.onDev pwrdnFall) := rfl

theorem exec_lcResetTimer (s : State) : exec .lcResetTimer s = .next (s.onDev lcReset) := rfl

theorem tearWord_quiet (h : d.tamper.jnlReady = false) : tearWord d = d := by simp [tearWord, h]

theorem tearWord_parts (d : Dev) : OnlyParts [.mram, .freeCtr] d (tearWord d) :=
  .ite .refl (OnlyParts.refl.seq OnlyParts.mram |>.seq OnlyParts.freeCtr)

/-- A burst under way may leave the word that it writes torn; nothing else of MRAM changes. -/
theorem tearWord_mram (d : Dev) : ∃ v < 8, (tearWord d).mram = { d.mram with
    block := if d.tamper.jnlReady = true then d.mram.block.torn d.tamper.lcPlan d.jnlStep v else d.mram.block } := by
  refine ⟨(Config.freeBits 3 d.freeCtr).toNat, (Config.freeBits 3 d.freeCtr).isLt, ?_⟩
  cases h : d.tamper.jnlReady with
  | false => rw [tearWord_quiet h, if_neg (by decide)]
  | true => simp [tearWord, h, onBlock]

/-- What a reset leaves of MRAM: the warning levels return to their reset values. -/
theorem powerReset_mram (d : Dev) : ∃ v < 8, (powerReset rails keep d).mram = { d.mram with
    tempWarn := (-40, 110), voltWarn := (-30, 30)
    block := if d.tamper.jnlReady = true then d.mram.block.torn d.tamper.lcPlan d.jnlStep v else d.mram.block } := by
  obtain ⟨v, hv, hm⟩ := tearWord_mram d
  refine ⟨v, hv, ?_⟩
  simp only [powerReset, hm]

theorem powerReset_mram_quiet (h : d.tamper.jnlReady = false) :
    (powerReset rails keep d).mram = { d.mram with tempWarn := (-40, 110), voltWarn := (-30, 30) } := by
  simp only [powerReset, tearWord_quiet h]

theorem powerReset_vault (d : Dev) : (powerReset rails keep d).vault = d.vault := tearWord_parts d .vault (by decide)

theorem powerReset_slots (d : Dev) : (powerReset rails keep d).fw.slots = d.fw.slots := by
  simp only [powerReset]
  exact congrArg FwSt.slots (tearWord_parts d .fw (by decide))

theorem powerReset_straps (d : Dev) : (powerReset rails keep d).power.straps = d.power.straps := by
  simp only [powerReset]
  exact congrArg PowerSt.straps (tearWord_parts d .power (by decide))

theorem powerReset_clock (d : Dev) : (powerReset rails keep d).time.bkTicks = d.bkClock := by
  have htime : (tearWord d).time = d.time := tearWord_parts d .time (by decide)
  have hpower : (tearWord d).power = d.power := tearWord_parts d .power (by decide)
  change (tearWord d).bkClock = d.bkClock
  rw [Dev.bkClock, Dev.bkClock, Dev.now, Dev.now, htime, hpower]

/-- The device that a reset leaves, but for what `down` tells. -/
theorem reset_row (down : Bool) (s : State) : let t := (powerReset true false s.dev).onPower (fun p => { p with down := down || p.down })
    t.vault = s.dev.vault ∧
    (∃ v < 8, t.mram = { s.dev.mram with tempWarn := (-40, 110), voltWarn := (-30, 30)
                                         block := if s.dev.tamper.jnlReady = true then
                                           s.dev.mram.block.torn s.dev.tamper.lcPlan s.dev.jnlStep v else s.dev.mram.block }) ∧
    t.host = State.reset.dev.host ∧ t.cfg = State.reset.dev.cfg ∧ t.fret = State.reset.dev.fret ∧
    t.keys = State.reset.dev.keys ∧ t.fr = State.reset.dev.fr ∧ t.eg = State.reset.dev.eg ∧
    t.lk = State.reset.dev.lk ∧ t.smv = State.reset.dev.smv ∧ t.mac = State.reset.dev.mac ∧
    t.lanes = State.reset.dev.lanes ∧ t.msec = State.reset.dev.msec ∧ t.cnt = State.reset.dev.cnt ∧
    t.course = State.reset.dev.course ∧ t.power.ready = false ∧ t.power.up = false ∧
    t.power.keepStraps = false ∧ t.time.bkTicks = s.dev.bkClock ∧ t.fw.slots = s.dev.fw.slots :=
  ⟨powerReset_vault true false s.dev, powerReset_mram true false s.dev, rfl, rfl, rfl, rfl, rfl, rfl, rfl, rfl, rfl, rfl, rfl, rfl,
    rfl, rfl, rfl, rfl, powerReset_clock true false s.dev, powerReset_slots true false s.dev⟩

theorem resetRows : Claims.ResetRows := by
  intro s
  refine ⟨fun x hx => ?reset, ⟨_, exec_pwrdnNFall s, rfl⟩, fun h => ?idle, fun u h => ?timer⟩
  case reset =>
    obtain rfl | rfl : x = .powerOnReset ∨ x = .pwrdnNFall := by simpa using hx
    · exact ⟨_, exec_powerOnReset s, reset_row false s⟩
    · exact ⟨_, exec_pwrdnNFall s, reset_row true s⟩
  case idle => exact idles_of_eq (exec_lcResetTimer s) (by simp only [lcReset, h])
  case timer =>
    have hreset : lcReset s.dev = powerReset true true (advanceTo u s.dev) := by simp only [lcReset, h]
    have htimes : OnlyParts [.time, .cnt] s.dev (advanceTo u s.dev) := .advanceTo
    have hmram : (advanceTo u s.dev).mram = s.dev.mram := htimes .mram (by decide)
    have htamper : (advanceTo u s.dev).tamper = s.dev.tamper := htimes .tamper (by decide)
    refine ⟨_, exec_lcResetTimer s, ?_⟩
    simp only [State.onDev, hreset]
    refine ⟨(powerReset_vault true true _).trans (htimes .vault (by decide)), fun hquiet => ?_, rfl,
      (powerReset_straps true true _).trans (congrArg PowerSt.straps (htimes .power (by decide))), rfl, rfl, rfl⟩
    rw [powerReset_mram_quiet true true (by rw [htamper]; exact hquiet), hmram]

end Resets

/-! ### The start (19 R547 to R549, 16 R489) -/

namespace OnlyParts

variable {d : Dev}

/-- What the lanes take of the applied configuration may change this. -/
abbrev laneParts : List Part := [.host, .cnt, .course, .wire, .smv, .lanes, .power, .freeCtr]

theorem withdrawLane {l} : OnlyParts [.power] d (withdrawLane l d) := power

theorem onLane {l f} : OnlyParts [.lanes] d (onLane l f d) := lanes

theorem onGroup {i f} : OnlyParts [.smv] d (d.onGroup i f) := smv

theorem applyPattern {l} : OnlyParts laneParts d (applyPattern l d) := ite refl (refl.seq lanes |>.seq wire)

theorem applyEq {l} : OnlyParts [.lanes] d (applyEq l d) := ite lanes lanes

theorem applyLane {l} : OnlyParts laneParts d (applyLane l d) := by
  unfold Machine.applyLane
  extract_lets x u wasAdapt d1 d2 d3 y d4 d5
  have h1 : OnlyParts laneParts d d1 := ite laneDown.mono refl
  have h2 : OnlyParts laneParts d1 d2 := ite onGroup.mono refl
  have h3 : OnlyParts laneParts d d3 := ite refl (h1.trans h2 |>.seq withdrawLane |>.seq onLane)
  have h4 : OnlyParts laneParts d3 d4 :=
    ite refl <| ite (refl.seq withdrawLane |>.seq onLane) <| ite lanes.mono <| ite (ite startAdapt.mono refl) <| ite applyEq.mono refl
  have h5 : OnlyParts laneParts d d5 := h3.trans h4 |>.trans applyPattern
  exact ite (h5.seq passPlace) h5

theorem endMirror {p} : OnlyParts [.lanes, .wire] d (endMirror p d) := by
  unfold Machine.endMirror
  split
  · exact refl
  · exact ite refl (refl.seq lanes |>.seq setFault)

theorem applyLanes {d} : OnlyParts (laneParts ++ frameParts) d (applyLanes d) :=
  ((forEach fun _ _ => applyLane.mono).trans (forEach fun _ _ => endMirror.mono)).seq refreshLinks

theorem gatesWait {d} : OnlyParts [.eg] d (gatesWait d) := forEach fun _ _ => ite eg refl

end OnlyParts

section Start

variable {s : State} {d : Dev} {o : StartOps}

theorem exec_startUp (o : StartOps) (s : State) : exec (.startUp o) s = .next (s.onDev (startUp o)) := rfl

theorem startRails_straps (o : StartOps) (d : Dev) : (startRails o d).power.straps =
    if d.power.keepStraps then d.power.straps else { portmap0 := o.portmap0, portmap1 := o.portmap1, pcieBif := o.pcieBif } := by
  unfold startRails
  cases d.mram.trim <;> rfl

theorem startRest_ready (d : Dev) : (startRest d).power.ready = true := rfl

theorem startRest_asks (d : Dev) : Leave.scrub ∈ (startRest d).power.gov.queue := askLeave_queue _ _

/-- The frets run once the configuration of the start is in force. -/
theorem startRest_running (d : Dev) : (startRest d).fret.running = true := by
  unfold startRest
  extract_lets d1 d2 d3 d4 d5 d6
  have h5 : d5.fret = d4.fret := OnlyParts.ite (ps := [.eg]) .gatesWait .refl .fret (by decide)
  have h6 : d6.fret = d5.fret := by
    dsimp only [d6]
    split
    · rfl
    · exact (OnlyParts.pairCheck .fret (by decide)).trans
        ((OnlyParts.pairCheck .fret (by decide)).trans (OnlyParts.applyLanes .fret (by decide)))
  change d6.fret.running = true
  rw [h6, h5]
  rfl

/-- What a start does once MRAM is read (`d1`) and the strings have had their BIST (`d3`). -/
def startFrom (d1 d3 : Dev) : Dev :=
  if d1.lc = 4 then startEol d1 else if d3.halted then d3.onPower (fun p => { p with halfUp := true }) else startRest d3

theorem startUp_down (h : d.power.up = false) :
    let d1 := startMram (newSession (startRails o d))
    let d2 := fwBoot o.bootFwOk d1
    startUp o d = startFrom d1 (courseUp o.bist (if d2.power.noFw then d2 else loadGraph d2)) :=
  if_neg (by simp [h])

variable {d1 d3 : Dev}

/-- The three ends of a start. -/
theorem startFrom_row (hstart : exec (.startUp o) s = .next (s.onDev (fun _ => startFrom d1 d3))) :
    (d1.lc = 4 → exec (.startUp o) s = .next { s with dev := startEol d1 } ∧ (startEol d1).power.ready = true) ∧
    (d1.lc ≠ 4 → d3.halted = true → exec (.startUp o) s = .next { s with dev := d3.onPower (fun p => { p with halfUp := true }) }) ∧
    (d1.lc ≠ 4 → d3.halted = false → exec (.startUp o) s = .next { s with dev := startRest d3 } ∧
      (startRest d3).power.ready = true ∧ (startRest d3).fret.running = true ∧ Leave.scrub ∈ (startRest d3).power.gov.queue) := by
  rw [hstart]
  refine ⟨fun hlc => ⟨?_, rfl⟩, fun hlc hhalted => ?_, fun hlc hup => ⟨?_, startRest_ready d3, startRest_running d3, startRest_asks d3⟩⟩
  · rw [State.onDev, startFrom, if_pos hlc]
  · rw [State.onDev, startFrom, if_neg hlc, if_pos hhalted]
  · rw [State.onDev, startFrom, if_neg hlc, if_neg (by simp [hup])]

theorem startRows : Claims.StartRows := by
  intro s o
  refine ⟨fun h => idles_of_eq (exec_startUp o s) (if_pos h), fun h => ?_⟩
  have hrails : (startRails o s.dev).power.up = true ∧
      (s.dev.power.keepStraps = false → (startRails o s.dev).power.straps =
        { portmap0 := o.portmap0, portmap1 := o.portmap1, pcieBif := o.pcieBif }) ∧
      (s.dev.power.keepStraps = true → (startRails o s.dev).power.straps = s.dev.power.straps) :=
    ⟨rfl, fun hkeep => by rw [startRails_straps, if_neg (by simp [hkeep])], fun hkeep => by rw [startRails_straps, if_pos hkeep]⟩
  have hstart := startFrom_row (o := o) (s := s) (by rw [exec_startUp, State.onDev, startUp_down h]; rfl)
  obtain ⟨heol, hhalted, hrest⟩ := hstart
  exact ⟨heol, hhalted, hrest, hrails⟩

end Start

/-- Settles O44. -/
theorem resetsAndStart : Obligations.ResetsAndStart := ⟨resetRows, startRows⟩

end Sys2Proof.Machine
